-- ==== Sys2Proof/Word.lean ====
section
/-!
DEFINITION. The word types of the Vareth V7 and their plainest arithmetic (R7, R8, R14).
-/
namespace Sys2Proof

/-- One byte of memory (R8: multi-byte values are little-endian). -/
abbrev Byte := BitVec 8
/-- One instruction word, or one word of the scalar network (R32, R130). -/
abbrev W32 := BitVec 32
/-- The contents of a scalar register (R14). -/
abbrev W64 := BitVec 64
/-- The 128 bits of a capability or of one accumulator entry (R21, R230). -/
abbrev W128 := BitVec 128
/-- One configuration frame (R158). -/
abbrev Frame := BitVec 256

/-- A field of scalar kind (R36). -/
abbrev RegF := BitVec 5
/-- A field of capability kind (R36). -/
abbrev CapF := BitVec 4
/-- A field of predicate kind (R36). -/
abbrev PredF := BitVec 3

/-- A capability register or a memory sector with its tag (R14, R23). -/
structure Cap where
  bits : W128
  tag  : Bool
  deriving DecidableEq, Repr

/-- A cause with its subcode and the values that the trap writes to FOBJ and FADDR (R27, R400). -/
structure TrapInfo where
  code  : Nat
  sub   : Nat
  fobj  : W64
  faddr : W64
  deriving DecidableEq, Repr

/-- The fields of a long instruction: those of its head word and those of its tail word (R34). -/
structure LF where
  d   : RegF
  a   : RegF
  b   : RegF
  fn  : BitVec 9
  x   : BitVec 5
  g   : PredF
  imm : BitVec 22
  deriving DecidableEq, Repr

end Sys2Proof
end

