-- ==== Sys2Proof/Syntax.lean ====
section
/-!
DEFINITION. The instructions and steps of the machine: one constructor per row of spec/opcode_table.json.
The rows with an instruction word carry the fields of that word; the rows that are steps of a hardware unit carry the
numbers that say which unit, request or entry takes the step.
-/
namespace Sys2Proof

inductive Instr where
  /-- ILLEGAL_OP (R37): The sequencer reaches a word that decodes to no instruction (an unassigned major or fn, or a class-0b11 word at the start) and raises ILLEGAL_OP precisely. -/
  | illegalOp (w0 : W32) (w1 : W32)
  /-- ADD (R97): Sets sd to sa plus sb, modulo 2^64. -/
  | add (d : RegF) (a : RegF) (b : RegF)
  /-- SUB (R97): Sets sd to sa minus sb, modulo 2^64. -/
  | sub (d : RegF) (a : RegF) (b : RegF)
  /-- MUL (R97): Sets sd to the low 64 bits of sa times sb. -/
  | mul (d : RegF) (a : RegF) (b : RegF)
  /-- MULH (R97): Sets sd to the high 64 bits of the signed product of sa and sb. -/
  | mulh (d : RegF) (a : RegF) (b : RegF)
  /-- MULHU (R97): Sets sd to the high 64 bits of the unsigned product of sa and sb. -/
  | mulhu (d : RegF) (a : RegF) (b : RegF)
  /-- DIV (R98): Signed division truncated towards zero, with fixed results for division by zero and overflow. -/
  | div (d : RegF) (a : RegF) (b : RegF)
  /-- DIVU (R98): Unsigned division, with all ones for division by zero. -/
  | divu (d : RegF) (a : RegF) (b : RegF)
  /-- REM (R98): Signed remainder with the sign of sa, with fixed results for division by zero and overflow. -/
  | rem (d : RegF) (a : RegF) (b : RegF)
  /-- REMU (R98): Unsigned remainder, giving sa for division by zero. -/
  | remu (d : RegF) (a : RegF) (b : RegF)
  /-- AND (R97): Sets sd to the bitwise AND of sa and sb. -/
  | and (d : RegF) (a : RegF) (b : RegF)
  /-- OR (R97): Sets sd to the bitwise OR of sa and sb. -/
  | or (d : RegF) (a : RegF) (b : RegF)
  /-- XOR (R97): Sets sd to the bitwise exclusive-or of sa and sb. -/
  | xor (d : RegF) (a : RegF) (b : RegF)
  /-- ANDN (R97): Sets sd to sa AND NOT sb. -/
  | andn (d : RegF) (a : RegF) (b : RegF)
  /-- SHL (R97): Shifts sa left by sb[5:0]. -/
  | shl (d : RegF) (a : RegF) (b : RegF)
  /-- SHR (R97): Shifts sa right logically by sb[5:0]. -/
  | shr (d : RegF) (a : RegF) (b : RegF)
  /-- SAR (R97): Shifts sa right arithmetically by sb[5:0]. -/
  | sar (d : RegF) (a : RegF) (b : RegF)
  /-- ROT (R97): Rotates sa left by sb[5:0]. -/
  | rot (d : RegF) (a : RegF) (b : RegF)
  /-- MIN (R97): Sets sd to the signed minimum of sa and sb. -/
  | min (d : RegF) (a : RegF) (b : RegF)
  /-- MAX (R97): Sets sd to the signed maximum of sa and sb. -/
  | max (d : RegF) (a : RegF) (b : RegF)
  /-- MINU (R97): Sets sd to the unsigned minimum of sa and sb. -/
  | minu (d : RegF) (a : RegF) (b : RegF)
  /-- MAXU (R97): Sets sd to the unsigned maximum of sa and sb. -/
  | maxu (d : RegF) (a : RegF) (b : RegF)
  /-- CLZ (R97): Counts the leading zero bits of sa. -/
  | clz (d : RegF) (a : RegF)
  /-- CTZ (R97): Counts the trailing zero bits of sa. -/
  | ctz (d : RegF) (a : RegF)
  /-- POPC (R97): Counts the one bits of sa. -/
  | popc (d : RegF) (a : RegF)
  /-- SEXT_B (R97): Sign-extends sa[7:0]. -/
  | sextB (d : RegF) (a : RegF)
  /-- SEXT_H (R97): Sign-extends sa[15:0]. -/
  | sextH (d : RegF) (a : RegF)
  /-- SEXT_W (R97): Sign-extends sa[31:0]. -/
  | sextW (d : RegF) (a : RegF)
  /-- ZEXT_B (R97): Zero-extends sa[7:0]. -/
  | zextB (d : RegF) (a : RegF)
  /-- ZEXT_H (R97): Zero-extends sa[15:0]. -/
  | zextH (d : RegF) (a : RegF)
  /-- ZEXT_W (R97): Zero-extends sa[31:0]. -/
  | zextW (d : RegF) (a : RegF)
  /-- SEL (R99): Sets sd to sa if predicate pk is true, else sb. -/
  | sel (d : RegF) (p : PredF) (a : RegF) (b : RegF)
  /-- CMP_EQ (R99): Sets a predicate to whether sa equals sb. -/
  | cmpEq (p : PredF) (a : RegF) (b : RegF)
  /-- CMP_NE (R99): Sets a predicate to whether sa differs from sb. -/
  | cmpNe (p : PredF) (a : RegF) (b : RegF)
  /-- CMP_LT (R99): Sets a predicate to signed sa < sb. -/
  | cmpLt (p : PredF) (a : RegF) (b : RegF)
  /-- CMP_GE (R99): Sets a predicate to signed sa >= sb. -/
  | cmpGe (p : PredF) (a : RegF) (b : RegF)
  /-- CMP_LTU (R99): Sets a predicate to unsigned sa < sb. -/
  | cmpLtu (p : PredF) (a : RegF) (b : RegF)
  /-- CMP_GEU (R99): Sets a predicate to unsigned sa >= sb. -/
  | cmpGeu (p : PredF) (a : RegF) (b : RegF)
  /-- PAND (R99): Sets a predicate to the AND of two predicates. -/
  | pand (d : PredF) (a : PredF) (b : PredF)
  /-- POR (R99): Sets a predicate to the OR of two predicates. -/
  | por (d : PredF) (a : PredF) (b : PredF)
  /-- PNOT (R99): Sets a predicate to the negation of another. -/
  | pnot (d : PredF) (a : PredF)
  /-- ADDI (R100): Adds a sign-extended 14-bit immediate to sa. -/
  | addi (d : RegF) (a : RegF) (imm : BitVec 14)
  /-- ANDI (R100): ANDs sa with a sign-extended immediate. -/
  | andi (d : RegF) (a : RegF) (imm : BitVec 14)
  /-- ORI (R100): ORs sa with a sign-extended immediate. -/
  | ori (d : RegF) (a : RegF) (imm : BitVec 14)
  /-- XORI (R100): Exclusive-ors sa with a sign-extended immediate. -/
  | xori (d : RegF) (a : RegF) (imm : BitVec 14)
  /-- SHLI (R100): Shifts sa left by an immediate count. -/
  | shli (d : RegF) (a : RegF) (sh : BitVec 6)
  /-- SHRI (R100): Shifts sa right logically by an immediate count. -/
  | shri (d : RegF) (a : RegF) (sh : BitVec 6)
  /-- SARI (R100): Shifts sa right arithmetically by an immediate count. -/
  | sari (d : RegF) (a : RegF) (sh : BitVec 6)
  /-- MOVI (R101): Sets sd to a sign-extended 19-bit constant. -/
  | movi (d : RegF) (imm : BitVec 19)
  /-- MOVI_L (R35): Sets sd to a sign-extended 32-bit constant. -/
  | moviL (d : RegF) (k : W32) (g : PredF)
  /-- MOVHI (R35): Sets sd to a 32-bit constant in the upper half joined with sa[31:0]. -/
  | movhi (d : RegF) (a : RegF) (k : W32) (g : PredF)
  /-- LOOP (R108): Decrements sd and branches to the target while the result is not zero. -/
  | loop (d : RegF) (off : BitVec 14)
  /-- LD_B (R102): Issues a sign-extending byte load through a capability. -/
  | ldB (d : RegF) (h : BitVec 1) (c : CapF) (imm : BitVec 14)
  /-- LD_BU (R102): Issues a zero-extending byte load. -/
  | ldBu (d : RegF) (h : BitVec 1) (c : CapF) (imm : BitVec 14)
  /-- LD_H (R102): Issues a sign-extending halfword load. -/
  | ldH (d : RegF) (h : BitVec 1) (c : CapF) (imm : BitVec 14)
  /-- LD_HU (R102): Issues a zero-extending halfword load. -/
  | ldHu (d : RegF) (h : BitVec 1) (c : CapF) (imm : BitVec 14)
  /-- LD_W (R102): Issues a sign-extending word load. -/
  | ldW (d : RegF) (h : BitVec 1) (c : CapF) (imm : BitVec 14)
  /-- LD_WU (R102): Issues a zero-extending word load. -/
  | ldWu (d : RegF) (h : BitVec 1) (c : CapF) (imm : BitVec 14)
  /-- LD_D (R102): Issues a doubleword load. -/
  | ldD (d : RegF) (h : BitVec 1) (c : CapF) (imm : BitVec 14)
  /-- ST_B (R102): Issues a byte store through a capability. -/
  | stB (d : RegF) (h : BitVec 1) (c : CapF) (imm : BitVec 14)
  /-- ST_H (R102): Issues a halfword store. -/
  | stH (d : RegF) (h : BitVec 1) (c : CapF) (imm : BitVec 14)
  /-- ST_W (R102): Issues a word store. -/
  | stW (d : RegF) (h : BitVec 1) (c : CapF) (imm : BitVec 14)
  /-- ST_D (R102): Issues a doubleword store. -/
  | stD (d : RegF) (h : BitVec 1) (c : CapF) (imm : BitVec 14)
  /-- LDX (R104): Issues an indexed long load with ordering and scope, under a guard. -/
  | ldx (w : LF)
  /-- STX (R104): Issues an indexed long store with ordering and scope, under a guard. -/
  | stx (w : LF)
  /-- LOAD_COMPLETE (R102): A load's data arrives, is written or pushed to its destination, and LDC decrements. -/
  | loadComplete (id : Nat)
  /-- STORE_COMPLETE (R102): A store completes and STC decrements. -/
  | storeComplete (id : Nat)
  /-- BP (R106): Branches to a word offset when a predicate, optionally negated, holds. -/
  | bp (p : PredF) (n : BitVec 1) (off : BitVec 20)
  /-- CALL (R107): Checks the target, writes the return capability to c15 and branches. -/
  | call (off : BitVec 20)
  /-- JR (R109): Jumps to ca with cursor ca.cur plus sb. -/
  | jr (c : CapF) (b : RegF)
  /-- CALLR (R109): Jumps as jr and writes the return capability to c15. -/
  | callr (c : CapF) (b : RegF)
  /-- RET (R109): Jumps to capability ca. -/
  | ret (c : CapF)
  /-- FADD (R117): Adds two floating-point values and rounds once. -/
  | fadd (f : BitVec 2) (d : RegF) (a : RegF) (b : RegF) (rm : BitVec 3)
  /-- FSUB (R117): Subtracts two floating-point values and rounds once. -/
  | fsub (f : BitVec 2) (d : RegF) (a : RegF) (b : RegF) (rm : BitVec 3)
  /-- FMUL (R117): Multiplies two floating-point values and rounds once. -/
  | fmul (f : BitVec 2) (d : RegF) (a : RegF) (b : RegF) (rm : BitVec 3)
  /-- FFMA (R117): Computes sa times sb plus sd with one rounding. -/
  | ffma (f : BitVec 2) (d : RegF) (a : RegF) (b : RegF) (rm : BitVec 3)
  /-- FDIV (R117): Divides and returns the correctly rounded quotient. -/
  | fdiv (f : BitVec 2) (d : RegF) (a : RegF) (b : RegF) (rm : BitVec 3)
  /-- FSQRT (R117): Returns the correctly rounded square root. -/
  | fsqrt (f : BitVec 2) (d : RegF) (a : RegF) (rm : BitVec 3)
  /-- FRSQRT (R117): Returns the correctly rounded reciprocal square root. -/
  | frsqrt (f : BitVec 2) (d : RegF) (a : RegF) (rm : BitVec 3)
  /-- FEXP2 (R117): Returns the correctly rounded 2 to the power sa. -/
  | fexp2 (f : BitVec 2) (d : RegF) (a : RegF) (rm : BitVec 3)
  /-- FLOG2 (R117): Returns the correctly rounded base-2 logarithm. -/
  | flog2 (f : BitVec 2) (d : RegF) (a : RegF) (rm : BitVec 3)
  /-- FMIN (R119): Returns the smaller operand, with NaN handling. -/
  | fmin (f : BitVec 2) (d : RegF) (a : RegF) (b : RegF)
  /-- FMAX (R119): Returns the larger operand, with NaN handling. -/
  | fmax (f : BitVec 2) (d : RegF) (a : RegF) (b : RegF)
  /-- FABS (R120): Clears the sign bit. -/
  | fabs (f : BitVec 2) (d : RegF) (a : RegF)
  /-- FNEG (R120): Inverts the sign bit. -/
  | fneg (f : BitVec 2) (d : RegF) (a : RegF)
  /-- FCLASS (R121): Writes a one-hot class mask of sa. -/
  | fclass (f : BitVec 2) (d : RegF) (a : RegF)
  /-- FROUND (R122): Rounds sa to an integral value in its format. -/
  | fround (f : BitVec 2) (d : RegF) (a : RegF) (rm : BitVec 3)
  /-- FSCALE (R122): Multiplies sa by 2^sb with one rounding. -/
  | fscale (f : BitVec 2) (d : RegF) (a : RegF) (b : RegF) (rm : BitVec 3)
  /-- FCMP_EQ (R123): Sets a predicate to floating-point equality. -/
  | fcmpEq (f : BitVec 2) (p : PredF) (a : RegF) (b : RegF)
  /-- FCMP_NE (R123): Sets a predicate to floating-point inequality. -/
  | fcmpNe (f : BitVec 2) (p : PredF) (a : RegF) (b : RegF)
  /-- FCMP_LT (R123): Sets a predicate to floating-point less-than. -/
  | fcmpLt (f : BitVec 2) (p : PredF) (a : RegF) (b : RegF)
  /-- FCMP_LE (R123): Sets a predicate to floating-point less-or-equal. -/
  | fcmpLe (f : BitVec 2) (p : PredF) (a : RegF) (b : RegF)
  /-- FCMP_UN (R123): Sets a predicate when the operands are unordered. -/
  | fcmpUn (f : BitVec 2) (p : PredF) (a : RegF) (b : RegF)
  /-- FCVT_FROM_IEEE (R124): Converts an IEEE value into the major's format. -/
  | fcvtFromIeee (f : BitVec 2) (d : RegF) (a : RegF) (k : BitVec 2) (rm : BitVec 3)
  /-- FCVT_FROM_NARROW (R124): Converts an N8 or FP4 code into the major's format. -/
  | fcvtFromNarrow (f : BitVec 2) (d : RegF) (a : RegF) (k : BitVec 2) (rm : BitVec 3)
  /-- FCVT_FROM_I64 (R124): Converts an i64 into the major's format. -/
  | fcvtFromI64 (f : BitVec 2) (d : RegF) (a : RegF) (rm : BitVec 3)
  /-- FCVT_FROM_U64 (R124): Converts a u64 into the major's format. -/
  | fcvtFromU64 (f : BitVec 2) (d : RegF) (a : RegF) (rm : BitVec 3)
  /-- FCVT_FROM_I32 (R124): Converts an i32 into the major's format. -/
  | fcvtFromI32 (f : BitVec 2) (d : RegF) (a : RegF) (rm : BitVec 3)
  /-- FCVT_FROM_U32 (R124): Converts a u32 into the major's format. -/
  | fcvtFromU32 (f : BitVec 2) (d : RegF) (a : RegF) (rm : BitVec 3)
  /-- FCVT_TO_INT (R124): Converts a value of the major's format to an integer. -/
  | fcvtToInt (f : BitVec 2) (d : RegF) (a : RegF) (k : BitVec 3) (rm : BitVec 3)
  /-- FCVT_TO_NARROW (R124): Converts a value of the major's format to N8E4, N8E5 or FP4. -/
  | fcvtToNarrow (f : BitVec 2) (d : RegF) (a : RegF) (k : BitVec 2) (rm : BitVec 3)
  /-- SYSR (R125): Reads a system register, or a capability register's cursor, into sd. -/
  | sysr (d : RegF) (n : BitVec 12)
  /-- SYSR_C (R125): Reads a capability system register whole into cd. -/
  | sysrC (c : CapF) (n : BitVec 12)
  /-- SYSW (R125): Writes a scalar system register by its access codes. -/
  | sysw (a : RegF) (n : BitVec 12)
  /-- SYSW_C (R125): Writes a capability system register, updating the context record for ECAP and SCOPE_DEF. -/
  | syswC (c : CapF) (n : BitVec 12)
  /-- NOP (R126): Does nothing. -/
  | nop
  /-- HALT (R126): Waits for the class counters, unbinds the queues and ends the strand. -/
  | halt
  /-- TRAP (R126): Raises TRAP. -/
  | trap
  /-- BRK (R126): Raises BREAK. -/
  | brk
  /-- ERET (R29): Returns from handler mode to EPC and the previous mode. -/
  | eret
  /-- IDENT (R126): Sets sd to IDENT. -/
  | ident (d : RegF)
  /-- TRAP_ENTRY (R27): Once LDC is zero, records EPC, CAUSE, FOBJ and FADDR and vectors to ECAP, or stops the strand on a double fault. -/
  | trapEntry (fld : Nat) (slot : Nat)
  /-- CGET_OBJ (R110): Reads ca's object number into sb. -/
  | cgetObj (b : RegF) (c : CapF)
  /-- CGET_CUR (R110): Reads ca's cursor into sb. -/
  | cgetCur (b : RegF) (c : CapF)
  /-- CGET_BASE (R110): Reads ca's base into sb. -/
  | cgetBase (b : RegF) (c : CapF)
  /-- CGET_TOP (R110): Reads ca's top into sb. -/
  | cgetTop (b : RegF) (c : CapF)
  /-- CGET_PERM (R110): Reads ca's rights into sb. -/
  | cgetPerm (b : RegF) (c : CapF)
  /-- CGET_TAG (R110): Reads ca's tag into sb. -/
  | cgetTag (b : RegF) (c : CapF)
  /-- CGET_G (R110): Reads ca's granule exponent into sb. -/
  | cgetG (b : RegF) (c : CapF)
  /-- CSETC (R111): Copies ca with its cursor set to sb[47:0]. -/
  | csetc (d : CapF) (c : CapF) (b : RegF)
  /-- CADD (R111): Copies ca with sb added to its cursor. -/
  | cadd (d : CapF) (c : CapF) (b : RegF)
  /-- CBOUND (R112): Narrows ca's bounds to [cur, cur+sb) with granule encoding. -/
  | cbound (d : CapF) (c : CapF) (b : RegF)
  /-- CPERM (R112): Removes from ca the rights not in sb[7:0]. -/
  | cperm (d : CapF) (c : CapF) (b : RegF)
  /-- CNULL (R113): Sets cd to the null capability. -/
  | cnull (d : CapF)
  /-- CMOV (R113): Copies ca to cd with its tag. -/
  | cmov (d : CapF) (c : CapF)
  /-- CSUB (R113): Sets sb to the difference of two cursors. -/
  | csub (b : RegF) (c : CapF) (e : CapF)
  /-- CTEST (R113): Sets a predicate when ca is tagged and its cursor is in bounds. -/
  | ctest (p : PredF) (c : CapF)
  /-- CLD (R114): Issues a 16-byte capability load with its tag. -/
  | cld (d : CapF) (c : CapF) (b : RegF)
  /-- CST (R114): Issues a 16-byte capability store setting or clearing the tag. -/
  | cst (d : CapF) (c : CapF) (b : RegF)
  /-- CMAKE (R115): In handler mode, builds a tagged capability from two scalar registers. -/
  | cmake (d : CapF) (b : RegF)
  /-- CFGSW (R201): Stops the Running slots of the region's fields and switches them to an Installed slot. -/
  | cfgsw (a : RegF)
  /-- CFGDROP (R203): Sets an Installed slot to Empty and removes bindings to its ports. -/
  | cfgdrop (a : RegF)
  /-- RGRUN (R201): Starts an Installed slot as a Running region with the strand's capability table. -/
  | rgrun (a : RegF)
  /-- RGSTOP (R202): Begins draining a Running slot towards Installed. -/
  | rgstop (a : RegF)
  /-- RGSTAT (R204): Reads a slot, element, router or field status item selected by sel. -/
  | rgstat (d : RegF) (a : RegF)
  /-- QBIND_IN (R206): Binds a queue register for pop to an sqp port or the engine response stream. -/
  | qbindIn (q : PredF) (a : RegF)
  /-- QBIND_OUT (R206): Binds a queue register for push to an sqp port. -/
  | qbindOut (q : PredF) (a : RegF)
  /-- QUNBIND (R207): Clears a queue binding, discarding pops or waiting for pushes to enter the port. -/
  | qunbind (q : PredF)
  /-- QPEEK (R208): Reads a bound queue's ready or free entry count. -/
  | qpeek (d : RegF) (q : PredF)
  /-- ENTER (R209): Sends the strand into the fabric as a strand record. -/
  | enter (a : RegF)
  /-- AWAIT (R210): Takes the strand's record from an exit port and writes its registers back. -/
  | await (a : RegF)
  /-- MARK (R205): Makes every source of a Running region close its current round. -/
  | mark (a : RegF)
  /-- RWAIT (R205): Waits until a named round is complete. -/
  | rwait (a : RegF)
  /-- TDONE (R214): Waits for the strand's counters and completes the task. -/
  | tdone
  /-- YIELD (R214): Marks the task's quantum as expired at the next check. -/
  | yield
  /-- STSWAP (R211): Inserts a tile swap token after the next marker at an element's input 0. -/
  | stswap (a : RegF)
  /-- CFGLD (R200): Starts installing a configuration image into an Empty slot. -/
  | cfgld (c : CapF) (b : RegF)
  /-- CFGPART (R200): Starts applying a partial image to an Installed or Running slot. -/
  | cfgpart (c : CapF) (b : RegF)
  /-- SPAWN_STRAND (R212): With md = 0, waits for a free slot and starts a new strand on a task field. -/
  | spawnStrand (c : CapF) (b : RegF)
  /-- SPAWN_TASK (R212): With md = 1, reads a task record and appends it to a Meridian queue. -/
  | spawnTask (c : CapF) (b : RegF)
  /-- FINDER (R213): Starts the sequencer's Finder with copies of the strand's registers. -/
  | finder (c : CapF) (b : RegF)
  /-- STLD (R211): Fills register L of a compute element from memory, counted in TLC. -/
  | stld (c : CapF) (b : RegF)
  /-- WAIT (R46): Waits until each class counter is at or below its count. -/
  | wait (ld : BitVec 6) (st : BitVec 6) (cp : BitVec 6) (tl : BitVec 6)
  /-- WPSET (R422): Sets and arms a Reticle watchpoint on a sector with a byte mask. -/
  | wpset (c : CapF) (b : RegF)
  /-- WPCLR (R422): Disarms one watchpoint or all of them. -/
  | wpclr (b : RegF)
  /-- CTXSAVE (R414): Saves and parks another task of the context into a frame. -/
  | ctxsave (c : CapF) (b : RegF)
  /-- CTXLOAD (R415): Returns a parked task from its frame to the head of a queue. -/
  | ctxload (c : CapF) (b : RegF)
  /-- RESUME_SITE (R408): Resume with tgt 0, act 0: lets a stalled element or router fire again, or continues a deadlocked region. -/
  | resumeSite (b : RegF)
  /-- ABANDON_REGION (R408): Resume with tgt 0, act 1: stops the region without drain and closes its records. -/
  | abandonRegion (b : RegF)
  /-- RESUME_PORT (R408): Resume with tgt 1: closes open port records and retranslates their held requests. -/
  | resumePort (b : RegF)
  /-- RESUME_ARRAY (R408): Resume with tgt 2, act 0: replays a held matrix operation from its start. -/
  | resumeArray (b : RegF)
  /-- ABANDON_ARRAY (R408): Resume with tgt 2, act 1: abandons a held matrix operation with its tile restored. -/
  | abandonArray (b : RegF)
  /-- RESUME_STRAND (R408): Resume with tgt 3, act 0: restarts a double-faulted strand in handler mode at ECAP. -/
  | resumeStrand (b : RegF)
  /-- END_STRAND (R408): Resume with tgt 3, act 1: ends a double-faulted strand as halt does. -/
  | endStrand (b : RegF)
  /-- RESUME_ENGINE (R408): Resume with tgt 4: continues an engine stream held by a watchpoint. -/
  | resumeEngine (b : RegF)
  /-- FLTQ (R407): Reads the fault queue's header and consumes up to n records. -/
  | fltq (b : RegF)
  /-- ATOM_ADD (R286): Atomically adds sb to memory and returns the old value. -/
  | atomAdd (w : LF)
  /-- ATOM_MIN (R286): Atomic signed minimum. -/
  | atomMin (w : LF)
  /-- ATOM_MAX (R286): Atomic signed maximum. -/
  | atomMax (w : LF)
  /-- ATOM_MINU (R286): Atomic unsigned minimum. -/
  | atomMinu (w : LF)
  /-- ATOM_MAXU (R286): Atomic unsigned maximum. -/
  | atomMaxu (w : LF)
  /-- ATOM_AND (R286): Atomic bitwise AND. -/
  | atomAnd (w : LF)
  /-- ATOM_OR (R286): Atomic bitwise OR. -/
  | atomOr (w : LF)
  /-- ATOM_XOR (R286): Atomic bitwise exclusive-or. -/
  | atomXor (w : LF)
  /-- ATOM_SWP (R286): Atomic swap. -/
  | atomSwp (w : LF)
  /-- ATOM_FADD (R286): Atomic floating-point add rounded RNE. -/
  | atomFadd (w : LF)
  /-- ATOM_INC (R286): Atomic increment. -/
  | atomInc (w : LF)
  /-- ATOMCAS (R288): Atomic compare-and-swap returning the old value. -/
  | atomcas (w : LF)
  /-- VATOM (R290): Applies up to 16 atomic elements in page runs with a skip mask for replay. -/
  | vatom (w : LF)
  /-- VATOMCAS (R290): Applies up to 16 compare-and-swap elements in page runs. -/
  | vatomcas (w : LF)
  /-- ATOMIC_PERFORM (R286): An atomic reaches its home slice or scratchpad port, reads, modifies and writes, and replies. -/
  | atomicPerform (id : Nat)
  /-- FENCE (R293): Applies acquire, release or sc ordering at a scope. -/
  | fence (w : LF)
  /-- FENCE_ST (R294): Orders, waits for the strand's storage writes and flushes volatile caches. -/
  | fenceSt (w : LF)
  /-- SCSET (R295): Installs a defined scope entry with a new generation in every field. -/
  | scset (w : LF)
  /-- SCGET (R296): Reads a scope entry's kind and generation. -/
  | scget (w : LF)
  /-- SCINV (R296): Invalidates a defined scope entry and increments its generation. -/
  | scinv (w : LF)
  /-- CBSYNC (R297): Drops bound control-block copies of a line, or of the whole context. -/
  | cbsync (w : LF)
  /-- BARINIT (R299): Creates, reinitialises or removes a barrier entry, with release. -/
  | barinit (w : LF)
  /-- BARARR (R299): Arrives at a barrier with release, completing the phase at the count. -/
  | bararr (w : LF)
  /-- BARWAIT (R299): Waits until a phase completes and acquires from its arrivals. -/
  | barwait (w : LF)
  /-- MONARM (R300): Arms the strand's monitor on a sector. -/
  | monarm (w : LF)
  /-- MONWAIT (R300): Waits until the arm is woken or a time limit passes, and reports the outcome. -/
  | monwait (w : LF)
  /-- MONWAIT_TIMEOUT (R300): A monwait's time limit runs out and it returns 0. -/
  | monwaitTimeout (fld : Nat) (slot : Nat)
  /-- MONSIG (R300): Releases and wakes the earliest or all arms on a sector. -/
  | monsig (w : LF)
  /-- TCFG (R302): Replaces the field's tile table and zeroes every defined tile. -/
  | tcfg (w : LF)
  /-- TREL (R303): Waits for no Filling or Draining tile and undefines every entry. -/
  | trel (w : LF)
  /-- TSTATE (R304): Returns a mask of tiles in a given state. -/
  | tstate (w : LF)
  /-- TWAIT (R304): Waits until every named tile is in a given state. -/
  | twait (w : LF)
  /-- CWB (R305): Writes back dirty sectors of a range in the scope's L1s. -/
  | cwb (w : LF)
  /-- CINV (R305): Writes back and invalidates a range, and with md clears race metadata. -/
  | cinv (w : LF)
  /-- CPF (R305): Prefetches up to 4 KiB into the field's L1. -/
  | cpf (w : LF)
  /-- OBJQ (R306): Queries an object's Almanac descriptor, page entry or chunk length. -/
  | objq (w : LF)
  /-- CARVE (R307): Sets the field's scratchpad min, max and backing and returns its capability. -/
  | carve (w : LF)
  /-- XCOPY (R344): Issues a one-dimensional copy or conversion request. -/
  | xcopy (w : LF)
  /-- XCOPY2 (R344): Issues a two-dimensional copy request. -/
  | xcopy2 (w : LF)
  /-- XGATHER (R345): Issues a gather request by an index array. -/
  | xgather (w : LF)
  /-- XSCATTER (R345): Issues a scatter request by an index array. -/
  | xscatter (w : LF)
  /-- MMA (R347): Issues an IEEE matrix multiply-accumulate to a matrix array. -/
  | mma (w : LF)
  /-- MMX (R347): Issues a block-scaled narrow matrix multiply-accumulate. -/
  | mmx (w : LF)
  /-- ACCRD (R348): Issues a read of accumulator rows to the scratchpad, raw or converted. -/
  | accrd (w : LF)
  /-- ACCWR (R348): Issues a write of raw accumulator rows, and optionally tsc. -/
  | accwr (w : LF)
  /-- ATTN (R349): Issues an attention request to the field's attention engine. -/
  | attn (w : LF)
  /-- XCODEC (R351): Issues a chunk compression or expansion request. -/
  | xcodec (w : LF)
  /-- XCKSUM (R352): Issues a CRC or protection-information request. -/
  | xcksum (w : LF)
  /-- COLL (R353): Issues a collective request into a group. -/
  | coll (w : LF)
  /-- NVSUB (R354): Issues an NVMe command on a program queue pair. -/
  | nvsub (w : LF)
  /-- NVCMP (R356): Takes the next completion of a queue pair, waiting unless nb is set. -/
  | nvcmp (w : LF)
  /-- KVLOOK (R357): Issues a KV lookup request. -/
  | kvlook (w : LF)
  /-- KVAPP (R357): Issues a KV append request. -/
  | kvapp (w : LF)
  /-- KVFORK (R357): Issues a KV fork or unshare request. -/
  | kvfork (w : LF)
  /-- KVFREE (R357): Issues a KV release request. -/
  | kvfree (w : LF)
  /-- KVPOL (R357): Issues a KV policy request. -/
  | kvpol (w : LF)
  /-- XTEST (R360): Issues an early-exit margin test on the attention engine. -/
  | xtest (w : LF)
  /-- BFENQ (R357): Issues a backfill enqueue request. -/
  | bfenq (w : LF)
  /-- BFSYNC (R361): Waits until a sequence's pending backfill is zero and acquires its rows. -/
  | bfsync (w : LF)
  /-- EVSCORE (R357): Issues a mass-halving request. -/
  | evscore (w : LF)
  /-- SQEVICT (R357): Issues a swap-or-drop eviction of a privileged sequence. -/
  | sqevict (w : LF)
  /-- ERESP (R341): Takes one response element from a response ring. -/
  | eresp (w : LF)
  /-- RESPONSE_DELIVERY (R313): An engine delivers a response element to its sink once the destination has room, or discards it if unbound. -/
  | responseDelivery (st : Nat)
  /-- REQUEST_COMPLETE (R313): A request's last element is delivered and its accesses performed; its counter decrements. -/
  | requestComplete (st : Nat)
  /-- COPY_ELEMENT_PERFORM (R344): A copy engine performs one element of a copy, with conversion and tile moves. -/
  | copyElementPerform (st : Nat)
  /-- GATHER_ELEMENT_PERFORM (R345): The gather unit moves one record of a gather or scatter. -/
  | gatherElementPerform (st : Nat)
  /-- TILE_FILL_COMPLETE (R237): A fill's last byte lands and the tile becomes Ready. -/
  | tileFillComplete (fld : Nat) (tile : Nat)
  /-- TILE_DRAIN_COMPLETE (R237): A last-use request's last read completes and the tile becomes Empty. -/
  | tileDrainComplete (fld : Nat) (tile : Nat)
  /-- FOLLOW_ON_ISSUE (R319): When a copy lands, the copy engine issues its follow-on matrix command to the array. -/
  | followOnIssue (st : Nat)
  /-- MMA_PERFORM (R321): A matrix array performs an mma on an accumulator tile, restoring the shadow on an upper-level fault. -/
  | mmaPerform (st : Nat)
  /-- MMX_PERFORM (R322): A matrix array performs a block-scaled mmx into fixed-point entries. -/
  | mmxPerform (st : Nat)
  /-- ACCRD_PERFORM (R348): The array writes accumulator rows to the scratchpad. -/
  | accrdPerform (st : Nat)
  /-- ACCWR_PERFORM (R348): The array checks and writes raw accumulator rows. -/
  | accwrPerform (st : Nat)
  /-- ATTN_PERFORM (R325): The attention engine chains both arrays through the softmax for every query row. -/
  | attnPerform (st : Nat)
  /-- XTEST_PERFORM (R360): The attention engine streams the logits through a conf comparator and returns the margin result. -/
  | xtestPerform (st : Nat)
  /-- COLLECTIVE_PERFORM (R329): Once a group's ranks have joined, combines their data in a pairwise tree. -/
  | collectivePerform (st : Nat)
  /-- CODEC_CHUNK_PERFORM (R330): The codec engine compresses or expands one chunk. -/
  | codecChunkPerform (st : Nat)
  /-- CHECKSUM_PERFORM (R331): The checksum engine computes a CRC or generates or checks protection information. -/
  | checksumPerform (st : Nat)
  /-- NVME_SUBMIT_PERFORM (R355): The NVMe engine pins, builds the submission entry and rings the doorbell. -/
  | nvmeSubmitPerform (st : Nat)
  /-- NVME_COMPLETION_POSTED (R355): A controller posts a completion, releasing the command's pins. -/
  | nvmeCompletionPosted (pair : Nat) (cid : Nat) (lo : W64) (hi : W64) (data : List Byte)
  /-- CONTROLLER_DMA (R461): A controller's DMA to an unpinned page completes with Unsupported Request and AER. -/
  | controllerDma (port : Nat) (rid : Nat) (key : Nat) (data : List Byte)
  /-- KVLOOK_PERFORM (R367): The KV engine looks up each key through windows, chains and parent hops. -/
  | kvlookPerform (st : Nat)
  /-- KVAPP_PERFORM (R359): The KV engine appends items in order, stopping whole at COW, FREE_EMPTY or a bad item. -/
  | kvappPerform (st : Nat)
  /-- KVFORK_PERFORM (R373): The KV engine forks a child sequence or unshares a block by copying. -/
  | kvforkPerform (st : Nat)
  /-- KVFREE_PERFORM (R374): After pend is zero, releases a sequence's references below an edge. -/
  | kvfreePerform (st : Nat)
  /-- KVPOL_PERFORM (R377): Sets a sequence's default policy or the policy of its blocks. -/
  | kvpolPerform (st : Nat)
  /-- EVSCORE_PERFORM (R375): Halves the mass of every valid entry. -/
  | evscorePerform (st : Nat)
  /-- SQEVICT_PERFORM (R376): Decides swap or drop, writes blocks to flash when swapping, and releases the sequence. -/
  | sqevictPerform (st : Nat)
  /-- BFENQ_PERFORM (R378): Allocates skipped layers' blocks, raises pend counts and advances len. -/
  | bfenqPerform (st : Nat)
  /-- BACKFILL_RECORD (R380): The backfill engine computes and writes one token's K and V rows for a layer and sets its presence bit. -/
  | backfillRecord (mount : Nat)
  /-- CFGLD_INSTALL (R200): The asynchronous part of an install reads and checks the frames, then writes them or records the failure. -/
  | cfgldInstall (fld : Nat) (slot : Nat)
  /-- INSTALL_COMPLETE (R152): After W + F cycles the slot becomes Installed. -/
  | installComplete (fld : Nat) (slot : Nat)
  /-- CFGPART_APPLY (R200): A partial image is checked and replaced at once or begins its drain. -/
  | cfgpartApply (fld : Nat) (slot : Nat)
  /-- PARTIAL_FRAME_TAKE (R163): A named element takes its new frame after passing marker k with no open value. -/
  | partialFrameTake (fld : Nat) (slot : Nat) (site : Nat)
  /-- PARTIAL_DRAIN_COMPLETE (R163): Every named element has its new frame; sources resume with round k + 1 and kp is recorded. -/
  | partialDrainComplete (fld : Nat) (slot : Nat)
  /-- STOP_COMPLETE (R202): A stopping region has drained and the slot becomes Installed. -/
  | stopComplete (fld : Nat) (slot : Nat)
  /-- SWITCH_COMPLETE (R201): The stopped slots have drained and the switched-to slot starts Running. -/
  | switchComplete (fld : Nat) (slot : Nat)
  /-- STLD_FILL_COMPLETE (R211): Once L is free, stld's words are written and TLC decrements. -/
  | stldFillComplete (fld : Nat) (site : Nat)
  /-- RECORD_AT_EXIT (R209): A strand record reaches an exit port and the strand resumes issue. -/
  | recordAtExit (fld : Nat) (row : Nat)
  /-- RAMP_RELEASE (R153): A round source's ramp delay expires and it may send its first token. -/
  | rampRelease (fld : Nat) (site : Nat)
  /-- OADD (R76): An online add element fires. -/
  | oadd (fld : Nat) (site : Nat)
  /-- OSUB (R76): An online subtract element fires. -/
  | osub (fld : Nat) (site : Nat)
  /-- OMUL (R77): An online multiply element fires. -/
  | omul (fld : Nat) (site : Nat)
  /-- ODIV (R79): An online divide element fires after normalisation. -/
  | odiv (fld : Nat) (site : Nat)
  /-- OSQRT (R80): An online square-root element fires. -/
  | osqrt (fld : Nat) (site : Nat)
  /-- OEXP2 (R82): An online exp2 element fires. -/
  | oexp2 (fld : Nat) (site : Nat)
  /-- OLOG2 (R83): An online log2 element fires. -/
  | olog2 (fld : Nat) (site : Nat)
  /-- ONEG (R84): A negate element fires. -/
  | oneg (fld : Nat) (site : Nat)
  /-- OABS (R84): An absolute-value element fires. -/
  | oabs (fld : Nat) (site : Nat)
  /-- OSCL (R84): A scale-by-2^k element fires. -/
  | oscl (fld : Nat) (site : Nat)
  /-- OMAX (R87): An online maximum element fires. -/
  | omax (fld : Nat) (site : Nat)
  /-- OMIN (R87): An online minimum element fires. -/
  | omin (fld : Nat) (site : Nat)
  /-- OCMP (R87): An online compare element fires and emits a lane-order word. -/
  | ocmp (fld : Nat) (site : Nat)
  /-- OSGN (R87): An online sign element fires. -/
  | osgn (fld : Nat) (site : Nat)
  /-- OSEL (R172): A lane select element fires on a selector word. -/
  | osel (fld : Nat) (site : Nat)
  /-- OCONST (R172): A constant element emits one value per trigger word. -/
  | oconst (fld : Nat) (site : Nat)
  /-- SPLIT (R171): A split element turns 16 words into a digit-stream value. -/
  | split (fld : Nat) (site : Nat)
  /-- SETTLE (R173): A settle element decides lanes, kills its input and emits words. -/
  | settle (fld : Nat) (site : Nat)
  /-- RACC (R174): A racc element accumulates a round's values lane by lane. -/
  | racc (fld : Nat) (site : Nat)
  /-- RSUM (R174): An rsum element sums every lane of a round. -/
  | rsum (fld : Nat) (site : Nat)
  /-- RMAX (R174): An rmax element takes the maximum or minimum of a round. -/
  | rmax (fld : Nat) (site : Nat)
  /-- THRESH (R175): A thresh element compares lanes with a constant. -/
  | thresh (fld : Nat) (site : Nat)
  /-- CONF (R175): A conf element decides the logit margin of a round. -/
  | conf (fld : Nat) (site : Nat)
  /-- OFAN (R170): A fan-out element copies a value to two outputs. -/
  | ofan (fld : Nat) (site : Nat)
  /-- MLD (R177): A memory load element loads words or vectors at offsets. -/
  | mld (fld : Nat) (site : Nat)
  /-- MST (R177): A memory store element stores data words at offsets. -/
  | mst (fld : Nat) (site : Nat)
  /-- MLINK (R178): A linked-structure element follows a list from a start offset. -/
  | mlink (fld : Nat) (site : Nat)
  /-- MRING (R179): A ring element loads or stores one ring slot per position. -/
  | mring (fld : Nat) (site : Nat)
  /-- ENGP (R180): An engine port sends request words and emits responses. -/
  | engp (fld : Nat) (site : Nat)
  /-- SQP (R180): A sequencer port moves words between a queue or strand record and the fabric. -/
  | sqp (fld : Nat) (site : Nat)
  /-- MXP (R181): A matrix port drains tile rows as digit-stream values. -/
  | mxp (fld : Nat) (site : Nat)
  /-- ATP (R181): An attention port emits attention output rows into the fabric. -/
  | atp (fld : Nat) (site : Nat)
  /-- AGAFF (R182): An affine address generator emits one pass of offsets per round. -/
  | agaff (fld : Nat) (site : Nat)
  /-- AGMOD (R182): A modular address generator emits ring offsets. -/
  | agmod (fld : Nat) (site : Nat)
  /-- AGIDX (R182): An index address generator emits one offset per index word. -/
  | agidx (fld : Nat) (site : Nat)
  /-- STEER (R183): A steer router routes a strand record by its pipe field. -/
  | steer (fld : Nat) (site : Nat)
  /-- MERGE (R184): A merge router forwards whole tokens from its inputs. -/
  | merge (fld : Nat) (site : Nat)
  /-- JOIN_NODE (R449): An ordered merge forwards a round's tokens by input then sequence. -/
  | joinNode (fld : Nat) (site : Nat)
  /-- CARRY (R185): A carry router admits records into a loop under credit. -/
  | carry (fld : Nat) (site : Nat)
  /-- FWD (R185): A fwd router moves beats through extra stages or a virtual circuit end. -/
  | fwd (fld : Nat) (site : Nat)
  /-- VCFILT (R187): A vcfilt router converts, removes or inserts zeros, or transposes words. -/
  | vcfilt (fld : Nat) (site : Nat)
  /-- TILE_SWAP (R150): A swap token at input 0 waits for a full L and exchanges A and L. -/
  | tileSwap (fld : Nat) (site : Nat)
  /-- KILL (R146): A kill pulse reaches a producer, which stops the value once all its channels have killed it. -/
  | kill (fld : Nat) (chan : Nat)
  /-- TIMING_REPLAY (R156): A stage's shadow latch disagrees and the beat is replayed; the place is the field, with the
  site from bit 7 and the stage from bit 15. -/
  | timingReplay (place : Nat)
  /-- PERSISTENT_TIMING_ERROR (R157): A stage replays one beat 16 times and the element stalls with POISON. -/
  | persistentTimingError (fld : Nat) (site : Nat) (stage : Nat)
  /-- FAULT_RECORD_POST (R401): A unit writes a record into the fault queue once there is room, and advances wr. -/
  | faultRecordPost (ctx : Nat)
  /-- DEADLOCK_WATCHDOG (R419): A region's idle count reaches 2^w and every element stalls with DEADLOCK. -/
  | deadlockWatchdog (fld : Nat) (slot : Nat)
  /-- REMOTE_TIMEOUT (R420): A remote request reaches 2^28 cycles and is abandoned and reported. -/
  | remoteTimeout (tgt fld id : Nat)
  /-- ROUND_COMPLETE (R260): A round completes and the L1s write back its dirty sectors. -/
  | roundComplete (ctx : Nat)
  /-- HOME_ACCESS (R271): A homed access arrives at its home slice, is race-checked and performs in the home order. -/
  | homeAccess (id : Nat)
  /-- L1_PROBE (R272): An L1 hit by another party or round probes the home slice and refreshes the sector. -/
  | l1Probe (fld : Nat) (ctx : Nat) (obj : Nat) (sec : Nat)
  /-- EVICTION_WRITE_BACK (R273): An evicted dirty L1 sector arrives at its home slice. -/
  | evictionWriteBack (fld : Nat) (ctx : Nat) (obj : Nat) (sec : Nat)
  /-- PORT_TRANSLATE (R248): A memory port translates a request through the Almanac, holding it with a record on failure. -/
  | portTranslate (id : Nat)
  /-- PAGE_PIN (R250): A transformation pins its pages in the port's pin table. -/
  | pagePin (st : Nat)
  /-- HBM_FRAME_FENCE (R426): A frame's error count or an uncorrectable error fences it and starts migration. -/
  | hbmFrameFence (mount : Nat) (frame : Nat) (bad : Bool)
  /-- MIGRATION_COMPLETE (R426): A page's lines are copied to a reserve frame and the page entry is rewritten. -/
  | migrationComplete (mount : Nat) (frame : Nat)
  /-- ELASTIC_INTERVAL (R234): At the end of 2^16 cycles the field decides whether to move the scratchpad boundary. -/
  | elasticInterval (fld : Nat)
  /-- BOUNDARY_MOVE_COMPLETE (R233): A scratchpad boundary move of one step ends. -/
  | boundaryMoveComplete (fld : Nat)
  /-- MERIDIAN_SELECT (R218): Meridian selects a queue head by level and round robin. -/
  | meridianSelect (die : Nat)
  /-- ENTRY_STRAND_START (R193): After the image install, the entry strand starts and the quantum begins. -/
  | entryStrandStart (tno : Nat)
  /-- QUEUE_AGEING (R217): A queue's age count reaches its threshold and its level rises. -/
  | queueAgeing (die : Nat) (q : Nat)
  /-- RESERVATION_TAKE (R219): A level-6 queue ageing again takes the die's reservation. -/
  | reservationTake (die : Nat) (q : Nat)
  /-- QUANTUM_EXPIRY (R221): A task's quantum expires and Meridian decides whether to pre-empt. -/
  | quantumExpiry (tno : Nat)
  /-- PREEMPTION_SAVE (R416): After the drain, the task is saved and returned to its queue. -/
  | preemptionSave (tno : Nat)
  /-- TASK_COMPLETION (R194): After its counters drain, a task's slots are stopped and dropped, fields freed and completion written. -/
  | taskCompletion (tno : Nat)
  /-- STALL_ESCALATION (R412): A stall outlasting sth triggers a full save with a kind-7 record. -/
  | stallEscalation (tno : Nat)
  /-- FINDER_LIMIT (R213): A Finder ends after its instruction count. -/
  | finderLimit (fld : Nat)
  /-- FLIT_RECEIVE (R443): A package-port flit is received, checked and acknowledged or discarded. -/
  | flitReceive (port : Nat) (seq : Nat) (crc : Bool)
  /-- LINK_REPLAY (R443): A sender replays a discarded flit and every later one. -/
  | linkReplay (port : Nat) (seq : Nat)
  /-- LANE_FENCE (R426): A lane exceeds 16 replays within 2^30 flits and is fenced. -/
  | laneFence (port : Nat)
  /-- LINK_NARROW_COMPLETE (R444): A link finishes narrowing and traffic resumes or reroutes. -/
  | linkNarrowComplete (port : Nat)
  /-- MQSUB_WRITE (R458): The host submits a task record to a Meridian queue. -/
  | mqsubWrite (die : Nat) (q : Nat) (v : W64)
  /-- MQCFG_WRITE (R216): The host configures a Meridian queue. -/
  | mqcfgWrite (die : Nat) (q : Nat) (v : W64)
  /-- CAPTGT_WRITE (R460): The host stores CAPLO and CAPHI as a capability at a translated address. -/
  | captgtWrite (v : W64)
  /-- NVQB_WRITE (R462): The host binds a program queue pair, ignored while a command is outstanding. -/
  | nvqbWrite (n : Nat) (v : W64)
  /-- RRSV_WRITE (R245): The host sets a mount's retirement reserve, effective between migrations. -/
  | rrsvWrite (mount : Nat) (v : W64)
  /-- HOST_REGISTER_WRITE (R457): The host writes a window register that has no row of its own. -/
  | hostRegisterWrite (addr : Nat) (v : W64)
  /-- HOST_APERTURE_ACCESS (R456): A hart accesses device memory through an aperture as a synchronising access: kind 0 a
  load, 1 a store, 2 + op an atomic. -/
  | hostApertureAccess (addr : Nat) (size : Nat) (kind : Nat) (v : W64)
  /-- IDENTITY_REQUEST (R465): The management port answers with IDENT and the serial number. -/
  | identityRequest
  /-- STATUS_REQUEST (R465): The management port answers with BSTATE and DIESTAT. -/
  | statusRequest
  /-- GET_VERSION (R464): SPDM GET_VERSION on the management port. -/
  | getVersion
  /-- GET_CAPABILITIES (R464): SPDM GET_CAPABILITIES. -/
  | getCapabilities
  /-- NEGOTIATE_ALGORITHMS (R464): SPDM NEGOTIATE_ALGORITHMS, including Falcon-1024 and SHAKE256. -/
  | negotiateAlgorithms
  /-- GET_DIGESTS (R464): SPDM GET_DIGESTS. -/
  | getDigests
  /-- GET_CERTIFICATE (R464): SPDM GET_CERTIFICATE. -/
  | getCertificate
  /-- CHALLENGE (R464): SPDM CHALLENGE signed with the identity key. -/
  | challenge
  /-- GET_MEASUREMENTS (R464): SPDM GET_MEASUREMENTS of firmware, configuration and fuses. -/
  | getMeasurements
  /-- DEVICE_RESET (R31): A device reset empties every slot and restarts bring-up. -/
  | deviceReset
  /-- FIRMWARE_VERIFY (R463): The boot ROM verifies a signed firmware image or fails bring-up. -/
  | firmwareVerify
  /-- HBM_TRAINING (R465): HBM training completes or fails bring-up. -/
  | hbmTraining (good : Bool)
  /-- DIE_LINK_TRAINING (R465): Die links finish training. -/
  | dieLinkTraining (good : Bool)
  /-- PACKAGE_PORT_TRAINING (R465): Package ports finish training and the device becomes ready. -/
  | packagePortTraining (up : BitVec 16) (pkg : BitVec 5)
  /-- THERMAL_THROTTLE (R467): A compute-die junction reaches 100 °C and the clock steps down. -/
  | thermalThrottle (die : Nat)
  /-- THERMAL_SHUTDOWN (R467): A junction reaches 110 °C and the device posts the cause and stops. -/
  | thermalShutdown (die : Nat)
  /-- CTXSAVE_COMPLETE (R414): The save taken by ctxsave finishes after the task's drain; the task is parked in no queue, a kind-7 record with why 2 is posted and XPC decrements. -/
  | ctxsaveComplete (tno : Nat)
  deriving DecidableEq, Repr

end Sys2Proof
end

