-- ==== Sys2Proof/WellFormed.lean ====
section
/-!
DEFINITION. Which field values each instruction admits: R36, R37, R43 to R47, R284, R335.
A word whose fields are not well-formed is no instruction and raises ILLEGAL_OP (R37).
-/
namespace Sys2Proof

/-- The field names a capability: its bit 4 is zero (R36). -/
def isCap (r : RegF) : Bool := r.toNat < 16
/-- The field is the first register of a pair, 1 to 30 (R335). -/
def isPair (r : RegF) : Bool := 1 ≤ r.toNat && r.toNat ≤ 30
/-- The field names a sink: none or the ring (0), or q0 to q7 (R336). -/
def isSink (r : RegF) : Bool := r.toNat = 0 || 24 ≤ r.toNat
/-- A rounding field of a sequencer instruction: 0b101 and 0b110 are reserved (R45). -/
def rmOk (rm : BitVec 3) : Bool := rm.toNat ≤ 4 || rm.toNat = 7

namespace LF

/-- A sub-field of fn. -/
def fnBits (w : LF) (lo n : Nat) : Nat := w.fn.toNat / 2 ^ lo % 2 ^ n
/-- A sub-field of imm. -/
def immBits (w : LF) (lo n : Nat) : Nat := w.imm.toNat / 2 ^ lo % 2 ^ n
def ldxOrd (w : LF) : Nat := w.fnBits 3 3
def atOrd (w : LF) : Nat := w.fnBits 2 3

/-- Atomics (R47, R286): ordering 0 to 4, size w or d, target a capability. -/
def atomOk (w : LF) (op : Nat) : Bool :=
  isCap w.a && w.fnBits 5 4 = op && w.atOrd ≤ 4 && w.fnBits 0 2 ≤ 1
/-- Fences (R47, R293): ordering acq to sc, the storage bit as given, every other field zero. -/
def fenceOk (w : LF) (st : Nat) : Bool :=
  w.d = 0 && w.a = 0 && w.b = 0 && w.imm = 0 && w.fnBits 6 3 = 0 && w.fnBits 0 2 = 0 &&
  w.fnBits 5 1 = st && 1 ≤ w.atOrd && w.atOrd ≤ 4
/-- Engine instructions that name a sink and a block and whose only option is ob (R335). -/
def blkOk (w : LF) : Bool := isSink w.d && isCap w.a && w.b = 0 && w.fnBits 1 8 = 0
/-- Engine instructions that name a sink and a block and take ob and rm (R335). -/
def blkRmOk (w : LF) : Bool := isSink w.d && isCap w.a && w.b = 0 && w.fnBits 4 5 = 0 && w.fnBits 1 3 ≤ 4

end LF

/-- Formats of a floating-point major and of a conversion's other side: equal ones are reserved (R45). -/
def fcvtDiff (f k : BitVec 2) : Bool := f ≠ k

/-- The fields of an instruction lie in the ranges of its map. -/
def Instr.wf : Instr → Bool
  | .loop d _ => d ≠ 0
  | .bp p n _ => !(p = 0 && n = 1)
  | .cmake _ b => b ≠ 31
  | .fadd _ _ _ _ rm | .fsub _ _ _ _ rm | .fmul _ _ _ _ rm | .ffma _ _ _ _ rm | .fdiv _ _ _ _ rm
  | .fscale _ _ _ _ rm => rmOk rm
  | .fsqrt _ _ _ rm | .frsqrt _ _ _ rm | .fexp2 _ _ _ rm | .flog2 _ _ _ rm | .fround _ _ _ rm
  | .fcvtFromI64 _ _ _ rm | .fcvtFromU64 _ _ _ rm | .fcvtFromI32 _ _ _ rm | .fcvtFromU32 _ _ _ rm => rmOk rm
  | .fcvtFromIeee f _ _ k rm => rmOk rm && fcvtDiff f k
  | .fcvtFromNarrow _ _ _ k rm | .fcvtToNarrow _ _ _ k rm => rmOk rm && k.toNat ≤ 2
  | .fcvtToInt _ _ _ _ rm => rmOk rm
  | .ldx w => isCap w.a && w.fnBits 6 3 = 0 && w.fnBits 0 3 ≠ 7 && (w.ldxOrd = 0 || w.ldxOrd = 1 || w.ldxOrd = 4)
  | .stx w => isCap w.a && w.fnBits 6 3 = 0 && w.fnBits 0 1 = 0 && (w.ldxOrd = 0 || w.ldxOrd = 2 || w.ldxOrd = 4)
  | .atomAdd w => w.atomOk 0
  | .atomMin w => w.atomOk 1
  | .atomMax w => w.atomOk 2
  | .atomMinu w => w.atomOk 3
  | .atomMaxu w => w.atomOk 4
  | .atomAnd w => w.atomOk 5
  | .atomOr w => w.atomOk 6
  | .atomXor w => w.atomOk 7
  | .atomSwp w => w.atomOk 8
  | .atomFadd w => w.atomOk 9
  | .atomInc w => w.atomOk 10 && w.b = 0
  | .atomcas w => w.atomOk 0
  | .vatom w => w.fnBits 5 4 ≤ 10 && w.atomOk (w.fnBits 5 4) && isCap w.b && w.immBits 4 18 = 0
  | .vatomcas w => w.atomOk 0 && isCap w.b && w.immBits 4 18 = 0
  | .fence w => w.fenceOk 0
  | .fenceSt w => w.fenceOk 1
  | .scset w => w.fn = 1 && w.d = 0 && isCap w.a && w.b = 0 && 5 ≤ w.x.toNat
  | .scget w => w.fn = 2 && w.a = 0 && w.b = 0 && w.imm = 0
  | .scinv w => w.fn = 3 && w.d = 0 && w.a = 0 && w.b = 0 && w.imm = 0 && 5 ≤ w.x.toNat
  | .cbsync w => w.fn = 0 && w.d = 0 && isCap w.a && w.b = 0 && w.x = 0
  | .barinit w => w.fn = 1 && w.d = 0 && isCap w.a
  | .bararr w => w.fn = 2 && isCap w.a && w.b = 0
  | .barwait w => w.fn = 3 && w.d = 0 && isCap w.a
  | .monarm w => w.fn = 1 && w.d = 0 && isCap w.a && w.b = 0
  | .monwait w => w.fn = 2 && w.a = 0 && w.imm = 0
  | .monsig w => w.fn = 3 && isCap w.a
  | .tcfg w => w.fn = 1 && w.d = 0 && isCap w.a && w.b = 0 && w.x = 0
  | .trel w => w.fn = 2 && w.d = 0 && w.a = 0 && w.b = 0 && w.x = 0 && w.imm = 0
  | .tstate w => w.fn = 3 && w.a = 0 && w.b = 0 && w.x = 0 && w.imm.toNat ≤ 4
  | .twait w => w.fn = 4 && w.d = 0 && w.a = 0 && w.x = 0 && w.imm.toNat ≤ 3
  | .cwb w => w.fn = 1 && w.d = 0 && isCap w.a
  | .cinv w => w.fn = 2 && w.d = 0 && isCap w.a
  | .cpf w => w.fn = 3 && w.d = 0 && isCap w.a
  | .objq w => w.fn = 1 && isCap w.a && w.x = 0
  | .carve w => w.fn = 2 && isCap w.d && isCap w.a && w.x = 0 && w.imm = 0
  | .xcopy w | .xcopy2 w | .coll w => w.blkRmOk
  | .xgather w | .xscatter w | .attn w | .xcodec w | .xcksum w | .kvlook w | .kvfork w | .kvfree w | .kvpol w
  | .xtest w | .bfenq w | .evscore w | .sqevict w => w.blkOk
  | .mma w => isSink w.d && isPair w.a && isPair w.b && w.fnBits 7 2 = 0 && w.fnBits 4 3 ≤ 4 && w.immBits 21 1 = 0
  | .mmx w => isSink w.d && isPair w.a && isPair w.b && w.x ≠ 31 && w.fnBits 4 5 = 0 && w.immBits 8 4 = 0 && w.immBits 21 1 = 0
  | .accrd w => isSink w.d && w.b = 0 && w.x = 0 && w.fnBits 8 1 = 0 && w.fnBits 4 3 ≤ 4 && w.immBits 16 6 = 0 &&
      (if w.fnBits 7 1 = 1 then w.immBits 0 4 = 0 else w.immBits 0 4 ≤ 3 || 8 ≤ w.immBits 0 4)
  | .accwr w => isSink w.d && w.x = 0 && w.fnBits 4 4 = 0 && w.immBits 0 4 = 0 && w.immBits 16 6 = 0 &&
      (w.fnBits 8 1 = 1 || w.b = 0)
  | .nvsub w => isSink w.d && isCap w.a && w.fnBits 1 8 = 0
  | .nvcmp w => isPair w.d && w.a = 0 && w.fnBits 1 8 = 0 && w.imm = 0
  | .kvapp w => isSink w.d && isCap w.a && w.b = 0 && w.fnBits 2 7 = 0
  | .bfsync w => w.d = 0 && isCap w.a && w.b = 0 && w.fn = 0
  | .eresp w => isPair w.d && isCap w.a && w.b = 0 && w.fnBits 1 8 = 0
  | _ => true

end Sys2Proof
end

