-- ==== Sys2Proof/Decode.lean ====
section
/-!
DEFINITION. Decoding (R32 to R47), total on any words and rejecting by name, and the encoder written from the same maps.
-/
namespace Sys2Proof

/-- Why words are no instruction (R37, R38 items 3 and 4). -/
inductive Reject where
  /-- The first word has class 0b11. -/
  | tailFirst
  /-- A head word whose next word is not a tail word. -/
  | noTail
  /-- An unassigned major or fn. -/
  | unassigned
  /-- A non-zero unused field, a reserved value or a register field outside its kind. -/
  | reserved
  deriving DecidableEq, Repr

/-! The fields of R33 and R34. -/
def fCls (w : W32) : BitVec 2 := w.extractLsb' 30 2
def fMaj (w : W32) : BitVec 6 := w.extractLsb' 24 6
def fD (w : W32) : RegF := w.extractLsb' 19 5
def fA (w : W32) : RegF := w.extractLsb' 14 5
def fB (w : W32) : RegF := w.extractLsb' 9 5
def fFn (w : W32) : BitVec 9 := w.extractLsb' 0 9
def fI14 (w : W32) : BitVec 14 := w.extractLsb' 0 14
def fI19 (w : W32) : BitVec 19 := w.extractLsb' 0 19
def fP (w : W32) : PredF := w.extractLsb' 21 3
def fN (w : W32) : BitVec 1 := w.extractLsb' 20 1
def fOff (w : W32) : BitVec 20 := w.extractLsb' 0 20
def cD (w : W32) : CapF := w.extractLsb' 20 4
def cA (w : W32) : CapF := w.extractLsb' 16 4
def cB (w : W32) : RegF := w.extractLsb' 11 5
def cFn (w : W32) : BitVec 11 := w.extractLsb' 0 11
def tX (w : W32) : BitVec 5 := w.extractLsb' 25 5
def tG (w : W32) : PredF := w.extractLsb' 22 3
def tImm (w : W32) : BitVec 22 := w.extractLsb' 0 22

/-! The words of R33 and R34, put together from their fields. -/
def mkRR (c : BitVec 2) (m : BitVec 6) (d a b : RegF) (fn : BitVec 9) : W32 := c ++ m ++ d ++ a ++ b ++ fn
def mkRI (c : BitVec 2) (m : BitVec 6) (d a : RegF) (i : BitVec 14) : W32 := c ++ m ++ d ++ a ++ i
def mkMovi (d : RegF) (i : BitVec 19) : W32 := (0b00#2) ++ (0x08#6) ++ d ++ i
def mkBR (m : BitVec 6) (p : PredF) (n : BitVec 1) (off : BitVec 20) : W32 := (0b00#2) ++ m ++ p ++ n ++ off
def mkCP (c : BitVec 2) (m : BitVec 6) (d a : CapF) (b : RegF) (fn : BitVec 11) : W32 := c ++ m ++ d ++ a ++ b ++ fn
def mkWait (l s c t : BitVec 6) : W32 := (0b01#2) ++ (0x03#6) ++ l ++ s ++ c ++ t
def mkTail (x : BitVec 5) (g : PredF) (imm : BitVec 22) : W32 := (0b11#2) ++ x ++ g ++ imm

/-- A field of predicate kind in five bits (R36). -/
def p5 (p : PredF) : RegF := (0#2) ++ p
/-- A field of capability kind in five bits (R36). -/
def c5 (c : CapF) : RegF := (0#1) ++ c
/-- The field q names q0 to q7, that is 24 to 31 (R46). -/
def q5 (q : PredF) : RegF := (3#2) ++ q
def lo3 (r : RegF) : PredF := r.extractLsb' 0 3
def hi2 (r : RegF) : BitVec 2 := r.extractLsb' 3 2
def lo4 (r : RegF) : CapF := r.extractLsb' 0 4
def hi1 (r : RegF) : BitVec 1 := r.extractLsb' 4 1

/-- A decoded instruction, if its fields allow it. -/
def accept (ok : Bool) (i : Instr) : Except Reject Instr := if ok && i.wf then .ok i else .error .reserved

/-- Space A, major 0x00 (R44). -/
def decInt (d a b : RegF) (fn : BitVec 9) : Except Reject Instr :=
  if fn.extractLsb' 3 6 = (0x08#6) then accept true (.sel d (fn.extractLsb' 0 3) a b) else
  match fn with
  | 0x001#9 => accept true (.add d a b)
  | 0x002#9 => accept true (.sub d a b)
  | 0x003#9 => accept true (.mul d a b)
  | 0x004#9 => accept true (.mulh d a b)
  | 0x005#9 => accept true (.mulhu d a b)
  | 0x006#9 => accept true (.div d a b)
  | 0x007#9 => accept true (.divu d a b)
  | 0x008#9 => accept true (.rem d a b)
  | 0x009#9 => accept true (.remu d a b)
  | 0x010#9 => accept true (.and d a b)
  | 0x011#9 => accept true (.or d a b)
  | 0x012#9 => accept true (.xor d a b)
  | 0x013#9 => accept true (.andn d a b)
  | 0x018#9 => accept true (.shl d a b)
  | 0x019#9 => accept true (.shr d a b)
  | 0x01a#9 => accept true (.sar d a b)
  | 0x01b#9 => accept true (.rot d a b)
  | 0x020#9 => accept true (.min d a b)
  | 0x021#9 => accept true (.max d a b)
  | 0x022#9 => accept true (.minu d a b)
  | 0x023#9 => accept true (.maxu d a b)
  | 0x028#9 => accept (b = 0) (.clz d a)
  | 0x029#9 => accept (b = 0) (.ctz d a)
  | 0x02a#9 => accept (b = 0) (.popc d a)
  | 0x030#9 => accept (b = 0) (.sextB d a)
  | 0x031#9 => accept (b = 0) (.sextH d a)
  | 0x032#9 => accept (b = 0) (.sextW d a)
  | 0x034#9 => accept (b = 0) (.zextB d a)
  | 0x035#9 => accept (b = 0) (.zextH d a)
  | 0x036#9 => accept (b = 0) (.zextW d a)
  | 0x050#9 => accept (hi2 d = 0) (.cmpEq (lo3 d) a b)
  | 0x051#9 => accept (hi2 d = 0) (.cmpNe (lo3 d) a b)
  | 0x052#9 => accept (hi2 d = 0) (.cmpLt (lo3 d) a b)
  | 0x053#9 => accept (hi2 d = 0) (.cmpGe (lo3 d) a b)
  | 0x054#9 => accept (hi2 d = 0) (.cmpLtu (lo3 d) a b)
  | 0x055#9 => accept (hi2 d = 0) (.cmpGeu (lo3 d) a b)
  | 0x058#9 => accept (hi2 d = 0 && hi2 a = 0 && hi2 b = 0) (.pand (lo3 d) (lo3 a) (lo3 b))
  | 0x059#9 => accept (hi2 d = 0 && hi2 a = 0 && hi2 b = 0) (.por (lo3 d) (lo3 a) (lo3 b))
  | 0x05a#9 => accept (hi2 d = 0 && hi2 a = 0 && b = 0) (.pnot (lo3 d) (lo3 a))
  | _ => .error .unassigned

/-- Space A, majors 0x28 to 0x2B (R45): op is fn[8:3], rm is fn[2:0]. -/
def decFloat (f : BitVec 2) (d a b : RegF) (op : BitVec 6) (rm : BitVec 3) : Except Reject Instr :=
  match op with
  | 0#6 => accept true (.fadd f d a b rm)
  | 1#6 => accept true (.fsub f d a b rm)
  | 2#6 => accept true (.fmul f d a b rm)
  | 3#6 => accept true (.ffma f d a b rm)
  | 4#6 => accept true (.fdiv f d a b rm)
  | 15#6 => accept true (.fscale f d a b rm)
  | 5#6 => accept (b = 0) (.fsqrt f d a rm)
  | 6#6 => accept (b = 0) (.frsqrt f d a rm)
  | 7#6 => accept (b = 0) (.fexp2 f d a rm)
  | 8#6 => accept (b = 0) (.flog2 f d a rm)
  | 14#6 => accept (b = 0) (.fround f d a rm)
  | 39#6 => accept (b = 0) (.fcvtFromI64 f d a rm)
  | 40#6 => accept (b = 0) (.fcvtFromU64 f d a rm)
  | 41#6 => accept (b = 0) (.fcvtFromI32 f d a rm)
  | 42#6 => accept (b = 0) (.fcvtFromU32 f d a rm)
  | 9#6 => accept (rm = 0) (.fmin f d a b)
  | 10#6 => accept (rm = 0) (.fmax f d a b)
  | 11#6 => accept (b = 0 && rm = 0) (.fabs f d a)
  | 12#6 => accept (b = 0 && rm = 0) (.fneg f d a)
  | 13#6 => accept (b = 0 && rm = 0) (.fclass f d a)
  | 16#6 => accept (hi2 d = 0 && rm = 0) (.fcmpEq f (lo3 d) a b)
  | 17#6 => accept (hi2 d = 0 && rm = 0) (.fcmpNe f (lo3 d) a b)
  | 18#6 => accept (hi2 d = 0 && rm = 0) (.fcmpLt f (lo3 d) a b)
  | 19#6 => accept (hi2 d = 0 && rm = 0) (.fcmpLe f (lo3 d) a b)
  | 20#6 => accept (hi2 d = 0 && rm = 0) (.fcmpUn f (lo3 d) a b)
  | 32#6 => accept (b = 0) (.fcvtFromIeee f d a 0 rm)
  | 33#6 => accept (b = 0) (.fcvtFromIeee f d a 1 rm)
  | 34#6 => accept (b = 0) (.fcvtFromIeee f d a 2 rm)
  | 35#6 => accept (b = 0) (.fcvtFromIeee f d a 3 rm)
  | 36#6 => accept (b = 0) (.fcvtFromNarrow f d a 0 rm)
  | 37#6 => accept (b = 0) (.fcvtFromNarrow f d a 1 rm)
  | 38#6 => accept (b = 0) (.fcvtFromNarrow f d a 2 rm)
  | 48#6 => accept (b = 0) (.fcvtToInt f d a 0 rm)
  | 49#6 => accept (b = 0) (.fcvtToInt f d a 1 rm)
  | 50#6 => accept (b = 0) (.fcvtToInt f d a 2 rm)
  | 51#6 => accept (b = 0) (.fcvtToInt f d a 3 rm)
  | 52#6 => accept (b = 0) (.fcvtToInt f d a 4 rm)
  | 53#6 => accept (b = 0) (.fcvtToInt f d a 5 rm)
  | 54#6 => accept (b = 0) (.fcvtToInt f d a 6 rm)
  | 55#6 => accept (b = 0) (.fcvtToInt f d a 7 rm)
  | 56#6 => accept (b = 0) (.fcvtToNarrow f d a 0 rm)
  | 57#6 => accept (b = 0) (.fcvtToNarrow f d a 1 rm)
  | 58#6 => accept (b = 0) (.fcvtToNarrow f d a 2 rm)
  | _ => .error .unassigned

/-- The short instructions of space A (R43, R44). -/
def decA (w : W32) : Except Reject Instr :=
  match fMaj w with
  | 0x00#6 => decInt (fD w) (fA w) (fB w) (fFn w)
  | 0x01#6 => accept true (.addi (fD w) (fA w) (fI14 w))
  | 0x02#6 => accept true (.andi (fD w) (fA w) (fI14 w))
  | 0x03#6 => accept true (.ori (fD w) (fA w) (fI14 w))
  | 0x04#6 => accept true (.xori (fD w) (fA w) (fI14 w))
  | 0x05#6 => accept ((fI14 w).extractLsb' 6 8 = 0) (.shli (fD w) (fA w) ((fI14 w).extractLsb' 0 6))
  | 0x06#6 => accept ((fI14 w).extractLsb' 6 8 = 0) (.shri (fD w) (fA w) ((fI14 w).extractLsb' 0 6))
  | 0x07#6 => accept ((fI14 w).extractLsb' 6 8 = 0) (.sari (fD w) (fA w) ((fI14 w).extractLsb' 0 6))
  | 0x08#6 => accept true (.movi (fD w) (fI19 w))
  | 0x09#6 => accept (fA w = 0) (.loop (fD w) (fI14 w))
  | 0x10#6 => accept true (.ldB (fD w) (hi1 (fA w)) (lo4 (fA w)) (fI14 w))
  | 0x11#6 => accept true (.ldBu (fD w) (hi1 (fA w)) (lo4 (fA w)) (fI14 w))
  | 0x12#6 => accept true (.ldH (fD w) (hi1 (fA w)) (lo4 (fA w)) (fI14 w))
  | 0x13#6 => accept true (.ldHu (fD w) (hi1 (fA w)) (lo4 (fA w)) (fI14 w))
  | 0x14#6 => accept true (.ldW (fD w) (hi1 (fA w)) (lo4 (fA w)) (fI14 w))
  | 0x15#6 => accept true (.ldWu (fD w) (hi1 (fA w)) (lo4 (fA w)) (fI14 w))
  | 0x16#6 => accept true (.ldD (fD w) (hi1 (fA w)) (lo4 (fA w)) (fI14 w))
  | 0x18#6 => accept true (.stB (fD w) (hi1 (fA w)) (lo4 (fA w)) (fI14 w))
  | 0x19#6 => accept true (.stH (fD w) (hi1 (fA w)) (lo4 (fA w)) (fI14 w))
  | 0x1a#6 => accept true (.stW (fD w) (hi1 (fA w)) (lo4 (fA w)) (fI14 w))
  | 0x1b#6 => accept true (.stD (fD w) (hi1 (fA w)) (lo4 (fA w)) (fI14 w))
  | 0x20#6 => accept true (.bp (fP w) (fN w) (fOff w))
  | 0x21#6 => accept (fP w = 0 && fN w = 0) (.call (fOff w))
  | 0x22#6 =>
    match cFn w with
    | 0x001#11 => accept (cD w = 0) (.jr (cA w) (cB w))
    | 0x002#11 => accept (cD w = 0) (.callr (cA w) (cB w))
    | 0x003#11 => accept (cD w = 0 && cB w = 0) (.ret (cA w))
    | _ => .error .unassigned
  | 0x28#6 => decFloat 0 (fD w) (fA w) (fB w) ((fFn w).extractLsb' 3 6) ((fFn w).extractLsb' 0 3)
  | 0x29#6 => decFloat 1 (fD w) (fA w) (fB w) ((fFn w).extractLsb' 3 6) ((fFn w).extractLsb' 0 3)
  | 0x2a#6 => decFloat 2 (fD w) (fA w) (fB w) ((fFn w).extractLsb' 3 6) ((fFn w).extractLsb' 0 3)
  | 0x2b#6 => decFloat 3 (fD w) (fA w) (fB w) ((fFn w).extractLsb' 3 6) ((fFn w).extractLsb' 0 3)
  | 0x30#6 =>
    if fA w ≠ 0 then .error .reserved else
    match (fI14 w).extractLsb' 12 2 with
    | 0#2 => accept true (.sysr (fD w) ((fI14 w).extractLsb' 0 12))
    | 1#2 => accept (hi1 (fD w) = 0) (.sysrC (lo4 (fD w)) ((fI14 w).extractLsb' 0 12))
    | _ => .error .reserved
  | 0x31#6 =>
    if fD w ≠ 0 then .error .reserved else
    match (fI14 w).extractLsb' 12 2 with
    | 0#2 => accept true (.sysw (fA w) ((fI14 w).extractLsb' 0 12))
    | 1#2 => accept (hi1 (fA w) = 0) (.syswC (lo4 (fA w)) ((fI14 w).extractLsb' 0 12))
    | _ => .error .reserved
  | 0x32#6 =>
    if fA w ≠ 0 || fB w ≠ 0 then .error .reserved else
    match fFn w with
    | 0x001#9 => accept (fD w = 0) .nop
    | 0x002#9 => accept (fD w = 0) .halt
    | 0x003#9 => accept (fD w = 0) .trap
    | 0x004#9 => accept (fD w = 0) .brk
    | 0x005#9 => accept (fD w = 0) .eret
    | 0x006#9 => accept true (.ident (fD w))
    | _ => .error .unassigned
  | _ => .error .unassigned

/-- Space B, major 0x00 (R46). -/
def decCap (d c : CapF) (b : RegF) (fn : BitVec 11) : Except Reject Instr :=
  match fn with
  | 0x001#11 => accept (d = 0) (.cgetObj b c)
  | 0x002#11 => accept (d = 0) (.cgetCur b c)
  | 0x003#11 => accept (d = 0) (.cgetBase b c)
  | 0x004#11 => accept (d = 0) (.cgetTop b c)
  | 0x005#11 => accept (d = 0) (.cgetPerm b c)
  | 0x006#11 => accept (d = 0) (.cgetTag b c)
  | 0x007#11 => accept (d = 0) (.cgetG b c)
  | 0x010#11 => accept true (.csetc d c b)
  | 0x011#11 => accept true (.cadd d c b)
  | 0x012#11 => accept true (.cbound d c b)
  | 0x013#11 => accept true (.cperm d c b)
  | 0x014#11 => accept (c = 0 && b = 0) (.cnull d)
  | 0x015#11 => accept (b = 0) (.cmov d c)
  | 0x016#11 => accept true (.csub b c d)
  | 0x017#11 => accept (d = 0 && hi2 b = 0) (.ctest (lo3 b) c)
  | 0x018#11 => accept true (.cld d c b)
  | 0x019#11 => accept true (.cst d c b)
  | 0x01a#11 => accept (c = 0) (.cmake d b)
  | _ => .error .unassigned

/-- Space B, major 0x01 (R46, R198). -/
def decFab (d a b : RegF) (fn : BitVec 9) : Except Reject Instr :=
  if b ≠ 0 then .error .reserved else
  match fn with
  | 0x001#9 => accept (d = 0) (.cfgsw a)
  | 0x002#9 => accept (d = 0) (.cfgdrop a)
  | 0x003#9 => accept (d = 0) (.rgrun a)
  | 0x004#9 => accept (d = 0) (.rgstop a)
  | 0x00a#9 => accept (d = 0) (.enter a)
  | 0x00b#9 => accept (d = 0) (.await a)
  | 0x00c#9 => accept (d = 0) (.mark a)
  | 0x00d#9 => accept (d = 0) (.rwait a)
  | 0x010#9 => accept (d = 0) (.stswap a)
  | 0x005#9 => accept true (.rgstat d a)
  | 0x006#9 => accept (hi2 d = 3) (.qbindIn (lo3 d) a)
  | 0x007#9 => accept (hi2 d = 3) (.qbindOut (lo3 d) a)
  | 0x008#9 => accept (hi2 d = 3 && a = 0) (.qunbind (lo3 d))
  | 0x009#9 => accept (hi2 a = 3) (.qpeek d (lo3 a))
  | 0x00e#9 => accept (d = 0 && a = 0) .tdone
  | 0x00f#9 => accept (d = 0 && a = 0) .yield
  | _ => .error .unassigned

/-- The short instructions of space B (R46). The word of `spawn` decodes to its first row, as does that of `resume`:
the register operand selects the row when the instruction performs (R212, R408). -/
def decB (w : W32) : Except Reject Instr :=
  match fMaj w with
  | 0x00#6 => decCap (cD w) (cA w) (cB w) (cFn w)
  | 0x01#6 => decFab (fD w) (fA w) (fB w) (fFn w)
  | 0x02#6 =>
    match cFn w with
    | 0x001#11 => accept (cD w = 0) (.cfgld (cA w) (cB w))
    | 0x002#11 => accept (cD w = 0) (.cfgpart (cA w) (cB w))
    | 0x003#11 => accept (cD w = 0) (.spawnStrand (cA w) (cB w))
    | 0x004#11 => accept (cD w = 0) (.finder (cA w) (cB w))
    | 0x005#11 => accept (cD w = 0) (.stld (cA w) (cB w))
    | _ => .error .unassigned
  | 0x03#6 => accept true (.wait (w.extractLsb' 18 6) (w.extractLsb' 12 6) (w.extractLsb' 6 6) (w.extractLsb' 0 6))
  | 0x04#6 =>
    match cFn w with
    | 0x001#11 => accept (cD w = 0) (.wpset (cA w) (cB w))
    | 0x002#11 => accept (cD w = 0 && cA w = 0) (.wpclr (cB w))
    | 0x003#11 => accept (cD w = 0) (.ctxsave (cA w) (cB w))
    | 0x004#11 => accept (cD w = 0) (.ctxload (cA w) (cB w))
    | 0x005#11 => accept (cD w = 0 && cA w = 0) (.resumeSite (cB w))
    | 0x006#11 => accept (cD w = 0 && cA w = 0) (.fltq (cB w))
    | _ => .error .unassigned
  | _ => .error .unassigned

/-- The long instructions of space L (R47), from their head and tail fields. -/
def decL (m : BitVec 6) (w : LF) : Except Reject Instr :=
  match m with
  | 0x00#6 => accept (w.a = 0 && w.b.extractLsb' 1 4 = 0 && w.x = 0) (.moviL w.d (w.b.extractLsb' 0 1 ++ w.fn ++ w.imm) w.g)
  | 0x01#6 => accept (w.b.extractLsb' 1 4 = 0 && w.x = 0) (.movhi w.d w.a (w.b.extractLsb' 0 1 ++ w.fn ++ w.imm) w.g)
  | 0x02#6 => accept true (.ldx w)
  | 0x03#6 => accept true (.stx w)
  | 0x04#6 =>
    match w.fn.extractLsb' 5 4 with
    | 0#4 => accept true (.atomAdd w)
    | 1#4 => accept true (.atomMin w)
    | 2#4 => accept true (.atomMax w)
    | 3#4 => accept true (.atomMinu w)
    | 4#4 => accept true (.atomMaxu w)
    | 5#4 => accept true (.atomAnd w)
    | 6#4 => accept true (.atomOr w)
    | 7#4 => accept true (.atomXor w)
    | 8#4 => accept true (.atomSwp w)
    | 9#4 => accept true (.atomFadd w)
    | 10#4 => accept true (.atomInc w)
    | _ => .error .unassigned
  | 0x05#6 => accept true (.atomcas w)
  | 0x06#6 => accept true (.vatom w)
  | 0x07#6 => accept true (.vatomcas w)
  | 0x08#6 => if w.fn.extractLsb' 5 1 = 1 then accept true (.fenceSt w) else accept true (.fence w)
  | 0x09#6 =>
    match w.fn with
    | 0x001#9 => accept true (.scset w)
    | 0x002#9 => accept true (.scget w)
    | 0x003#9 => accept true (.scinv w)
    | _ => .error .unassigned
  | 0x0b#6 =>
    match w.fn with
    | 0x001#9 => accept true (.barinit w)
    | 0x002#9 => accept true (.bararr w)
    | 0x003#9 => accept true (.barwait w)
    | _ => .error .unassigned
  | 0x0c#6 =>
    match w.fn with
    | 0x001#9 => accept true (.monarm w)
    | 0x002#9 => accept true (.monwait w)
    | 0x003#9 => accept true (.monsig w)
    | _ => .error .unassigned
  | 0x0d#6 =>
    match w.fn with
    | 0x001#9 => accept true (.tcfg w)
    | 0x002#9 => accept true (.trel w)
    | 0x003#9 => accept true (.tstate w)
    | 0x004#9 => accept true (.twait w)
    | _ => .error .unassigned
  | 0x0e#6 =>
    match w.fn with
    | 0x001#9 => accept true (.cwb w)
    | 0x002#9 => accept true (.cinv w)
    | 0x003#9 => accept true (.cpf w)
    | _ => .error .unassigned
  | 0x0f#6 =>
    match w.fn with
    | 0x001#9 => accept true (.objq w)
    | 0x002#9 => accept true (.carve w)
    | _ => .error .unassigned
  | 0x0a#6 => accept true (.cbsync w)
  | 0x20#6 => accept true (.xcopy w)
  | 0x21#6 => accept true (.xcopy2 w)
  | 0x22#6 => accept true (.xgather w)
  | 0x23#6 => accept true (.xscatter w)
  | 0x24#6 => accept true (.mma w)
  | 0x25#6 => accept true (.mmx w)
  | 0x26#6 => accept true (.accrd w)
  | 0x27#6 => accept true (.accwr w)
  | 0x28#6 => accept true (.attn w)
  | 0x29#6 => accept true (.xcodec w)
  | 0x2a#6 => accept true (.xcksum w)
  | 0x2b#6 => accept true (.coll w)
  | 0x2c#6 => accept true (.nvsub w)
  | 0x2d#6 => accept true (.nvcmp w)
  | 0x2e#6 => accept true (.kvlook w)
  | 0x2f#6 => accept true (.kvapp w)
  | 0x30#6 => accept true (.kvfork w)
  | 0x31#6 => accept true (.kvfree w)
  | 0x32#6 => accept true (.kvpol w)
  | 0x33#6 => accept true (.xtest w)
  | 0x34#6 => accept true (.bfenq w)
  | 0x35#6 => accept true (.bfsync w)
  | 0x36#6 => accept true (.evscore w)
  | 0x37#6 => accept true (.sqevict w)
  | 0x38#6 => accept true (.eresp w)
  | _ => .error .unassigned

/-- The fields of a long instruction's two words (R34). -/
def lfOf (w0 w1 : W32) : LF := { d := fD w0, a := fA w0, b := fB w0, fn := fFn w0, x := tX w1, g := tG w1, imm := tImm w1 }

/-- The instruction that starts with word w0 and goes on, if it is long, with w1 (R32, R37, R38). -/
def decodeWords (w0 w1 : W32) : Except Reject Instr :=
  match fCls w0 with
  | 0b00#2 => decA w0
  | 0b01#2 => decB w0
  | 0b10#2 => if fCls w1 = 3 then decL (fMaj w0) (lfOf w0 w1) else .error .noTail
  | _ => .error .tailFirst

/-- The word starts a long instruction (R32). -/
def isHead (w : W32) : Bool := fCls w = 2

/-- Four bytes as a word, byte 0 the least significant (R8). -/
def wordLE (b0 b1 b2 b3 : Byte) : W32 := b3 ++ b2 ++ b1 ++ b0

/-- Decoding from bytes: the instruction and the bytes after it. Fewer bytes than the instruction has reject. -/
def decodeBytes : List Byte → Except Reject (Instr × List Byte)
  | b0 :: b1 :: b2 :: b3 :: rest =>
    if isHead (wordLE b0 b1 b2 b3) then
      match rest with
      | b4 :: b5 :: b6 :: b7 :: rest' => (decodeWords (wordLE b0 b1 b2 b3) (wordLE b4 b5 b6 b7)).map (·, rest')
      | _ => .error .noTail
    else (decodeWords (wordLE b0 b1 b2 b3) 0).map (·, rest)
  | _ => .error .unassigned

/-- The instruction that the decoder reads from bits numbered as the opcode table numbers them. -/
def decodeTableWord (_nbits w : Nat) : Option Instr :=
  match decodeWords (BitVec.ofNat 32 w) (BitVec.ofNat 32 (w / 2 ^ 32)) with
  | .ok i => some i
  | .error _ => none

/-- The two words of a long instruction. -/
def encL (m : BitVec 6) (w : LF) : List W32 := [mkRR 2 m w.d w.a w.b w.fn, mkTail w.x w.g w.imm]

/-- The constant k of `movi.l` and `movhi` in its fields (R35). -/
def encK (m : BitVec 6) (d a : RegF) (k : W32) (g : PredF) : List W32 :=
  [mkRR 2 m d a ((0#4) ++ k.extractLsb' 31 1) (k.extractLsb' 22 9), mkTail 0 g (k.extractLsb' 0 22)]

/-- The words of an instruction (R33 to R47, R198, R406); none for the steps of other units. -/
def encode : Instr → List W32
  | .add d a b => [mkRR 0 0 d a b 0x001]
  | .sub d a b => [mkRR 0 0 d a b 0x002]
  | .mul d a b => [mkRR 0 0 d a b 0x003]
  | .mulh d a b => [mkRR 0 0 d a b 0x004]
  | .mulhu d a b => [mkRR 0 0 d a b 0x005]
  | .div d a b => [mkRR 0 0 d a b 0x006]
  | .divu d a b => [mkRR 0 0 d a b 0x007]
  | .rem d a b => [mkRR 0 0 d a b 0x008]
  | .remu d a b => [mkRR 0 0 d a b 0x009]
  | .and d a b => [mkRR 0 0 d a b 0x010]
  | .or d a b => [mkRR 0 0 d a b 0x011]
  | .xor d a b => [mkRR 0 0 d a b 0x012]
  | .andn d a b => [mkRR 0 0 d a b 0x013]
  | .shl d a b => [mkRR 0 0 d a b 0x018]
  | .shr d a b => [mkRR 0 0 d a b 0x019]
  | .sar d a b => [mkRR 0 0 d a b 0x01a]
  | .rot d a b => [mkRR 0 0 d a b 0x01b]
  | .min d a b => [mkRR 0 0 d a b 0x020]
  | .max d a b => [mkRR 0 0 d a b 0x021]
  | .minu d a b => [mkRR 0 0 d a b 0x022]
  | .maxu d a b => [mkRR 0 0 d a b 0x023]
  | .clz d a => [mkRR 0 0 d a 0 0x028]
  | .ctz d a => [mkRR 0 0 d a 0 0x029]
  | .popc d a => [mkRR 0 0 d a 0 0x02a]
  | .sextB d a => [mkRR 0 0 d a 0 0x030]
  | .sextH d a => [mkRR 0 0 d a 0 0x031]
  | .sextW d a => [mkRR 0 0 d a 0 0x032]
  | .zextB d a => [mkRR 0 0 d a 0 0x034]
  | .zextH d a => [mkRR 0 0 d a 0 0x035]
  | .zextW d a => [mkRR 0 0 d a 0 0x036]
  | .sel d p a b => [mkRR 0 0 d a b ((0x08#6) ++ p)]
  | .cmpEq p a b => [mkRR 0 0 (p5 p) a b 0x050]
  | .cmpNe p a b => [mkRR 0 0 (p5 p) a b 0x051]
  | .cmpLt p a b => [mkRR 0 0 (p5 p) a b 0x052]
  | .cmpGe p a b => [mkRR 0 0 (p5 p) a b 0x053]
  | .cmpLtu p a b => [mkRR 0 0 (p5 p) a b 0x054]
  | .cmpGeu p a b => [mkRR 0 0 (p5 p) a b 0x055]
  | .pand d a b => [mkRR 0 0 (p5 d) (p5 a) (p5 b) 0x058]
  | .por d a b => [mkRR 0 0 (p5 d) (p5 a) (p5 b) 0x059]
  | .pnot d a => [mkRR 0 0 (p5 d) (p5 a) 0 0x05a]
  | .addi d a i => [mkRI 0 0x01 d a i]
  | .andi d a i => [mkRI 0 0x02 d a i]
  | .ori d a i => [mkRI 0 0x03 d a i]
  | .xori d a i => [mkRI 0 0x04 d a i]
  | .shli d a s => [mkRI 0 0x05 d a ((0#8) ++ s)]
  | .shri d a s => [mkRI 0 0x06 d a ((0#8) ++ s)]
  | .sari d a s => [mkRI 0 0x07 d a ((0#8) ++ s)]
  | .movi d i => [mkMovi d i]
  | .loop d i => [mkRI 0 0x09 d 0 i]
  | .ldB d h c i => [mkRI 0 0x10 d (h ++ c) i]
  | .ldBu d h c i => [mkRI 0 0x11 d (h ++ c) i]
  | .ldH d h c i => [mkRI 0 0x12 d (h ++ c) i]
  | .ldHu d h c i => [mkRI 0 0x13 d (h ++ c) i]
  | .ldW d h c i => [mkRI 0 0x14 d (h ++ c) i]
  | .ldWu d h c i => [mkRI 0 0x15 d (h ++ c) i]
  | .ldD d h c i => [mkRI 0 0x16 d (h ++ c) i]
  | .stB d h c i => [mkRI 0 0x18 d (h ++ c) i]
  | .stH d h c i => [mkRI 0 0x19 d (h ++ c) i]
  | .stW d h c i => [mkRI 0 0x1a d (h ++ c) i]
  | .stD d h c i => [mkRI 0 0x1b d (h ++ c) i]
  | .bp p n off => [mkBR 0x20 p n off]
  | .call off => [mkBR 0x21 0 0 off]
  | .jr c b => [mkCP 0 0x22 0 c b 1]
  | .callr c b => [mkCP 0 0x22 0 c b 2]
  | .ret c => [mkCP 0 0x22 0 c 0 3]
  | .fadd f d a b rm => [mkRR 0 ((0x0a#4) ++ f) d a b ((0#6) ++ rm)]
  | .fsub f d a b rm => [mkRR 0 ((0x0a#4) ++ f) d a b ((1#6) ++ rm)]
  | .fmul f d a b rm => [mkRR 0 ((0x0a#4) ++ f) d a b ((2#6) ++ rm)]
  | .ffma f d a b rm => [mkRR 0 ((0x0a#4) ++ f) d a b ((3#6) ++ rm)]
  | .fdiv f d a b rm => [mkRR 0 ((0x0a#4) ++ f) d a b ((4#6) ++ rm)]
  | .fscale f d a b rm => [mkRR 0 ((0x0a#4) ++ f) d a b ((15#6) ++ rm)]
  | .fsqrt f d a rm => [mkRR 0 ((0x0a#4) ++ f) d a 0 ((5#6) ++ rm)]
  | .frsqrt f d a rm => [mkRR 0 ((0x0a#4) ++ f) d a 0 ((6#6) ++ rm)]
  | .fexp2 f d a rm => [mkRR 0 ((0x0a#4) ++ f) d a 0 ((7#6) ++ rm)]
  | .flog2 f d a rm => [mkRR 0 ((0x0a#4) ++ f) d a 0 ((8#6) ++ rm)]
  | .fround f d a rm => [mkRR 0 ((0x0a#4) ++ f) d a 0 ((14#6) ++ rm)]
  | .fcvtFromI64 f d a rm => [mkRR 0 ((0x0a#4) ++ f) d a 0 ((39#6) ++ rm)]
  | .fcvtFromU64 f d a rm => [mkRR 0 ((0x0a#4) ++ f) d a 0 ((40#6) ++ rm)]
  | .fcvtFromI32 f d a rm => [mkRR 0 ((0x0a#4) ++ f) d a 0 ((41#6) ++ rm)]
  | .fcvtFromU32 f d a rm => [mkRR 0 ((0x0a#4) ++ f) d a 0 ((42#6) ++ rm)]
  | .fmin f d a b => [mkRR 0 ((0x0a#4) ++ f) d a b ((9#6) ++ (0#3))]
  | .fmax f d a b => [mkRR 0 ((0x0a#4) ++ f) d a b ((10#6) ++ (0#3))]
  | .fabs f d a => [mkRR 0 ((0x0a#4) ++ f) d a 0 ((11#6) ++ (0#3))]
  | .fneg f d a => [mkRR 0 ((0x0a#4) ++ f) d a 0 ((12#6) ++ (0#3))]
  | .fclass f d a => [mkRR 0 ((0x0a#4) ++ f) d a 0 ((13#6) ++ (0#3))]
  | .fcmpEq f p a b => [mkRR 0 ((0x0a#4) ++ f) (p5 p) a b ((16#6) ++ (0#3))]
  | .fcmpNe f p a b => [mkRR 0 ((0x0a#4) ++ f) (p5 p) a b ((17#6) ++ (0#3))]
  | .fcmpLt f p a b => [mkRR 0 ((0x0a#4) ++ f) (p5 p) a b ((18#6) ++ (0#3))]
  | .fcmpLe f p a b => [mkRR 0 ((0x0a#4) ++ f) (p5 p) a b ((19#6) ++ (0#3))]
  | .fcmpUn f p a b => [mkRR 0 ((0x0a#4) ++ f) (p5 p) a b ((20#6) ++ (0#3))]
  | .fcvtFromIeee f d a k rm => [mkRR 0 ((0x0a#4) ++ f) d a 0 ((0b1000#4) ++ k ++ rm)]
  | .fcvtFromNarrow f d a k rm => [mkRR 0 ((0x0a#4) ++ f) d a 0 ((0b1001#4) ++ k ++ rm)]
  | .fcvtToInt f d a k rm => [mkRR 0 ((0x0a#4) ++ f) d a 0 ((0b110#3) ++ k ++ rm)]
  | .fcvtToNarrow f d a k rm => [mkRR 0 ((0x0a#4) ++ f) d a 0 ((0b1110#4) ++ k ++ rm)]
  | .sysr d n => [mkRI 0 0x30 d 0 ((0#2) ++ n)]
  | .sysrC c n => [mkRI 0 0x30 (c5 c) 0 ((1#2) ++ n)]
  | .sysw a n => [mkRI 0 0x31 0 a ((0#2) ++ n)]
  | .syswC c n => [mkRI 0 0x31 0 (c5 c) ((1#2) ++ n)]
  | .nop => [mkRR 0 0x32 0 0 0 1]
  | .halt => [mkRR 0 0x32 0 0 0 2]
  | .trap => [mkRR 0 0x32 0 0 0 3]
  | .brk => [mkRR 0 0x32 0 0 0 4]
  | .eret => [mkRR 0 0x32 0 0 0 5]
  | .ident d => [mkRR 0 0x32 d 0 0 6]
  | .cgetObj b c => [mkCP 1 0 0 c b 1]
  | .cgetCur b c => [mkCP 1 0 0 c b 2]
  | .cgetBase b c => [mkCP 1 0 0 c b 3]
  | .cgetTop b c => [mkCP 1 0 0 c b 4]
  | .cgetPerm b c => [mkCP 1 0 0 c b 5]
  | .cgetTag b c => [mkCP 1 0 0 c b 6]
  | .cgetG b c => [mkCP 1 0 0 c b 7]
  | .csetc d c b => [mkCP 1 0 d c b 0x010]
  | .cadd d c b => [mkCP 1 0 d c b 0x011]
  | .cbound d c b => [mkCP 1 0 d c b 0x012]
  | .cperm d c b => [mkCP 1 0 d c b 0x013]
  | .cnull d => [mkCP 1 0 d 0 0 0x014]
  | .cmov d c => [mkCP 1 0 d c 0 0x015]
  | .csub b c e => [mkCP 1 0 e c b 0x016]
  | .ctest p c => [mkCP 1 0 0 c (p5 p) 0x017]
  | .cld d c b => [mkCP 1 0 d c b 0x018]
  | .cst d c b => [mkCP 1 0 d c b 0x019]
  | .cmake d b => [mkCP 1 0 d 0 b 0x01a]
  | .cfgsw a => [mkRR 1 1 0 a 0 0x001]
  | .cfgdrop a => [mkRR 1 1 0 a 0 0x002]
  | .rgrun a => [mkRR 1 1 0 a 0 0x003]
  | .rgstop a => [mkRR 1 1 0 a 0 0x004]
  | .enter a => [mkRR 1 1 0 a 0 0x00a]
  | .await a => [mkRR 1 1 0 a 0 0x00b]
  | .mark a => [mkRR 1 1 0 a 0 0x00c]
  | .rwait a => [mkRR 1 1 0 a 0 0x00d]
  | .stswap a => [mkRR 1 1 0 a 0 0x010]
  | .rgstat d a => [mkRR 1 1 d a 0 5]
  | .qbindIn q a => [mkRR 1 1 (q5 q) a 0 6]
  | .qbindOut q a => [mkRR 1 1 (q5 q) a 0 7]
  | .qunbind q => [mkRR 1 1 (q5 q) 0 0 8]
  | .qpeek d q => [mkRR 1 1 d (q5 q) 0 9]
  | .tdone => [mkRR 1 1 0 0 0 0x00e]
  | .yield => [mkRR 1 1 0 0 0 0x00f]
  | .cfgld c b => [mkCP 1 2 0 c b 1]
  | .cfgpart c b => [mkCP 1 2 0 c b 2]
  | .spawnStrand c b => [mkCP 1 2 0 c b 3]
  | .spawnTask c b => [mkCP 1 2 0 c b 3]
  | .finder c b => [mkCP 1 2 0 c b 4]
  | .stld c b => [mkCP 1 2 0 c b 5]
  | .wait l s c t => [mkWait l s c t]
  | .wpset c b => [mkCP 1 4 0 c b 1]
  | .ctxsave c b => [mkCP 1 4 0 c b 3]
  | .ctxload c b => [mkCP 1 4 0 c b 4]
  | .wpclr b => [mkCP 1 4 0 0 b 2]
  | .resumeSite b => [mkCP 1 4 0 0 b 5]
  | .abandonRegion b => [mkCP 1 4 0 0 b 5]
  | .resumePort b => [mkCP 1 4 0 0 b 5]
  | .resumeArray b => [mkCP 1 4 0 0 b 5]
  | .abandonArray b => [mkCP 1 4 0 0 b 5]
  | .resumeStrand b => [mkCP 1 4 0 0 b 5]
  | .endStrand b => [mkCP 1 4 0 0 b 5]
  | .resumeEngine b => [mkCP 1 4 0 0 b 5]
  | .fltq b => [mkCP 1 4 0 0 b 6]
  | .moviL d k g => encK 0 d 0 k g
  | .movhi d a k g => encK 1 d a k g
  | .ldx w => encL 0x02 w
  | .stx w => encL 0x03 w
  | .atomcas w => encL 0x05 w
  | .vatom w => encL 0x06 w
  | .vatomcas w => encL 0x07 w
  | .fence w => encL 0x08 w
  | .fenceSt w => encL 0x08 w
  | .cbsync w => encL 0x0a w
  | .atomAdd w => encL 0x04 w
  | .atomMin w => encL 0x04 w
  | .atomMax w => encL 0x04 w
  | .atomMinu w => encL 0x04 w
  | .atomMaxu w => encL 0x04 w
  | .atomAnd w => encL 0x04 w
  | .atomOr w => encL 0x04 w
  | .atomXor w => encL 0x04 w
  | .atomSwp w => encL 0x04 w
  | .atomFadd w => encL 0x04 w
  | .atomInc w => encL 0x04 w
  | .scset w => encL 0x09 w
  | .scget w => encL 0x09 w
  | .scinv w => encL 0x09 w
  | .barinit w => encL 0x0b w
  | .bararr w => encL 0x0b w
  | .barwait w => encL 0x0b w
  | .monarm w => encL 0x0c w
  | .monwait w => encL 0x0c w
  | .monsig w => encL 0x0c w
  | .tcfg w => encL 0x0d w
  | .trel w => encL 0x0d w
  | .tstate w => encL 0x0d w
  | .twait w => encL 0x0d w
  | .cwb w => encL 0x0e w
  | .cinv w => encL 0x0e w
  | .cpf w => encL 0x0e w
  | .objq w => encL 0x0f w
  | .carve w => encL 0x0f w
  | .xcopy w => encL 0x20 w
  | .xcopy2 w => encL 0x21 w
  | .xgather w => encL 0x22 w
  | .xscatter w => encL 0x23 w
  | .mma w => encL 0x24 w
  | .mmx w => encL 0x25 w
  | .accrd w => encL 0x26 w
  | .accwr w => encL 0x27 w
  | .attn w => encL 0x28 w
  | .xcodec w => encL 0x29 w
  | .xcksum w => encL 0x2a w
  | .coll w => encL 0x2b w
  | .nvsub w => encL 0x2c w
  | .nvcmp w => encL 0x2d w
  | .kvlook w => encL 0x2e w
  | .kvapp w => encL 0x2f w
  | .kvfork w => encL 0x30 w
  | .kvfree w => encL 0x31 w
  | .kvpol w => encL 0x32 w
  | .xtest w => encL 0x33 w
  | .bfenq w => encL 0x34 w
  | .bfsync w => encL 0x35 w
  | .evscore w => encL 0x36 w
  | .sqevict w => encL 0x37 w
  | .eresp w => encL 0x38 w
  | .illegalOp _ _ | .loadComplete _ | .storeComplete _ | .trapEntry _ _ | .atomicPerform _ | .monwaitTimeout _ _
  | .responseDelivery _ | .requestComplete _ | .copyElementPerform _ | .gatherElementPerform _
  | .tileFillComplete _ _ | .tileDrainComplete _ _ | .followOnIssue _ | .mmaPerform _ | .mmxPerform _
  | .accrdPerform _ | .accwrPerform _ | .attnPerform _ | .xtestPerform _ | .collectivePerform _
  | .codecChunkPerform _ | .checksumPerform _ | .nvmeSubmitPerform _ | .nvmeCompletionPosted _ _ _ _ _
  | .controllerDma _ _ _ _ | .kvlookPerform _ | .kvappPerform _ | .kvforkPerform _ | .kvfreePerform _
  | .kvpolPerform _ | .evscorePerform _ | .sqevictPerform _ | .bfenqPerform _ | .backfillRecord _ | .cfgldInstall _ _
  | .installComplete _ _ | .cfgpartApply _ _ | .partialFrameTake _ _ _ | .partialDrainComplete _ _
  | .stopComplete _ _ | .switchComplete _ _ | .stldFillComplete _ _ | .recordAtExit _ _ | .rampRelease _ _
  | .oadd _ _ | .osub _ _ | .omul _ _ | .odiv _ _ | .osqrt _ _ | .oexp2 _ _ | .olog2 _ _ | .oneg _ _ | .oabs _ _
  | .oscl _ _ | .omax _ _ | .omin _ _ | .ocmp _ _ | .osgn _ _ | .osel _ _ | .oconst _ _ | .split _ _ | .settle _ _
  | .racc _ _ | .rsum _ _ | .rmax _ _ | .thresh _ _ | .conf _ _ | .ofan _ _ | .mld _ _ | .mst _ _ | .mlink _ _
  | .mring _ _ | .engp _ _ | .sqp _ _ | .mxp _ _ | .atp _ _ | .agaff _ _ | .agmod _ _ | .agidx _ _ | .steer _ _
  | .merge _ _ | .joinNode _ _ | .carry _ _ | .fwd _ _ | .vcfilt _ _ | .tileSwap _ _ | .kill _ _ | .timingReplay _
  | .persistentTimingError _ _ _ | .faultRecordPost _ | .deadlockWatchdog _ _ | .remoteTimeout _ _ _ | .roundComplete _
  | .homeAccess _ | .l1Probe _ _ _ _ | .evictionWriteBack _ _ _ _ | .portTranslate _ | .pagePin _
  | .hbmFrameFence _ _ _ | .migrationComplete _ _ | .elasticInterval _ | .boundaryMoveComplete _ | .meridianSelect _
  | .entryStrandStart _ | .queueAgeing _ _ | .reservationTake _ _ | .quantumExpiry _ | .preemptionSave _
  | .taskCompletion _ | .stallEscalation _ | .finderLimit _ | .flitReceive _ _ _ | .linkReplay _ _ | .laneFence _
  | .linkNarrowComplete _ | .mqsubWrite _ _ _ | .mqcfgWrite _ _ _ | .captgtWrite _ | .nvqbWrite _ _ | .rrsvWrite _ _
  | .hostRegisterWrite _ _ | .hostApertureAccess _ _ _ _ | .identityRequest | .statusRequest | .getVersion
  | .getCapabilities | .negotiateAlgorithms | .getDigests | .getCertificate | .challenge | .getMeasurements
  | .deviceReset | .firmwareVerify | .hbmTraining _ | .dieLinkTraining _ | .packagePortTraining _ _
  | .thermalThrottle _ | .thermalShutdown _ | .ctxsaveComplete _ => []

/-- The instruction that a row's words decode to: the rows that share one word stand for its first row. -/
def Instr.core : Instr → Instr
  | .spawnTask c b => .spawnStrand c b
  | .abandonRegion b | .resumePort b | .resumeArray b | .abandonArray b | .resumeStrand b | .endStrand b
  | .resumeEngine b => .resumeSite b
  | i => i

/-- The length of an instruction in bytes (R32): 8 for the long ones, 0 for the steps of other units. -/
def Instr.bytes (i : Instr) : Nat := 4 * (encode i).length

end Sys2Proof
end

