-- ==== Sys2Proof/Config.lean ====
section
/-!
DEFINITION. What one implementation fixes, and the values the spec leaves open.
The constants are those the spec states for the machine as supplied. The opaque constants are FREE: nothing in Lean can
evaluate them, so a statement about them holds for every value they could have (notes/assumptions names each).
-/
namespace Sys2Proof.Config

/-- IDENT.variant (R20): 0 is BV7-P384. Which form is modelled is a DESIGN CHOICE (log 1, unsafe). -/
def variant : Nat := 0

/-- The 64 KiB frames of one mount (R243). -/
def frames : Nat := if variant = 1 then 393216 else 786432

/-- IDENT.step (R20): the silicon stepping, which the spec leaves to the silicon (log 2). -/
opaque step : BitVec 8

/-- Free choice number n: which of several moves that the spec orders in no way comes next (log 3). -/
opaque pick : Nat → Nat

/-- Whether access number n, if no rule holds it to its place, performs only some time after it has left (R261 to R263, log 26). -/
opaque late : Nat → Bool

/-- Free value number n, for a value that the spec calls unspecified (R13, R233, R382) or does not state (log 4). -/
opaque freeValue : Nat → BitVec 64

/-- The set of L1 that a line of a context, an object and a line number lies in, of 2,048 (R231, log 98). -/
opaque l1Set : Nat → Nat → Nat → Nat

/-- The outcome of verifying firmware image n against the fused root key (R463, log 5). -/
opaque firmwareGood : Nat → Bool

/-- The answer to an attestation request of code n to the management port (R464, log 6). -/
opaque attestation : Nat → BitVec 256

/-- The device's serial number, reported by the identity request (R465, log 6). -/
opaque serial : BitVec 64

/-- The check word of a context frame over the bytes that the device lays out privately (R410, log 7). -/
opaque frameCheck : Nat → BitVec 32

/-- The LBA size in bytes of namespace n, which its controller reports (R376, log 8). -/
opaque lbaSize : Nat → Nat

/-- The submission and completion queues of program queue pair n, as the operating system created them on its controller
(R332, R462, log 97): addresses in HBM with the mount above bit 48, and numbers of entries. -/
opaque sqAddr : Nat → Nat
opaque sqSize : Nat → Nat
opaque cqAddr : Nat → Nat
opaque cqSize : Nat → Nat

/-- Where the engine keeps the PRP list of a submission entry (pair × 4,096 + place), where the two data pointers of the entry
do not hold it (R332, log 97). -/
opaque prpAddr : Nat → Nat

/-- Whether the controller of namespace n reports a volatile write cache (R294, log 8). -/
opaque volatileCache : Nat → Bool

/-- The protection information of namespace n, as its controller reports it: bit 0 set for 64b Guard, bits 2:1 the
protection type (R331, R354, log 8). -/
opaque protection : Nat → Nat

/-- The coded form that a codec engine tries for a chunk of a kind: lines and bytes (R330, log 20). -/
opaque codeChunk : Nat → List Byte → Nat × List Byte

/-- Bits kept below the leading bit when exp2 or log2 is approximated before its single rounding (R91, log 9). -/
def work : Nat := 400

end Sys2Proof.Config
end

