-- ==== Sys2Proof/Machine/State.lean ====
section
/-!
DEFINITION. The state of one package as plain data, the reasons a step stops, and the state after reset.
Every piece of state the spec names is here; INVENTORY.md lists them with their rules. Sparse collections are lists whose
absent entries read as the default named at the entry's accessor (Machine/Ops.lean).
-/
namespace Sys2Proof.Machine

/-- Why the machine stops. -/
inductive Fault where
  /-- A junction reached 110 °C and the device posted the cause and stopped (R467). Raised by step. Safe: nothing follows. -/
  | shutdown
  deriving DecidableEq, Repr

/-- Why an instruction has no meaning. -/
inductive Refusal where
  /-- The instruction has no meaning in this model. Raised by exec's refused arms only. Safe: the step answers nothing. -/
  | notModelled (mnemonic : String)
  deriving DecidableEq, Repr

/-- Where a strand is (R27, R140). -/
inductive StrandStat where
  | free | running | fabric | stopped
  deriving DecidableEq, Repr

/-- Where a load's data goes: a scalar register, a capability register, a bound push queue, or nowhere (R16, R103). -/
inductive Dst where
  | reg (r : RegF) | cap (c : CapF) | queue (q : Nat) | drop
  deriving DecidableEq, Repr

/-- A queue register's binding with its entries, oldest first (R17, R206). -/
structure Bind where
  q : Nat
  kind1 : Bool
  push : Bool
  row : Nat
  slot : Nat
  w64 : Bool
  ents : List W64
  removed : Bool
  /-- The entry that the last instruction to send out an access took here, back at the head if that access faults (R17). -/
  taken : List W64 := []
  deriving DecidableEq, Repr

/-- The last release, and the release sequence it heads, on some bytes of a sector (R262, R270). -/
structure Rel where
  ctx : Nat
  obj : Nat
  off : Nat
  n : Nat
  party : Nat
  /-- The member set of the release's scope (Machine/Home.lean numbers its bits). -/
  set : Nat
  /-- The releaser's table and start record. -/
  table : List Nat
  /-- The engine that released on its party's behalf, numbered from 1, and the field that its request came from (R266). -/
  unit : Nat := 0
  fld : Nat := 0
  deriving DecidableEq, Repr

/-- A task record as Meridian binds it (R190), with what goes with it while it waits. -/
structure TaskRec where
  entry : Cap
  args : Cap
  image : Cap
  nf : Nat
  prio : Nat
  quantum : Nat
  cmp : Nat
  start : List Nat
  saved : Option Nat
  deriving DecidableEq, Repr

/-- One strand: its registers (R14), its system registers (R18 to R20) and what the device keeps for it. -/
structure Strand where
  stat : StrandStat
  fld : Nat
  slot : Nat
  ctx : Nat
  task : Nat
  regs : Vector W64 32
  preds : Vector Bool 8
  caps : Vector Cap 16
  pcc : Cap
  ldc : Nat
  stc : Nat
  xpc : Nat
  tlc : Nat
  mode : Bool
  pmode : Bool
  dflt : Bool
  code : BitVec 8
  sub : BitVec 8
  faddr : W64
  fobj : W64
  epc : Cap
  ecap : Cap
  sdef : Cap
  frm : BitVec 3
  fflags : BitVec 6
  settleU : BitVec 16
  binds : List Bind
  /-- Loads in flight whose destination no instruction has written since (R16). -/
  dests : List (Nat × Dst)
  /-- A cause raised and not yet delivered: it waits until LDC is zero (R27). -/
  trap : Option TrapInfo
  /-- The acquired-release table and its round (R270). -/
  table : List Nat
  tabRound : W32
  /-- The start record (R469). -/
  start : List Nat
  /-- Scopes and generations at which the next store or atomic is a release, by an earlier fence (R261). -/
  relFence : List (Nat × Nat)
  /-- Queue pair and namespace of each storage write that the strand has submitted (R294). -/
  stWrites : List (Nat × Nat)
  /-- The last load or atomic, and the releases that it read from (R261). -/
  lastLd : Nat
  lastRels : List Rel
  /-- The object and the offset of that load or atomic (R285). -/
  lastAt : Nat × Nat := (0, 0)
  /-- A RACE found on an eviction, reported at the next release (R273). -/
  lateRace : Option TrapInfo
  /-- The record waiting at an exit port: its row and its data words (R209). -/
  exitRec : Option (Nat × List W32)
  /-- monwait has begun to count its limit (R300). -/
  waiting : Bool
  timedOut : Bool
  /-- The next instruction is not checked against any watchpoint (R425). -/
  unwatched : Bool
  /-- A Finder (R154), with the instructions it may still issue; 0 for no limit (R213). -/
  finder : Bool
  limit : Nat
  /-- A resume token has ended the strand: it goes once its counters are zero (R408). -/
  ending : Bool
  /-- A vector atomic that a port holds: the register of its masks and the masks of what has applied; and the releases that
  the elements of an unfinished one have read from (R290, R292). -/
  vmask : Option (RegF × Nat) := none
  vrels : List Rel := []
  /-- The task record that a waiting `spawn` has read: it is read once (R212). -/
  bound : Option TaskRec := none
  deriving DecidableEq, Repr

/-- What one homed or task-local access does; values are little-endian numbers (R95, R286, R288). -/
inductive AccOp where
  | read
  | write (v : Nat)
  | capRead
  | capWrite (c : Cap)
  | atomic (op : Nat) (v : Nat)
  | cas (expected new : Nat)
  deriving DecidableEq, Repr

/-- One access as it leaves its issuing unit (R24, R254, R268, R271). -/
structure Access where
  ctx : Nat
  obj : Nat
  off : Nat
  n : Nat
  op : AccOp
  party : Nat
  round : W32
  /-- A synchronising access (R258). -/
  sync : Bool
  /-- Member sets at which the access is a release, and at which it is an acquire (R261). -/
  rel : List Nat
  acq : List Nat
  scope : Nat
  gen : Nat
  fld : Nat
  /-- Takes no part in race detection, or has been checked already (R258, R275). -/
  exempt : Bool
  /-- It is an elastic step's access, forwarded to the backing (R233). -/
  elastic : Bool := false
  /-- A resume token performs it as though no conflict had been found (R274). -/
  force : Bool := false
  /-- The issuing element's site, numbered from 1, where an element issued it (R273). -/
  site : Nat := 0
  /-- The engine that issued it for its party, numbered from 1 (R266). -/
  unit : Nat := 0
  /-- It may perform after later accesses of its strand to other sectors (R261 to R263, log 26). -/
  late : Bool := false
  /-- The parties that its issuer's table and start record held when it left, where it performs later (R270). -/
  carry : Option (List Nat) := none
  deriving DecidableEq, Repr

/-- A pinned page: its object and page number, and the translation that its port pinned (R250). -/
structure Pin where
  obj : Nat
  page : Nat
  frame : Nat
  ro : Bool := false
  kind : Nat := 0
  side : Nat := 0
  deriving DecidableEq, Repr

/-- Who issued an access (R254, R310). -/
inductive Who where
  | strand (fld slot : Nat)
  | elem (fld cslot site : Nat)
  | engine (st : Nat)
  | host
  deriving DecidableEq, Repr

/-- Where an access in flight stands (R248, R249). -/
inductive Phase where
  | arriving
  | held (mount : Nat)
  | retry
  | done (v : Nat) (tag : Bool)
  deriving DecidableEq, Repr

/-- An access in flight, with the place its result goes to (R15, R16, R445). -/
structure Flight where
  id : Nat
  who : Who
  acc : Access
  dst : Dst
  sext : Bool
  phase : Phase
  /-- FFLAGS to be ORed in with the result (R286). -/
  num : Nat
  /-- The strand as it was when the access left, kept until the access has performed (R27, R275). -/
  snap : Option Strand := none
  /-- The cause that its port's record gives for it, and its place in the order of arrival there (R248, R249). -/
  cause : Nat := 0
  arrival : Nat := 0
  deriving DecidableEq, Repr

/-- One L1 sector (R238, R272, R273). -/
structure L1Sec where
  fld : Nat
  ctx : Nat
  obj : Nat
  sec : Nat
  data : W128
  tag : Bool
  dirty : BitVec 16
  valid : Bool
  /-- The home slice tracks the copy (R239). -/
  tracked : Bool
  /-- The scope and the generation under which the sector was last written or filled. -/
  scope : Nat
  gen : Nat
  /-- The party and the round of the fill, or of the probe that last renewed it. -/
  party : Nat
  round : W32
  /-- The party, the round and the element (numbered from 1) that wrote the dirty bytes. -/
  wparty : Nat := 0
  wround : W32 := 0
  wsite : Nat := 0
  /-- Every write of the dirty bytes was synchronising (R258). -/
  sync : Bool := false
  /-- The dirty bytes take no part in race detection: they back an elastic step (R233). -/
  exempt : Bool := false
  /-- The releases whose values the sector holds (R262). -/
  rels : List Rel := []
  deriving DecidableEq, Repr

/-- The race metadata of one homed sector (R269), found by context, object and sector number. -/
structure Race where
  ctx : Nat
  obj : Nat
  sec : Nat
  wp : BitVec 16
  wr : BitVec 16
  wv : Bool
  wa : Bool
  rd : List (BitVec 16)
  rr : BitVec 16
  ovf : Bool
  deriving DecidableEq, Repr

/-- A defined scope entry (R264, R265). -/
structure Scope where
  ix : Nat
  kind : Nat
  gen : Nat
  pkg : Nat
  smask : Nat
  fmask : Nat
  dmask : Nat
  deriving DecidableEq, Repr

/-- A Reticle watchpoint (R422). -/
structure Watch where
  k : Nat
  obj : Nat
  sec : Nat
  mask : BitVec 16
  deriving DecidableEq, Repr

/-- What the device holds for a context (R18, R141, R264, R421, R454). -/
structure Ctx where
  no : Nat
  wdg : Nat
  sth : Nat
  ecap : Cap
  sdef : Cap
  fq : Cap
  fpool : Cap
  nfr : Nat
  nfmax : Nat
  wpc : W64
  round : W32
  openRound : W32
  scopes : List Scope
  watches : List Watch
  deriving DecidableEq, Repr

/-- A barrier entry and the arrivals of its last completed phases (R299). -/
structure Bar where
  ctx : Nat
  obj : Nat
  sec : Nat
  n : Nat
  a : Nat
  p : W32
  arrivals : List (W32 × Rel)
  deriving DecidableEq, Repr

/-- A monitor arm: its sector, its strand and how it was woken (R300). -/
structure Arm where
  ctx : Nat
  obj : Nat
  sec : Nat
  fld : Nat
  slot : Nat
  woken : Nat
  rel : Option Rel
  deriving DecidableEq, Repr

/-- The state of a defined tile (R237). -/
inductive TileSt where
  | empty | filling | ready | draining
  deriving DecidableEq, Repr

/-- A defined entry of a tile table (R236). -/
structure Tile where
  ix : Nat
  base : Nat
  len : Nat
  st : TileSt
  deriving DecidableEq, Repr

/-- A shadow copy: the request whose operation it is for, array and tile, the tile's cells by their places in it, and its scale
(R324). -/
structure Shadow where
  req : Nat
  arr : Nat
  tile : Nat
  cells : List Host.Cell
  scale : W64
  deriving DecidableEq, Repr

/-- What waits at a field's tile table (R237): a strand at an instruction, by its slot and its cursor there; an element; a
request of an array. -/
inductive Waiter where
  | strand (slot cur : Nat)
  | elem (cslot site : Nat)
  | req (id : Nat)
  deriving DecidableEq, Repr

/-- One field (R6, R156, R204, R230 to R237). -/
structure Field where
  no : Nat
  n : Nat
  nmin : Nat
  nmax : Nat
  backing : Cap
  moving : Option Bool
  tiles : List Tile
  tsc : Vector W64 8
  /-- The shadow copy of each operation that has started and not completed (R324). -/
  shadow : List Shadow
  replays : W32
  /-- Replays in a row of a stage (site, stage) at one beat: the firings of the site's units then, and the replays (R157). -/
  runs : List ((Nat × Nat) × Nat × Nat) := []
  finIssued : W32
  finDropped : W32
  fenced : Bool
  cycle : W64
  lastSlot : Nat
  gl : Nat
  ll : Nat
  gs : Nat
  ls : Nat
  /-- Requests that have reached the tile table and wait there, the first first: the tile that each fills, and those that it
  reads (R237). -/
  waits : List (Waiter × Option Nat × List Nat) := []
  deriving DecidableEq, Repr

/-- A beat of the scalar or the vector network (R130). -/
structure Beat where
  kind : BitVec 2
  v : BitVec 48
  deriving DecidableEq, Repr

/-- An end of a channel: a port of a site's element or of its router's switch operation (R133, R164, R165). -/
structure Port where
  fld : Nat
  site : Nat
  sw : Bool
  ix : Nat
  deriving DecidableEq, Repr

/-- A channel: its ends, its capacity, the beats it holds, oldest first, and its kill state (R133, R134, R145, R146). -/
structure Chan where
  id : Nat
  slot : Nat
  vec : Bool
  src : Port
  dst : Port
  cap : Nat
  q : List Beat
  /-- A value is open at the producer. -/
  openv : Bool
  kill : Bool
  stopped : Bool
  /-- The first digit beat of the value open at the producer has been sent (R146). -/
  began : Bool := false
  /-- The consumer discards the killed value: 1 its first digit beat too, once checked; 2 the later beats; 0 nothing. -/
  discard : Nat
  deriving DecidableEq, Repr

/-- Why an element or a router is stalled (R155, R405). -/
structure Stall where
  cause : Nat
  why : Nat
  inp : Nat
  stage : Nat
  rcv : W32
  obj : Nat
  off : Nat
  deriving DecidableEq, Repr

/-- An element, or a router's switch operation, of an installed configuration (R165, R166, R169, R405). -/
structure Elem where
  site : Nat
  sw : Bool
  /-- The entry of a vcfilt; 0 for anything else. -/
  sub : Nat
  word : Frame
  status : W32
  rin : Vector W32 4
  /-- Beats received of the value open at each input, header first. -/
  got : Vector (List Beat) 4
  /-- Whether a value is open at each input. -/
  live : Vector Bool 4
  /-- Beats sent of the value on the outputs. -/
  sent : Nat
  /-- A value is open on the outputs. -/
  busy : Bool
  /-- The value was stopped by kills. -/
  stop : Bool
  /-- Formed beats still to be sent, each with its output. -/
  outq : List (Nat × Beat)
  /-- Complete values of the round, by input port (R144). -/
  vals : Vector (List (List Beat)) 4
  /-- Words taken and not yet used. -/
  words : List W32
  /-- Elements of a switch filter taken and not yet used (R187). -/
  buf : List W32
  /-- Stationary tile registers, their fill and the value count of the round (R149, R150, R170). -/
  tileA : List (Nat × W32)
  tileL : List (Nat × W32)
  filled : Nat
  lfull : Bool
  swapNext : Nat
  nval : Nat
  /-- Round sources: tokens sent in the round, tokens sent in all, rounds closed (R141, R176, R182). -/
  tok : Nat
  tokAll : Nat
  rounds : Nat
  round : W32
  closing : Bool
  hold : Bool
  ended : Bool
  ramped : Bool
  /-- Records inside the loop of a carry, or general counters of an operation (R179, R185). -/
  cnt : Nat
  lastIn : Nat
  /-- Beats that the actor's last firing still lets through at boundary inputs and outputs (R137). -/
  iq : Vector Nat 4
  oq : Vector Nat 2
  stall : Option Stall
  /-- The cause of the check that the stalled access is performed without (R408); 0 for none. -/
  waive : Nat
  /-- The access under way is held and has passed its race check (R248, R271). -/
  passed : Bool := false
  /-- What the reads of the firing under way have answered so far (R177). -/
  part : List Nat := []
  /-- The scope and the generation that the access under way captured at its issue (R268), and its object. -/
  captured : Option (Nat × Nat × Nat) := none
  nfire : Nat
  deriving DecidableEq, Repr

/-- A fill of a stationary register by `stld` that has not performed (R211). -/
structure Fill where
  fld : Nat
  slot : Nat
  site : Nat
  owner : Nat
  cap : Cap
  n : Nat
  deriving DecidableEq, Repr

/-- The states of a context slot (R162). -/
inductive SlotSt where
  | empty | installing | installed | running
  deriving DecidableEq, Repr

/-- Work in progress on a slot (R196). -/
inductive Pend where
  | none | read | install | part | partDrain | stop | switch
  deriving DecidableEq, Repr

/-- A context slot of a field (R162, R196, R197, R204). -/
structure Slot where
  fld : Nat
  idx : Nat
  st : SlotSt
  pend : Pend
  owner : Option (Nat × Nat)
  img : Cap
  ctx : Nat
  f0 : Nat
  nsec : Nat
  sidx : Nat
  frames : List Frame
  fresh : List Frame
  elems : List Elem
  capTab : List Cap
  why : Nat
  whyOff : Nat
  kp : W32
  drainK : W32
  round0 : W32
  table : List Nat
  tabRound : W32
  start : List Nat
  /-- A RACE found on an eviction of the region's writes, reported at its next marker (R273). -/
  lateRace : Option TrapInfo
  dead : Bool
  deriving DecidableEq, Repr

/-- A Meridian queue (R216, R217, R219). -/
structure MQ where
  die : Nat
  q : Nat
  en : Bool
  hq : Bool
  /-- The base level in force, and the one last written (R216). -/
  base : Nat
  wbase : Nat
  lvl : Nat
  age : Nat
  ctx : Nat
  rsv : List Nat
  /-- Writes to MQSUB not acted on yet (R458). -/
  subs : List Nat
  recs : List TaskRec
  st : Nat
  dn : Bool
  deriving DecidableEq, Repr

/-- Where a task stands (R193, R194, R410 to R416). -/
inductive TaskPhase where
  | installing | running
  | finishing (status : Nat)
  /-- Its fields are freed, and its completion word is not written yet: the status, the field that its entry strand was on, and
  the parties that the word's release carries. -/
  | posting (status fld : Nat) (table : List Nat)
  /-- Being saved: for pre-emption (0), for `ctxsave` (2). -/
  | saving (why : Nat)
  /-- In no queue: after `ctxsave`, and after an escalation until its records are closed. -/
  | parked | escalated
  | queued
  deriving DecidableEq, Repr

/-- A task that Meridian has dispatched (R192, R402). -/
structure Task where
  tno : Nat
  die : Nat
  q : Nat
  ctx : Nat
  body : TaskRec
  fields : List Nat
  phase : TaskPhase
  yielded : Bool
  owner : Option (Nat × Nat)
  frame : Cap
  deriving DecidableEq, Repr

/-- Where a request's response elements go (R336). -/
inductive Sink where
  | none | queue (q : Nat) | ring (c : Cap) | elem
  /-- A queue whose binding has gone since (R317). -/
  | lost
  deriving DecidableEq, Repr

/-- The source of a stream (R310). -/
inductive Src where
  | strand (fld slot : Nat)
  | elem (fld cslot site : Nat)
  deriving DecidableEq, Repr

/-- A request that an engine has accepted (R310, R313, R337). -/
structure Req where
  id : Nat
  major : Nat
  fn : Nat
  x : Nat
  gen : Nat
  imm : Nat
  /-- The request block; its capabilities by block offset; register operands. -/
  blk : List Byte
  caps : List (Nat × Cap)
  ops : List W64
  sink : Sink
  /-- The data goes to the output of the issuing element (R342). -/
  toElem : Bool
  fld : Nat
  /-- The engine that serves it (R309). -/
  eng : Nat
  ctx : Nat
  party : Nat
  round : W32
  /-- Request elements in all, and performed. -/
  total : Nat
  next : Nat
  /-- An element has faulted. -/
  bad : Bool
  started : Bool
  /-- Pages still to be pinned, and pinned, with their frames (R250). -/
  toPin : List (Nat × Nat × Bool)
  pinned : List Pin
  /-- Source bytes read before the first write where source and destination overlap (R344). -/
  buf : List Byte
  /-- Writes of the current element that have not landed, its response, and the reader noted (R278). -/
  pend : List (Nat × Nat × List Byte)
  out : Option W128
  rdr : Nat
  /-- Data on its way to the element's output. -/
  data : List Byte
  resps : List W128
  /-- A follow-on matrix command (R319). -/
  follow : Option Nat
  /-- The control block that it has bound, once for the whole request (R281). -/
  bind : Option (List (Nat × Bool)) := none
  /-- How far an element that takes several steps has come: 1 once `sqevict` has handed its writes over (R376). -/
  prog : Nat
  deriving DecidableEq, Repr

/-- A stream: its source, its engine and its accepted requests, oldest first (R310, R314 to R317, R424). -/
structure Stream where
  id : Nat
  src : Src
  eng : Nat
  reqs : List Req
  skip : Bool
  heldWp : Bool
  /-- A matrix operation held by a fault (R323, R324). -/
  stall : Option TrapInfo
  dead : Bool
  /-- The mount of the port that holds an access of its current request, and a number that orders such holds (R248). -/
  port : Option (Nat × Nat) := none
  deriving DecidableEq, Repr

/-- A record of a fault queue before it is posted (R402, R405). -/
structure Record where
  ctx : Nat
  kind : Nat
  cause : Nat
  sub : Nat
  why : Nat
  party : Nat
  tno : Nat
  loc : W64
  obj : Nat
  off : Nat
  cnt : Nat
  det : W128
  /-- The engine stream that it holds until it is posted (R401). -/
  stream : Option Nat := none
  deriving DecidableEq, Repr

/-- An open record of a memory port (R248, R249). -/
structure PortRec where
  ctx : Nat
  mount : Nat
  obj : Nat
  page : Nat
  cause : Nat
  why : Nat
  seq : Option W32
  cnt : Nat
  /-- The sources whose requests are counted (R248): a party id in the low 16 bits, and which of its units above them. -/
  srcs : List Nat
  deriving DecidableEq, Repr

/-- A deferred backfill record (R378, R380). -/
structure Backfill where
  mount : Nat
  req : Req
  pool : List Byte
  poolCaps : List Cap
  seqId : Nat
  pos : Nat
  layer : Nat
  h : Cap
  moved : Bool
  deriving DecidableEq, Repr

/-- A command handed to a controller and not yet completed (R294, R355). -/
structure NvCmd where
  pair : Nat
  cid : Nat
  opc : Nat
  nsid : Nat
  who : Option (Nat × Nat)
  ctx : Nat
  /-- A Flush of the device's own queue, or a swap write of the KV engine of a mount. -/
  flush : Bool
  swap : Option Nat
  sqe : List Byte
  /-- Pinned pages with their frames (R250), and the bytes that a Read fills. -/
  pins : List Pin
  data : List (Nat × Nat × Nat)
  fld : Nat
  party : Nat
  round : W32
  status : Nat
  done : Bool
  /-- The pages of the data as the entry names them, whether the entry has been written, and the request that waits for the
  completion (R354, R355). -/
  prps : List Nat := []
  sent : Bool := true
  req : Option Nat := none
  deriving DecidableEq, Repr

/-- Where the queues of a program queue pair stand (R332, R355, R356): the tail that the engine's doorbell gave, the head that
the controller last reported, the controller's place in the completion queue, and the completion doorbell. -/
structure NvQueue where
  pair : Nat
  sqTail : Nat
  sqHead : Nat
  cqTail : Nat
  cqHead : Nat
  deriving DecidableEq, Repr

/-- A collective group whose requests disagreed (R329): its scope entry and tag, its size, and the ranks that have failed. -/
structure CollFail where
  ctx : Nat
  x : Nat
  tag : Nat
  size : Nat
  seen : List Nat
  deriving DecidableEq, Repr

/-- A package port's link (R443, R444). -/
structure Link where
  port : Nat
  lanes : Nat
  expect : BitVec 16
  replays : W32
  laneReplays : Nat
  /-- Flits since the lane's replays were last counted from 0 (R426). -/
  flits : Nat
  narrowing : Bool
  deriving DecidableEq, Repr

/-- Bring-up and the host windows (R456 to R462, R465). -/
structure HostRegs where
  pkgid : BitVec 5
  st : Nat
  why : Nat
  ctxt : W64
  caplo : W64
  caphi : W64
  capst : Nat
  aper : List (Nat × W64)
  nvqb : List (Nat × W64)
  adir : Vector W64 8
  rrsv : Vector W64 8
  fencedMounts : BitVec 8
  /-- What the last host access returned: `none` for an access fault (R456). -/
  hart : Option W64
  deriving DecidableEq, Repr

/-- A message of the management port (R464 to R466): its code and its contents. -/
structure Mgmt where
  code : Nat
  body : BitVec 256
  deriving DecidableEq, Repr

/-- A task saved to a context frame (R410, R411), fields numbered from 0 within the task; the layout beyond the frame's
header is private to the device. -/
structure Saved where
  tno : Nat
  full : Bool
  rbase : W32
  obj : Nat
  off : Nat
  /-- The number of the frame's check word (log 7). -/
  check : Nat
  /-- The fields that it left, by which a resume token still names its units (R408). -/
  home : List Nat
  strands : List Strand
  slots : List Slot
  chans : List Chan
  fields : List Field
  cells : List (Nat × Host.Cell)
  tags : List (Nat × Nat)
  flights : List Flight
  fills : List Fill
  streams : List Stream
  deriving DecidableEq, Repr

/-- The machine: one package. -/
structure State where
  /-- The strand whose turn it is to issue; the other occupied slots and the Finders. -/
  me : Strand
  others : List Strand
  /-- What the registers of each slot hold whose strand has ended: they stay as it left them, and no instruction reads them. -/
  left : List Strand
  /-- Happenings from outside, the oldest first: host and management accesses, controllers, links, disturbances. -/
  inputs : List Instr
  /-- Counters that number free choices, free values and identities (the model's own, logs 3 and 4). -/
  turn : Nat
  free : Nat
  ids : Nat
  /-- HBM, scratchpads and accumulator stores as bytes (Machine/Mem.lean gives the key of a byte). -/
  mem : List Host.Cell
  tags : List Nat
  poison : List Nat
  race : List Race
  rels : List Rel
  l1 : List L1Sec
  flights : List Flight
  ctxs : List Ctx
  bars : List Bar
  arms : List Arm
  fields : List Field
  slots : List Slot
  chans : List Chan
  fills : List Fill
  mqs : List MQ
  lastQ : List (Nat × Nat × Nat)
  tasks : List Task
  saved : List Saved
  streams : List Stream
  /-- Follow-on commands whose copy has not landed (R319). -/
  follows : List Req
  backfills : List Backfill
  nvcmds : List NvCmd
  /-- Completions not yet taken, the oldest first: pair, entry, and the release that a Read's data carries (R279, R356). -/
  nvcomps : List (Nat × W128 × List Rel)
  nvqs : List NvQueue
  /-- Groups of collectives that disagreed, while ranks of them may still come (R329). -/
  colls : List CollFail
  posts : List Record
  ports : List PortRec
  corrected : Vector W32 8
  frameErrs : List (Nat × Nat × Nat)
  /-- Migrations that have begun: mount, fenced frame, and the frame taken from the reserve (R245, R426). -/
  migs : List (Nat × Nat × Nat)
  /-- Replies that home slices keep: slice and source, request, value (R445). -/
  replies : List (Nat × Nat × Nat)
  links : List Link
  host : HostRegs
  mgmt : List Mgmt
  clockStep : Nat
  shutdown : Bool
  deriving DecidableEq, Repr

/-- The null capability (R14). -/
def Cap.null : Cap := { bits := 0, tag := false }

/-- An empty strand slot (R31): no strand is there, and every register reads as zero (log 10). -/
def Strand.empty : Strand :=
  { stat := .free, fld := 0, slot := 0, ctx := 0, task := 0
    regs := Vector.replicate 32 0, preds := Vector.replicate 8 false, caps := Vector.replicate 16 Cap.null
    pcc := Cap.null, ldc := 0, stc := 0, xpc := 0, tlc := 0, mode := false, pmode := false, dflt := false
    code := 0, sub := 0, faddr := 0, fobj := 0, epc := Cap.null, ecap := Cap.null, sdef := Cap.null
    frm := 0, fflags := 0, settleU := 0, binds := [], dests := [], trap := none, table := [], tabRound := 0
    start := [], relFence := [], lastLd := 0, lastRels := [], stWrites := [], lateRace := none, exitRec := none, waiting := false
    timedOut := false, unwatched := false, finder := false, limit := 0, ending := false }

/-- The machine right after a device reset (R31, R465): every slot empty, nothing configured, bring-up at state 0. -/
def State.reset : State :=
  { me := Strand.empty, others := [], left := [], inputs := [], turn := 0, free := 0, ids := 0, mem := [], tags := [], poison := []
    race := [], rels := [], l1 := [], flights := [], ctxs := [], bars := [], arms := [], fields := [], slots := []
    chans := [], fills := [], mqs := [], lastQ := [], tasks := [], saved := [], streams := [], follows := [], backfills := []
    nvcmds := [], nvcomps := [], nvqs := [], colls := [], posts := [], ports := [], corrected := Vector.replicate 8 0, frameErrs := [], migs := []
    replies := [], links := []
    host := { pkgid := 0, st := 0, why := 0, ctxt := 0, caplo := 0, caphi := 0, capst := 0, aper := [], nvqb := []
              adir := Vector.replicate 8 0, rrsv := Vector.replicate 8 0, fencedMounts := 0, hart := none }
    mgmt := [], clockStep := 0, shutdown := false }

end Sys2Proof.Machine
end

