-- ==== Sys2Proof/Machine/Mem.lean ====
section
/-!
DEFINITION. Memory as one canonical list of cells, sets of sectors, the keys of bytes, and the chunk coding of R251 to R253.
-/
namespace Sys2Proof.Machine

/-! ### Cells: keys strictly rising, no zero byte listed (an unlisted byte reads as zero, log 11). -/

/-- What an unlisted byte reads as (log 11). -/
def unlisted : Byte := 0

/-- Every key of the list is above k, keys rise, and no listed byte is the unlisted one. -/
def Memory.above (k : Nat) : List Host.Cell → Bool
  | [] => true
  | (a, v) :: r => k ≤ a && v ≠ unlisted && Memory.above (a + 1) r

/-- The canonical form. -/
def Memory.wf (m : List Host.Cell) : Bool := Memory.above 0 m

/-- One byte. -/
def readByte : List Host.Cell → Nat → Byte
  | [], _ => unlisted
  | (a, v) :: r, k => if a = k then v else readByte r k

/-- One byte written. -/
def writeByte : List Host.Cell → Nat → Byte → List Host.Cell
  | [], k, b => if b = unlisted then [] else [(k, b)]
  | (a, v) :: r, k, b =>
    if a < k then (a, v) :: writeByte r k b
    else if a = k then (if b = unlisted then r else (k, b) :: r)
    else if b = unlisted then (a, v) :: r else (k, b) :: (a, v) :: r

/-- n bytes from key k as a little-endian number (R8). -/
def readLE (m : List Host.Cell) (k : Nat) : Nat → Nat
  | 0 => 0
  | n + 1 => (readByte m k).toNat + 256 * readLE m (k + 1) n

/-- The low n bytes of v written from key k (R8). -/
def writeLE (m : List Host.Cell) (k : Nat) : Nat → Nat → List Host.Cell
  | 0, _ => m
  | n + 1, v => writeLE (writeByte m k (BitVec.ofNat 8 v)) (k + 1) n (v / 256)

/-- n bytes from key k. -/
def readBytes (m : List Host.Cell) (k : Nat) : Nat → List Byte
  | 0 => []
  | n + 1 => readByte m k :: readBytes m (k + 1) n

/-- Bytes written from key k. -/
def writeBytes (m : List Host.Cell) (k : Nat) : List Byte → List Host.Cell
  | [] => m
  | b :: r => writeBytes (writeByte m k b) (k + 1) r

/-- The bytes of v selected by a mask of n bits, written from key k. -/
def writeMask (m : List Host.Cell) (k : Nat) : Nat → Nat → Nat → List Host.Cell
  | 0, _, _ => m
  | n + 1, v, mask =>
    writeMask (if mask % 2 = 1 then writeByte m k (BitVec.ofNat 8 v) else m) (k + 1) n (v / 256) (mask / 2)

/-- Cells of a range removed: its bytes read as zero. -/
def zeroRange (m : List Host.Cell) (k n : Nat) : List Host.Cell := m.filter fun c => c.1 < k || k + n ≤ c.1

/-- Little-endian bytes of a number. -/
def toBytes : Nat → Nat → List Byte
  | 0, _ => []
  | n + 1, v => BitVec.ofNat 8 v :: toBytes n (v / 256)

/-- The number of little-endian bytes. -/
def ofBytes : List Byte → Nat
  | [] => 0
  | b :: r => b.toNat + 256 * ofBytes r

/-- n bytes of a block from byte i as a little-endian number. -/
def fieldLE (b : List Byte) (i n : Nat) : Nat := ofBytes ((b.drop i).take n)

/-- A bit field of a number. -/
def bits (v lo n : Nat) : Nat := v / 2 ^ lo % 2 ^ n

/-! ### Sets of sectors -/

def setIn : List Nat → Nat → List Nat
  | [], k => [k]
  | a :: r, k => if a < k then a :: setIn r k else if a = k then a :: r else k :: a :: r
def setOut (l : List Nat) (k : Nat) : List Nat := l.filter (· ≠ k)
def setPut (l : List Nat) (k : Nat) (b : Bool) : List Nat := if b then setIn l k else setOut l k

/-! ### Keys -/

/-- A byte of a mount's HBM (R243). -/
def hbmKey (mount addr : Nat) : Nat := mount * 2 ^ 48 + addr % 2 ^ 48
/-- A byte of a field's scratchpad (R231). -/
def spKey (fld off : Nat) : Nat := 2 ^ 52 + fld * 2 ^ 24 + off
/-- The first byte of an accumulator entry (R229, R230). -/
def accKey (fld arr tile i j : Nat) : Nat := 2 ^ 56 + (fld * 2 + arr) * 2 ^ 18 + ((tile * 64 + i) * 64 + j) * 16

/-! ### Chunk coding (R251 to R253) -/

/-- The bits of a byte stream, bit 7 of the first byte first (R253). -/
def streamBits : List Byte → List Bool
  | [] => []
  | b :: r => (List.range 8).map (fun i => b.getLsbD (7 - i)) ++ streamBits r

/-- Code lengths of the 32 symbols (R252). -/
def codeLens (hdr : List Byte) : List Nat :=
  (List.range 32).map fun s => bits (fieldLE hdr (4 + s / 2) 1) (4 * (s % 2)) 4

/-- Canonical codes of one length, from the code `c` on, in symbol order (R253). -/
def codesOfLen (len : Nat) : List (Nat × Nat) → Nat → List (Nat × Nat × Nat) × Nat
  | [], c => ([], c)
  | (s, l) :: r, c =>
    if l = len then let (t, c') := codesOfLen len r (c + 1); ((len, c, s) :: t, c') else codesOfLen len r c

/-- The canonical codes as (length, code, symbol) (R253). -/
def canonCodes (syms : List (Nat × Nat)) : Nat → Nat → Nat → List (Nat × Nat × Nat)
  | 0, _, _ => []
  | fuel + 1, len, c => let (t, c') := codesOfLen len syms c; t ++ canonCodes syms fuel (len + 1) (2 * c')

/-- Kraft sum in units of 2^−15. -/
def kraft (lens : List Nat) : Nat := lens.foldl (fun a l => if l = 0 then a else a + 2 ^ (15 - l)) 0

/-- What the reader of an exponent stream is in the middle of: a code, or raw bits of an escape. -/
inductive CodeSt where
  | code (len c : Nat)
  | raw (n v : Nat)

/-- n exponents of a stream and the bits after them (R253); none where the stream is undecodable. -/
def decodeExps (codes : List (Nat × Nat × Nat)) (bf : Bool) (ebase : Nat) : List Bool → Nat → CodeSt → Option (List Nat × List Bool)
  | bs, 0, _ => some ([], bs)
  | [], _ + 1, _ => none
  | b :: r, n + 1, .code len c =>
    let c' := 2 * c + (if b then 1 else 0)
    match codes.find? (fun t => t.1 = len + 1 && t.2.1 = c') with
    | some (_, _, s) =>
      if bf && s = 31 then decodeExps codes bf ebase r (n + 1) (.raw 0 0)
      else (decodeExps codes bf ebase r n (.code 0 0)).map fun p => ((if bf then (ebase + s) % 256 else s) :: p.1, p.2)
    | none => if len + 1 ≥ 15 then none else decodeExps codes bf ebase r (n + 1) (.code (len + 1) c')
  | b :: r, n + 1, .raw k v =>
    let v' := 2 * v + (if b then 1 else 0)
    if k = 7 then (decodeExps codes bf ebase r n (.code 0 0)).map fun p => (v' :: p.1, p.2)
    else decodeExps codes bf ebase r (n + 1) (.raw (k + 1) v')

/-- The 4,096 bytes that a coded chunk of `lines` lines stands for, or none where it is undecodable (R252, R253). -/
def decodeChunk (kind lines : Nat) (raw : List Byte) : Option (List Byte) :=
  let hdr := raw.take 64
  let lens := codeLens hdr
  let nsym := if kind = 1 then 32 else if kind = 2 then 16 else 32
  let n := if kind = 1 then 2048 else 4096
  let sm := if kind = 3 then 1536 else 2048
  let ebase := fieldLE hdr 1 1
  let smf := (raw.drop 64).take sm
  let body := ((raw.take (64 * lines)).drop (64 + sm))
  if fieldLE hdr 0 1 ≠ kind || fieldLE hdr 2 2 ≠ 0 || fieldLE hdr 20 44 ≠ 0 || (kind ≠ 1 && ebase ≠ 0)
      || kraft lens > 2 ^ 15 || (lens.drop nsym).any (· ≠ 0) || 64 * lines < 64 + sm then none
  else
    let syms := (List.range 32).zip lens
    let codes := canonCodes (syms.filter (·.2 ≠ 0)) 15 1 0
    match decodeExps codes (kind = 1) ebase (streamBits body) n (.code 0 0) with
    | none => none
    | some (es, rest) =>
      if rest.any id then none
      else
        let smv := ofBytes smf
        let elem (p : Nat × Nat) : Nat :=
          let (i, e) := p
          if kind = 1 then (bits smv (8 * i + 7) 1) * 2 ^ 15 + e % 256 * 2 ^ 7 + bits smv (8 * i) 7
          else if kind = 2 then (bits smv (4 * i + 3) 1) * 2 ^ 7 + e * 2 ^ 3 + bits smv (4 * i) 3
          else (bits smv (3 * i + 2) 1) * 2 ^ 7 + e * 2 ^ 2 + bits smv (3 * i) 2
        some (((List.range n).zip es).flatMap fun p => toBytes (if kind = 1 then 2 else 1) (elem p))

end Sys2Proof.Machine
end

