-- ==== Sys2Proof/Machine/Num.lean ====
section
/-!
DEFINITION. Number formats (R54 to R68): values, the one rounding, conversions, and the floating-point operations of
R117 to R123. A finite value is a sign, a positive integer and a power of two; a rounding takes a fraction of naturals.
-/
namespace Sys2Proof.Machine

/-- The rounding modes (R64). -/
inductive RMode where
  | rne | rtz | rup | rdn | rna
  deriving DecidableEq, Repr

/-- Mode of a code 0 to 4 (R45); other codes do not occur in a decoded instruction. -/
def rmode : Nat → RMode
  | 1 => .rtz
  | 2 => .rup
  | 3 => .rdn
  | 4 => .rna
  | _ => .rne

/-- A floating or narrow format (R55, R59): IEEE or not, exponent bits, mantissa bits, bias. -/
structure Fmt where
  ieee : Bool
  eb : Nat
  mb : Nat
  bias : Nat
  deriving DecidableEq, Repr

def fmtD : Fmt := ⟨true, 11, 52, 1023⟩
def fmtS : Fmt := ⟨true, 8, 23, 127⟩
def fmtH : Fmt := ⟨true, 5, 10, 15⟩
def fmtB : Fmt := ⟨true, 8, 7, 127⟩
def fmtN4 : Fmt := ⟨false, 4, 3, 8⟩
def fmtN5 : Fmt := ⟨false, 5, 2, 16⟩
def fmtF4 : Fmt := ⟨false, 2, 1, 2⟩

/-- The IEEE formats by code: 0 f64, 1 f32, 2 f16, 3 bf16 (R45, R167). -/
def ieeeFmt (k : Nat) : Fmt := if k = 0 then fmtD else if k = 1 then fmtS else if k = 2 then fmtH else fmtB
/-- The narrow formats by code: 0 N8E4, 1 N8E5, 2 FP4. -/
def narrowFmt (k : Nat) : Fmt := if k = 0 then fmtN4 else if k = 1 then fmtN5 else fmtF4

def Fmt.width (f : Fmt) : Nat := 1 + f.eb + f.mb
/-- The code of the largest finite magnitude (R55, R59). -/
def Fmt.maxCode (f : Fmt) : Nat := if f.ieee then (2 ^ f.eb - 1) * 2 ^ f.mb - 1 else 2 ^ (f.eb + f.mb) - 1
/-- The exponent of the smallest subnormal. -/
def Fmt.qmin (f : Fmt) : Int := 1 - (f.bias : Int) - f.mb
/-- The canonical NaN (R57, R59). -/
def Fmt.nan (f : Fmt) : Nat :=
  if f.ieee then (2 ^ f.eb - 1) * 2 ^ f.mb + 2 ^ (f.mb - 1) else 2 ^ (f.eb + f.mb)
def Fmt.infCode (f : Fmt) : Nat := (2 ^ f.eb - 1) * 2 ^ f.mb
/-- Sign and magnitude code put together; a narrow format has no negative zero (R64). -/
def Fmt.pack (f : Fmt) (neg : Bool) (code : Nat) : Nat :=
  if neg && (f.ieee || code ≠ 0) then 2 ^ (f.eb + f.mb) + code else code
def Fmt.inf (f : Fmt) (neg : Bool) : Nat := f.pack neg f.infCode
def Fmt.one (f : Fmt) : Nat := f.bias * 2 ^ f.mb

/-- What a code stands for; a finite non-zero value is (−1)^neg × m × 2^e with m > 0. -/
inductive FVal where
  | nan (signal : Bool)
  | inf (neg : Bool)
  | zero (neg : Bool)
  | fin (neg : Bool) (m : Nat) (e : Int)
  deriving DecidableEq, Repr

/-- The value of the low bits of x in a format (R54, R55, R59). -/
def Fmt.val (f : Fmt) (x : Nat) : FVal :=
  let c := x % 2 ^ (f.eb + f.mb)
  let neg := x / 2 ^ (f.eb + f.mb) % 2 = 1
  let e := c / 2 ^ f.mb
  let m := c % 2 ^ f.mb
  if f.ieee && e = 2 ^ f.eb - 1 then (if m = 0 then .inf neg else .nan (m < 2 ^ (f.mb - 1)))
  else if !f.ieee && neg && c = 0 then .nan false
  else if c = 0 then .zero neg
  else if e = 0 then .fin neg m f.qmin
  else .fin neg (2 ^ f.mb + m) (f.qmin + (e - 1))

/-! Flags as FFLAGS numbers them (R20). -/
def flNV : Nat := 1
def flDZ : Nat := 2
def flOF : Nat := 4
def flUF : Nat := 8
def flNX : Nat := 16

/-- A result: its bits and the flags it raises. -/
abbrev FRes := Nat × Nat

/-- 2^e × (n / d) as a fraction. -/
def scaleFrac (n d : Nat) (e : Int) : Nat × Nat := if e ≥ 0 then (n * 2 ^ e.toNat, d) else (n, d * 2 ^ (-e).toNat)

/-- floor(log2 (n / d)) for positive n and d. -/
def log2Frac (n d : Nat) : Int :=
  let e : Int := (n.log2 : Int) - d.log2
  let (a, b) := scaleFrac n d (-e)
  if a < b then e - 1 else e

/-- Rounds up in magnitude or not: q is the truncated count, r / d the rest, `st` says that the exact value is larger
than the fraction by less than anything that matters. -/
def roundUp (md : RMode) (neg : Bool) (q r d : Nat) (st : Bool) : Bool :=
  let inex := r ≠ 0 || st
  let above := 2 * r > d || (2 * r = d && st)
  let tie := 2 * r = d && !st
  match md with
  | .rne => above || (tie && q % 2 = 1)
  | .rtz => false
  | .rup => inex && !neg
  | .rdn => inex && neg
  | .rna => above || tie

/-- The one rounding (R64 to R66) of the positive magnitude n / d, or slightly more when `st` is set. -/
def Fmt.round (f : Fmt) (md : RMode) (neg : Bool) (n d : Nat) (st : Bool) : FRes :=
  let qe := max (log2Frac n d - f.mb) f.qmin
  let (a, b) := scaleFrac n d (-qe)
  let q := a / b
  let r := a % b
  let inex := r ≠ 0 || st
  let q' := if roundUp md neg q r b st then q + 1 else q
  let code := (qe - f.qmin).toNat * 2 ^ f.mb + q'
  if q' = 0 then (f.pack neg 0, flNX)
  else if code > f.maxCode then
    let big : Bool := match md with
      | .rne | .rna => true
      | .rtz => false
      | .rup => !neg
      | .rdn => neg
    (f.pack neg (if f.ieee && big then f.infCode else f.maxCode), flOF + flNX)
  else (f.pack neg code, if inex then flNX + (if code < 2 ^ f.mb then flUF else 0) else 0)

/-- Rounds the value m × 2^e. -/
def Fmt.roundDy (f : Fmt) (md : RMode) (neg : Bool) (m : Nat) (e : Int) : FRes :=
  let (n, d) := scaleFrac m 1 e
  f.round md neg n d false

/-! ### Integer square root and the functions of R91 -/

/-- Newton's iteration from above, at most `fuel` times. -/
def sqrtIter (n : Nat) : Nat → Nat → Nat
  | 0, x => x
  | fuel + 1, x =>
    let y := (x + n / x) / 2
    if y < x then sqrtIter n fuel y else x

/-- floor(√n). -/
def isqrt (n : Nat) : Nat := if n = 0 then 0 else sqrtIter n (n.log2 + 4) (2 ^ (n.log2 / 2 + 1))

/-- Σ for k from n down to 1 of floor(2^(w−k) / k): a lower bound of 2^w × ln 2. -/
def ln2Sum (w : Nat) : Nat → Nat
  | 0 => 0
  | k + 1 => 2 ^ (w - (k + 1)) / (k + 1) + ln2Sum w k

/-- Σ of the series of 2^w × exp(y / 2^w), each term truncated. -/
def expSum (w y : Nat) : Nat → Nat → Nat → Nat
  | 0, _, _ => 0
  | fuel + 1, k, term => term + expSum w y fuel (k + 1) (term * y / 2 ^ w / (k + 1))

/-- A lower bound of 2^w × 2^(f / 2^w), for 0 ≤ f < 2^w. -/
def exp2Frac (w f : Nat) : Nat := expSum w (f * ln2Sum (w + 64) (w + 64) / 2 ^ (w + 64)) (w / 2 + 8) 0 (2 ^ w)

/-- The first n bits of log2(y / 2^w) for y in [2^w, 2^(w+1)), by squaring. -/
def log2Bits (w : Nat) : Nat → Nat → Nat → Nat
  | 0, _, acc => acc
  | n + 1, y, acc =>
    let z := y * y / 2 ^ w
    if z ≥ 2 ^ (w + 1) then log2Bits w n (z / 2) (2 * acc + 1) else log2Bits w n z (2 * acc)

/-- floor(2^n × log2(m / 2^(m.log2))), the fraction of log2 m. -/
def log2Frac' (n m : Nat) : Nat :=
  let w := 2 * n + 64
  let y := if m.log2 ≤ w then m * 2 ^ (w - m.log2) else m / 2 ^ (m.log2 - w)
  log2Bits w n y 0

def Fmt.nanRes (f : Fmt) (nv : Bool) : FRes := (f.nan, if nv then flNV else 0)
def FVal.isNan : FVal → Bool
  | .nan _ => true
  | _ => false
def FVal.isSnan : FVal → Bool
  | .nan s => s
  | _ => false
def FVal.sign : FVal → Bool
  | .nan _ => false
  | .inf n | .zero n | .fin n _ _ => n
def FVal.neg : FVal → FVal
  | .nan s => .nan s
  | .inf n => .inf (!n)
  | .zero n => .zero (!n)
  | .fin n m e => .fin (!n) m e

/-- The finite value as an integer times 2^e, for an e at or below its exponent. -/
def FVal.scaled (v : FVal) (e0 : Int) : Int :=
  match v with
  | .fin n m e => (if n then -1 else 1) * (m * 2 ^ (e - e0).toNat : Nat)
  | _ => 0
def FVal.exp : FVal → Int
  | .fin _ _ e => e
  | _ => 0

/-- Rounds the integer i times 2^e, of which a zero has the sign that R117 gives an exact cancellation. -/
def Fmt.roundInt (f : Fmt) (md : RMode) (i e : Int) : FRes :=
  if i = 0 then (f.pack (md = .rdn) 0, 0) else f.roundDy md (i < 0) i.natAbs e

/-- A sum of two terms that are no NaN (R117, R118). -/
def Fmt.addV (f : Fmt) (md : RMode) (x y : FVal) : FRes :=
  match x, y with
  | .inf a, .inf b => if a = b then (f.inf a, 0) else f.nanRes true
  | .inf a, _ => (f.inf a, 0)
  | _, .inf b => (f.inf b, 0)
  | .zero a, .zero b => (f.pack (if a = b then a else md = .rdn) 0, 0)
  | .zero _, v => f.roundInt md (v.scaled v.exp) v.exp
  | v, .zero _ => f.roundInt md (v.scaled v.exp) v.exp
  | u, v => let e := min u.exp v.exp; f.roundInt md (u.scaled e + v.scaled e) e

/-- The exact product of two values that are no NaN and not zero times infinity. -/
def FVal.mulV (x y : FVal) : FVal :=
  let s := x.sign != y.sign
  match x, y with
  | .fin _ m e, .fin _ n g => .fin s (m * n) (e + g)
  | .inf _, _ => .inf s
  | _, .inf _ => .inf s
  | _, _ => .zero s

def FVal.isInf : FVal → Bool
  | .inf _ => true
  | _ => false
def FVal.isZero : FVal → Bool
  | .zero _ => true
  | _ => false
/-- Zero times infinity (R118). -/
def FVal.badMul (x y : FVal) : Bool := (x.isZero && y.isInf) || (x.isInf && y.isZero)

/-- The value as it stands in a format that holds it, rounded otherwise. -/
def Fmt.ofVal (f : Fmt) (md : RMode) : FVal → FRes
  | .nan s => f.nanRes s
  | .inf n => if f.ieee then (f.inf n, 0) else (f.pack n f.maxCode, flOF + flNX)
  | .zero n => (f.pack n 0, 0)
  | .fin n m e => f.roundDy md n m e

/-- fadd (R117, R118). -/
def Fmt.add (f : Fmt) (md : RMode) (a b : Nat) : FRes :=
  let x := f.val a
  let y := f.val b
  if x.isNan || y.isNan then f.nanRes (x.isSnan || y.isSnan) else f.addV md x y
/-- fsub. -/
def Fmt.sub (f : Fmt) (md : RMode) (a b : Nat) : FRes :=
  let x := f.val a
  let y := f.val b
  if x.isNan || y.isNan then f.nanRes (x.isSnan || y.isSnan) else f.addV md x y.neg
/-- fmul. -/
def Fmt.mul (f : Fmt) (md : RMode) (a b : Nat) : FRes :=
  let x := f.val a
  let y := f.val b
  if x.isNan || y.isNan then f.nanRes (x.isSnan || y.isSnan)
  else if x.badMul y then f.nanRes true else f.ofVal md (x.mulV y)
/-- x × y plus a code, rounded once (R117, R118, R321). -/
def Fmt.fmaV (f : Fmt) (md : RMode) (x y : FVal) (c : Nat) : FRes :=
  let z := f.val c
  if x.isSnan || y.isSnan || z.isSnan then f.nanRes true
  else if x.badMul y then f.nanRes true
  else if x.isNan || y.isNan || z.isNan then f.nanRes false
  else f.addV md (x.mulV y) z
/-- ffma: a × b + c. -/
def Fmt.fma (f : Fmt) (md : RMode) (a b c : Nat) : FRes := f.fmaV md (f.val a) (f.val b) c
/-- fdiv. -/
def Fmt.div (f : Fmt) (md : RMode) (a b : Nat) : FRes :=
  let x := f.val a
  let y := f.val b
  let s := x.sign != y.sign
  if x.isNan || y.isNan then f.nanRes (x.isSnan || y.isSnan) else
  match x, y with
  | .zero _, .zero _ | .inf _, .inf _ => f.nanRes true
  | .inf _, _ => (f.inf s, 0)
  | _, .zero _ => (f.inf s, flDZ)
  | .zero _, _ | _, .inf _ => (f.pack s 0, 0)
  | .fin _ m e, .fin _ n g => let (p, q) := scaleFrac m n (e - g); f.round md s p q false
  | _, _ => f.nanRes false

/-- m × 2^e with an even exponent. -/
def evenExp (m : Nat) (e : Int) : Nat × Int := if e % 2 = 0 then (m, e) else (2 * m, e - 1)

/-- fsqrt (R117, R118). -/
def Fmt.sqrt (f : Fmt) (md : RMode) (a : Nat) : FRes :=
  match f.val a with
  | .nan s => f.nanRes s
  | .zero n => (f.pack n 0, 0)
  | .inf false => (f.inf false, 0)
  | .inf true => f.nanRes true
  | .fin true _ _ => f.nanRes true
  | .fin false m e =>
    let (m, e) := evenExp m e
    let r := isqrt (m * 2 ^ 256)
    let (n, d) := scaleFrac r 1 (e / 2 - 128)
    f.round md false n d (r * r ≠ m * 2 ^ 256)

/-- frsqrt. -/
def Fmt.rsqrt (f : Fmt) (md : RMode) (a : Nat) : FRes :=
  match f.val a with
  | .nan s => f.nanRes s
  | .zero n => (f.inf n, flDZ)
  | .inf false => (f.pack false 0, 0)
  | .inf true => f.nanRes true
  | .fin true _ _ => f.nanRes true
  | .fin false m e =>
    let (m, e) := evenExp m e
    let r := isqrt (2 ^ 1024 / m)
    let (n, d) := scaleFrac r 1 (-(e / 2) - 512)
    f.round md false n d (r * r * m ≠ 2 ^ 1024)

/-- fexp2 (R91, R117, R118). -/
def Fmt.exp2 (f : Fmt) (md : RMode) (a : Nat) : FRes :=
  match f.val a with
  | .nan s => f.nanRes s
  | .zero _ => (f.one, 0)
  | .inf n => (if n then f.pack false 0 else f.inf false, 0)
  | .fin neg m e =>
    let w := Config.work
    -- the operand times 2^w, truncated towards minus infinity, and whether it is exact
    let (p, q) := scaleFrac m 1 (e + w)
    let i : Int := if neg then -((p + q - 1) / q : Nat) else (p / q : Nat)
    let k := max (-5000) (min 5000 (i / 2 ^ w))
    let fr := (i % 2 ^ w).toNat
    let exact := p % q = 0 && fr = 0
    let (n, d) := scaleFrac (exp2Frac w fr) (2 ^ w) k
    f.round md false n d (!exact)

/-- flog2. -/
def Fmt.log2 (f : Fmt) (md : RMode) (a : Nat) : FRes :=
  match f.val a with
  | .nan s => f.nanRes s
  | .zero _ => (f.inf true, flDZ)
  | .inf false => (f.inf false, 0)
  | .inf true => f.nanRes true
  | .fin true _ _ => f.nanRes true
  | .fin false m e =>
    let k : Int := m.log2 + e
    if m = 2 ^ m.log2 then (if k = 0 then (f.pack false 0, 0) else f.roundDy md (k < 0) k.natAbs 0)
    else
      let w := Config.work
      let l := log2Frac' w m
      if k ≥ 0 then f.round md false (k.toNat * 2 ^ w + l) (2 ^ w) true
      else f.round md true (k.natAbs * 2 ^ w - l - 1) (2 ^ w) true

/-- Order of two values that are no NaN, −0 below +0. -/
def FVal.lt (x y : FVal) : Bool :=
  match x, y with
  | .inf a, .inf b => a && !b
  | .inf a, _ => a
  | _, .inf b => !b
  | .zero a, .zero b => a && !b
  | u, v => let e := min u.exp v.exp; u.scaled e < v.scaled e

/-- Numerical equality of two values that are no NaN: zeros are equal (R123). -/
def FVal.eq (x y : FVal) : Bool := (x.isZero && y.isZero) || (!x.lt y && !y.lt x)

/-- fmin and fmax (R119). -/
def Fmt.minMax (f : Fmt) (wantMax : Bool) (a b : Nat) : FRes :=
  let x := f.val a
  let y := f.val b
  if x.isNan || y.isNan then f.nanRes (x.isSnan || y.isSnan)
  else ((if x.lt y = wantMax then b else a) % 2 ^ f.width, 0)

/-- fclass (R121). -/
def Fmt.classOf (f : Fmt) (a : Nat) : Nat :=
  match f.val a with
  | .inf true => 1
  | .fin true m _ => if m < 2 ^ f.mb then 4 else 2
  | .zero true => 8
  | .zero false => 16
  | .fin false m _ => if m < 2 ^ f.mb then 32 else 64
  | .inf false => 128
  | .nan true => 256
  | .nan false => 512

/-- The magnitude m × 2^e rounded to an integer, and whether it was one. -/
def roundIntegral (md : RMode) (neg : Bool) (m : Nat) (e : Int) : Nat × Bool :=
  let (n, d) := scaleFrac m 1 e
  let q := n / d
  let r := n % d
  (if roundUp md neg q r d false then q + 1 else q, r = 0)

/-- fround (R122). -/
def Fmt.roundTo (f : Fmt) (md : RMode) (a : Nat) : FRes :=
  match f.val a with
  | .nan s => f.nanRes s
  | .fin n m e =>
    let (q, ex) := roundIntegral md n m e
    (if q = 0 then f.pack n 0 else (f.roundDy .rtz n q 0).1, if ex then 0 else flNX)
  | _ => (a % 2 ^ f.width, 0)

/-- fscale (R122); beyond ±20000 every further power of two gives the same result. -/
def Fmt.scale (f : Fmt) (md : RMode) (a : Nat) (k : Int) : FRes :=
  match f.val a with
  | .nan s => f.nanRes s
  | .fin n m e => f.roundDy md n m (e + max (-20000) (min 20000 k))
  | _ => (a % 2 ^ f.width, 0)

/-- A comparison's outcome (R123): predicate and flags. -/
def Fmt.cmp (f : Fmt) (op : Nat) (a b : Nat) : Bool × Nat :=
  let x := f.val a
  let y := f.val b
  if x.isNan || y.isNan then
    (op = 17 || op = 20, if x.isSnan || y.isSnan || op = 18 || op = 19 then flNV else 0)
  else
    (if op = 16 then x.eq y else if op = 17 then !x.eq y else if op = 18 then x.lt y && !x.eq y
     else if op = 19 then x.lt y || x.eq y else false, 0)

/-- A conversion between floating or narrow formats (R67, R68). -/
def convFmt (dst src : Fmt) (md : RMode) (a : Nat) : FRes := dst.ofVal md (src.val a)

/-- An integer of n bits into an IEEE format (R67, R68). -/
def Fmt.ofInt (f : Fmt) (md : RMode) (i : Int) : FRes :=
  if i = 0 then (f.pack false 0, 0) else f.roundDy md (i < 0) i.natAbs 0

/-- A value into an integer of n bits (R67): the integer and the flags. -/
def toIntV (v : FVal) (md : RMode) (n : Nat) (signed : Bool) : Int × Nat :=
  let lo : Int := if signed then -(2 ^ (n - 1)) else 0
  let hi : Int := if signed then 2 ^ (n - 1) - 1 else 2 ^ n - 1
  match v with
  | .nan _ => (0, flNV)
  | .inf neg => (if neg then lo else hi, flNV)
  | .zero _ => (0, 0)
  | .fin neg m e =>
    let (q, ex) := roundIntegral md neg m e
    let i : Int := if neg then -(q : Int) else q
    if i < lo then (lo, flNV) else if i > hi then (hi, flNV) else (i, if ex then 0 else flNX)

/-! ### Block scales (R60 to R63) -/

/-- A finite E3M5 scale as m × 2^e (R60). -/
def scaleVal (s : Nat) : Nat × Int := if s < 32 then (s, -8) else (32 + s % 32, (s / 32 : Nat) - 9)

/-- The value of an element code with its block scale and band scale (R62); none is NaN. -/
def blockElem (f : Fmt) (code s : Nat) (band : FVal) : FVal :=
  if band.isNan || s = 255 then .nan false
  else if s = 0 then .zero band.sign
  else
    match f.val code with
    | .nan _ => .nan false
    | v => let (m, e) := scaleVal s
           let w := v.mulV (.fin false m e)
           if w.badMul band then .nan false else w.mulV band

/-- The smallest of the scales 1 to 0xFE at or above n / d, at most 0xFE (R63). -/
def pickScale (n d : Nat) : Nat → Nat
  | 0 => 254
  | k + 1 =>
    let (m, e) := scaleVal (254 - k)
    let (p, q) := scaleFrac m 1 e
    if n * q ≤ p * d then 254 - k else pickScale n d k

/-- The block scale of eight real inputs over a band value that is finite and not zero (R63). -/
def encodeScale (f : Fmt) (band : FVal) (xs : List FVal) : Nat :=
  if xs.any FVal.isNan || band.isNan || band.isZero || band.isInf then 255
  else if xs.all FVal.isZero then 0
  else if xs.any FVal.isInf then 254
  else
    match band, f.val f.maxCode with
    | .fin _ bm be, .fin _ em ee =>
      let lo := xs.foldl (fun a v => min a v.exp) 0
      let a := xs.foldl (fun a v => max a (v.scaled lo).natAbs) 0
      let (n, d) := scaleFrac a (bm * em) (lo - be - ee)
      pickScale n d 254
    | _, _ => 255

/-- One element code under a chosen scale, with its flags (R63). -/
def encodeElem (f : Fmt) (md : RMode) (band : FVal) (s : Nat) (x : FVal) : FRes :=
  if s = 0 || s = 255 then (0, 0)
  else
    match band, x with
    | .fin bn bm be, .fin n m e =>
      let (sm, se) := scaleVal s
      let (p, q) := scaleFrac m (bm * sm) (e - be - se)
      f.round md (n != bn) p q false
    | .fin bn _ _, .inf n => f.ofVal md (.inf (n != bn))
    | _, _ => (0, 0)

/-- A block of eight inputs: its scale, its codes and its flags (R63). The branch for a NaN input names no flag, so a signalling
NaN among the inputs raises none here (log 87, DESIGN CHOICE). -/
def encodeBlock (f : Fmt) (md : RMode) (band : FVal) (xs : List FVal) : Nat × List Nat × Nat :=
  let s := encodeScale f band xs
  let rs := xs.map (encodeElem f md band s)
  (s, rs.map (·.1), rs.foldl (fun a r => a ||| r.2) 0)

end Sys2Proof.Machine
end

