-- ==== Sys2Proof/Machine/Ops.lean ====
section
/-!
DEFINITION. The named operations over a strand's registers and the device's tables: accessors, capabilities and their
checks (R21 to R25), taking a trap (R27), returning from one (R29), counters, records of the fault queue.
-/
namespace Sys2Proof.Machine

/-- What one step answers. -/
abbrev Out := Host.Outcome State Fault Refusal

/-! ### Cause codes (R400) -/
def ccIllegal : Nat := 0x01
def ccMisTarget : Nat := 0x02
def ccPriv : Nat := 0x03
def ccCapTag : Nat := 0x04
def ccCapBounds : Nat := 0x05
def ccCapPerm : Nat := 0x06
def ccAlign : Nat := 0x07
def ccNotPresent : Nat := 0x08
def ccCow : Nat := 0x09
def ccStale : Nat := 0x0A
def ccScope : Nat := 0x0B
def ccRace : Nat := 0x0C
def ccSync : Nat := 0x0D
def ccTileBusy : Nat := 0x0E
def ccTileState : Nat := 0x0F
def ccRoundTag : Nat := 0x10
def ccQueue : Nat := 0x11
def ccEngine : Nat := 0x12
def ccPoison : Nat := 0x13
def ccWatch : Nat := 0x14
def ccDeadlock : Nat := 0x15
def ccRemote : Nat := 0x16
def ccBreak : Nat := 0x17
def ccTrap : Nat := 0x18
def ccStaleBlock : Nat := 0x19
def ccCfg : Nat := 0x1A

/-- A cause with its two values as numbers. -/
def mkTrap (code sub fobj faddr : Nat) : TrapInfo :=
  { code := code, sub := sub, fobj := BitVec.ofNat 64 fobj, faddr := BitVec.ofNat 64 faddr }

/-! ### Capabilities (R21, R22, R24, R25) -/

/-- Rights as `cget.perm` numbers them (R110). -/
def pR : Nat := 1
def pW : Nat := 2
def pX : Nat := 4
def pC : Nat := 8
def pA : Nat := 16
def pE : Nat := 32
def pS : Nat := 64
def pD : Nat := 128

/-- The first task-local object number (R24, R229). -/
def localObj : Nat := 0xFF000000

end Sys2Proof.Machine

namespace Sys2Proof

def Cap.obj (c : Cap) : Nat := (c.bits.extractLsb' 96 32).toNat
def Cap.cur (c : Cap) : Nat := (c.bits.extractLsb' 48 48).toNat
def Cap.g (c : Cap) : Nat := (c.bits.extractLsb' 42 6).toNat
def Cap.lo (c : Cap) : Nat := (c.bits.extractLsb' 28 14).toNat
def Cap.hi (c : Cap) : Nat := (c.bits.extractLsb' 14 14).toNat
def Cap.perm (c : Cap) : Nat := (c.bits.extractLsb' 6 8).toNat
def Cap.base (c : Cap) : Nat := c.lo * 2 ^ c.g
def Cap.top (c : Cap) : Nat := c.hi * 2 ^ c.g
/-- Every right of the mask is present. -/
def Cap.has (c : Cap) (rights : Nat) : Bool := c.perm &&& rights = rights
/-- The capability with another cursor, modulo 2^48. -/
def Cap.setCur (c : Cap) (v : Nat) : Cap :=
  { c with bits := c.bits.extractLsb' 96 32 ++ BitVec.ofNat 48 v ++ c.bits.extractLsb' 0 48 }
/-- Well-formed (R22). -/
def Cap.ok (c : Cap) : Bool :=
  c.obj ≠ 0 && c.g ≤ 47 && c.lo ≤ c.hi && c.top ≤ 2 ^ 48 && c.bits.extractLsb' 0 6 = 0
/-- A capability from its fields. -/
def Cap.make (obj cur g lo hi perm : Nat) : Cap :=
  { bits := BitVec.ofNat 32 obj ++ BitVec.ofNat 48 cur ++ BitVec.ofNat 6 g ++ BitVec.ofNat 14 lo ++ BitVec.ofNat 14 hi
      ++ BitVec.ofNat 8 perm ++ (0#6), tag := true }

end Sys2Proof

namespace Sys2Proof.Machine

/-- The procedure of R25 from exponent g on: the bounds of `cbound`. -/
def findGranule (b t : Nat) : Nat → Nat → Nat × Nat × Nat
  | 0, g => (g, b / 2 ^ g, (t + 2 ^ g - 1) / 2 ^ g)
  | fuel + 1, g =>
    let hi := (t + 2 ^ g - 1) / 2 ^ g
    if hi ≤ 16383 then (g, b / 2 ^ g, hi) else findGranule b t fuel (g + 1)

/-- `cbound` of [b, t) from a source (R25): none is CAP_BOUNDS. -/
def boundCap (src : Cap) (b t : Int) : Option Cap :=
  if b > t || b < 0 || b ≥ 2 ^ 48 || t > 2 ^ 48 then none
  else
    let (g, lo, hi) := findGranule b.toNat t.toNat 47 0
    if lo * 2 ^ g < src.base || hi * 2 ^ g > src.top then none
    else some { Cap.make src.obj b.toNat g lo hi src.perm with tag := src.tag }

/-- `cperm` (R112). -/
def permCap (src : Cap) (mask : Nat) : Cap :=
  { src with bits := src.bits.extractLsb' 14 114 ++ BitVec.ofNat 8 (src.perm &&& mask) ++ src.bits.extractLsb' 0 6 }

/-- The checks of R24 in their order, for a task-local number `own` of the issuing field: the first cause, if any. -/
def checkCap (own : Nat) (c : Cap) (rights : Nat) (o : Int) (n : Nat) : Option Nat :=
  if !c.tag then some ccCapTag
  else if !c.has rights then some ccCapPerm
  else if c.obj ≥ localObj && c.obj ≠ own then some ccCapPerm
  else if o < c.base || o + n > c.top then some ccCapBounds
  else if o % n ≠ 0 then some ccAlign
  else none

/-- The checks of R24 without alignment, for a range. -/
def checkRange (own : Nat) (c : Cap) (rights : Nat) (o : Int) (n : Nat) : Option Nat :=
  if !c.tag then some ccCapTag
  else if !c.has rights then some ccCapPerm
  else if c.obj ≥ localObj && c.obj ≠ own then some ccCapPerm
  else if o < c.base || o + n > c.top then some ccCapBounds
  else none

/-! ### Tables of the device -/

/-- Replaces the first entry that a test picks, or adds one at the end. -/
def upsert {α : Type} (p : α → Bool) (x : α) : List α → List α
  | [] => [x]
  | a :: r => if p a then x :: r else a :: upsert p x r

/-- What the device holds for a context of which nothing has been set. -/
def Ctx.blank (n : Nat) : Ctx :=
  { no := n, wdg := 20, sth := 0, ecap := Cap.null, sdef := Cap.null, fq := Cap.null, fpool := Cap.null, nfr := 0
    nfmax := 1, wpc := 0, round := 0, openRound := 0, scopes := [], watches := [] }

/-- A field as a device reset leaves it. -/
def Field.blank (n : Nat) : Field :=
  { no := n, n := 0, nmin := 0, nmax := 0, backing := Cap.null, moving := none, tiles := [], tsc := Vector.replicate 8 0
    shadow := [], replays := 0, finIssued := 0, finDropped := 0, fenced := false, cycle := 0, lastSlot := 7
    gl := 0, ll := 0, gs := 0, ls := 0 }

/-- An empty context slot. -/
def Slot.blank (f i : Nat) : Slot :=
  { fld := f, idx := i, st := .empty, pend := .none, owner := none, img := Cap.null, ctx := 0, f0 := f, nsec := 1
    sidx := 0, frames := [], fresh := [], elems := [], capTab := [], why := 0, whyOff := 0, kp := 0, drainK := 0
    round0 := 0, table := [], tabRound := 0, start := [], lateRace := none, dead := false }

def State.ctxOf (s : State) (n : Nat) : Ctx := (s.ctxs.find? (·.no = n)).getD (Ctx.blank n)
def State.setCtx (s : State) (c : Ctx) : State := { s with ctxs := upsert (·.no = c.no) c s.ctxs }
def State.fieldOf (s : State) (n : Nat) : Field := (s.fields.find? (·.no = n)).getD (Field.blank n)
def State.setField (s : State) (f : Field) : State := { s with fields := upsert (·.no = f.no) f s.fields }
def State.slotOf (s : State) (f i : Nat) : Slot := (s.slots.find? fun e => e.fld = f && e.idx = i).getD (Slot.blank f i)
def State.setSlot (s : State) (e : Slot) : State :=
  { s with slots := upsert (fun x => x.fld = e.fld && x.idx = e.idx) e s.slots }
def State.taskOf (s : State) (tno : Nat) : Option Task := s.tasks.find? (·.tno = tno)
def State.setTask (s : State) (t : Task) : State := { s with tasks := upsert (·.tno = t.tno) t s.tasks }
/-- The task that holds a field (R192). -/
def State.taskAt (s : State) (f : Nat) : Option Task := s.tasks.find? (·.fields.contains f)

/-- The strand sits in this slot. -/
def Strand.at (t : Strand) (f i : Nat) : Bool := !t.finder && t.stat ≠ .free && t.fld = f && t.slot = i
/-- The strand of a slot, if one is there. -/
def State.strandAt (s : State) (f i : Nat) : Option Strand :=
  if s.me.at f i then some s.me else s.others.find? (·.at f i)
/-- The occupant of a slot rewritten. -/
def State.updStrand (s : State) (f i : Nat) (g : Strand → Strand) : State :=
  if s.me.at f i then { s with me := g s.me }
  else { s with others := s.others.map fun t => if t.at f i then g t else t }
/-- Every strand in a slot. -/
def State.strands (s : State) : List Strand := (s.me :: s.others).filter fun t => !t.finder && t.stat ≠ .free
/-- The numbers of the slots in use on a field. -/
def State.slotsUsed (s : State) (f : Nat) : List Nat := (s.strands.filter (·.fld = f)).map (·.slot)

/-- The task number that a record gives beside a party (R402): that of the task on a strand's or a region's field. -/
def State.partyTno (s : State) (party : Nat) : Nat :=
  let f := if party / 2 ^ 15 = 1 then party / 2 ^ 3 % 2 ^ 7 else party / 2 ^ 2 % 2 ^ 7
  if party / 2 ^ 14 = 1 then 0 else match s.taskAt f with
    | some k => k.tno
    | none => 0

/-- A fresh identity (the model's own counter). -/
def State.newId (s : State) : Nat × State := (s.ids, { s with ids := s.ids + 1 })
/-- A free value (log 4): nothing is known of it. -/
def State.freeVal (s : State) : W64 × State := (Config.freeValue s.free, { s with free := s.free + 1 })

/-- The task-local object number that the issuing field reaches (R24), 0 where it has no task. -/
def State.ownObj (s : State) (f : Nat) : Nat :=
  match s.taskAt f with
  | some t => localObj + t.fields.idxOf f
  | none => 0

/-- The party id of a strand (R254). -/
def strandParty (pkg f i : Nat) : Nat := 2 ^ 15 + pkg * 2 ^ 10 + f * 2 ^ 3 + i
/-- The party id of a region (R254). -/
def regionParty (pkg f i : Nat) : Nat := pkg * 2 ^ 9 + f * 2 ^ 2 + i
/-- The party id of the host complex. -/
def hostParty : Nat := 0x7FFF
def State.pkg (s : State) : Nat := s.host.pkgid.toNat
/-- The party of the strand whose turn it is. -/
def State.myParty (s : State) : Nat := strandParty s.pkg s.me.fld s.me.slot

/-! ### The registers of the strand whose turn it is (R14) -/

/-- A scalar register; s0 reads as zero. -/
def State.sreg (s : State) (r : RegF) : W64 := if r = 0 then 0 else s.me.regs[r.toNat]
/-- A predicate; p0 reads as true. -/
def State.pred (s : State) (p : PredF) : Bool := if p = 0 then true else s.me.preds[p.toNat]
/-- A capability register; c0 reads as null. -/
def State.creg (s : State) (c : CapF) : Cap := if c = 0 then Cap.null else s.me.caps[c.toNat]
/-- A scalar register of a five-bit capability field (R36). -/
def State.creg5 (s : State) (r : RegF) : Cap := s.creg (r.extractLsb' 0 4)

/-- Writes a scalar register. A write to s0 is discarded, and a load still in flight to the register is too (R14, R16). -/
def State.setSreg (s : State) (r : RegF) (v : W64) : State :=
  if r = 0 then s
  else { s with me := { s.me with regs := s.me.regs.set r.toNat v
                                  dests := s.me.dests.filter fun d => d.2 ≠ Dst.reg r } }
/-- Writes a predicate; a write to p0 is discarded. -/
def State.setPred (s : State) (p : PredF) (v : Bool) : State :=
  if p = 0 then s else { s with me := { s.me with preds := s.me.preds.set p.toNat v } }
/-- Writes a capability register; a write to c0 is discarded. -/
def State.setCreg (s : State) (c : CapF) (v : Cap) : State :=
  if c = 0 then s
  else { s with me := { s.me with caps := s.me.caps.set c.toNat v
                                  dests := s.me.dests.filter fun d => d.2 ≠ Dst.cap c } }

/-- The offset of the current instruction (R14). -/
def State.pc (s : State) : Nat := s.me.pcc.cur
/-- pcc moved on past an instruction of n bytes; the exemption of R425 has been used. The cursor has 48 bits: past offset
2^48 − 4 it is 0 (log 83). -/
def State.advance (s : State) (n : Nat) : State :=
  { s with me := { s.me with pcc := s.me.pcc.setCur (s.pc + n), unwatched := false } }
/-- pcc set by a taken branch. -/
def State.jump (s : State) (c : Cap) : State := { s with me := { s.me with pcc := c, unwatched := false } }

/-! ### Records of the fault queue (R402 to R404) -/

/-- The location word of a strand (R404). -/
def locStrand (pkg f i : Nat) : W64 := BitVec.ofNat 64 (3 + pkg * 2 ^ 3 + f * 2 ^ 8 + i * 2 ^ 15)
/-- The location word of a site. -/
def locSite (pkg f site cslot : Nat) : W64 := BitVec.ofNat 64 (pkg * 2 ^ 3 + f * 2 ^ 8 + site * 2 ^ 15 + cslot * 2 ^ 23)
def locPort (pkg mount : Nat) : W64 := BitVec.ofNat 64 (1 + pkg * 2 ^ 3 + mount * 2 ^ 8)
def locArray (pkg f arr : Nat) : W64 := BitVec.ofNat 64 (2 + pkg * 2 ^ 3 + f * 2 ^ 8 + arr * 2 ^ 15)
def locEngine (pkg id : Nat) : W64 := BitVec.ofNat 64 (4 + pkg * 2 ^ 3 + id % 2 ^ 24 * 2 ^ 32)

/-- A record with nothing but its kind and context. -/
def Record.blank (ctx kind : Nat) : Record :=
  { ctx := ctx, kind := kind, cause := 0, sub := 0, why := 0, party := 0, tno := 0, loc := 5, obj := 0, off := 0
    cnt := 0, det := 0 }
/-- The record goes to its context's fault queue when a unit posts it (R401). -/
def State.post (s : State) (r : Record) : State := { s with posts := s.posts ++ [r] }
/-- A record of a kind and location waits to be posted: its unit stays stalled as long (R401). -/
def State.unposted (s : State) (kind : Nat) (loc : W64) : Bool := s.posts.any fun r => r.kind = kind && r.loc = loc

/-! ### Traps (R27, R29) -/

/-- The Finder of a strand ends (R154). -/
def State.endFinder (s : State) (f i : Nat) : State :=
  { s with others := s.others.filter fun t => !(t.finder && t.fld = f && t.slot = i) }

/-- ECAP passes the fetch checks of R24 for a strand on field f. -/
def State.entryOk (s : State) (f : Nat) (c : Cap) : Bool := (checkCap (s.ownObj f) c pX c.cur 4).isNone

/-- The masks of a vector atomic that a trap interrupts are in its register (R290, R292). -/
def Strand.maskOut (t : Strand) : Strand :=
  match t.vmask with
  | some (d, m) => { t with vmask := none, regs := if d = 0 then t.regs else t.regs.set d.toNat (BitVec.ofNat 64 m) }
  | none => t

/-- What a trap does to the strand's own registers (R27). -/
def Strand.trapped (t : Strand) (k : TrapInfo) (ecapOk : Bool) : Strand :=
  let t := t.maskOut
  let t := { t with epc := t.pcc, code := BitVec.ofNat 8 k.code, sub := BitVec.ofNat 8 k.sub
                    fobj := k.fobj, faddr := k.faddr, trap := none, waiting := false, timedOut := false, bound := none
                    unwatched := false }
  if t.mode || !ecapOk then { t with dflt := true, stat := .stopped }
  else { t with pmode := t.mode, mode := true, pcc := t.ecap }

/-- Taking a trap (R27): the one operation that every precise cause goes through. A double fault stops the strand and
posts its record (R403 kind 1). -/
def State.takeTrap (s : State) (k : TrapInfo) : State :=
  let ok := s.entryOk s.me.fld s.me.ecap
  let s' := { s with me := s.me.trapped k ok }
  let s' := s'.endFinder s.me.fld s.me.slot
  if s'.me.stat = .stopped then
    s'.post { Record.blank s.me.ctx 1 with
      cause := k.code, sub := k.sub, party := s.myParty, tno := s.me.task, loc := locStrand s.pkg s.me.fld s.me.slot
      obj := k.fobj.toNat % 2 ^ 32, off := k.faddr.toNat % 2 ^ 48 }
  else s'

/-- A strand's slot is free; what its registers hold stays there (R126, R228). -/
def State.leave (s : State) (t : Strand) : State :=
  if t.finder || t.stat = .free then s
  else { s with left := { t with stat := .free, binds := [] } :: s.left.filter fun u => !(u.fld = t.fld && u.slot = t.slot) }

/-- Ends the Finder whose turn it is (R154). -/
def State.freeMe (s : State) : State := { s with me := Strand.empty }

/-- One more Finder instruction issued on the field, in its saturating counter (R154). -/
def State.finderCount (s : State) : State :=
  let f := s.fieldOf s.me.fld
  s.setField { f with finIssued := if f.finIssued = BitVec.allOnes 32 then f.finIssued else f.finIssued + 1 }

/-- A cause raised at the current instruction (R27): taken at once when no load is outstanding, held until then
otherwise. A Finder raises no fault: the instruction counts as issued, and it ends (R154). -/
def State.raise (s : State) (k : TrapInfo) : Out :=
  if s.me.finder then .next s.finderCount.freeMe
  else if s.me.ldc = 0 then .next (s.takeTrap k)
  else .next { s with me := { s.me with trap := some k } }

/-- Returning from a trap (R29, R425). -/
def State.eret (s : State) : State :=
  { s with me := { s.me with pcc := s.me.epc, mode := s.me.pmode, unwatched := s.me.code = 0x14 } }

/-! ### Class counters (R15) -/

/-- The four classes. -/
inductive Cls where
  | ld | st | xp | tl
  deriving DecidableEq, Repr

def Strand.count (t : Strand) : Cls → Nat
  | .ld => t.ldc
  | .st => t.stc
  | .xp => t.xpc
  | .tl => t.tlc
def Strand.setCount (t : Strand) (c : Cls) (n : Nat) : Strand :=
  match c with
  | .ld => { t with ldc := n }
  | .st => { t with stc := n }
  | .xp => { t with xpc := n }
  | .tl => { t with tlc := n }
/-- A request of the class leaves: the counter is below 63 (R15). -/
def Strand.up (t : Strand) (c : Cls) : Strand := t.setCount c (t.count c + 1)
/-- A request of the class has completed. -/
def Strand.down (t : Strand) (c : Cls) : Strand := t.setCount c (t.count c - 1)
/-- One more request of the class would take the counter past 63. -/
def Strand.full (t : Strand) (c : Cls) : Bool := t.count c ≥ 63
def State.up (s : State) (c : Cls) : State := { s with me := s.me.up c }

end Sys2Proof.Machine
end

