-- ==== Sys2Proof/Machine/Flags.lean ====
section
/-!
DEFINITION. The flags of FFLAGS (R20) and how an instruction raises them: bits are sticky, and a Finder's are discarded (R154).
-/
namespace Sys2Proof.Machine

/-- FFLAGS.su (R20, R89). -/
def flSU : Nat := 32

/-- Raises flags: each bit given is set, none is cleared (R20). -/
def State.orFlags (s : State) (f : Nat) : State :=
  if s.me.finder then s else { s with me := { s.me with fflags := s.me.fflags ||| BitVec.ofNat 6 f } }

/-- The mode of a sequencer instruction: its rm field, or FRM for 0b111 (R45, R116). -/
def State.rmode (s : State) (rm : BitVec 3) : RMode :=
  if rm = 7 then Machine.rmode s.me.frm.toNat else Machine.rmode rm.toNat

/-- A scalar settle that was undecided reaches the strand (R89). The spec describes no scalar settle: the sequencer's functions
never set su (R91) and a vector settle reports in its element's status word, so no instruction of the table calls this, and
FFLAGS.su is set by `sysw` alone (log 87, DEDUCED). -/
def State.raiseSu (s : State) (u : Bool) : State := if u then s.orFlags flSU else s

end Sys2Proof.Machine
end

