-- ==== Sys2Proof/Machine/Operands.lean ====
section
/-!
DEFINITION. Operand forms: scalar fields that may name queue registers (R17, R42), guards (R41), privileged forms (R26),
signed and unsigned immediates, and the one frame in which every sequencer instruction runs: queue rule, body, pops, pcc.
-/
namespace Sys2Proof.Machine

/-! ### Queue registers (R17, R42) -/

/-- Entries that a queue holds (R206). -/
def queueCap : Nat := 16

/-- The binding of a scalar field, if it names a bound queue register. A Finder binds none. -/
def State.bindOf (s : State) (r : RegF) : Option Bind :=
  if r.toNat < 24 then none else s.me.binds.find? fun b => b.q + 24 = r.toNat

/-- A scalar source: the head of its queue, or the register (R17). -/
def State.readReg (s : State) (r : RegF) : W64 :=
  match s.bindOf r with
  | some b => b.ents.headD 0
  | none => s.sreg r

/-- The binding of queue q rewritten. -/
def State.updBind (s : State) (q : Nat) (g : Bind → Bind) : State :=
  { s with me := { s.me with binds := s.me.binds.map fun b => if b.q = q then g b else b } }

/-- A scalar destination: one entry pushed, or the register written (R17). -/
def State.putReg (s : State) (r : RegF) (v : W64) : State :=
  match s.bindOf r with
  | some b => s.updBind b.q fun b => { b with ents := b.ents ++ [v] }
  | none => s.setSreg r v

/-- The fields of an instruction that R17 speaks of: sources, destinations, and destinations of loads, whose push comes
with the data (R103). -/
structure Opnds where
  reads : List RegF := []
  writes : List RegF := []
  loads : List RegF := []

/-- The field names a queue register bound the other way, or one whose binding has lost its channel. -/
def State.wrongQueue (s : State) (push : Bool) (r : RegF) : Bool :=
  match s.bindOf r with
  | some b => b.removed || b.push != push
  | none => false
/-- The first field that does so. -/
def State.badQueue (s : State) (o : Opnds) : Option RegF :=
  match o.reads.find? (s.wrongQueue false) with
  | some r => some r
  | none => (o.writes ++ o.loads).find? (s.wrongQueue true)

/-- The field names a queue that is empty. -/
def State.emptyQueue (s : State) (r : RegF) : Bool :=
  match s.bindOf r with
  | some b => b.ents.isEmpty
  | none => false
/-- The field names a queue that is full, or that an earlier load still has to push to (R103). -/
def State.fullQueue (s : State) (r : RegF) : Bool :=
  match s.bindOf r with
  | some b => queueCap ≤ b.ents.length || s.me.dests.any fun d => d.2 = Dst.queue b.q
  | none => false
/-- The instruction waits for a queue (R17). -/
def State.queueWaits (s : State) (o : Opnds) : Bool := o.reads.any s.emptyQueue || o.writes.any s.fullQueue

/-- The instruction at pcc has sent out an access that has not performed. -/
def State.sentOut (s : State) : Bool :=
  s.flights.any fun f => f.who = .strand s.me.fld s.me.slot && f.snap.any fun t => t.pcc = s.me.pcc

/-- One entry taken from each queue that the sources name, however many name it (R17). -/
def State.popAll (s : State) (reads : List RegF) : State :=
  if s.me.binds.isEmpty then s
  else
    let out := s.sentOut
    { s with me := { s.me with binds := s.me.binds.map fun b =>
        let pops := !b.push && (reads.any fun r => r.toNat = b.q + 24)
        let b := if out then { b with taken := if pops then b.ents.take 1 else [] } else b
        if pops then { b with ents := b.ents.drop 1 } else b } }

/-! ### The frame of an instruction -/

/-- What an instruction's body answers: it has completed and the next instruction follows; it has set pcc; it raises a
cause; it waits, and performs from its start when it is tried again (R417). -/
inductive Act where
  | done (s : State)
  | jump (s : State)
  | raise (k : TrapInfo) (s : State)
  | wait (s : State)

/-- How a Finder takes an instruction (R154): as a strand does; as a strand does but a fault drops it; not at all. -/
inductive Kind where
  | plain | load | other
  deriving DecidableEq

/-- A Finder has issued one instruction: its counter, and its limit (R154, R213). One that has issued its last stops, and
FINDER_LIMIT ends it. -/
def State.finderTick (s : State) : State :=
  let s := s.finderCount
  { s with me := { s.me with limit := s.me.limit - 1, stat := if s.me.limit = 1 then .stopped else s.me.stat } }

/-- A Finder's load is dropped (R154). -/
def State.finderDrop (s : State) : State :=
  let f := s.fieldOf s.me.fld
  s.setField { f with finDropped := if f.finDropped = BitVec.allOnes 32 then f.finDropped else f.finDropped + 1 }

/-- A strand's instruction has completed: queues popped, pcc moved on. -/
def State.retire (s : State) (len : Nat) (reads : List RegF) : State :=
  if s.me.finder then (s.advance len).finderTick else (s.popAll reads).advance len

/-- Runs an instruction of len bytes: the queue rule (R17, R38 item 6), its body, its completion. -/
def run (kind : Kind) (len : Nat) (o : Opnds) (body : State → Act) (s : State) : Out :=
  if s.me.finder && kind = .other then .next (s.retire len [])
  else
    match s.badQueue o with
    | some r => s.raise (mkTrap ccQueue 0 0 r.toNat)
    | none =>
      if s.queueWaits o then .next s
      else
        match body s with
        | .done t => .next (t.retire len o.reads)
        | .jump t => .next (if t.me.finder then t.finderTick else t.popAll o.reads)
        | .wait t => .next t
        | .raise k t =>
          if t.me.finder && kind = .load then .next (s.finderDrop.retire len [])
          else t.raise k

/-- A long instruction runs only if its guard is true (R41). -/
def runL (w : LF) (kind : Kind) (o : Opnds) (body : State → Act) (s : State) : Out :=
  if s.pred w.g then run kind 8 o body s else .next (s.retire 8 [])

/-- An instruction that runs in handler mode only (R26); in task mode it ends a Finder (R154). -/
def runPriv (len : Nat) (o : Opnds) (body : State → Act) (s : State) : Out :=
  if !s.me.mode then s.raise (mkTrap ccPriv 0 0 0) else run .other len o body s

/-! ### Operand shapes -/

/-- Register destination from two scalar sources. -/
def alu2 (d a b : RegF) (f : W64 → W64 → W64) (s : State) : Out :=
  run .plain 4 { reads := [a, b], writes := [d] } (fun s => .done (s.putReg d (f (s.readReg a) (s.readReg b)))) s
/-- Register destination from one scalar source. -/
def alu1 (d a : RegF) (f : W64 → W64) (s : State) : Out :=
  run .plain 4 { reads := [a], writes := [d] } (fun s => .done (s.putReg d (f (s.readReg a)))) s
/-- Predicate destination from two scalar sources. -/
def cmp2 (p : PredF) (a b : RegF) (f : W64 → W64 → Bool) (s : State) : Out :=
  run .plain 4 { reads := [a, b] } (fun s => .done (s.setPred p (f (s.readReg a) (s.readReg b)))) s
/-- Predicate destination from predicates: no queue takes part (R42). -/
def predOp (p : PredF) (f : State → Bool) (s : State) : Out :=
  run .plain 4 {} (fun s => .done (s.setPred p (f s))) s

/-- A signed immediate in 64 bits. -/
def sext {n : Nat} (i : BitVec n) : W64 := i.signExtend 64

/-- Sign or zero extension of the low n bits of a number to 64 bits (R54). -/
def extend (n : Nat) (sgn : Bool) (v : Nat) : W64 :=
  let v := v % 2 ^ n
  if sgn && v ≥ 2 ^ (n - 1) then BitVec.ofNat 64 (v + 2 ^ 64 - 2 ^ n) else BitVec.ofNat 64 v

/-- The low n bits of a number as a signed integer. -/
def toSigned (n : Nat) (v : Nat) : Int :=
  let v := v % 2 ^ n
  if v ≥ 2 ^ (n - 1) then (v : Int) - 2 ^ n else v

end Sys2Proof.Machine
end

