-- ==== Sys2Proof/Machine/Home.lean ====
section
/-!
DEFINITION. The memory system below the issuing units: member sets of scopes (R264 to R267), race detection (R269 to R274),
translation (R246 to R249), accesses at the home slice, the scratchpad port (R231 to R233) and L1 (R238 to R240).
-/
namespace Sys2Proof.Machine

/-! ### Member sets: bit p × 128 + f is field f of package p, bit 4096 + p × 32 + k slice k of it, bit 5120 the host. -/

def fieldBit (pkg f : Nat) : Nat := 2 ^ (pkg * 128 + f)
/-- n fields of a package from field f. -/
def fieldsMask (pkg f n : Nat) : Nat := (2 ^ n - 1) * 2 ^ (pkg * 128 + f)
/-- n slices of a package from slice k. -/
def slicesMask (pkg k n : Nat) : Nat := (2 ^ n - 1) * 2 ^ (4096 + pkg * 32 + k)
/-- Entry 4: every field and slice of the array, and the host complex (R264, R266). -/
def arraySet : Nat := 2 ^ 5121 - 1

/-- The dies that dmask names from package pbase on (R265). -/
def spanSet (pbase dmask : Nat) : Nat → Nat
  | 0 => 0
  | j + 1 =>
    let p := (pbase + j / 4) % 32
    (if bits dmask j 1 = 1 then fieldsMask p (j % 4 * 32) 32 ||| slicesMask p (j % 4 * 8) 8 else 0) ||| spanSet pbase dmask j

/-- The entry of a scope table (R264). -/
def Ctx.scope (c : Ctx) (x : Nat) : Option Scope := c.scopes.find? (·.ix = x)
/-- The current generation of an entry; 0 for a fixed one or one never set (R296). -/
def Ctx.gen (c : Ctx) (x : Nat) : Nat :=
  if x ≤ 4 then 0
  else
    match c.scope x with
    | some e => e.gen
    | none => 0
/-- The entry is valid (R265). -/
def Ctx.scopeOk (c : Ctx) (x : Nat) : Bool := x ≤ 4 || (match c.scope x with
  | some e => e.kind = 1 || e.kind = 2
  | none => false)

/-- The member set of an entry for an issuing field (R264 to R266); empty for entry 0 and for an invalid one. -/
def State.memberSet (s : State) (ctx f x : Nat) : Nat :=
  if x = 0 then 0
  else if x = 1 then fieldBit s.pkg f
  else if x = 2 then fieldsMask s.pkg (f / 4 * 4) 4 ||| slicesMask s.pkg (f / 4) 1
  else if x = 3 then fieldsMask s.pkg (f / 16 * 16) 16 ||| slicesMask s.pkg (f / 16 * 4) 4
  else if x = 4 then arraySet
  else
    match (s.ctxOf ctx).scope x with
    | some e =>
      if e.kind = 1 then (e.fmask * 2 ^ (e.pkg * 128)) ||| (e.smask * 2 ^ (4096 + e.pkg * 32))
      else if e.kind = 2 then spanSet e.pkg e.dmask 64 else 0
    | none => 0

/-- Every member of a is a member of b. -/
def subset (a b : Nat) : Bool := a &&& b = a
/-- The set holds a field other than the issuing one, or any slice (R238). -/
def State.beyond (s : State) (f set : Nat) : Bool := !subset set (fieldBit s.pkg f)

/-- The set that must lie in a scope for the party to be a member of it (R266). -/
def State.partySet (s : State) (party : Nat) : Nat :=
  if party = hostParty then 2 ^ 5120
  else if party ≥ 2 ^ 15 then fieldBit (bits party 10 5) (bits party 3 7)
  else
    let sl := s.slotOf (bits party 2 7) (bits party 0 2)
    fieldsMask (bits party 9 5) sl.f0 sl.nsec

/-- What the set of a scope must contain for a party to be its member: all of these members, or at least one. An engine
(numbered from 1) that acts for its party has its own row but for collective and NVMe engines (R266). -/
def State.needs (s : State) (party unit fld : Nat) : Nat × Bool :=
  if unit = 0 then (s.partySet party, false)
  else
    let kind := (unit - 1) % 16
    let idx := bits (unit - 1) 4 8
    if kind = 8 || kind = 9 then (fieldBit s.pkg fld, false)
    else if kind = 0 || kind = 1 || kind = 3 || kind = 7 then (slicesMask s.pkg (idx / 2) 1, false)
    else if kind = 5 || kind = 6 then (slicesMask s.pkg (4 * idx) 4, true)
    else (s.partySet party, false)
/-- The party, or the engine that acts for it, is a member of a scope with this set (R266). -/
def State.isMember (s : State) (party set : Nat) (unit fld : Nat := 0) : Bool :=
  let n := s.needs party unit fld
  if n.2 then n.1 &&& set ≠ 0 else subset n.1 set

/-! ### Parties' tables (R270, R469) -/

/-- The context's open round, the round of a strand's accesses (R260). -/
def State.openRound (s : State) (ctx : Nat) : W32 := (s.ctxOf ctx).openRound

/-- The acquired-release table and the start record of a party, both empty once its round has advanced (R270, R469). -/
def State.tables (s : State) (ctx party : Nat) : List Nat × List Nat :=
  if party = hostParty then ([], [])
  else if party ≥ 2 ^ 15 then
    match s.strandAt (bits party 3 7) (bits party 0 3) with
    | some t => if t.tabRound = s.openRound ctx then (t.table, t.start) else ([], [])
    | none => ([], [])
  else
    let e := s.slotOf (bits party 2 7) (bits party 0 2)
    if e.tabRound = s.openRound ctx then (e.table, e.start) else ([], [])

/-- The party's table holds x (R271). -/
def State.holds (s : State) (ctx party x : Nat) : Bool :=
  x = party || (s.tables ctx party).1.contains x || (s.tables ctx party).2.contains x

/-- Parties added to a list without repeats. -/
def addParties (l : List Nat) (xs : List Nat) : List Nat := xs.foldl (fun a x => if a.contains x then a else a ++ [x]) l

/-- An acquire enters parties into a party's table (R270); none where it would need a 33rd entry. -/
def State.enter (s : State) (ctx party : Nat) (xs : List Nat) : Option State :=
  if party = hostParty then some s
  else
    let t := addParties (s.tables ctx party).1 (xs.filter (· ≠ party))
    let st := (s.tables ctx party).2
    let r := s.openRound ctx
    if t.length > 32 then none
    else if party ≥ 2 ^ 15 then
      some (s.updStrand (bits party 3 7) (bits party 0 3) fun e => { e with table := t, start := st, tabRound := r })
    else some (s.setSlot { s.slotOf (bits party 2 7) (bits party 0 2) with table := t, start := st, tabRound := r })

/-! ### Race metadata (R269, R271) -/

def Race.blank (ctx obj sec : Nat) : Race :=
  { ctx := ctx, obj := obj, sec := sec, wp := 0, wr := 0, wv := false, wa := false, rd := [], rr := 0, ovf := false }
def State.raceOf (s : State) (ctx obj sec : Nat) : Race :=
  (s.race.find? fun r => r.ctx = ctx && r.obj = obj && r.sec = sec).getD (Race.blank ctx obj sec)
def State.setRace (s : State) (r : Race) : State :=
  { s with race := upsert (fun x => x.ctx = r.ctx && x.obj = r.obj && x.sec = r.sec) r s.race }

/-- "Multiple readers" as the other party (R254, R274). -/
def manyReaders : Nat := 0x4000

/-- A reader recorded (R271). -/
def Race.readBy (m : Race) (party : Nat) (round : BitVec 16) : Race :=
  let m := if m.rr = round then m else { m with rr := round, rd := [], ovf := false }
  let p16 := BitVec.ofNat 16 party
  if m.rd.contains p16 then m
  else if m.rd.length < 2 then { m with rd := m.rd ++ [p16] } else { m with ovf := true }

/-- The last write recorded (R271). -/
def Race.wroteBy (m : Race) (party : Nat) (round : BitVec 16) (sync : Bool) : Race :=
  { m with wp := BitVec.ofNat 16 party, wr := round, wv := true, wa := sync, rd := [], ovf := false }

/-- The other party of an access that raises RACE (R271). -/
def Race.other (m : Race) (party : Nat) (round : BitVec 16) (sync reads writes : Bool) (holds : Nat → Bool) : Option Nat :=
  if (reads || writes) && m.wv && m.wr = round && !(m.wa && sync) && !holds m.wp.toNat then some m.wp.toNat
  else if writes then
    let m := if reads && !sync then m.readBy party round else m
    if m.rr = round && m.ovf then some manyReaders
    else if m.rr = round then (m.rd.find? fun r => !holds r.toNat).map (·.toNat) else none
  else none

/-- The metadata once an access has performed (R271). -/
def Race.after (m : Race) (party : Nat) (round : BitVec 16) (sync reads writes : Bool) : Race :=
  let m := if reads && !sync then m.readBy party round else m
  if writes then m.wroteBy party round sync else m

/-- The procedure of R271: the other party of a RACE, or the metadata afterwards. -/
def raceStep (m : Race) (party : Nat) (round : BitVec 16) (sync reads writes : Bool) (holds : Nat → Bool) : Except Nat Race :=
  match m.other party round sync reads writes holds with
  | some o => .error o
  | none => .ok (m.after party round sync reads writes)

/-- The trap of a RACE (R274). -/
def raceTrap (obj sec other : Nat) : TrapInfo :=
  mkTrap ccRace 0 (obj % 2 ^ 32 + (if other = manyReaders then 2 ^ 48 else other % 2 ^ 16 * 2 ^ 32)) (sec * 16)

/-! ### Translation (R246 to R249) -/

/-- What a memory port decides about a request (R248): the key of the byte in HBM with the object's codec kind and
chunk-length address; a hold with its cause and reason; or a hold without record while the page migrates. -/
inductive Tr where
  | ok (key kind side : Nat)
  | held (cause why : Nat)
  | busy
  deriving DecidableEq, Repr

/-- A descriptor of the Almanac (R246). -/
structure Desc where
  obj : Nat
  flags : Nat
  npg : Nat
  ptab : Nat
  side : Nat
  rest : Nat

/-- The base of a context's descriptor array at a mount (R459). -/
def State.almanac (s : State) (mount ctx : Nat) : Nat :=
  if h : mount < 8 then readLE s.mem (hbmKey mount (s.host.adir[mount].toNat + 8 * ctx)) 6 else 0

def State.descAt (s : State) (mount ctx obj : Nat) : Desc :=
  let k := hbmKey mount (s.almanac mount ctx + obj / 256 * 64)
  { obj := readLE s.mem k 4, flags := readLE s.mem (k + 4) 1, npg := readLE s.mem (k + 8) 8
    ptab := readLE s.mem (k + 16) 8, side := readLE s.mem (k + 24) 8
    rest := readLE s.mem (k + 5) 3 + readLE s.mem (k + 32) 32 }

/-- The descriptor is valid for the object (R246, R248). -/
def Desc.ok (d : Desc) (obj : Nat) : Bool :=
  d.flags % 2 = 1 && d.obj = obj && d.flags / 8 = 0 && d.flags / 2 % 4 ≤ 3 && d.rest = 0
def Desc.kind (d : Desc) : Nat := d.flags / 2 % 8
/-- The key of a page's entry (R247). -/
def Desc.entryKey (d : Desc) (mount page : Nat) : Nat := hbmKey mount (d.ptab + 8 * page)

/-- The pin of a page that a transformation holds (R250). -/
def State.pinOf (s : State) (ctx obj page : Nat) : Option Pin :=
  let at_ (c : Nat) (l : List Pin) : Option Pin := if c = ctx then l.find? fun p => p.obj = obj && p.page = page else none
  (s.streams.findSome? fun st => st.reqs.findSome? fun r => at_ r.ctx r.pinned).or
    (s.nvcmds.findSome? fun c => at_ c.ctx c.pins)

/-- The decision of R248 for one byte. While its page is pinned, the port uses the translation that it pinned (R250). -/
def State.translate (s : State) (ctx obj off : Nat) (wr : Bool) : Tr :=
  let mount := obj % 8
  let page := off / 65536
  match s.pinOf ctx obj page with
  | some p => if wr && p.ro then .held ccCow 4 else .ok (hbmKey mount (p.frame * 65536 + off % 65536)) p.kind p.side
  | none =>
    let d := s.descAt mount ctx obj
    if s.almanac mount ctx = 0 || !d.ok obj || off ≥ d.npg * 65536 then .held ccNotPresent 1
    else
      let e := readLE s.mem (d.entryKey mount page) 8
      let frame := bits e 16 24
      if e % 4 = 0 then .held ccNotPresent 2
      else if e % 4 = 3 || bits e 3 13 ≠ 0 || bits e 40 24 ≠ 0 || frame ≥ Config.frames then .held ccNotPresent 3
      else if e % 4 = 2 then .busy
      else if wr && bits e 2 1 = 1 then .held ccCow 4
      else .ok (hbmKey mount (frame * 65536 + off % 65536)) d.kind d.side

/-- The page's entry forbids writes (R247). -/
def State.pageRo (s : State) (ctx obj page : Nat) : Bool :=
  let d := s.descAt (obj % 8) ctx obj
  bits (readLE s.mem (d.entryKey (obj % 8) page) 8) 2 1 = 1

/-- The pin that a page is given once it has been translated (R250). -/
def State.newPin (s : State) (ctx obj page key kind side : Nat) : Pin :=
  { obj := obj, page := page, frame := key % 2 ^ 48 / 65536, ro := s.pageRo ctx obj page, kind := kind, side := side }

/-- The bytes that the port gives for 16 bytes at a key, expanded where the object is coded (R251). Undecodable: none. -/
def State.portRead (s : State) (key kind side off : Nat) : Option Nat :=
  if kind = 0 then some (readLE s.mem key 16)
  else
    let mount := key / 2 ^ 48
    let len := readLE s.mem (hbmKey mount (side + off / 4096)) 1
    if len = 0 then some (readLE s.mem key 16)
    else if len > 63 then none
    else (decodeChunk kind len (readBytes s.mem (key - off % 4096) 4096)).map fun b => fieldLE b (off % 4096) 16

/-- The chunk of a coded object stored raw before one of its lines is written back (R251). -/
def State.portRaw (s : State) (key kind side off : Nat) : State :=
  if kind = 0 then s
  else
    let lk := hbmKey (key / 2 ^ 48) (side + off / 4096)
    let len := readLE s.mem lk 1
    if len = 0 then s
    else
      let base := key - off % 4096
      match (if len > 63 then none else decodeChunk kind len (readBytes s.mem base 4096)) with
      | some b => { s with mem := writeByte (writeBytes s.mem base b) lk 0 }
      | none => { s with mem := writeByte s.mem lk 0
                         poison := (List.range 256).foldl (fun p i => setIn p (base / 16 + i)) s.poison }

/-- An undecodable chunk's lines marked poisoned (R253). -/
def State.poisonChunk (s : State) (key off : Nat) : State :=
  { s with poison := (List.range 256).foldl (fun p i => setIn p ((key - off % 4096) / 16 + i)) s.poison }

/-- A byte has been read whose chunk may be undecodable: it is then poisoned, for a read that keeps nothing else (R253). -/
def State.noteRead (s : State) (ctx obj off : Nat) : State :=
  match s.translate ctx obj off false with
  | .ok key kind side =>
    match s.portRead (key - off % 16) kind side (off - off % 16) with
    | none => s.poisonChunk (key - off % 16) (off - off % 16)
    | some _ => s
  | _ => s

/-! ### Results of an access -/

/-- What became of an access: performed with a value, tag and flags; held at its port with a record (R248) or without;
or a fault for its issuer. -/
inductive Res where
  | val (v : Nat) (tag : Bool) (fl : Nat)
  | hold (cause why : Nat)
  | busy
  | raise (k : TrapInfo)
  deriving DecidableEq, Repr

/-! ### Atomics (R286, R288) -/

/-- The new value of an atomic on n bytes, and the flags of `fadd`. -/
def atomF (op n old v : Nat) : Nat × Nat :=
  let w := 8 * n
  let a := toSigned w old
  let b := toSigned w v
  match op with
  | 0 => ((old + v) % 2 ^ w, 0)
  | 1 => (if a ≤ b then old else v, 0)
  | 2 => (if a ≥ b then old else v, 0)
  | 3 => (min old v, 0)
  | 4 => (max old v, 0)
  | 5 => (old &&& v, 0)
  | 6 => (old ||| v, 0)
  | 7 => (old ^^^ v, 0)
  | 8 => (v, 0)
  | 9 => (if n = 4 then fmtS else fmtD).add .rne old v
  | 10 => ((old + 1) % 2 ^ w, 0)
  | _ => (old, 0)

/-- An atomic's old value extends with its sign, but for minu, maxu and fadd (R286). -/
def atomSigned (op : Nat) : Bool := op ≠ 3 && op ≠ 4 && op ≠ 9

def AccOp.reads : AccOp → Bool
  | .read | .capRead | .atomic _ _ | .cas _ _ => true
  | _ => false
def AccOp.writes : AccOp → Bool
  | .read | .capRead => false
  | _ => true
def AccOp.compares : AccOp → Bool
  | .cas _ _ => true
  | _ => false
def AccOp.isAtomic : AccOp → Bool
  | .atomic _ _ | .cas _ _ => true
  | _ => false

/-- What an operation leaves in its n bytes: the value and tag, or nothing where it does not write; and its flags. -/
def AccOp.apply (op : AccOp) (n old : Nat) : Option (Nat × Bool) × Nat :=
  match op with
  | .read | .capRead => (none, 0)
  | .write v => (some (v % 2 ^ (8 * n), false), 0)
  | .capWrite c => (some (c.bits.toNat, c.tag), 0)
  | .atomic o v => let r := atomF o n old (v % 2 ^ (8 * n)); (some (r.1, false), r.2)
  | .cas e v => (if old = e % 2 ^ (8 * n) then some (v % 2 ^ (8 * n), false) else none, 0)

/-! ### Releases and acquires on a location (R261, R262) -/

def Rel.overlaps (r : Rel) (ctx obj off n : Nat) : Bool :=
  r.ctx = ctx && r.obj = obj && r.off < off + n && off < r.off + r.n

/-- The releases of the value that the home of these bytes holds. -/
def State.relsAt (s : State) (ctx obj off n : Nat) : List Rel := s.rels.filter (·.overlaps ctx obj off n)

/-- The bytes of its sector that a release wrote, as a mask. -/
def Rel.mask (r : Rel) : Nat := (2 ^ r.n - 1) * 2 ^ (r.off % 16)
/-- The release is on some of these bytes of a sector. -/
def Rel.hits (r : Rel) (ctx obj sec mask : Nat) : Bool := r.ctx = ctx && r.obj = obj && r.off / 16 = sec && r.mask &&& mask ≠ 0

/-- The object by which releases on an access's bytes are noted: a scratchpad is its field's, whatever its number. -/
def Access.relObj (a : Access) : Nat := if a.obj ≥ localObj then 2 ^ 32 + a.fld else a.obj

/-- The release and an acquire of a party at a set synchronise (R262): both are members of both scopes. -/
def State.syncs (s : State) (r : Rel) (party set : Nat) (unit fld : Nat := 0) : Bool :=
  r.party ≠ party && s.isMember r.party (r.set &&& set) r.unit r.fld && s.isMember party (r.set &&& set) unit fld

/-- An acquire at a set from some releases (R262, R270): none where the table would overflow. -/
def State.acquireFrom (s : State) (ctx party set : Nat) (rs : List Rel) (unit fld : Nat := 0) : Option State :=
  s.enter ctx party ((rs.filter fun r => s.syncs r party set unit fld).flatMap fun r => r.party :: r.table)

/-- Clean sectors that an acquire invalidates in a field's L1 (R240). -/
def State.invalidate (s : State) (ctx f set : Nat) : State :=
  { s with l1 := s.l1.filter fun e =>
      !(e.fld = f && e.ctx = ctx && e.dirty = 0 &&
        !(e.gen = (s.ctxOf ctx).gen e.scope && subset set (s.memberSet ctx f e.scope))) }

/-- The releases that a write is, one for each of its scopes. -/
def State.relsOf (s : State) (a : Access) : List Rel :=
  let t := s.tables a.ctx a.party
  a.rel.map fun set => { ctx := a.ctx, obj := a.relObj, off := a.off, n := a.n, party := a.party, set := set
                         table := a.carry.getD (t.1 ++ t.2), unit := a.unit, fld := a.fld }

/-- The releases of a write noted on its bytes, as it performs; a plain write ends the release sequences there, an atomic
goes on with them (R262). -/
def State.noteWrite (s : State) (a : Access) : State :=
  let keep := if a.op.isAtomic then s.rels else s.rels.filter fun r => !r.overlaps a.ctx a.relObj a.off a.n
  { s with rels := keep ++ s.relsOf a }

/-! ### Writes at the home slice: invalidations, monitors, watchpoints -/

/-- Tracked copies of a line in other fields' L1s invalidated before a write performs (R239): of a sector with dirty bytes,
which no other party's write may take away, what was filled. -/
def State.dropCopies (s : State) (ctx obj sec keep : Nat) : State :=
  let hit (e : L1Sec) : Bool := e.ctx = ctx && e.obj = obj && e.sec / 4 = sec / 4 && e.fld ≠ keep && e.tracked
  { s with l1 := (s.l1.filter fun e => !(hit e && e.dirty = 0)).map fun e => if hit e then { e with valid := false } else e }

/-- Every arm on the sector woken by a write (R300). -/
def State.wakeArms (s : State) (ctx obj sec : Nat) : State :=
  { s with arms := s.arms.map fun a => if a.ctx = ctx && a.obj = obj && a.sec = sec && a.woken = 0 then { a with woken := 2 } else a }

/-- The watchpoints that a write of n bytes strikes, lowest first (R423). -/
def State.struck (s : State) (ctx obj off n : Nat) : List Nat :=
  let c := s.ctxOf ctx
  if !c.wpc.getLsbD 4 then []
  else (List.range 4).filter fun k => c.wpc.getLsbD k && c.watches.any fun w =>
    w.k = k && w.obj = obj && w.sec = off / 16 && w.mask.toNat &&& ((2 ^ n - 1) * 2 ^ (off % 16)) ≠ 0
/-- The hit bits of watchpoints set (R421, R423). -/
def State.setHits (s : State) (ctx : Nat) (ks : List Nat) : State :=
  if ks.isEmpty then s
  else
    let c := s.ctxOf ctx
    s.setCtx { c with wpc := ks.foldl (fun w k => w ||| BitVec.ofNat 64 (2 ^ (8 + k))) c.wpc }

/-- The location word of a party that has one. -/
def State.locParty (s : State) (party : Nat) : W64 :=
  if party ≥ 2 ^ 15 then locStrand s.pkg (bits party 3 7) (bits party 0 3) else 5

/-- The kind-6 record of a write that has applied and that strikes a watchpoint; its source is not stopped (R424). -/
def State.watchDone (s : State) (a : Access) : State :=
  match s.struck a.ctx a.obj a.off a.n with
  | [] => s
  | k :: r => (s.setHits a.ctx (k :: r)).post { Record.blank a.ctx 6 with
      cause := ccWatch, sub := k, party := a.party, loc := s.locParty a.party, obj := a.obj, off := a.off }
/-- The same for a write that only its home slice checks: an atomic's or the host complex's. -/
def State.watchAfter (s : State) (a : Access) : State := if a.op.isAtomic || a.party = hostParty then s.watchDone a else s

/-! ### An access at the home slice -/

/-- Bytes placed within their sector: the data and the byte mask. -/
def inSector (off n v : Nat) : Nat × Nat := (v * 2 ^ (8 * (off % 16)), (2 ^ n - 1) * 2 ^ (off % 16))

/-- Masked bytes of one sector stored at a key: tag, poison and codec as R23, R244 and R251 state. A partial write to a
poisoned sector writes nothing. -/
def State.storeSector (s : State) (key kind side off data mask : Nat) (tag : Bool) : State :=
  let k0 := key - off % 16
  let s := s.portRaw k0 kind side (off - off % 16)
  let sec := k0 / 16
  if mask = 2 ^ 16 - 1 then
    { s with mem := writeMask s.mem k0 16 data mask, tags := setPut s.tags sec tag, poison := setOut s.poison sec }
  else if s.poison.contains sec then s
  else { s with mem := writeMask s.mem k0 16 data mask, tags := setOut s.tags sec }

/-- The access's party holds x (R271): as it was when the access left, where it has been on its way. -/
def State.accHolds (s : State) (a : Access) (x : Nat) : Bool :=
  match a.carry with
  | none => s.holds a.ctx a.party x
  | some l => x = a.party || l.contains x

/-- The race check of an access, if it takes part (R271): metadata updated, or the trap. The host complex's accesses never
conflict (R455): they raise nothing. -/
def State.checkRace (s : State) (a : Access) (writes : Bool) : Except TrapInfo State :=
  if a.exempt then .ok s
  else
    let m := s.raceOf a.ctx a.obj (a.off / 16)
    let r16 := BitVec.ofNat 16 a.round.toNat
    if a.force then .ok (s.setRace (m.after a.party r16 a.sync a.op.reads writes))
    else
      match raceStep m a.party r16 a.sync a.op.reads writes (s.accHolds a) with
      | .error other =>
        if a.party ≠ hostParty then .error (raceTrap a.obj (a.off / 16) other)
        else if writes then .ok (s.setRace (m.wroteBy a.party r16 true))
        else .ok s
      | .ok m => .ok (s.setRace m)

/-- The captured generation is still that of the entry (R268). -/
def State.fresh (s : State) (a : Access) : Bool := a.scope ≤ 4 || (s.ctxOf a.ctx).gen a.scope = a.gen

/-- STALE_SCOPE or SCOPE_INVALID as R285 reports it. -/
def scopeTrap (code obj x gen : Nat) : TrapInfo := mkTrap code 0 obj (x % 32 + gen % 64 * 256)

/-- An access performed at its home slice. Package p serves only objects homed there: another package refuses at once
(R452). -/
def State.homePerform (s : State) (a : Access) : State × Res :=
  if a.obj / 8 % 32 ≠ s.pkg then (s, .raise (mkTrap ccRemote 0 a.obj a.off))
  else if !s.fresh a then (s, .raise (scopeTrap ccStale a.obj a.scope a.gen))
  else
    match s.translate a.ctx a.obj a.off a.op.writes with
    | .busy => (s, .busy)
    | .held c w =>
      -- whether a compare succeeds is not known before it is made, and it is checked then
      if a.op.compares then (s, .hold c w)
      else
        match s.checkRace a a.op.writes with
        | .error k => (s, .raise k)
        | .ok s => (s, .hold c w)
    | .ok key kind side =>
      let k0 := key - a.off % 16
      -- an undecodable chunk is poisoned as it is read (R253): reads fail, and a write of part of a sector writes nothing (R244)
      let (s, sector) : State × Nat := match s.portRead k0 kind side (a.off - a.off % 16) with
        | some v => (s, v)
        | none => (s.poisonChunk k0 (a.off - a.off % 16), 0)
      let old := bits sector (8 * (a.off % 16)) (8 * a.n)
      let tag := s.tags.contains (k0 / 16)
      if s.poison.contains (k0 / 16) && a.op.reads then (s, .raise (mkTrap ccPoison 0 a.obj a.off))
      else
        let (new, fl) := a.op.apply a.n old
        match s.checkRace a new.isSome with
        | .error k => (s, .raise k)
        | .ok s =>
          match new with
          | none => (s, .val old tag fl)
          | some (v, t) =>
            let s := s.dropCopies a.ctx a.obj (a.off / 16) a.fld
            let (data, mask) := inSector a.off a.n v
            let s := s.storeSector key kind side a.off data mask t
            (((s.noteWrite a).wakeArms a.ctx a.obj (a.off / 16)).watchAfter a, .val old tag fl)

/-! ### Replies to requests of another die (R445) -/

/-- The home slice of a byte (R242): the dome of the package. -/
def homeSlice (obj off : Nat) : Nat :=
  let ln := off / 64
  obj % 8 * 4 + (List.range 21).foldl (fun d k => d ^^^ bits ln (2 * k) 2) (bits obj 8 2)

/-- Replies that a home slice keeps for a source, and requests that a source has outstanding there. -/
def replyCap : Nat := 64

/-- The request left its die: its object's mount is on another one (R442, R445). -/
def Access.offDie (a : Access) : Bool := a.obj < localObj && a.obj % 8 / 2 ≠ a.fld / 32

/-- A home slice and the source of a request, which its numbers and kept replies go by. -/
def Access.replyKey (a : Access) : Nat := homeSlice a.obj a.off + 32 * a.party

/-- The reply that a home slice has kept for a request. -/
def State.replyOf (s : State) (id : Nat) (a : Access) : Option Nat :=
  (s.replies.find? fun r => r.1 = a.replyKey && r.2.1 = id).map (·.2.2)

/-- The reply of a request from another die is kept, among the last 64 of its source at its home slice. -/
def State.noteReply (s : State) (id : Nat) (a : Access) (v : Nat) : State :=
  if !a.offDie then s
  else
    let k := a.replyKey
    let mine := s.replies.filter (·.1 = k)
    { s with replies := (s.replies.filter (·.1 ≠ k)) ++ (mine.drop (mine.length + 1 - replyCap)) ++ [(k, id, v)] }

/-! ### L1 (R238 to R240, R272, R273) -/

def L1Sec.is (e : L1Sec) (f ctx obj sec : Nat) : Bool := e.fld = f && e.ctx = ctx && e.obj = obj && e.sec = sec
def State.l1At (s : State) (f ctx obj sec : Nat) : Option L1Sec := s.l1.find? (·.is f ctx obj sec)
def State.l1Drop (s : State) (f ctx obj sec : Nat) : State := { s with l1 := s.l1.filter fun e => !e.is f ctx obj sec }
def State.l1Put (s : State) (e : L1Sec) : State := { s with l1 := upsert (·.is e.fld e.ctx e.obj e.sec) e s.l1 }

/-- The ways of a field's L1: four for each step that the scratchpad does not hold (R231). -/
def Field.l1Ways (f : Field) : Nat := 4 * (16 - f.n)
/-- The lines that a field's L1 holds: context, object, line number. -/
def State.l1Lines (s : State) (f : Nat) : List (Nat × Nat × Nat) :=
  ((s.l1.filter (·.fld = f)).map fun e => (e.ctx, e.obj, e.sec / 4)).eraseDups
/-- A sector may enter a field's L1: its line is there, or its set has a free way. Where it has none, the access waits until one
of the set's lines is evicted (R231, log 98). -/
def State.l1Room (s : State) (f ctx obj sec : Nat) : Bool :=
  let ls := s.l1Lines f
  let set (l : Nat × Nat × Nat) : Nat := Config.l1Set l.1 l.2.1 l.2.2 % 2048
  let ways := (s.fieldOf f).l1Ways
  ls.length < ways || ls.contains (ctx, obj, sec / 4) || (ls.filter fun l => set l = set (ctx, obj, sec / 4)).length < ways

/-- Bytes of a over those of b where the mask says so. -/
def mergeBytes : Nat → Nat → Nat → Nat → Nat
  | 0, _, _, _ => 0
  | n + 1, mask, a, b => (if mask % 2 = 1 then a % 256 else b % 256) + 256 * mergeBytes n (mask / 2) (a / 256) (b / 256)

/-- How a write-back went. -/
inductive WbRes where
  | ok
  | race (other : Nat)
  | hold (cause why : Nat)
  | busy
  deriving DecidableEq, Repr

/-- The releases on the value at home once the dirty bytes of a sector have arrived there (R262). -/
def State.landRels (s : State) (e : L1Sec) : List Rel :=
  let mine (r : Rel) : Bool := r.hits e.ctx e.obj e.sec e.dirty.toNat
  s.rels.filter (fun r => !mine r) ++ e.rels.filter mine

/-- The dirty bytes of one L1 sector arrive at the home slice (R240, R273). The data lands even where it races; a write
that the port holds has not arrived. The sector stays, clean, with the scope that it records. -/
def State.writeBack (s : State) (e : L1Sec) : State × WbRes :=
  if e.dirty = 0 then (s, .ok)
  else
    match s.translate e.ctx e.obj (e.sec * 16) true with
    | .busy => (s, .busy)
    | .held c w => (s, .hold c w)
    | .ok key kind side =>
      let m := s.raceOf e.ctx e.obj e.sec
      let r16 := BitVec.ofNat 16 e.wround.toNat
      let res := if e.exempt then WbRes.ok else
        match m.other e.wparty r16 e.sync false true (s.holds e.ctx e.wparty) with
        | none => WbRes.ok
        | some other => WbRes.race other
      let s := (if e.exempt then s else s.setRace (m.wroteBy e.wparty r16 e.sync)).dropCopies e.ctx e.obj e.sec e.fld
      let s := s.storeSector key kind side (e.sec * 16) e.data.toNat e.dirty.toNat e.tag
      let s := { s with rels := s.landRels e }.wakeArms e.ctx e.obj e.sec
      let e' := if e.valid || e.dirty ≠ BitVec.allOnes 16 then e else { e with valid := true, party := e.wparty, round := e.wround }
      (s.l1Put { e' with dirty := 0 }, res)

/-- A RACE of an eviction kept for its writer (R273). -/
def State.keepRace (s : State) (e : L1Sec) (other : Nat) : State :=
  let k := raceTrap e.obj e.sec other
  if e.wparty ≥ 2 ^ 15 then
    s.updStrand (bits e.wparty 3 7) (bits e.wparty 0 3) fun t =>
      match t.lateRace with
      | some old => if old.faddr.toNat ≤ k.faddr.toNat then t else { t with lateRace := some k }
      | none => { t with lateRace := some k }
  else
    let sl := s.slotOf (bits e.wparty 2 7) (bits e.wparty 0 2)
    match sl.lateRace with
    | some old => if old.faddr.toNat ≤ k.faddr.toNat then s else s.setSlot { sl with lateRace := some k }
    | none => s.setSlot { sl with lateRace := some k }

/-- Write-backs one after another, until one is held; races are kept for their writers. -/
def State.writeBacks (s : State) : List L1Sec → State × WbRes
  | [] => (s, .ok)
  | e :: r =>
    match s.writeBack e with
    | (s, .ok) => s.writeBacks r
    | (s, .race other) => (s.keepRace e other).writeBacks r
    | (s, x) => (s, x)

/-- The dirty sectors that a release at a set writes back (R240). -/
def State.relDirty (s : State) (ctx f set : Nat) : List L1Sec :=
  s.l1.filter fun e => e.fld = f && e.ctx = ctx && e.dirty ≠ 0 &&
    !(e.gen = (s.ctxOf ctx).gen e.scope && subset set (s.memberSet ctx f e.scope))

/-- The sector that a fill of an access leaves in L1, or that a probe renews (R238, R272). A probe leaves the recorded scope as
it is, and so does a fill of the rest of a sector with dirty bytes, whose writer's scope the next release needs (R240). -/
def State.fillSec (s : State) (a : Access) (data : Nat) (tag : Bool) (old : Option L1Sec) : L1Sec :=
  let home := s.rels.filter fun r => r.hits a.ctx a.obj (a.off / 16) 0xFFFF
  let beyond := s.beyond a.fld (s.memberSet a.ctx a.fld a.scope)
  match old with
  | none =>
    { fld := a.fld, ctx := a.ctx, obj := a.obj, sec := a.off / 16, data := BitVec.ofNat 128 data, tag := tag, dirty := 0, valid := true
      tracked := beyond, scope := a.scope, gen := a.gen, party := a.party, round := a.round, rels := home }
  | some e =>
    let fill := !e.valid && e.dirty = 0
    let d := e.dirty.toNat
    { e with
      data := BitVec.ofNat 128 (if e.dirty = 0 then data else mergeBytes 16 d e.data.toNat data)
      tag := if e.dirty = 0 then tag else e.tag
      valid := true, tracked := e.tracked || (!e.valid && beyond)
      scope := if fill then a.scope else e.scope, gen := if fill then a.gen else e.gen
      party := a.party, round := a.round
      rels := home.filter (fun r => !r.hits a.ctx a.obj (a.off / 16) d) ++ e.rels.filter fun r => r.hits a.ctx a.obj (a.off / 16) d }

/-- A sector's value for a read of n bytes. -/
def L1Sec.read (e : L1Sec) (off n : Nat) : Nat := bits e.data.toNat (8 * (off % 16)) (8 * n)
/-- The bytes read are all dirty. -/
def L1Sec.dirtyAt (e : L1Sec) (off n : Nat) : Bool :=
  e.dirty.toNat &&& ((2 ^ n - 1) * 2 ^ (off % 16)) = (2 ^ n - 1) * 2 ^ (off % 16)
/-- The bytes read are all in the copy. -/
def L1Sec.covers (e : L1Sec) (off n : Nat) : Bool := e.valid || e.dirtyAt off n
/-- A hit that sends no probe (R272): by the party of the fill in its round, or on bytes that the party itself has written in
the round; and every hit of an access that takes no part in race detection. -/
def L1Sec.quiet (e : L1Sec) (a : Access) : Bool :=
  (e.valid && (a.exempt || (e.party = a.party && e.round = a.round))) ||
    (e.dirtyAt a.off a.n && (a.exempt || (e.wparty = a.party && e.wround = a.round)))

/-- The read of a whole sector that a fill or a probe makes at the home slice. -/
def Access.fill (a : Access) : Access := { a with off := a.off - a.off % 16, n := 16, op := .capRead, rel := [], acq := [] }

/-- What a fill or a probe answers a read whose data it does not bring: POISON names the offset of the access (R96, R285). -/
def Access.unfilled (a : Access) (r : Res) : Res :=
  match r with
  | .raise k => .raise (if k.code = ccPoison then mkTrap ccPoison 0 a.obj a.off else k)
  | r => r

/-- A read through L1 (R238, R272): a hit by the same party in the same round answers at once, another hit probes. -/
def State.l1Read (s : State) (a : Access) : State × Res :=
  if !s.fresh a then (s, .raise (scopeTrap ccStale a.obj a.scope a.gen))
  else
    let here := s.l1At a.fld a.ctx a.obj (a.off / 16)
    match here.filter (·.quiet a) with
    | some e => (s, .val (e.read a.off a.n) e.tag 0)
    | none =>
      if here.isNone && !s.l1Room a.fld a.ctx a.obj (a.off / 16) then (s, .busy)
      else
      match s.homePerform a.fill with
      | (s, .val v tag _) =>
        let e := s.fillSec a v tag here
        (s.l1Put e, .val (e.read a.off a.n) e.tag 0)
      | (s, r) => (s, a.unfilled r)

/-- The store's value and tag. -/
def AccOp.storeVal (op : AccOp) (n : Nat) : Nat × Bool := ((op.apply n 0).1).getD (0, false)

/-- A store written to a sector of L1: its bytes are dirty, and the releases on them are those of the store (R238, R262). -/
def State.l1Write (s : State) (a : Access) (old : Option L1Sec) : State :=
  let (v, t) := a.op.storeVal a.n
  let (data, mask) := inSector a.off a.n v
  let e := old.getD { fld := a.fld, ctx := a.ctx, obj := a.obj, sec := a.off / 16, data := 0, tag := false, dirty := 0, valid := false
                      tracked := false, scope := 0, gen := 0, party := 0, round := 0 }
  s.l1Put { e with
    data := BitVec.ofNat 128 (mergeBytes 16 mask data e.data.toNat), tag := t && a.n = 16
    dirty := BitVec.ofNat 16 (e.dirty.toNat ||| mask), scope := a.scope, gen := a.gen
    wparty := a.party, wround := a.round, wsite := a.site, sync := a.sync && (e.dirty = 0 || e.sync), exempt := a.elastic
    rels := e.rels.filter (fun r => !r.overlaps a.ctx a.obj a.off a.n) ++ s.relsOf a }

/-- A store that stays in L1 (R238). Dirty bytes of another writer, or of an earlier round, arrive at home first. -/
def State.l1Store (s : State) (a : Access) : State × Res :=
  let here (s : State) : Option L1Sec := s.l1At a.fld a.ctx a.obj (a.off / 16)
  match here s with
  | some e =>
    if e.dirty ≠ 0 && (e.wparty ≠ a.party || e.wround ≠ a.round || e.wsite ≠ a.site || e.exempt ≠ a.elastic) then
      match s.writeBack e with
      | (s, .ok) => (s.l1Write a (here s), .val 0 false 0)
      | (s, .race o) => let s := s.keepRace e o; (s.l1Write a (here s), .val 0 false 0)
      | (s, .hold c w) => (s, .hold c w)
      | (s, .busy) => (s, .busy)
    else (s.l1Write a (some e), .val 0 false 0)
  | none => if s.l1Room a.fld a.ctx a.obj (a.off / 16) then (s.l1Write a none, .val 0 false 0) else (s, .busy)

/-- The copy of a sector after a store that has written through it (R238): clean, with the store's scope, and tracked (R239).
A copy without the rest of the sector goes, and so does one of a poisoned sector. -/
def State.renewCopy (s : State) (a : Access) : State :=
  match s.l1At a.fld a.ctx a.obj (a.off / 16) with
  | none => s
  | some e =>
    let (v, t) := a.op.storeVal a.n
    let (data, mask) := inSector a.off a.n v
    let poisoned : Bool := match s.translate a.ctx a.obj a.off false with
      | .ok key _ _ => s.poison.contains (key / 16)
      | _ => false
    if !e.valid || poisoned then s.l1Drop a.fld a.ctx a.obj (a.off / 16)
    else s.l1Put { e with
      data := BitVec.ofNat 128 (mergeBytes 16 mask data e.data.toNat), tag := t && a.n = 16, dirty := 0, tracked := true
      scope := a.scope, gen := a.gen, party := a.party, round := a.round
      rels := e.rels.filter (fun r => !r.overlaps a.ctx a.obj a.off a.n) ++ s.relsOf a }

/-- A store that writes through to the home slice (R238), once dirty bytes of its sector are there. -/
def State.storeThrough (s : State) (a : Access) : State × Res :=
  let go (s : State) : State × Res :=
    match s.homePerform a with
    | (s, .val v tag fl) => (s.renewCopy a, .val v tag fl)
    | r => r
  match s.l1At a.fld a.ctx a.obj (a.off / 16) with
  | none => s.homePerform a
  | some e =>
    match s.writeBack e with
    | (s, .ok) => go s
    | (s, .race o) => go (s.keepRace e o)
    | (s, .hold c w) => (s, .hold c w)
    | (s, .busy) => (s, .busy)

/-- Dirty bytes of a sector leave a field's L1 before its copy is dropped (R287). -/
def State.flushAt (s : State) (f ctx obj sec : Nat) : State × WbRes :=
  match s.l1At f ctx obj sec with
  | none => (s, .ok)
  | some e =>
    match s.writeBack e with
    | (s, .ok) => (s.l1Drop f ctx obj sec, .ok)
    | (s, .race o) => ((s.keepRace e o).l1Drop f ctx obj sec, .ok)
    | r => r

/-- The copy of an access's sector in its field's L1, flushed. -/
def State.flushSec (s : State) (a : Access) : State × WbRes := s.flushAt a.fld a.ctx a.obj (a.off / 16)

/-- A homed access of a field: through L1, or at the home slice (R238, R287). -/
def State.homedAccess (s : State) (a : Access) : State × Res :=
  if a.obj / 8 % 32 ≠ s.pkg then (s, .raise (mkTrap ccRemote 0 a.obj a.off))
  else if !a.op.writes then
    -- an acquire that reaches beyond the field does not read an untracked copy
    if !a.acq.isEmpty && s.beyond a.fld (s.memberSet a.ctx a.fld a.scope)
        && s.l1.any (fun e => e.is a.fld a.ctx a.obj (a.off / 16) && !e.tracked) then
      match s.flushSec a with
      | (s, .hold c w) => (s, .hold c w)
      | (s, .busy) => (s, .busy)
      | (s, _) => s.l1Read a
    else s.l1Read a
  else if a.op.isAtomic then
    match s.flushSec a with
    | (s, .hold c w) => (s, .hold c w)
    | (s, .busy) => (s, .busy)
    | (s, _) => s.homePerform a
  else if s.beyond a.fld (s.memberSet a.ctx a.fld a.scope) then s.storeThrough a
  else if !s.fresh a then (s, .raise (scopeTrap ccStale a.obj a.scope a.gen))
  else s.l1Store a

/-! ### The scratchpad port (R231 to R233, R256) -/

/-- One scratchpad step in bytes. -/
def step512 : Nat := 2 ^ 19

/-- The access that an elastic offset is forwarded as (R233). -/
def Access.backed (a : Access) (f : Field) : Access :=
  { a with obj := f.backing.obj, off := f.backing.cur + (a.off - f.nmin * step512), scope := 1, gen := 0, exempt := true
           elastic := true, rel := [], acq := [] }

/-- An access as it reaches a memory port: an elastic one as the access to the backing (R233, R248). -/
def State.portAccess (s : State) (a : Access) : Access :=
  let f := s.fieldOf a.fld
  if a.obj ≥ localObj && f.n * step512 ≤ a.off && a.off + a.n ≤ f.nmax * step512 then a.backed f else a

/-- The offset lies in the step that is moving (R233). -/
def Field.inMove (f : Field) (off : Nat) : Bool :=
  match f.moving with
  | some true => off / step512 = f.n
  | some false => off / step512 + 1 = f.n
  | none => false

/-- An access to the field's scratchpad object. -/
def State.spPerform (s : State) (a : Access) : State × Res :=
  let f := s.fieldOf a.fld
  if a.off + a.n > f.nmax * step512 then (s, .raise (mkTrap ccCapBounds 0 a.obj a.off))
  else if f.inMove a.off then (s, .busy)
  else
    let f := if a.off / step512 + 1 = f.n && f.n ≥ f.nmin + 1 then { f with ls := f.ls + 1 } else f
    if a.off < f.n * step512 then
      let key := spKey a.fld a.off
      let k0 := key - a.off % 16
      let old := readLE s.mem key a.n
      let tag := s.tags.contains (k0 / 16)
      let s := s.setField f
      match a.op.apply a.n old with
      | (none, fl) => (s, .val old tag fl)
      | (some (v, t), fl) =>
        let (data, mask) := inSector a.off a.n v
        ((s.storeSector key 0 0 a.off data mask t).noteWrite a, .val old tag fl)
    else
      let f := if a.off / step512 = f.n then { f with gs := f.gs + 1 } else f
      match (s.setField f).homedAccess (a.backed f) with
      | (s, .val v tag fl) => ((if (a.op.apply a.n v).1.isSome then s.noteWrite a else s), .val v tag fl)
      | r => r

/-- Any access of 16 bytes or fewer (R229); the host complex has no L1. -/
def State.perform (s : State) (a : Access) : State × Res :=
  if a.obj ≥ localObj then s.spPerform a else if a.party = hostParty then s.homePerform a else s.homedAccess a

/-- The releases of the value that a read has just answered (R262): those of the copy in L1 that it read, or of the home. -/
def State.readRels (s : State) (a : Access) : List Rel :=
  if a.obj ≥ localObj || a.op.isAtomic || a.party = hostParty then s.relsAt a.ctx a.relObj a.off a.n
  else
    match s.l1At a.fld a.ctx a.obj (a.off / 16) with
    | some e => e.rels.filter (·.overlaps a.ctx a.obj a.off a.n)
    | none => s.relsAt a.ctx a.obj a.off a.n

/-- An access with its acquire effect (R261): the parties entered, and the clean sectors invalidated. Answers also the
releases that it read from. -/
def State.performSync (s : State) (a : Access) : State × Res × List Rel :=
  match s.perform a with
  | (t, .val v tag fl) =>
    let rs := if a.op.reads then t.readRels a else []
    let go (acc : Option State) (set : Nat) : Option State :=
      acc.bind fun u => (u.acquireFrom a.ctx a.party set rs a.unit a.fld).map fun u => u.invalidate a.ctx a.fld set
    match a.acq.foldl go (some t) with
    | some u => (u, .val v tag fl, rs)
    | none => (s, .raise (mkTrap ccSync 0 a.obj a.off), rs)
  | (t, r) => (t, r, [])

/-- What an access that has failed leaves where its other effects are undone: an undecodable chunk that it read is poisoned
(R253). -/
def State.keepPoison (s : State) (a : Access) (k : TrapInfo) : State :=
  if k.code = ccPoison then let b := s.portAccess a; s.noteRead b.ctx b.obj b.off else s

/-! ### The device's own accesses to homed memory: translated and untagged, with no race check (log 12) -/

/-- A key for an access of the device, where the page is there. -/
def State.devKey (s : State) (ctx obj off : Nat) (wr : Bool) : Option (Nat × Nat × Nat) :=
  match s.translate ctx obj off wr with
  | .ok k kind side => some (k, kind, side)
  | _ => none

/-- n bytes, at most 16 and within one sector. -/
def State.devRead16 (s : State) (ctx obj off n : Nat) : Option Nat :=
  match s.devKey ctx obj off false with
  | some (k, kind, side) => (s.portRead (k - off % 16) kind side (off - off % 16)).map fun v => bits v (8 * (off % 16)) (8 * n)
  | none => none

/-- A whole number of sectors as bytes, with the tag of each; none where a page is not there. -/
def State.devReadSecs (s : State) (ctx obj off : Nat) : Nat → Option (List (Nat × Bool))
  | 0 => some []
  | n + 1 =>
    match s.devKey ctx obj off false, s.devRead16 ctx obj off 16, s.devReadSecs ctx obj (off + 16) n with
    | some (k, _, _), some v, some r => some ((v, s.tags.contains (k / 16)) :: r)
    | _, _, _ => none

/-- n bytes of one sector written; copies in L1s are dropped and monitors woken as by any write. -/
def State.devWrite (s : State) (ctx obj off n v : Nat) (tag : Bool) : State :=
  match s.devKey ctx obj off true with
  | some (k, kind, side) =>
    let (data, mask) := inSector off n v
    ((s.dropCopies ctx obj (off / 16) 128).storeSector k kind side off data mask tag).wakeArms ctx obj (off / 16)
  | none => s

/-! ### Records of held requests (R248, R249, R401, R402) -/

/-- The header of a context's fault queue: log2 of the record count, records posted, records consumed (R401); none where
the header is not valid or not there, or where the queue's capability does not grant reads and writes of the whole ring
(R24, log 81). -/
def State.fqHeader (s : State) (ctx : Nat) : Option (Nat × Nat × Nat) :=
  let q := (s.ctxOf ctx).fq
  match s.devReadSecs ctx q.obj q.cur 4 with
  | some ((v, _) :: r) =>
    let lgn := bits v 0 8
    if (checkRange 0 q (pR + pW) q.cur (64 + 64 * 2 ^ lgn)).isNone && q.cur % 64 = 0 && 4 ≤ lgn && lgn ≤ 16 && bits v 8 24 = 0 && bits v 96 32 = 0 && r.all (·.1 = 0) then
      some (lgn, bits v 32 32, bits v 64 32)
    else none
  | _ => none

/-- The offset of record number i of a ring (R401). -/
def fqOff (base lgn i : Nat) : Nat := base + 64 + 64 * (i % 2 ^ lgn)

/-- A posted port record's count is rewritten until the consumer has passed it (R402). -/
def State.putCount (s : State) (p : PortRec) : State :=
  match p.seq, s.fqHeader p.ctx with
  | some q, some (lgn, _, rd) =>
    let d := (BitVec.ofNat 32 rd - q).toNat
    if 1 ≤ d && d ≤ 2 ^ 31 then s
    else let c := (s.ctxOf p.ctx).fq; s.devWrite p.ctx c.obj (fqOff c.cur lgn q.toNat + 28) 4 p.cnt false
  | _, _ => s

/-- A record tells of what a port's entry holds. -/
def Record.tells (r : Record) (p : PortRec) : Bool :=
  r.kind = 3 && r.ctx = p.ctx && r.obj = p.obj && r.off / 65536 = p.page && r.cause = p.cause
/-- The first element of a list that a condition picks, rewritten. -/
def updFirst {α : Type} (p : α → Bool) (g : α → α) : List α → List α
  | [] => []
  | x :: r => if p x then g x :: r else x :: updFirst p g r

/-- A request of a source is held for this page and cause already. -/
def State.recorded (s : State) (ctx obj off cause src : Nat) : Bool :=
  s.ports.any fun p => p.ctx = ctx && p.mount = obj % 8 && p.obj = obj && p.page = off / 65536 && p.cause = cause && p.srcs.contains src

/-- One more request of a source held for a page and cause at a port: a record opens, with the party, task and offset of its
first request (R402), or its count grows. -/
def State.holdAt (s : State) (ctx obj off cause why src : Nat) : State :=
  let party := src % 2 ^ 16
  let mount := obj % 8
  let page := off / 65536
  match s.ports.find? fun p => p.ctx = ctx && p.mount = mount && p.obj = obj && p.page = page && p.cause = cause with
  | some p =>
    let p' := { p with cnt := p.cnt + 1, srcs := p.srcs ++ [src] }
    ({ s with ports := s.ports.map fun q => if q = p then p' else q
              posts := if p.seq.isSome then s.posts else (updFirst (fun (r : Record) => r.tells p) (fun r => { r with cnt := p'.cnt }) s.posts.reverse).reverse }).putCount p'
  | none =>
    { s with ports := s.ports ++ [{ ctx := ctx, mount := mount, obj := obj, page := page, cause := cause, why := why, seq := none, cnt := 1, srcs := [src] }]
             posts := s.posts ++ [{ Record.blank ctx 3 with
               cause := cause, why := why, party := party, tno := s.partyTno party, loc := locPort s.pkg mount, obj := obj, off := off, cnt := 1 }] }

/-! ### What an access of a hart answers (R456) -/

def State.hartGets (s : State) (v : Option W64) : State := { s with host := { s.host with hart := v } }

/-! ### Instruction fetch (R24, R38, log 12) -/

/-- What a fetch answers. -/
inductive Fetch where
  | word (w : W32)
  | hold (cause why : Nat)
  | busy
  | raise (k : TrapInfo)
  deriving DecidableEq, Repr

/-- A word of homed memory as a fetch reads it at its home. -/
def State.homeWord (s : State) (ctx obj off : Nat) : Fetch :=
  if obj / 8 % 32 ≠ s.pkg then .raise (mkTrap ccRemote 0 obj off)
  else
    match s.translate ctx obj off false with
    | .busy => .busy
    | .held x w => .hold x w
    | .ok key kind side =>
      if s.poison.contains (key / 16) then .raise (mkTrap ccPoison 0 obj off)
      else if kind = 0 then .word (BitVec.ofNat 32 (readLE s.mem key 4))
      else
        match s.portRead (key - off % 16) kind side (off - off % 16) with
        | some v => .word (BitVec.ofNat 32 (bits v (8 * (off % 16)) 32))
        | none => .raise (mkTrap ccPoison 0 obj off)

/-- A word of an elastic step: through the field's L1 (R233). -/
def State.backedWord (s : State) (f ctx obj off : Nat) : Fetch :=
  match s.l1At f ctx obj (off / 16) with
  | none => s.homeWord ctx obj off
  | some e =>
    if e.covers off 4 then .word (BitVec.ofNat 32 (e.read off 4))
    else
      match s.homeWord ctx obj off with
      | .word w => .word (BitVec.ofNat 32 (mergeBytes 4 (e.dirty.toNat / 2 ^ (off % 16)) (e.read off 4) w.toNat))
      | x => x

/-- The word at an offset of a code capability, read with no race check and no check of rights (log 12). -/
def State.fetchWord (s : State) (f ctx : Nat) (c : Cap) (off : Nat) : Fetch :=
  if c.obj ≥ localObj then
    let fd := s.fieldOf f
    if off + 4 > fd.nmax * step512 then .raise (mkTrap ccCapBounds 0 c.obj off)
    else if fd.inMove off then .busy
    else if off < fd.n * step512 then .word (BitVec.ofNat 32 (readLE s.mem (spKey f off) 4))
    else s.backedWord f ctx fd.backing.obj (fd.backing.cur + (off - fd.nmin * step512))
  else s.homeWord ctx c.obj off

/-- Where a fetch reads in homed memory: the backing, for an elastic step (R233, R248). -/
def State.fetchAt (s : State) (f : Nat) (c : Cap) (off : Nat) : Nat × Nat :=
  let fd := s.fieldOf f
  if c.obj ≥ localObj && fd.n * step512 ≤ off then (fd.backing.obj, fd.backing.cur + (off - fd.nmin * step512)) else (c.obj, off)

/-- What a fetch that has failed leaves: an undecodable chunk that it read is poisoned (R253). -/
def State.fetchFailed (s : State) (f ctx : Nat) (c : Cap) (off : Nat) (k : TrapInfo) : State :=
  if k.code = ccPoison then let p := s.fetchAt f c off; s.noteRead ctx p.1 p.2 else s

end Sys2Proof.Machine
end

