-- ==== Sys2Proof/Machine/Issue.lean ====
section
/-!
DEFINITION. How a strand's access leaves its sequencer: checks (R24, R268, R424), releases and acquires (R261), the counters
(R15), requests that a port holds (R248) and the delivery of a load's data (R16, R103).
-/
namespace Sys2Proof.Machine

/-- The party id that a Finder's fills carry: no party has it (R154, R254). -/
def noParty : Nat := 0x4001

/-- The five orderings (R47, R261). -/
def ordAcq (o : Nat) : Bool := o = 1 || o = 3 || o = 4
def ordRel (o : Nat) : Bool := o = 2 || o = 3 || o = 4

/-- The trap of a failed check of R24 (R96). -/
def capTrap (code : Nat) (c : Cap) (o : Int) : TrapInfo := mkTrap code 0 c.obj (o % 2 ^ 64).toNat

/-- The offset of R102, exact. -/
def effAddr (c : Cap) (disp : W64) : Int := (c.cur : Int) + disp.toInt

/-- The checks of an access before it leaves: R24, then R268. -/
def State.checkAccess (s : State) (c : Cap) (rights : Nat) (o : Int) (n x : Nat) : Option TrapInfo :=
  match checkCap (s.ownObj s.me.fld) c rights o n with
  | some k => some (capTrap k c o)
  | none =>
    if (s.ctxOf s.me.ctx).scopeOk x then none
    else some (scopeTrap ccScope c.obj x ((s.ctxOf s.me.ctx).gen x))

/-- The member sets at which an instruction of this scope and ordering releases, and at which it acquires. -/
def State.setOf (s : State) (x : Nat) : Nat := s.memberSet s.me.ctx s.me.fld x

/-- A homed store or atomic that synchronises, acquires nothing and is not sc may let later accesses of its strand to other
sectors perform first (R261 to R263); whether it does is a free choice (log 26). -/
def AccOp.slow : AccOp → Bool
  | .write _ | .capWrite _ | .atomic _ _ => true
  | _ => false
def State.mayBeLate (s : State) (obj : Nat) (op : AccOp) (ord : Nat) : Bool :=
  obj < localObj && op.slow && (op.isAtomic || ord ≠ 0 || !s.me.relFence.isEmpty) && (ord = 0 || ord = 2) && !s.me.finder
    && Config.late s.ids

/-- The strand's access. A later store or atomic carries the releases of earlier fences (R261). -/
def State.strandAccess (s : State) (obj off n : Nat) (op : AccOp) (ord x : Nat) : Access :=
  { ctx := s.me.ctx, obj := obj, off := off, n := n, op := op
    party := if s.me.finder then noParty else s.myParty
    round := s.openRound s.me.ctx
    sync := op.isAtomic || ord ≠ 0 || (op.writes && !s.me.relFence.isEmpty)
    rel := if op.writes then (if ordRel ord then [s.setOf x] else []) ++ s.me.relFence.map (fun p => s.setOf p.1) else []
    acq := if op.reads && ordAcq ord then [s.setOf x] else []
    scope := x, gen := (s.ctxOf s.me.ctx).gen x, fld := s.me.fld, exempt := s.me.finder, late := s.mayBeLate obj op ord }

/-- A request still to be performed. -/
def Flight.pending (f : Flight) : Bool := match f.phase with
  | .done _ _ => false
  | _ => true
def State.meWho (s : State) : Who := .strand s.me.fld s.me.slot
/-- Some access of the strand has not performed. -/
def State.unperformed (s : State) : Bool := s.flights.any fun f => f.who = s.meWho && f.pending

/-- The request only takes its time: it holds up nothing but its sector. -/
def Flight.passable (f : Flight) : Bool := f.acc.late && f.phase = .arriving

/-- The memory port that an access goes to, if it goes to one (R232, R233, R248). -/
def State.mountOf (s : State) (a : Access) : Option Nat :=
  let b := s.portAccess a
  if b.obj < localObj then some (b.obj % 8) else none
def State.flightMount (s : State) (f : Flight) : Option Nat :=
  match f.phase with
  | .held m => some m
  | _ => s.mountOf f.acc

/-- A request goes before an access of the same source: it is held or waits at the same port (R248), or it is to the same
sector (R95). -/
def State.goesBefore (s : State) (f : Flight) (a : Access) : Bool :=
  f.pending &&
    (((s.flightMount f).isSome && s.flightMount f = s.mountOf a && !f.passable) ||
     (f.acc.obj = a.obj && f.acc.off / 16 = a.off / 16))

/-- The source has as many requests outstanding at the access's home slice, on another die, as it may (R445). -/
def State.sliceFull (s : State) (who : Who) (a : Access) : Bool :=
  a.offDie && replyCap ≤ (s.flights.filter fun f => f.who = who && f.acc.offDie && f.acc.replyKey = a.replyKey).length

/-- An earlier request of the same source that this one waits behind, or that takes the last place at its home slice. -/
def State.behind (s : State) (who : Who) (a : Access) : Bool := (s.flights.any fun f => f.who = who && s.goesBefore f a) || s.sliceFull who a

/-- An acquire of the strand has not performed: no later access of it performs (R261). -/
def State.acquiring (s : State) : Bool := s.flights.any fun f => f.who = s.meWho && f.pending && !f.acc.acq.isEmpty

/-- The check of an access has not returned (R275), or it has and the access may still fault as it performs: POISON at a read,
STALE_SCOPE at a program-defined scope. What would leave the sequencer after it waits (R27, log 82). -/
def Flight.unchecked (f : Flight) : Bool :=
  f.pending && ((!f.acc.exempt && f.acc.obj < localObj && (f.phase = .arriving || f.phase = .retry)) || f.acc.op.reads || 4 < f.acc.scope)
def State.unchecked (s : State) : Bool := s.flights.any fun f => f.who = s.meWho && f.unchecked

/-- How the work before a release went (R261, R240). -/
inductive RelRes where
  | ok (s : State)
  | wait (s : State)
  | raise (k : TrapInfo) (s : State)

/-- A request that a port holds and that is tried again: counted once for its source. -/
def State.holdOnce (s : State) (ctx obj off cause why src : Nat) : State :=
  if s.recorded ctx obj off cause src then s else s.holdAt ctx obj off cause why src
/-- An access that a port holds: its record is for the place where it goes (R233, R248). -/
def State.holdAcc (s : State) (a : Access) (cause why src : Nat) : State :=
  let b := s.portAccess a
  s.holdAt b.ctx b.obj b.off cause why src
def State.holdAccOnce (s : State) (a : Access) (cause why src : Nat) : State :=
  let b := s.portAccess a
  s.holdOnce b.ctx b.obj b.off cause why src

/-- A port holds an access of this source to the place where this one goes: its record is open (R249). -/
def State.heldBy (s : State) (a : Access) (src : Nat) : Bool :=
  let b := s.portAccess a
  s.ports.any fun p => p.ctx = b.ctx && p.mount = b.obj % 8 && p.obj = b.obj && p.page = b.off / 65536 && p.srcs.contains src

/-- The write-backs of a release, set after set. -/
def State.relWrites (s : State) (ctx f : Nat) : List Nat → State × WbRes
  | [] => (s, .ok)
  | set :: r =>
    match s.writeBacks (s.relDirty ctx f set) with
    | (s, .ok) => s.relWrites ctx f r
    | x => x

/-- What precedes a strand's release at some sets: its earlier accesses have performed and the write-backs are done; a
RACE that they or an earlier eviction found is raised at the release (R273, R274). -/
def State.release (s : State) (sets : List Nat) : RelRes :=
  if sets.isEmpty then .ok s
  else if s.unperformed then .wait s
  else
    match s.relWrites s.me.ctx s.me.fld sets with
    | (s, .ok) =>
      match s.me.lateRace with
      | some k => .raise k { s with me := { s.me with lateRace := none } }
      | none => .ok s
    | (s, .hold c w) =>
      match s.l1.find? (fun e => e.dirty ≠ 0 && e.ctx = s.me.ctx && e.fld = s.me.fld &&
          s.translate e.ctx e.obj (e.sec * 16) true = .held c w) with
      | some e => .wait (s.holdOnce e.ctx e.obj (e.sec * 16) c w e.wparty)
      | none => .wait s
    | (s, _) => .wait s

/-- A fence's captured generation is no longer current (R261, R268). -/
def State.staleFence (s : State) : Option TrapInfo :=
  (s.me.relFence.find? fun p => 5 ≤ p.1 && (s.ctxOf s.me.ctx).gen p.1 ≠ p.2).map fun p => scopeTrap ccStale 0 p.1 p.2

/-- Destinations after a load to one more: to a register that an older load names too, the older data no longer goes (R16). -/
def addDest (ds : List (Nat × Dst)) (id : Nat) (dst : Dst) : List (Nat × Dst) :=
  match dst with
  | .drop => ds
  | .queue _ => ds ++ [(id, dst)]
  | _ => ds.filter (·.2 ≠ dst) ++ [(id, dst)]

/-- A new flight of the strand, counted in its class (R15); of one that its port holds, the cause of the hold. -/
def State.addFlight (s : State) (a : Access) (dst : Dst) (sx : Bool) (ph : Phase) (fl : Nat) (cls : Cls) (cause : Nat := 0) : State :=
  let id := s.ids
  let f : Flight := { id := id, who := s.meWho, acc := a, dst := dst, sext := sx, phase := ph, num := fl
                      cause := cause, arrival := if cause = 0 then 0 else id + 1 }
  let f := match ph with
    | .done _ _ => f
    | _ => { f with snap := some s.me }
  { s with ids := id + 1, flights := s.flights ++ [f]
           me := { s.me.up cls with dests := addDest s.me.dests id dst } }

/-- An access on its way, with its party's table as it leaves. -/
def State.onItsWay (s : State) (a : Access) : Access :=
  let t := s.tables a.ctx a.party
  { a with carry := some (t.1 ++ t.2) }

/-- The access leaves and performs, or is held; its counter goes up (R15, R102). One that takes its time has been checked as
it leaves, and performs later. -/
def State.issue (s : State) (a : Access) (dst : Dst) (sx : Bool) (cls : Cls) : Act :=
  let id := s.ids
  let used (rs : List Rel) (s : State) : State :=
    let s : State := if a.op.writes then { s with me := { s.me with relFence := [] } } else s
    if a.op.reads then { s with me := { s.me with lastLd := id, lastRels := rs, lastAt := (a.obj, a.off) } } else s
  if s.acquiring then .wait s
  else if s.behind s.meWho a then .done (used [] (s.addFlight { s.onItsWay a with late := false } dst sx .arriving 0 cls))
  else
    match s.performSync a with
    | (t, .val v tag fl, rs) =>
      if a.late then .done (used [] (({ s with race := t.race }).addFlight { s.onItsWay a with exempt := true } dst sx .arriving 0 cls))
      else .done (used rs ((t.noteReply t.ids a v).addFlight a dst sx (.done v tag) fl cls))
    | (s, .hold c w, _) =>
      .done (used [] ((s.holdAcc a c w a.party).addFlight { s.onItsWay a with exempt := a.exempt || !a.op.compares, late := false } dst sx
        (.held ((s.portAccess a).obj % 8)) 0 cls c))
    | (s, .busy, _) => .done (used [] (s.addFlight { s.onItsWay a with late := false } dst sx .retry 0 cls))
    | (s, .raise k, _) => .raise k s

/-- A Finder's load reads through L1 and writes its register at once, or is dropped (R154). -/
def State.finderLoad (s : State) (a : Access) (put : State → Nat → Bool → State) : Act :=
  match s.perform a with
  | (t, .val v tag _) => .done (put t v tag)
  | _ => .raise (mkTrap ccNotPresent 0 0 0) s

/-- Where a load into a scalar field delivers (R103). -/
def State.loadDst (s : State) (r : RegF) : Dst :=
  match s.bindOf r with
  | some b => .queue b.q
  | none => if r = 0 then .drop else .reg r

/-- Watchpoints that stop a store at its issue (R424, R425). -/
def State.watchStore (s : State) (c : Cap) (o n : Nat) : Option (List Nat × TrapInfo) :=
  if s.me.unwatched || c.obj ≥ localObj then none
  else
    match s.struck s.me.ctx c.obj o n with
    | [] => none
    | k :: r => some (k :: r, mkTrap ccWatch 0 (c.obj + k * 2 ^ 32) o)

/-- A load of n bytes (R102, R104). -/
def State.load (s : State) (c : Cap) (o : Int) (n : Nat) (sgn : Bool) (d : RegF) (ord x : Nat) : Act :=
  match s.checkAccess c pR o n x with
  | some k => .raise k s
  | none =>
    let a := s.strandAccess c.obj o.toNat n .read ord x
    if s.me.finder then s.finderLoad a fun s v _ => s.setSreg d (extend (8 * n) sgn v)
    else if s.me.full .ld then .wait s
    else s.issue a (s.loadDst d) sgn .ld

/-- A capability load (R114). -/
def State.loadCap (s : State) (c : Cap) (o : Int) (d : CapF) : Act :=
  match s.checkAccess c pR o 16 1 with
  | some k => .raise k s
  | none =>
    let a := s.strandAccess c.obj o.toNat 16 .capRead 0 1
    if s.me.finder then s.finderLoad a fun s v t => s.setCreg d { bits := BitVec.ofNat 128 v, tag := t }
    else if s.me.full .ld then .wait s
    else s.issue a (if d = 0 then .drop else .cap d) false .ld

/-- A store, a capability store or an atomic, once its operand is at hand: checks, watchpoints, the work before a release,
then the access (R102, R104, R114, R286). -/
def State.store (s : State) (c : Cap) (o : Int) (n rights : Nat) (op : AccOp) (ord x : Nat) (dst : Dst) (sx : Bool)
    (cls : Cls) : Act :=
  match s.checkAccess c rights o n x with
  | some k => .raise k s
  | none =>
    match (if op.isAtomic then none else s.watchStore c o.toNat n) with
    | some (ks, k) => .raise k (s.setHits s.me.ctx ks)
    | none =>
      if s.me.full cls then .wait s
      else
        match s.staleFence with
        | some k => .raise k s
        | none =>
          match s.release (s.strandAccess c.obj o.toNat n op ord x).rel with
          | .wait s => .wait s
          | .raise k s => .raise k s
          | .ok s => s.issue (s.strandAccess c.obj o.toNat n op ord x) dst sx cls

/-! ### Delivery -/

/-- The value that a load's data is extended to. -/
def Flight.result (f : Flight) (v : Nat) : W64 :=
  match f.acc.op with
  | .atomic op _ => extend (8 * f.acc.n) (atomSigned op) v
  | .cas _ _ => extend (8 * f.acc.n) true v
  | _ => extend (8 * f.acc.n) f.sext v

/-- Data reaches its destination unless an instruction has written it since (R16); a bound queue takes it (R103). -/
def Strand.deliver (t : Strand) (id : Nat) (dst : Dst) (v : W64) (c : Cap) : Strand :=
  if t.dests.contains (id, dst) then
    let t := { t with dests := t.dests.filter fun d => d.1 ≠ id }
    match dst with
    | .reg r => { t with regs := t.regs.set r.toNat v }
    | .cap r => { t with caps := t.caps.set r.toNat c }
    | .queue q => { t with binds := t.binds.map fun b => if b.q = q && !b.removed then { b with ents := b.ents ++ [v] } else b }
    | .drop => t
  else t

/-- A load's queue has room, and no earlier load owes it an entry (R103). -/
def Strand.mayPush (t : Strand) (id : Nat) (dst : Dst) : Bool :=
  match dst with
  | .queue q =>
    !t.dests.contains (id, dst) ||
      ((t.dests.filter fun d => d.2 = dst).head? = some (id, dst) && t.binds.all fun b => b.q ≠ q || b.removed || b.ents.length < queueCap)
  | _ => true

/-- A flight removed. -/
def State.dropFlight (s : State) (id : Nat) : State := { s with flights := s.flights.filter (·.id ≠ id) }

/-- The rewritten flight of an id. -/
def State.updFlight (s : State) (id : Nat) (g : Flight → Flight) : State :=
  { s with flights := s.flights.map fun f => if f.id = id then g f else f }

/-- The class that a flight of a strand counts in. -/
def Flight.cls (f : Flight) : Cls := if f.acc.op.reads then .ld else .st

/-- LOAD_COMPLETE and STORE_COMPLETE for a strand: the reply returns and the counter goes down (R15, R102, R286). -/
def State.complete (s : State) (f : Flight) : State :=
  match f.who, f.phase with
  | .strand fl sl, .done v tag =>
    match s.strandAt fl sl with
    | none => s.dropFlight f.id
    | some t =>
      if t.mayPush f.id f.dst then
        let got (t : Strand) : Strand :=
          let t := t.deliver f.id f.dst (f.result v) { bits := BitVec.ofNat 128 v, tag := tag }
          { t with fflags := t.fflags ||| BitVec.ofNat 6 f.num }
        -- what a later access that has not performed would go back to takes the data too
        let s : State := { s with flights := s.flights.map fun g => if g.who = f.who && f.id < g.id then { g with snap := g.snap.map got } else g }
        (s.dropFlight f.id).updStrand fl sl fun t => (got t).down f.cls
      else s
  | _, _ => s

/-- The strand as it was before an access that has faulted (R27, R275): what it has done since is discarded, and an entry that
the instruction took from a queue is back there (R17). What units of the device count or keep for it stays. -/
def Strand.backTo (now before : Strand) (lds sts : Nat) (k : TrapInfo) : Strand :=
  { before with
    fld := now.fld, slot := now.slot, ctx := now.ctx, task := now.task, ldc := now.ldc - lds, stc := now.stc - sts, xpc := now.xpc
    tlc := now.tlc, binds := now.binds.map fun b => { b with ents := b.taken ++ b.ents, taken := [] }, exitRec := now.exitRec, stWrites := now.stWrites, lateRace := now.lateRace
    ending := now.ending, trap := some k }

/-- A strand goes back to the access that has faulted, whose cause is precise there (R28, R274, R275). -/
def State.rollback (s : State) (f : Flight) (before : Strand) (k : TrapInfo) : State :=
  let gone := s.flights.filter fun g => g.who = f.who && f.id ≤ g.id
  let n (reads : Bool) : Nat := (gone.filter fun g => g.acc.op.reads == reads).length
  match f.who with
  | .strand fl sl =>
    ({ s with flights := s.flights.filter fun g => !(g.who = f.who && f.id ≤ g.id) } : State).updStrand fl sl fun t =>
      t.backTo before (n true) (n false) k
  | _ => s

/-- A cause found when an access performs after it has left: precise at the access (R28, R268, R275), to which the strand
goes back. An abandoned access names no instruction: its cause is delivered between two, the load's destination stays and the
counter goes down (R420, log 13). -/
def State.lateTrap (s : State) (f : Flight) (k : TrapInfo) : State :=
  match f.who with
  | .strand fl sl =>
    match f.snap with
    | some before => s.rollback f before k
    | none =>
      (s.dropFlight f.id).updStrand fl sl fun t =>
        let t := { t.down f.cls with dests := t.dests.filter fun d => d.1 ≠ f.id }
        match t.trap with
        | some _ => t
        | none => { t with trap := some k }
  | .host =>
    let s := (s.dropFlight f.id).hartGets none
    match f.acc.op with
    | .capWrite _ => { s with host := { s.host with capst := 2 } }
    | _ => s
  | _ => s

/-- An access of a hart that a port had held is over (R456); a capability that was stored shows in CAPST (R460). -/
def State.hostDone (s : State) (f : Flight) (v : Nat) : State :=
  if f.who = .host then
    let s := (s.dropFlight f.id).hartGets (some (BitVec.ofNat 64 v))
    match f.acc.op with
    | .capWrite c => { s with host := { s.host with capst := if c.tag then 0 else 1 } }
    | _ => s
  else s

/-- A request that a resume has set free is translated again in its order of arrival at its port (R249). -/
def Flight.freed (f : Flight) : Bool := f.phase = .retry && f.cause ≠ 0

/-- An earlier access of the same source goes first: to the same port (R248), or to the same sector (R95); so does one that
came to the same port earlier and was held there, once both are translated again (R249). -/
def State.waitsBehind (s : State) (f : Flight) : Bool :=
  s.flights.any fun g => (g.id < f.id && g.who = f.who && s.goesBefore g f.acc) ||
    (f.freed && g.freed && g.arrival < f.arrival && s.flightMount g = s.flightMount f)

/-- The releases that a strand's last load or atomic has read from (R261). -/
def State.noteRels (s : State) (f : Flight) (rs : List Rel) : State :=
  match f.who with
  | .strand fl sl => if f.acc.op.reads then s.updStrand fl sl fun t => if t.lastLd = f.id then { t with lastRels := rs } else t else s
  | _ => s

/-- An access in flight is tried at its home (HOME_ACCESS, PORT_TRANSLATE): it performs, is held again, or faults. -/
def State.tryFlight (s : State) (f : Flight) : State :=
  match s.replyOf f.id f.acc with
  | some v => s.updFlight f.id fun g => { g with phase := .done v false }
  | none =>
  match s.performSync f.acc with
  | (s, .val v tag fl, rs) =>
    (((s.noteReply f.id f.acc v).noteRels f rs).updFlight f.id fun g => { g with phase := .done v tag, num := fl, snap := none }).hostDone f v
  | (s, .hold c w, _) =>
    let s := s.holdAcc f.acc c w f.acc.party
    { s.updFlight f.id fun g =>
        { g with phase := .held ((s.portAccess f.acc).obj % 8), acc := { g.acc with exempt := g.acc.exempt || !g.acc.op.compares }
                 cause := c, arrival := if g.arrival = 0 then s.ids + 1 else g.arrival } with ids := s.ids + 1 }
  | (s, .busy, _) => s.updFlight f.id fun g => { g with phase := .retry, cause := 0 }
  | (s, .raise k, _) => s.lateTrap f k

end Sys2Proof.Machine
end

