-- ==== Sys2Proof/Machine/Caps.lean ====
section
/-!
DEFINITION. The capability instructions (R110 to R115).
-/
namespace Sys2Proof.Machine

/-- `cget`: a number of a capability, whatever its tag (R110). -/
def capGet (b : RegF) (c : CapF) (f : Cap → Nat) (s : State) : Out :=
  run .plain 4 { writes := [b] } (fun s => .done (s.putReg b (BitVec.ofNat 64 (f (s.creg c))))) s

def execCgetObj (b : RegF) (c : CapF) (s : State) : Out := capGet b c Cap.obj s
def execCgetCur (b : RegF) (c : CapF) (s : State) : Out := capGet b c Cap.cur s
def execCgetBase (b : RegF) (c : CapF) (s : State) : Out := capGet b c Cap.base s
def execCgetTop (b : RegF) (c : CapF) (s : State) : Out := capGet b c Cap.top s
def execCgetPerm (b : RegF) (c : CapF) (s : State) : Out := capGet b c Cap.perm s
def execCgetTag (b : RegF) (c : CapF) (s : State) : Out := capGet b c (fun x => if x.tag then 1 else 0) s
def execCgetG (b : RegF) (c : CapF) (s : State) : Out := capGet b c Cap.g s

/-- The cursor moved, with the tag kept (R111). -/
def execCsetc (d c : CapF) (b : RegF) (s : State) : Out :=
  run .plain 4 { reads := [b] } (fun s => .done (s.setCreg d ((s.creg c).setCur (s.readReg b).toNat))) s
def execCadd (d c : CapF) (b : RegF) (s : State) : Out :=
  run .plain 4 { reads := [b] }
    (fun s => .done (s.setCreg d ((s.creg c).setCur ((s.creg c).cur + (s.readReg b).toNat)))) s

/-- The source of a derivation: tagged, then with d (R25, R112). -/
def deriveTrap (c : Cap) : Option TrapInfo :=
  if !c.tag then some (mkTrap ccCapTag 0 c.obj c.cur)
  else if !c.has pD then some (mkTrap ccCapPerm 0 c.obj c.cur)
  else none

def execCbound (d c : CapF) (b : RegF) (s : State) : Out :=
  run .plain 4 { reads := [b] } (fun s =>
    let src := s.creg c
    match deriveTrap src with
    | some k => .raise k s
    | none =>
      match boundCap src src.cur (effAddr src (s.readReg b)) with
      | some r => .done (s.setCreg d r)
      | none => .raise (mkTrap ccCapBounds 0 src.obj src.cur) s) s

def execCperm (d c : CapF) (b : RegF) (s : State) : Out :=
  run .plain 4 { reads := [b] } (fun s =>
    match deriveTrap (s.creg c) with
    | some k => .raise k s
    | none => .done (s.setCreg d (permCap (s.creg c) ((s.readReg b).toNat % 256)))) s

def execCnull (d : CapF) (s : State) : Out := run .plain 4 {} (fun s => .done (s.setCreg d Cap.null)) s
def execCmov (d c : CapF) (s : State) : Out := run .plain 4 {} (fun s => .done (s.setCreg d (s.creg c))) s
/-- `csub`: cursors subtracted (R113). -/
def execCsub (b : RegF) (c e : CapF) (s : State) : Out :=
  run .plain 4 { writes := [b] }
    (fun s => .done (s.putReg b (BitVec.ofNat 64 (s.creg c).cur - BitVec.ofNat 64 (s.creg e).cur))) s
def execCtest (p : PredF) (c : CapF) (s : State) : Out :=
  predOp p (fun s => let x := s.creg c; x.tag && x.base ≤ x.cur && x.cur < x.top) s

/-- `cld` (R114): LDC counts it, and R16 governs the destination. -/
def execCld (d c : CapF) (b : RegF) (s : State) : Out :=
  run .load 4 { reads := [b] } (fun s => s.loadCap (s.creg c) (effAddr (s.creg c) (s.readReg b)) d) s
/-- `cst` (R114): the sector takes the register whole, with its tag. -/
def execCst (d c : CapF) (b : RegF) (s : State) : Out :=
  run .other 4 { reads := [b] } (fun s =>
    s.store (s.creg c) (effAddr (s.creg c) (s.readReg b)) 16 pW (.capWrite (s.creg d)) 0 1 .drop false .st) s

/-- `cmake` (R115): handler mode only. It has no effect in a Finder (R154). -/
def execCmake (d : CapF) (b : RegF) (s : State) : Out :=
  runPriv 4 { reads := [b, b + 1] } (fun s =>
    let c : Cap := { bits := s.readReg b ++ s.readReg (b + 1), tag := true }
    if c.ok then .done (s.setCreg d c) else .raise (mkTrap ccCapBounds 0 0 0) s) s

end Sys2Proof.Machine
end

