-- ==== Sys2Proof/Machine/LoadStore.lean ====
section
/-!
DEFINITION. Loads and stores (R102 to R105) and the completion of requests (R15, R248).
-/
namespace Sys2Proof.Machine

/-- The scope of a short load or store (R43, R102). -/
def hintScope (h : BitVec 1) : Nat := if h = 1 then 2 else 1

/-- A short load. -/
def ldShort (n : Nat) (sgn : Bool) (d : RegF) (h : BitVec 1) (c : CapF) (imm : BitVec 14) (s : State) : Out :=
  run .load 4 { loads := [d] } (fun s => s.load (s.creg c) (effAddr (s.creg c) (sext imm)) n sgn d 0 (hintScope h)) s
/-- A short store: its value is read at issue. -/
def stShort (n : Nat) (d : RegF) (h : BitVec 1) (c : CapF) (imm : BitVec 14) (s : State) : Out :=
  run .other 4 { reads := [d] } (fun s =>
    s.store (s.creg c) (effAddr (s.creg c) (sext imm)) n pW (.write (s.readReg d).toNat) 0 (hintScope h) .drop false .st) s

def execLdB (d : RegF) (h : BitVec 1) (c : CapF) (imm : BitVec 14) (s : State) : Out := ldShort 1 true d h c imm s
def execLdBu (d : RegF) (h : BitVec 1) (c : CapF) (imm : BitVec 14) (s : State) : Out := ldShort 1 false d h c imm s
def execLdH (d : RegF) (h : BitVec 1) (c : CapF) (imm : BitVec 14) (s : State) : Out := ldShort 2 true d h c imm s
def execLdHu (d : RegF) (h : BitVec 1) (c : CapF) (imm : BitVec 14) (s : State) : Out := ldShort 2 false d h c imm s
def execLdW (d : RegF) (h : BitVec 1) (c : CapF) (imm : BitVec 14) (s : State) : Out := ldShort 4 true d h c imm s
def execLdWu (d : RegF) (h : BitVec 1) (c : CapF) (imm : BitVec 14) (s : State) : Out := ldShort 4 false d h c imm s
def execLdD (d : RegF) (h : BitVec 1) (c : CapF) (imm : BitVec 14) (s : State) : Out := ldShort 8 false d h c imm s
def execStB (d : RegF) (h : BitVec 1) (c : CapF) (imm : BitVec 14) (s : State) : Out := stShort 1 d h c imm s
def execStH (d : RegF) (h : BitVec 1) (c : CapF) (imm : BitVec 14) (s : State) : Out := stShort 2 d h c imm s
def execStW (d : RegF) (h : BitVec 1) (c : CapF) (imm : BitVec 14) (s : State) : Out := stShort 4 d h c imm s
def execStD (d : RegF) (h : BitVec 1) (c : CapF) (imm : BitVec 14) (s : State) : Out := stShort 8 d h c imm s

/-- The offset of R104: cursor, displacement and scaled index, exact. -/
def idxAddr (c : Cap) (w : LF) (b : W64) (n : Nat) : Int := effAddr c (sext w.imm) + b.toInt * n

/-- The bytes of a size code of R104: b, bu, h, hu, w, wu, d. -/
def sizeOf (k : Nat) : Nat := if k ≤ 1 then 1 else if k ≤ 3 then 2 else if k ≤ 5 then 4 else 8

def execLdx (w : LF) (s : State) : Out :=
  runL w .load { reads := [w.b], loads := [w.d] } (fun s =>
    let k := w.fnBits 0 3
    let n := sizeOf k
    s.load (s.creg5 w.a) (idxAddr (s.creg5 w.a) w (s.readReg w.b) n) n (k % 2 = 0) w.d w.ldxOrd w.x.toNat) s
def execStx (w : LF) (s : State) : Out :=
  runL w .other { reads := [w.b, w.d] } (fun s =>
    let n := sizeOf (w.fnBits 0 3)
    s.store (s.creg5 w.a) (idxAddr (s.creg5 w.a) w (s.readReg w.b) n) n pW (.write (s.readReg w.d).toNat) w.ldxOrd
      w.x.toNat .drop false .st) s

/-! ### Completion of requests -/

/-- The flight of an id, if a test admits it; an event that names nothing in flight changes nothing (log 14). -/
def State.withFlight (s : State) (id : Nat) (ok : Flight → Bool) (go : Flight → State) : Out :=
  match s.flights.find? fun f => f.id = id && ok f with
  | some f => .next (go f)
  | none => .next s

def Flight.isDone (f : Flight) : Bool := !f.pending
/-- A strand's request. -/
def Flight.ofStrand (f : Flight) : Bool := match f.who with
  | .strand _ _ => true
  | _ => false

/-- LOAD_COMPLETE (R16, R102): the data arrives. -/
def execLoadComplete (id : Nat) (s : State) : Out :=
  s.withFlight id (fun f => f.isDone && f.ofStrand && f.acc.op.reads) fun f => s.complete f
/-- STORE_COMPLETE (R15): the store completes. -/
def execStoreComplete (id : Nat) (s : State) : Out :=
  s.withFlight id (fun f => f.isDone && f.ofStrand && !f.acc.op.reads) fun f => s.complete f
/-- HOME_ACCESS (R95, R248, R260): an access that waited reaches its home slice. -/
def execHomeAccess (id : Nat) (s : State) : Out :=
  s.withFlight id (fun f => f.phase = .arriving && !s.waitsBehind f && !f.acc.op.isAtomic) fun f => s.tryFlight f
/-- ATOMIC_PERFORM (R286): an atomic that waited reaches its atomic unit. -/
def execAtomicPerform (id : Nat) (s : State) : Out :=
  s.withFlight id (fun f => f.phase = .arriving && !s.waitsBehind f && f.acc.op.isAtomic) fun f => s.tryFlight f
/-- PORT_TRANSLATE (R249): the port translates a released request again. -/
def execPortTranslate (id : Nat) (s : State) : Out :=
  s.withFlight id (fun f => f.phase = .retry && !s.waitsBehind f) fun f => s.tryFlight f

end Sys2Proof.Machine
end

