-- ==== Sys2Proof/Machine/Branch.lean ====
section
/-!
DEFINITION. Branches and calls (R40, R106 to R109).
-/
namespace Sys2Proof.Machine

/-- What the checks of a branch target answer. -/
inductive TargetRes where
  | ok
  | wait (s : State)
  | raise (k : TrapInfo)

/-- The checks of R40 on a target, in their order. -/
def State.checkTarget (s : State) (c : Cap) (t : Int) : TargetRes :=
  match checkRange (s.ownObj s.me.fld) c pX t 4 with
  | some k => .raise (capTrap k c t)
  | none =>
    if t % 4 ≠ 0 then .raise (capTrap ccMisTarget c t)
    else
      match s.fetchWord s.me.fld s.me.ctx c t.toNat with
      | .word w => if fCls w = 3 then .raise (capTrap ccMisTarget c t) else .ok
      | .hold x w => let p := s.fetchAt s.me.fld c t.toNat; .wait (s.holdOnce s.me.ctx p.1 p.2 x w s.myParty)
      | .busy => .wait s
      | .raise k => .raise k

/-- A branch to an offset of a capability, with what it does besides once the target has passed. -/
def State.branchTo (s : State) (c : Cap) (t : Int) (also : State → State) : Act :=
  match s.checkTarget c t with
  | .raise k => .raise k (s.fetchFailed s.me.fld s.me.ctx c t.toNat k)
  | .wait s => .wait s
  | .ok => .jump ((also s).jump (c.setCur t.toNat))

/-- The link: pcc at the next instruction (R107); after offset 2^48 − 4 its cursor is 0 (log 83). -/
def State.link (s : State) : Cap := s.me.pcc.setCur (s.pc + 4)

def execBp (p : PredF) (n : BitVec 1) (off : BitVec 20) (s : State) : Out :=
  run .plain 4 {} (fun s =>
    if s.pred p != (n = 1) then s.branchTo s.me.pcc ((s.pc : Int) + 4 * off.toInt) id else .done s) s

def execCall (off : BitVec 20) (s : State) : Out :=
  run .plain 4 {} (fun s => s.branchTo s.me.pcc ((s.pc : Int) + 4 * off.toInt) fun t => t.setCreg 15 s.link) s

/-- `loop` reads and writes d, so a bound queue register raises QUEUE_UNBOUND (R42, R108). -/
def execLoop (d : RegF) (off : BitVec 14) (s : State) : Out :=
  run .plain 4 { reads := [d], writes := [d] } (fun s =>
    let v := s.readReg d - 1
    if v = 0 then .done (s.setSreg d v)
    else s.branchTo s.me.pcc ((s.pc : Int) + 4 * off.toInt) fun t => t.setSreg d v) s

def execJr (c : CapF) (b : RegF) (s : State) : Out :=
  run .plain 4 { reads := [b] } (fun s => s.branchTo (s.creg c) (effAddr (s.creg c) (s.readReg b)) id) s
def execCallr (c : CapF) (b : RegF) (s : State) : Out :=
  run .plain 4 { reads := [b] } (fun s =>
    s.branchTo (s.creg c) (effAddr (s.creg c) (s.readReg b)) fun t => t.setCreg 15 s.link) s
def execRet (c : CapF) (s : State) : Out :=
  run .plain 4 {} (fun s => s.branchTo (s.creg c) (s.creg c).cur id) s

end Sys2Proof.Machine
end

