-- ==== Sys2Proof/Machine/Crc.lean ====
section
/-!
DEFINITION. The cyclic checks of R331: reflected and not, over a list of bytes.
-/
namespace Sys2Proof.Machine

/-- n steps of a reflected division by a polynomial given reversed. -/
def crcBitsR (poly : Nat) : Nat → Nat → Nat
  | 0, c => c
  | n + 1, c => crcBitsR poly n (if c % 2 = 1 then (c / 2) ^^^ poly else c / 2)

/-- A reflected check of some bytes. -/
def crcRefl (poly init xor : Nat) (bs : List Byte) : Nat :=
  (bs.foldl (fun c b => crcBitsR poly 8 (c ^^^ b.toNat)) init) ^^^ xor

/-- n steps of an unreflected 16-bit division. -/
def crcBits16 (poly : Nat) : Nat → Nat → Nat
  | 0, c => c
  | n + 1, c => crcBits16 poly n ((if c ≥ 2 ^ 15 then (2 * c) ^^^ poly else 2 * c) % 2 ^ 16)

/-- CRC-32C. -/
def crc32c (bs : List Byte) : Nat := crcRefl 0x82F63B78 (2 ^ 32 - 1) (2 ^ 32 - 1) bs
/-- The 16b Guard. -/
def crc16 (bs : List Byte) : Nat := bs.foldl (fun c b => crcBits16 0x8BB7 8 (c ^^^ (b.toNat * 2 ^ 8))) 0
/-- The 64b Guard, also the flit check of R443. -/
def crc64 (bs : List Byte) : Nat := crcRefl 0x9A6C9329AC4BC9B5 (2 ^ 64 - 1) (2 ^ 64 - 1) bs

end Sys2Proof.Machine
end

