-- ==== Sys2Proof/Machine/Digits.lean ====
section
/-!
DEFINITION. Online digit arithmetic (R69 to R90): lanes as digit strings that may still be growing, the recurrences of the
operators, termination, comparison, settling and the trees of R92. Every recurrence works on dyadic rationals, exactly.
-/
namespace Sys2Proof.Machine

/-! ### Dyadic rationals m × 2^e -/

structure Dy where
  m : Int
  e : Int
  deriving Repr

def Dy.zero : Dy := ⟨0, 0⟩
def Dy.one : Dy := ⟨1, 0⟩
def Dy.ofInt (i : Int) : Dy := ⟨i, 0⟩
/-- The integer of a dyadic over 2^e0, for e0 at or below its exponent. -/
def Dy.at (x : Dy) (e0 : Int) : Int := x.m * 2 ^ (x.e - e0).toNat
def Dy.add (x y : Dy) : Dy := let e := min x.e y.e; ⟨x.at e + y.at e, e⟩
def Dy.neg (x : Dy) : Dy := ⟨-x.m, x.e⟩
def Dy.sub (x y : Dy) : Dy := x.add y.neg
def Dy.mul (x y : Dy) : Dy := ⟨x.m * y.m, x.e + y.e⟩
def Dy.scl (x : Dy) (k : Int) : Dy := if x.m = 0 then .zero else ⟨x.m, x.e + k⟩
/-- The digit d of weight 2^k. -/
def Dy.digit (d : Int) (k : Int) : Dy := if d = 0 then .zero else ⟨d, k⟩
/-- floor(x × 2^t). -/
def Dy.floorAt (x : Dy) (t : Int) : Int := let k := x.e + t; if k ≥ 0 then x.m * 2 ^ k.toNat else x.m / 2 ^ (-k).toNat
def Dy.isZero (x : Dy) : Bool := x.m = 0
def Dy.sign (x : Dy) : Int := if x.m > 0 then 1 else if x.m < 0 then -1 else 0
def Dy.lt (x y : Dy) : Bool := (x.sub y).m < 0
def Dy.le (x y : Dy) : Bool := (x.sub y).m ≤ 0
def Dy.abs (x : Dy) : Dy := ⟨x.m.natAbs, x.e⟩
def Dy.max (x y : Dy) : Dy := if x.lt y then y else x

/-- Digit selection (R75): the truncated value against n × 2^−t. -/
def sel (v : Dy) (t : Nat) (n : Int) : Int :=
  let vh := v.floorAt t
  if vh ≥ n then 1 else if vh < -n then -1 else 0

/-! ### Lanes -/

/-- Lane classes (R69). -/
def clFin : Nat := 0
def clZero : Nat := 1
def clInf : Nat := 2
def clNan : Nat := 3

/-- A lane as received so far: its class, its value's header exponent, its digits, and whether its zero tail has come. -/
structure LaneIn where
  cls : Nat
  e : Int
  ds : List Int
  tail : Bool

/-- Digit k of a lane: 0 before the first and after a tail; none while it has not come (R72). -/
def LaneIn.dig (x : LaneIn) (k : Int) : Option Int :=
  if k ≤ 0 then some 0
  else match x.ds[k.toNat - 1]? with
    | some d => some d
    | none => if x.tail then some 0 else none
/-- The zero tail lies at or before digit k. -/
def LaneIn.tailBy (x : LaneIn) (k : Int) : Bool := x.tail && (x.ds.length : Int) + 1 ≤ k
/-- X[k] (R72). -/
def LaneIn.partialSum (x : LaneIn) (k : Nat) : Dy :=
  (x.ds.take k).zipIdx.foldl (fun a p => a.add (.digit p.1 (-(p.2 + 1 : Int)))) .zero
/-- The digits that decide whether a lane is zero: those up to input digit 2,048 (R78, R468), of a lane to which `pre` digits
are prefixed. -/
def LaneIn.seen (x : LaneIn) (pre : Nat := 0) : LaneIn :=
  if x.ds.length ≥ 2048 + pre then { x with ds := x.ds.take (2048 + pre), tail := false } else x
/-- The sign and whether it is known: of the first non-zero digit (R72), 0 for a lane that is zero or treated as zero. -/
def LaneIn.signNow (x : LaneIn) : Option Int :=
  let y := x.seen
  match y.ds.find? (· ≠ 0) with
  | some d => some d
  | none => if y.tail || y.ds.length ≥ 2048 then some 0 else none
/-- The lane is treated as zero by digit 2,048 and not by its tail: bit nz (R78). -/
def LaneIn.late (x : LaneIn) : Bool := !x.seen.tail
/-- The sign digit of a class zero or infinity lane (R70). -/
def LaneIn.sgnDigit (x : LaneIn) : Int := x.ds.headD 1
def LaneIn.negate (x : LaneIn) : LaneIn := { x with ds := x.ds.map (- ·) }
/-- The value of a finite lane that has ended. -/
def LaneIn.value (x : LaneIn) : Dy := (x.partialSum x.ds.length).scl x.e

/-- Digit codes (R70). -/
def codeOf (d : Int) : Nat := if d = 1 then 1 else if d = -1 then 2 else 0
def digitOf (c : Nat) : Int := if c = 1 then 1 else if c = 2 then -1 else 0

/-- Status bits (R169). -/
def sbNZ : Nat := 2 ^ 16
def sbNV : Nat := 2 ^ 17
def sbDZ : Nat := 2 ^ 18
def sbOF : Nat := 2 ^ 19
def sbUF : Nat := 2 ^ 20
def sbNX : Nat := 2 ^ 21
/-- Flags of FFLAGS as status bits. -/
def statusOf (fl : Nat) : Nat := fl % 32 * 2 ^ 17

/-- What an operator knows of an output lane: nothing that may be sent yet; or its class, its exponent if it has one, its
first n codes as far as they are determined, and the status bits it raises. -/
inductive LaneRes where
  | wait
  | res (cls : Nat) (e : Option Int) (codes : Nat → List Nat) (st : Nat)

/-- A lane of class zero or infinity with its sign digit, a NaN, and a z0 lane (R70, R86). -/
def laneZero (s : Int) (st : Nat := 0) : LaneRes := .res clZero none (fun _ => [codeOf s, 3]) st
def laneInf (s : Int) (st : Nat := 0) : LaneRes := .res clInf none (fun _ => [codeOf s, 3]) st
def laneNan (st : Nat := 0) : LaneRes := .res clNan none (fun _ => [3]) st
def laneZ0 (st : Nat := 0) : LaneRes := .res clFin none (fun _ => [3]) st

/-- Runs a recurrence for n codes: `ended` says that a zero tail comes next, `step` takes the next input digits or none. -/
def drive {σ : Type} (ended : σ → Bool) (step : σ → Option (σ × Option Int)) : Nat → Nat → σ → List Nat
  | 0, _, _ => []
  | fuel + 1, n, st =>
    if n = 0 then []
    else if ended st then [3]
    else
      match step st with
      | none => []
      | some (st, none) => drive ended step fuel n st
      | some (st, some z) => codeOf z :: drive ended step fuel (n - 1) st

/-! ### Add (R76) -/

structure AddSt where
  j : Int
  w : Dy

/-- The output codes of a sum of two lanes aligned to E. -/
def addCodes (x y : LaneIn) (E : Int) (n : Nat) : List Nat :=
  let sx := E - x.e
  let sy := E - y.e
  drive (σ := AddSt) (fun s => s.j ≥ 0 && s.w.isZero && x.tailBy (s.j + 2 - sx) && y.tailBy (s.j + 2 - sy))
    (fun s =>
      match x.dig (s.j + 3 - sx), y.dig (s.j + 3 - sy) with
      | some a, some b =>
        let v := (s.w.scl 1).add (.digit (a + b) (-3))
        if s.j < 0 then some (⟨s.j + 1, v⟩, none)
        else let z := sel v 2 2; some (⟨s.j + 1, v.sub (.ofInt z)⟩, some z)
      | _, _ => none)
    (n + 3) n ⟨-2, .zero⟩

/-- Codes of a lane delayed by k zero digits. -/
def delayed (x : LaneIn) (k : Nat) (n : Nat) : List Nat :=
  let all := List.replicate k 0 ++ x.ds.map codeOf ++ (if x.tail then [3] else [])
  all.take n

/-- Codes held back to the first digits j for which `there j` holds: those whose operands have come as far as R73 wants. -/
def heldBack (there : Nat → Bool) (codes : List Nat) : List Nat :=
  (codes.zipIdx.takeWhile fun p => there (p.2 + 1)).map (·.1)
/-- Digit k of an operand has come, or its zero tail (R72). -/
def LaneIn.there (x : LaneIn) (k : Int) : Bool := (x.dig k).isSome

/-- A lane of class zero plus a finite lane: the finite lane's digits, digit j of them once digit j + 2 has come (R73, R86). -/
def zeroPlus (x : LaneIn) (E : Int) : LaneRes :=
  .res clFin (some (E + 1))
    (fun n => heldBack (fun j => x.there (j + 2 - (E - x.e))) (delayed x (E + 1 - x.e).toNat n)) 0

/-- Add of one lane (R76, R86); the vector's exponent is max(Ex, Ey) + 1. -/
def laneAdd (x y : LaneIn) : LaneRes :=
  let E := max x.e y.e
  if x.cls = clNan || y.cls = clNan then laneNan
  else if x.cls = clInf && y.cls = clInf then (if x.sgnDigit = y.sgnDigit then laneInf x.sgnDigit else laneNan sbNV)
  else if x.cls = clInf then laneInf x.sgnDigit
  else if y.cls = clInf then laneInf y.sgnDigit
  else if x.cls = clZero && y.cls = clZero then (if x.sgnDigit = y.sgnDigit then laneZero x.sgnDigit else laneZ0)
  else if x.cls = clZero then zeroPlus y E
  else if y.cls = clZero then zeroPlus x E
  else .res clFin (some (E + 1)) (fun n => addCodes x y E n) 0

/-! ### Multiply (R77) -/

structure MulSt where
  j : Int
  w : Dy
  xp : Dy
  yp : Dy

def mulCodes (x y : LaneIn) (n : Nat) : List Nat :=
  drive (σ := MulSt) (fun s => s.j ≥ 0 && s.w.isZero && x.tailBy (s.j + 3) && y.tailBy (s.j + 3))
    (fun s =>
      let k := s.j + 4
      match x.dig k, y.dig k with
      | some a, some b =>
        let yp := s.yp.add (.digit b (-k))
        let v := (s.w.scl 1).add (((yp.mul (.ofInt a)).add (s.xp.mul (.ofInt b))).scl (-4))
        let xp := s.xp.add (.digit a (-k))
        if s.j < 0 then some (⟨s.j + 1, v, xp, yp⟩, none)
        else let z := sel v 2 2; some (⟨s.j + 1, v.sub (.ofInt z), xp, yp⟩, some z)
      | _, _ => none)
    (n + 4) n ⟨-3, .zero, .zero, .zero⟩

/-- Multiply of one lane (R77, R86, R468). -/
def laneMul (x y : LaneIn) : LaneRes :=
  let s := x.sgnDigit * y.sgnDigit
  if x.cls = clNan || y.cls = clNan then laneNan
  else if (x.cls = clZero && y.cls = clInf) || (x.cls = clInf && y.cls = clZero) then laneNan sbNV
  else if x.cls = clInf && y.cls = clInf then laneInf s
  else if x.cls = clInf || y.cls = clInf then
    let (i, f) := if x.cls = clInf then (x, y) else (y, x)
    match f.signNow with
    | none => .wait
    | some 0 => laneNan (sbNV + if f.late then sbNZ else 0)
    | some d => laneInf (i.sgnDigit * d)
  else if x.cls = clZero && y.cls = clZero then laneZero s
  else if x.cls = clZero || y.cls = clZero then laneZ0
  else .res clFin (some (x.e + y.e + 1)) (fun n => mulCodes x y n) 0

/-! ### Normalisation (R78) -/

/-- What normalising a lane has found: nothing yet, a zero (with nz set or not), or the shift. -/
inductive Norm where
  | wait
  | zero (nz : Bool)
  | shift (s : Nat)

/-- The smallest shift from s on that a test of 2^(c·s) × Xf[c·s + d] against a bound admits, by input digit 2,048. -/
def findShift (x : LaneIn) (c d pre : Nat) (ok : Dy → Bool) : Nat → Nat → Norm
  | 0, _ => .zero true
  | fuel + 1, s =>
    let k := c * s + d
    if k > 2048 + pre then .zero true
    else if !x.tail && x.ds.length < k then (if x.ds.length ≥ 2048 + pre then .zero true else .wait)
    else if ok ((x.partialSum k).scl (c * s)) then .shift s
    else if x.tail && (x.ds.all (· = 0)) then .zero false
    else findShift x c d pre ok fuel (s + 1)

/-- Leading zero digits of a dividend. -/
def leadNorm (x : LaneIn) : Norm :=
  let x := x.seen
  match x.ds.findIdx? (· ≠ 0) with
  | some r => .shift r
  | none => if x.tail then .zero false else if x.ds.length ≥ 2048 then .zero true else .wait
/-- Divisor and log2 argument. -/
def divNorm (x : LaneIn) : Norm := findShift x.seen 1 3 0 (fun v => !v.abs.lt ⟨1, -1⟩) 2049 0
/-- Radicand, whose exponent is even; `pre` digits of it are prefixed and count as no input digits. -/
def sqrtNorm (x : LaneIn) (pre : Nat) : Norm := findShift (x.seen pre) 2 4 pre (fun v => !v.abs.lt ⟨1, -2⟩) 1025 0

/-- The lane's digits after the first s, which with `LaneIn.head` are worth 2^s × Xf (R78). -/
def LaneIn.drop (x : LaneIn) (s : Nat) : LaneIn := { x with ds := x.ds.drop s }
/-- What the first s digits are worth after the shift: the part at weight 2^0 and above (log 28). -/
def LaneIn.head (x : LaneIn) (s : Nat) : Dy := (x.partialSum s).scl s

/-! ### Divide (R79) -/

structure DivSt where
  j : Int
  w : Dy
  dp : Dy
  qp : Dy

/-- Quotient codes; xn is the normalised dividend, d the divisor shifted by s with its integer part in `d0`. -/
def divCodes (xn d : LaneIn) (d0 : Dy) (n : Nat) : List Nat :=
  heldBack (fun j => xn.there (j + 4)) <| drive (σ := DivSt) (fun s => s.j ≥ 0 && s.w.isZero && xn.tailBy (s.j + 4 - 3) && d.tailBy (s.j + 4))
    (fun s =>
      let k := s.j + 5
      match xn.dig (k - 3), d.dig k with
      | some a, some b =>
        let dp := s.dp.add (.digit b (-k))
        let v := (s.w.scl 1).add (((Dy.ofInt a).sub (s.qp.mul (.ofInt b))).scl (-4))
        if s.j < 0 then some (⟨s.j + 1, v, dp, s.qp⟩, none)
        else
          let q := sel v 5 8
          some (⟨s.j + 1, v.sub (dp.mul (.ofInt q)), dp, s.qp.add (.digit q (-(s.j + 1)))⟩, some q)
      | _, _ => none)
    (n + 5) n ⟨-4, .zero, d0, .zero⟩

/-- Divide of one lane (R79, R86, R468). -/
def laneDiv (x d : LaneIn) : LaneRes :=
  let s := x.sgnDigit * d.sgnDigit
  if x.cls = clNan || d.cls = clNan then laneNan
  else if x.cls = clInf && d.cls = clInf then laneNan sbNV
  else if x.cls = clZero && d.cls = clZero then laneNan sbNV
  else if x.cls = clZero && d.cls = clInf then laneZero s
  else if d.cls = clInf then laneZ0
  else if x.cls = clInf then
    if d.cls = clZero then laneInf x.sgnDigit
    else
      match d.signNow with
      | none => .wait
      | some 0 => laneInf x.sgnDigit (if d.late then sbNZ else 0)
      | some t => laneInf (x.sgnDigit * t)
  else if d.cls = clZero then
    match x.signNow with
    | none => .wait
    | some 0 => laneNan (sbNV + if x.late then sbNZ else 0)
    | some t => laneInf t sbDZ
  else
    match divNorm d with
    | .wait => .wait
    | .zero nz =>
      let nzb := if nz then sbNZ else 0
      if x.cls = clZero then laneNan (sbNV + nzb)
      else
        match leadNorm x with
        | .wait => .wait
        | .zero m => laneNan (sbNV + (if nz || m then sbNZ else 0))
        | .shift r => laneInf ((x.ds[r]?).getD 1) (sbDZ + nzb)
    | .shift sh =>
      if x.cls = clZero then laneZ0
      else
        match leadNorm x with
        | .wait => .wait
        | .zero m => laneZ0 (if m then sbNZ else 0)
        | .shift r =>
          .res clFin (some (x.e - r - d.e + sh + 3)) (fun n => divCodes (x.drop r) (d.drop sh) (d.head sh) n) 0

/-! ### Square root (R80) -/

structure SqrtSt where
  j : Int
  w : Dy
  zp : Dy

/-- The nearest multiple of 1/16 to √(a/4), the larger on a tie: the largest i with (2i − 1)² ≤ 256 a. -/
def rootSeed (a : Dy) : Nat :=
  ((List.range 17).reverse.find? fun (i : Nat) => i = 0 || (Dy.ofInt ((2 * (i : Int) - 1) * (2 * (i : Int) - 1))).le (a.scl 8)).getD 0

/-- Root codes of the normalised radicand with its integer part in `x0`. -/
def sqrtCodes (x : LaneIn) (x0 : Dy) (n : Nat) : List Nat :=
  if !x.tail && x.ds.length < 6 then []
  else
    let x6 := x0.add (x.partialSum 6)
    let z4 := rootSeed x6
    let zd : Dy := ⟨z4, -4⟩
    let first := (List.range 4).map fun i => if z4 ≥ 16 then (1 : Nat) else z4 / 2 ^ (3 - i) % 2
    let w := ((x6.scl (-2)).sub (zd.mul zd)).scl 4
    heldBack (fun j => x.there (j + 4)) <| (first ++ drive (σ := SqrtSt) (fun s => s.w.isZero && x.tailBy (s.j + 4 - 2))
      (fun s =>
        match x.dig (s.j + 5 - 2) with
        | some a =>
          let v := (s.w.scl 1).add (if s.j + 5 - 2 ≤ 6 then .zero else .digit a (-4))
          let z := sel v 5 8
          let w := v.sub (((s.zp.scl 1).add (.digit z (-(s.j + 1)))).mul (.ofInt z))
          some (⟨s.j + 1, w, s.zp.add (.digit z (-(s.j + 1)))⟩, some z)
        | none => none) n (n - 4) ⟨4, w, zd⟩).take n

/-- Square root of one lane (R80, R86): a lane without a shift is zero, whatever its first digit (R78). -/
def laneSqrt (x : LaneIn) : LaneRes :=
  if x.cls = clNan then laneNan
  else if x.cls = clZero then laneZero x.sgnDigit
  else if x.cls = clInf then (if x.sgnDigit = 1 then laneInf 1 else laneNan sbNV)
  else
    let pre := (x.e % 2).toNat
    let y := { x with e := x.e + pre, ds := List.replicate pre 0 ++ x.ds }
    match sqrtNorm y pre with
    | .wait => .wait
    | .zero nz => laneZ0 (if nz then sbNZ else 0)
    | .shift s =>
      if x.signNow = some (-1) then laneNan sbNV
      else .res clFin (some ((y.e - 2 * s) / 2 + 1)) (fun n => sqrtCodes (y.drop (2 * s)) (y.head (2 * s)) n) 0

/-! ### exp2 and log2 (R81 to R83) -/

/-- LT(s, j) (R81), to the nearest multiple of 2^−600. -/
def ltab (s : Int) (j : Nat) : Dy :=
  if s = 0 || j > 601 then .zero
  else if s = -1 && j = 1 then .ofInt (-1)
  else
    let m := if s = 1 then 2 ^ j + 1 else 2 ^ j - 1
    let v : Int := (log2Frac' 664 m : Nat) - (if s = 1 then 0 else 2 ^ 664)
    ⟨(v + 2 ^ 63) / 2 ^ 64, -600⟩

/-- What the integer digits of an exp2 argument have decided (R82). -/
inductive ExpN where
  | wait
  | big
  | small
  | val (n : Int)

/-- Reads integer digits q on, with n from the digits before: E of them in all. -/
def expInt (x : LaneIn) (E : Nat) : Nat → Int → ExpN
  | 0, n => if n ≥ 1100 then .big else if n ≤ -1100 then .small else .val n
  | rem + 1, n =>
    match x.dig (E - rem : Nat) with
    | none => .wait
    | some d =>
      let n := 2 * n + d
      let hi := n * 2 ^ rem
      if hi - (2 ^ rem - 1) ≥ 1100 then .big
      else if hi + (2 ^ rem - 1) ≤ -1100 then .small
      else expInt x E rem n

structure ExpSt where
  j : Nat
  u : Dy
  p : Dy
  w : Dy

/-- The digits of 2^F / 4, where digit k of F is digit k + E of the lane. -/
def expCodes (x : LaneIn) (n : Nat) : List Nat :=
  match x.dig (1 + x.e), x.dig (2 + x.e), x.dig (3 + x.e), x.dig (4 + x.e) with
  | some a, some b, some c, some d =>
    drive (σ := ExpSt) (fun s => s.j ≥ 2 && s.u.isZero && s.w.isZero && x.tailBy (s.j + 3 + x.e))
      (fun s =>
        match x.dig (s.j + 4 + x.e) with
        | none => none
        | some f =>
          let v := (s.u.scl 1).add (.digit f (-4))
          let g := sel v 4 (if s.j = 1 then 16 else 12)
          let u := v.sub ((ltab g s.j).scl s.j)
          let p := s.p.add ((s.p.mul (.ofInt g)).scl (-(s.j : Int)))
          if s.j = 1 then some (⟨2, u, p, p.scl (-2)⟩, none)
          else
            let v2 := (s.w.scl 1).add ((p.sub s.p).scl (s.j - 3))
            let z := sel v2 2 2
            some (⟨s.j + 1, u, p, v2.sub (.ofInt z)⟩, some z))
      (n + 2) n ⟨1, (Dy.digit a (-1)).add ((Dy.digit b (-2)).add ((Dy.digit c (-3)).add (.digit d (-4)))), .one, .zero⟩
  | _, _, _, _ => []

/-- The exact value 2^k as R71 streams it. -/
def lanePow (k : Int) : LaneRes := .res clFin (some (k + 1)) (fun _ => [1, 3]) 0

/-- exp2 of one lane (R82, R86). -/
def laneExp2 (x : LaneIn) : LaneRes :=
  if x.cls = clNan then laneNan
  else if x.cls = clInf then (if x.sgnDigit = 1 then laneInf 1 else laneZero 1)
  else
    let x := if x.cls = clZero then { x with ds := [], tail := true } else x
    match expInt x x.e.toNat x.e.toNat 0 with
    | .wait => .wait
    | .big => lanePow 1100
    | .small => lanePow (-1100)
    | .val k => .res clFin (some (k + 2)) (fun n => expCodes x n) 0

structure LogSt where
  j : Nat
  r : Dy
  g : Dy
  w : Dy

/-- The bit length of a magnitude. -/
def bitLen (n : Nat) : Nat := if n = 0 then 0 else n.log2 + 1

/-- log2 of one lane (R83, R86): d is the argument shifted by s, with its integer part in d0. -/
def logLane (d : LaneIn) (d0 : Dy) (s : Nat) : LaneRes :=
  if !d.tail && d.ds.length < 6 then .wait
  else
    let m5 := (d0.add (d.partialSum 6)).scl 1
    let c : Nat := if m5.lt ⟨11, -3⟩ then 0 else 1
    let k : Int := d.e - s - 1 + c
    let a := bitLen k.natAbs
    let g : Dy := ⟨1, -(c : Int)⟩
    .res clFin (some (a + 3)) (fun n =>
      drive (σ := LogSt) (fun t => t.r.isZero && t.w.isZero && d.tailBy (t.j + 5))
        (fun t =>
          match d.dig (t.j + 6) with
          | none => none
          | some m =>
            let v := (t.r.scl 1).add ((t.g.mul (.ofInt m)).scl (-5))
            let q := -sel v 5 (if t.j = 1 then 22 else 16)
            let f := Dy.one.add (.digit q (-(t.j : Int)))
            let v2 := (t.w.scl 1).sub ((ltab q t.j).scl ((t.j : Int) - (a + 3 : Nat)))
            let z := sel v2 2 2
            some (⟨t.j + 1, (v.mul f).add (.ofInt q), t.g.mul f, v2.sub (.ofInt z)⟩, some z))
        (n + 1) n ⟨1, (g.mul m5).sub .one, g, (Dy.ofInt k).scl (-(a + 3 : Nat))⟩) 0

def laneLog2 (x : LaneIn) : LaneRes :=
  if x.cls = clNan then laneNan
  else if x.cls = clZero then laneInf (-1) sbDZ
  else if x.cls = clInf then (if x.sgnDigit = 1 then laneInf 1 else laneNan sbNV)
  else
    match divNorm x with
    | .wait => .wait
    | .zero nz => laneInf (-1) (sbDZ + if nz then sbNZ else 0)
    | .shift s =>
      match x.signNow with
      | some (-1) => laneNan sbNV
      | _ => logLane (x.drop s) (x.head s) s

/-! ### Digit-local operators (R84) -/

/-- The codes of a finite lane as received. -/
def plainCodes (x : LaneIn) (n : Nat) : List Nat := delayed x 0 n

def laneLocal (zs : Int → Int) (f : LaneIn → Nat → List Nat) (k : Int) (x : LaneIn) : LaneRes :=
  if x.cls = clNan then laneNan
  else if x.cls = clZero then laneZero (zs x.sgnDigit)
  else if x.cls = clInf then laneInf (zs x.sgnDigit)
  else if x.ds.isEmpty && x.tail then laneZ0
  else .res clFin (some (x.e + k)) (f x) 0

def laneNeg (x : LaneIn) : LaneRes := laneLocal (- ·) (fun x => plainCodes x.negate) 0 x
def laneScl (k : Int) (x : LaneIn) : LaneRes := laneLocal id plainCodes k x

/-- The one-digit hold of `oabs`: `lead` says that the held digit is the first non-zero one. -/
def absGo : Int → Bool → Bool → List Int → List Int
  | h, _, _, [] => [h]
  | h, lead, seen, d :: r =>
    if lead && d = -h then 0 :: absGo h true seen r
    else
      let seen := seen || h ≠ 0
      h :: absGo d (d ≠ 0 && !seen) seen r

/-- Codes of `oabs` (R84). -/
def absCodes (x : LaneIn) (n : Nat) : List Nat :=
  let y := if x.ds.find? (· ≠ 0) = some (-1) then x.negate else x
  let out := match y.ds with
    | [] => []
    | d :: r => absGo d (d ≠ 0) false r
  ((if x.tail then out.map codeOf ++ [3] else (out.dropLast).map codeOf)).take n

def laneAbs (x : LaneIn) : LaneRes := laneLocal (fun _ => 1) absCodes 0 x

/-! ### Comparison (R87) -/

inductive Cmp3 where
  | lt | eq | gt
  deriving DecidableEq

def Cmp3.flip : Cmp3 → Cmp3
  | .lt => .gt
  | .eq => .eq
  | .gt => .lt

def cmpInt (a b : Int) : Cmp3 := if a < b then .lt else if a = b then .eq else .gt

/-- A lane of class zero as a finite one, for comparison with a finite lane. -/
def LaneIn.asFin (x : LaneIn) : LaneIn := if x.cls = clZero then { x with ds := [], tail := true } else x

/-- The order of two lanes that are no NaN, if their digits decide it; `signed` orders −0 below +0. -/
def cmpLane (signed : Bool) (x y : LaneIn) : Option Cmp3 :=
  if x.cls = clInf || y.cls = clInf then
    some (cmpInt (if x.cls = clInf then x.sgnDigit else 0) (if y.cls = clInf then y.sgnDigit else 0))
  else if x.cls = clZero && y.cls = clZero then some (if signed then cmpInt x.sgnDigit y.sgnDigit else .eq)
  else
    let x := x.asFin
    let y := y.asFin
    let E := max x.e y.e
    let kx := (E - x.e).toNat + x.ds.length
    let ky := (E - y.e).toNat + y.ds.length
    let k := if x.tail then (if y.tail then max kx ky else ky) else if y.tail then kx else min kx ky
    let part := fun (l : LaneIn) => ((l.partialSum (k - (E - l.e).toNat)).scl (l.e - E))
    let dl := (part x).sub (part y)
    let t := fun (l : LaneIn) (kl : Nat) => if l.tail && kl ≤ k then Dy.zero else ⟨1, -(k : Int)⟩
    let bound := (t x kx).add (t y ky)
    if !dl.isZero && !dl.abs.lt bound then some (cmpInt dl.m 0)
    else if x.tail && y.tail && dl.isZero then some .eq
    else none

/-- The aligned digits of a lane. -/
def LaneIn.aligned (x : LaneIn) (E : Int) : List Int := List.replicate (E - x.e).toNat 0 ++ x.ds

/-- The leading digits on which two lists agree. -/
def commonPrefix : List Int → List Int → List Int
  | a :: r, b :: q => if a = b then a :: commonPrefix r q else []
  | _, _ => []

/-- omax and omin of one lane (R87): the digit string of the winner. -/
def laneMax (wantMin : Bool) (x y : LaneIn) : LaneRes :=
  if x.cls = clNan || y.cls = clNan then laneNan
  else
    let E := max x.e y.e
    match cmpLane true x y with
    | some c =>
      let w := if (if wantMin then c = .gt else c = .lt) then y else x
      if w.cls = clZero then laneZero w.sgnDigit
      else if w.cls = clInf then laneInf w.sgnDigit
      else if w.ds.isEmpty && w.tail then laneZ0
      else .res clFin (some E) (fun n => delayed w (E - w.e).toNat n) 0
    | none =>
      if x.cls = clFin && y.cls = clFin then
        .res clFin (some E) (fun n => ((commonPrefix (x.aligned E) (y.aligned E)).map codeOf).take n) 0
      else .wait

/-! ### Words and values as streams (R71) -/

/-- The exponent of a value in a stream: none unless it is finite and not zero. -/
def FVal.expo : FVal → Option Int
  | .fin _ m e => some (1 + m.log2 + e)
  | _ => none

/-- The exponent of a vector of values. -/
def vecExpo (vs : List FVal) : Int := ((vs.filterMap FVal.expo).foldl (fun a e => match a with
  | none => some e
  | some b => some (max b e)) none).getD 0

/-- Drops the factors of two of a mantissa, for the last digit to be non-zero. -/
def oddPart : Nat → Nat → Int → Nat × Int
  | 0, m, e => (m, e)
  | n + 1, m, e => if m % 2 = 0 && m ≠ 0 then oddPart n (m / 2) (e + 1) else (m, e)

/-- One value as a lane under header exponent E. -/
def FVal.lane (v : FVal) (E : Int) : LaneIn :=
  match v with
  | .nan _ => { cls := clNan, e := E, ds := [], tail := true }
  | .inf n => { cls := clInf, e := E, ds := [if n then -1 else 1], tail := true }
  | .zero n => { cls := clZero, e := E, ds := [if n then -1 else 1], tail := true }
  | .fin n m e =>
    let (m, e) := oddPart (m.log2 + 1) m e
    let sg : Int := if n then -1 else 1
    let len := (E - e).toNat
    { cls := clFin, e := E, ds := (List.range len).map fun i => if m.testBit (len - 1 - i) then sg else 0, tail := true }

/-- Sixteen values as lanes with one exponent. -/
def lanesOf (vs : List FVal) : Int × List LaneIn := let E := vecExpo vs; (E, vs.map (·.lane E))

/-- A complete lane as a result: what it held. -/
def LaneIn.res (x : LaneIn) : LaneRes :=
  if x.cls = clNan then laneNan
  else if x.cls = clZero then laneZero x.sgnDigit
  else if x.cls = clInf then laneInf x.sgnDigit
  else .res clFin (some x.e) (fun n => plainCodes x n) 0

/-- A result's lane for the next node of a tree, under the node's exponent E; none while it has not ended. -/
def LaneRes.lane (r : LaneRes) (E : Int) (fuel : Nat) : Option LaneIn :=
  match r with
  | .wait => none
  | .res cls _ codes _ =>
    let l := codes fuel
    if l.getLast? = some 3 then some { cls := cls, e := E, ds := l.dropLast.map digitOf, tail := true } else none

/-- The digits after which a sum of complete lanes must have ended. -/
def laneFuel (xs : List LaneIn) : Nat :=
  let hi := xs.foldl (fun a x => max a x.e) (0 : Int)
  let lo := xs.foldl (fun a x => min a (x.e - (x.ds.length : Int))) (0 : Int)
  (hi - lo).toNat + 16 + xs.length

/-- A lane with the status bits that came with it. -/
abbrev LaneSt := LaneIn × Nat

/-- A node of a tree: the lane under the node's exponent and the status of its subtree. -/
def nodeOf (op : LaneIn → LaneIn → LaneRes) (E : Int) (fuel : Nat) (a b : LaneSt) : Option LaneSt :=
  let r := op a.1 b.1
  let st := match r with
    | .wait => 0
    | .res _ _ _ st => st
  (r.lane E fuel).map fun l => (l, a.2 ||| b.2 ||| st)

/-- One level of a tree: neighbours combined. -/
def treeLevel (node : LaneSt → LaneSt → Option LaneSt) : List LaneSt → Option (List LaneSt)
  | a :: b :: r =>
    match node a b, treeLevel node r with
    | some x, some xs => some (x :: xs)
    | _, _ => none
  | l => some l

/-- A tree of a power of two of leaves. -/
def treeOf (node : LaneSt → LaneSt → Option LaneSt) : Nat → List LaneSt → Option LaneSt
  | 0, l => l.head?
  | fuel + 1, l =>
    match l with
    | [x] => some x
    | l => match treeLevel node l with
      | some l => treeOf node fuel l
      | none => none

/-- The number of levels of a padded tree over n leaves. -/
def treeDepth (n : Nat) : Nat := if n ≤ 1 then 0 else (n - 1).log2 + 1

/-- Leaves padded to a power of two (R92). -/
def padTo (x : LaneIn) (l : List LaneIn) : List LaneSt :=
  (l ++ List.replicate (2 ^ treeDepth l.length - l.length) x).map fun x => (x, 0)

/-- The largest header exponent of some lanes. -/
def maxExpo (xs : List LaneIn) : Int := xs.foldl (fun a x => max a x.e) ((xs.head?.map (·.e)).getD 0)

/-- An online sum of complete lanes (R92, R174): none if it never ends. A node's exponent is one above its inputs'. -/
def sumLanes (xs : List LaneIn) : Option LaneSt :=
  let pad : LaneIn := { cls := clZero, e := maxExpo xs, ds := [-1], tail := true }
  treeOf (fun a b => nodeOf laneAdd (max a.1.e b.1.e + 1) (laneFuel xs) a b) (treeDepth xs.length + 1) (padTo pad xs)

/-- The maximum or minimum of complete lanes by the tree of R92. -/
def maxLanes (wantMin : Bool) (ident : FVal) (xs : List LaneIn) : Option LaneSt :=
  let id := ident.lane ((ident.expo).getD (maxExpo xs))
  treeOf (fun a b => nodeOf (laneMax wantMin) (max a.1.e b.1.e) (laneFuel [a.1, b.1]) a b) (treeDepth xs.length + 1)
    (padTo id xs)

/-! ### Settling (R88 to R90, R93) -/

/-- A settle's target: a floating or narrow format, or an integer of a width. -/
inductive Target where
  | flt (f : Fmt)
  | int (n : Nat) (signed : Bool)

/-- Targets by format code (R167). -/
def target (code : Nat) : Target :=
  if code < 4 then .flt (ieeeFmt code)
  else if code < 7 then .flt (narrowFmt (code - 4))
  else if code ≥ 14 then .int 8 (code = 14)
  else if code ≥ 12 then .int 16 (code = 12)
  else if code ≥ 10 then .int 32 (code = 10)
  else .int 64 (code = 8)

/-- Bits of an element of a format code (R167). -/
def codeWidth (code : Nat) : Nat :=
  match target code with
  | .flt f => f.width
  | .int n _ => n

/-- p of R89. -/
def Target.prec : Target → Nat
  | .flt f => f.mb + 1
  | .int n _ => n
/-- The exponent of the smallest positive value. -/
def Target.qmin : Target → Int
  | .flt f => f.qmin
  | .int _ _ => 0

/-- The exponent of the spacing of C at and above a magnitude (R88). -/
def Target.spacing (t : Target) (md : RMode) (a : Dy) : Int :=
  let half : Int := if md = .rne || md = .rna then 1 else 0
  match t with
  | .int _ _ => -half
  | .flt f => (if a.isZero then f.qmin else max (a.m.natAbs.log2 + a.e - f.mb) f.qmin) - half

/-- The next point of C above a magnitude. -/
def Target.next (t : Target) (md : RMode) (a : Dy) : Dy := let q := t.spacing md a; ⟨a.floorAt (-q) + 1, q⟩

/-- The open interval (lo, hi) holds no point of C. -/
def Target.clear (t : Target) (md : RMode) (lo hi : Dy) : Bool :=
  if lo.m < 0 && hi.m > 0 then false
  else
    let (a, b) := if lo.m < 0 then (hi.neg, lo.neg) else (lo, hi)
    b.le (t.next md a)

/-- The point of C nearest to a value, the smaller magnitude when two are equally near. -/
def Target.nearest (t : Target) (md : RMode) (c : Dy) : Dy :=
  let a := c.abs
  let q := t.spacing md a
  let l : Dy := ⟨a.floorAt (-q), q⟩
  let h : Dy := ⟨l.m + 1, q⟩
  let b := if (h.sub a).lt (a.sub l) then h else l
  if c.m < 0 then b.neg else b

/-- A dyadic value; zero takes the sign of R93. -/
def Dy.val (x : Dy) (md : RMode) : FVal := if x.m = 0 then .zero (md = .rdn) else .fin (x.m < 0) x.m.natAbs x.e

/-- Rounds a value to a target: its bits and flags (R64 to R67). -/
def Target.of (t : Target) (md : RMode) (v : FVal) : Nat × Nat :=
  match t with
  | .flt f => f.ofVal md v
  | .int n sg => let (i, fl) := toIntV v md n sg; ((i % 2 ^ n).toNat, fl)

/-- What settling one lane has come to: bits, flags, undecided. -/
abbrev Settled := Option (Nat × Nat × Bool)

/-- Takes digits k + 1 on; `acc` is 2^k × X[k] and `first` the first non-zero digit's number. -/
def settleGo (t : Target) (md : RMode) (E : Int) (start : Int) (tail : Bool) : List Int → Nat → Int → Option Nat → Settled
  | [], k, acc, _ => if tail then let (b, fl) := t.of md ((⟨acc, E - k⟩ : Dy).val md); some (b, fl, false) else none
  | d :: r, k, acc, first =>
    let k := k + 1
    let acc := 2 * acc + d
    let first := if first.isNone && d ≠ 0 then some k else first
    let lo : Dy := ⟨acc - 1, E - k⟩
    let hi : Dy := ⟨acc + 1, E - k⟩
    let c : Dy := ⟨acc, E - k⟩
    if t.clear md lo hi then let (b, fl) := t.of md (c.val md); some (b, fl, false)
    else
      let count : Int := match first with
        | some f => (k : Int) - f + 1
        | none => k - start + 1
      if count ≥ 3 * t.prec + 8 then let (b, fl) := t.of md ((t.nearest md c).val md); some (b, fl, true)
      else settleGo t md E start tail r k acc first

/-- Settles one lane (R88 to R90). A NaN lane records no payload and no signalling bit; it settles as a quiet NaN, with no nv for
a floating target (log 87, DEDUCED from R67). -/
def settleLane (t : Target) (md : RMode) (x : LaneIn) : Settled :=
  let fin := fun v => let (b, fl) := t.of md v; some (b, fl, false)
  if x.cls = clNan then fin (.nan false)
  else if x.cls = clInf then (if x.ds.isEmpty then none else fin (.inf (x.sgnDigit = -1)))
  else if x.cls = clZero then (if x.ds.isEmpty then none else fin (.zero (x.sgnDigit = -1)))
  else settleGo t md x.e (x.e - t.qmin) x.tail x.ds 0 0 none

end Sys2Proof.Machine
end

