-- ==== Sys2Proof/Machine/Fabric.lean ====
section
/-!
DEFINITION. Channels and firing (R130 to R148, R155): the frame in which every element and switch operation fires, with
kills, markers, control tokens, tags, actors and stalls.
-/
namespace Sys2Proof.Machine

/-! ### Beats -/

def kWord : BitVec 2 := 0
def kHead : BitVec 2 := 1
def kTail : BitVec 2 := 2
/-- The marker kinds of the two networks (R131, R132). -/
def markKind (vec : Bool) : BitVec 2 := if vec then 2 else 3
def Beat.isMark (b : Beat) (vec : Bool) : Bool := b.kind = markKind vec
/-- A control token of the vector network. -/
def Beat.isCtl (b : Beat) (vec : Bool) : Bool := vec && b.kind = 3
/-- Neither a marker nor a control token: what an actor counts (R137). -/
def Beat.isData (b : Beat) (vec : Bool) : Bool := !b.isMark vec && !b.isCtl vec
def Beat.word (b : Beat) : W32 := b.v.setWidth 32
def wordBeat (w : W32) : Beat := { kind := kWord, v := w.setWidth 48 }
def natBeat (n : Nat) : Beat := wordBeat (BitVec.ofNat 32 n)
def markBeat (vec : Bool) (k : W32) : Beat := { kind := markKind vec, v := k.setWidth 48 }
/-- The tile-swap token (R132, R150). -/
def swapBeat : Beat := { kind := 3, v := 1 }
/-- A header beat and a digit beat of 16 lanes (R69). -/
def headerBeat (e : Int) (cls : Nat) : Beat := { kind := 1, v := BitVec.ofNat 48 ((e % 65536).toNat * 2 ^ 32 + cls) }
def digitBeat (codes tag : Nat) : Beat := { kind := 0, v := BitVec.ofNat 48 (tag * 2 ^ 32 + codes) }
/-- Lane k's code or class in a beat. -/
def Beat.lane (b : Beat) (k : Nat) : Nat := bits b.v.toNat (2 * k) 2
def Beat.tag (b : Beat) : Nat := bits b.v.toNat 32 4
/-- Every lane of a digit beat shows a zero tail. -/
def Beat.allTail (b : Beat) : Bool := bits b.v.toNat 0 32 = 2 ^ 32 - 1
/-- The exponent of a header. -/
def Beat.expo (b : Beat) : Int := toSigned 16 (bits b.v.toNat 32 16)

/-- Sixteen 2-bit codes packed, lane 0 lowest. -/
def pack2 (l : List Nat) : Nat := l.foldr (fun c a => c % 4 + 4 * a) 0

/-- A value as received: header and digit beats to the lanes of R72. -/
def lanesIn (bs : List Beat) : List LaneIn :=
  match bs with
  | [] => []
  | h :: ds => (List.range 16).map fun k =>
      let cs := ds.map (·.lane k)
      { cls := h.lane k, e := h.expo, ds := (cs.takeWhile (· ≠ 3)).map digitOf, tail := cs.contains 3 }

/-! ### Elements' configuration (R166) -/

def Elem.f (e : Elem) (lo n : Nat) : Nat := bits e.word.toNat lo n
def Elem.op (e : Elem) : Nat := e.f 235 5
def Elem.actor (e : Elem) : Nat := e.f 231 4
def Elem.cin (e : Elem) (i : Nat) : Nat := if i < 3 then e.f (227 - 4 * i) 4 else 0
def Elem.pout (e : Elem) (o : Nat) : Nat := if o < 2 then e.f (215 - 4 * o) 4 else 0
def Elem.rm (e : Elem) : RMode := rmode (e.f 208 3)
def Elem.fmt (e : Elem) : Nat := e.f 204 4
def Elem.swf (e : Elem) : Bool := e.f 203 1 = 1
def Elem.hasSt (e : Elem) : Bool := e.f 202 1 = 1
def Elem.rs (e : Elem) : Bool := e.f 201 1 = 1
/-- The stationary fill count, 1 to 512. -/
def Elem.fillCount (e : Elem) : Nat := e.f 192 9 + 1
def Elem.rpt (e : Elem) : Nat := e.f 176 16
/-- Bits of the parameter field. -/
def Elem.p (e : Elem) (lo n : Nat) : Nat := e.f lo n
def Elem.col (e : Elem) : Nat := e.site % 16
def Elem.isC (e : Elem) : Bool := !e.sw && 2 ≤ e.col && e.col ≤ 13
def Elem.isM (e : Elem) : Bool := !e.sw && (e.col = 0 || e.col = 15)
def Elem.isA (e : Elem) : Bool := !e.sw && (e.col = 1 || e.col = 14)
def Elem.at (e : Elem) (site : Nat) (sw : Bool) : Bool := e.site = site && e.sw == sw
/-- Same element: the same place and entry. -/
def Elem.same (e d : Elem) : Bool := e.site = d.site && e.sw == d.sw && e.sub = d.sub

/-- An element as an install leaves it (R162, R168): `first` is its region's first round. -/
def Elem.fresh (site : Nat) (sw : Bool) (sub : Nat) (word : Frame) (first : W32) : Elem :=
  { site := site, sw := sw, sub := sub, word := word, status := 0, rin := Vector.replicate 4 first
    got := Vector.replicate 4 [], live := Vector.replicate 4 false, sent := 0, busy := false, stop := false, outq := []
    vals := Vector.replicate 4 [], words := [], buf := [], tileA := [], tileL := [], filled := 0, lfull := false, swapNext := 0
    nval := 0, tok := 0, tokAll := 0, rounds := 0, round := first, closing := false, hold := false, ended := false
    ramped := false, cnt := 0, lastIn := 0, iq := Vector.replicate 4 0, oq := Vector.replicate 2 0, stall := none
    waive := 0, nfire := 0 }

/-! ### The firing element -/

/-- An element in the middle of a firing. -/
structure Fx where
  s : State
  sl : Slot
  e : Elem

/-- The region's party id (R254). -/
def State.slotParty (s : State) (sl : Slot) : Nat := regionParty s.pkg sl.f0 sl.idx

/-- The running slot of a field (R162). -/
def State.runningAt (s : State) (f : Nat) : Option Slot := s.slots.find? fun e => e.fld = f && e.st = .running
/-- The slots of a region, section by section. -/
def State.region (s : State) (sl : Slot) : List Slot := s.slots.filter fun e => e.f0 = sl.f0 && e.idx = sl.idx

def Slot.setElem (sl : Slot) (e : Elem) : Slot := { sl with elems := sl.elems.map fun d => if d.same e then e else d }
def State.setElem (s : State) (f i : Nat) (e : Elem) : State := s.setSlot ((s.slotOf f i).setElem e)
/-- The firing is over. -/
def Fx.done (x : Fx) : State :=
  x.s.setElem x.sl.fld x.sl.idx { x.e with nfire := min (x.e.nfire + 1) (2 ^ 32 - 1) }

def State.setChan (s : State) (c : Chan) : State := { s with chans := s.chans.map fun d => if d.id = c.id then c else d }
def State.chan (s : State) (id : Nat) : Option Chan := s.chans.find? (·.id = id)
def Fx.port (x : Fx) (ix : Nat) : Port := { fld := x.sl.fld, site := x.e.site, sw := x.e.sw, ix := ix }
/-- The port of an input: for a vcfilt's entry the inputs of entry k are 2k and 2k + 1. -/
def Fx.inIx (x : Fx) (i : Nat) : Nat := if x.e.sw then 4 * x.e.sub + i else i
/-- The channel of an input. -/
def Fx.inC (x : Fx) (i : Nat) : Option Chan := x.s.chans.find? fun c => c.slot = x.sl.idx && c.dst = x.port (x.inIx i)
/-- The channels of an output. -/
def Fx.outC (x : Fx) (o : Nat) : List Chan := x.s.chans.filter fun c => c.slot = x.sl.idx && c.src = x.port o
def Fx.head (x : Fx) (i : Nat) : Option Beat := (x.inC i).bind (·.q.head?)
def Fx.vec (x : Fx) (i : Nat) : Bool := (x.inC i).any (·.vec)
/-- Every channel of an output can accept a beat (R135). -/
def Fx.room (x : Fx) (o : Nat) : Bool := (x.outC o).all fun c => c.q.length < c.cap

/-- A stall and its record (R155, R401 to R405). -/
def Stall.det (t : Stall) (e : Elem) : W128 :=
  BitVec.ofNat 128 (e.op + t.inp * 2 ^ 8 + t.stage * 2 ^ 16
    + (if t.inp < 4 then (e.rin.toList.getD t.inp 0).toNat else 0) * 2 ^ 32 + t.rcv.toNat * 2 ^ 64 + e.nfire * 2 ^ 96)

def Fx.stallWith (x : Fx) (t : Stall) (sub : Nat := 0) : State :=
  let e := { x.e with stall := some t, status := x.e.status ||| BitVec.ofNat 32 (2 ^ 22), waive := 0, captured := none, passed := false }
  (x.s.setElem x.sl.fld x.sl.idx e).post { Record.blank x.sl.ctx 2 with
    cause := t.cause, sub := sub, why := t.why, party := x.s.slotParty x.sl, loc := locSite x.s.pkg x.sl.fld x.e.site x.sl.idx
    tno := match x.s.taskAt x.sl.fld with
      | some k => k.tno
      | none => 0
    obj := t.obj, off := t.off, det := t.det e }
/-- A stall with a reason at an input (R405). -/
def Fx.stallAt (x : Fx) (cause why inp : Nat) (rcv : W32 := 0) : State :=
  x.stallWith { cause := cause, why := why, inp := inp, stage := 0, rcv := rcv, obj := 0, off := 0 }
def noInput : Nat := 0xFF

/-! ### Actors (R137) -/

/-- Data beats in a channel, wherever markers and control tokens stand, which are not counted. -/
def Chan.tokens (c : Chan) : Nat := (c.q.filter (·.isData c.vec)).length
/-- The token counter of a boundary input: every data beat that has come and that no firing has counted off. What firings have
counted off and the member has not yet taken is `iq`. A beat of a killed value that is discarded counts no longer (log 89). -/
def Fx.tokAt (x : Fx) (i : Nat) : Nat := ((x.inC i).map (·.tokens)).getD 0 - x.e.iq.toList.getD i 0
/-- The free-space counter of a boundary output's channel: its capacity less what firings have granted and its consumer has not
popped: the data beats in it and, in `oq`, those still to come. -/
def Fx.freeAt (x : Fx) (o : Nat) (c : Chan) : Nat := c.cap - (c.tokens + x.e.oq.toList.getD o 0)

/-- Every boundary input of a member holds its consumption, and every boundary output has room for its production: the
counters alone decide. -/
def Fx.memberReady (x : Fx) : Bool :=
  ((List.range 3).all fun i => x.e.cin i = 0 || x.e.cin i ≤ x.tokAt i) &&
  ((List.range 2).all fun o => x.e.pout o = 0 || (x.outC o).all fun c => x.e.pout o ≤ x.freeAt o c)

def Elem.refill (e : Elem) : Elem :=
  { e with iq := e.iq.mapIdx fun i q => q + e.cin i, oq := e.oq.mapIdx fun o q => q + e.pout o }

/-- The actor fires if it may. -/
def Fx.actorFire (x : Fx) : Option Fx :=
  let sl := x.s.slotOf x.sl.fld x.sl.idx
  let sl := sl.setElem x.e
  let ms := sl.elems.filter fun d => d.actor = x.e.actor && !d.sw
  if ms.all fun d => ({ x with e := d } : Fx).memberReady then
    let sl := { sl with elems := sl.elems.map fun d => if d.actor = x.e.actor && !d.sw then d.refill else d }
    some { x with s := x.s.setSlot sl, e := x.e.refill }
  else none

/-- Leave to consume a data beat at an input. -/
def Fx.gateIn (x : Fx) (i : Nat) : Option Fx :=
  if x.e.sw || x.e.cin i = 0 then some x
  else
    let take := fun (x : Fx) => { x with e := { x.e with iq := x.e.iq.mapIdx fun k q => if k = i then q - 1 else q } }
    if x.e.iq.toList.getD i 0 > 0 then some (take x) else x.actorFire.map take

/-- Leave to emit a data beat on an output. -/
def Fx.gateOut (x : Fx) (o : Nat) : Option Fx :=
  if x.e.sw || x.e.pout o = 0 then some x
  else
    let take := fun (x : Fx) => { x with e := { x.e with oq := x.e.oq.mapIdx fun k q => if k = o then q - 1 else q } }
    if x.e.oq.toList.getD o 0 > 0 then some (take x) else x.actorFire.map take

/-! ### Beats in and out -/

/-- The head beat of an input removed. -/
def Fx.drop (x : Fx) (i : Nat) : Fx :=
  match x.inC i with
  | some c => { x with s := x.s.setChan { c with q := c.q.drop 1 } }
  | none => x

/-- A header or a marker has come: nothing more of a killed value follows at the input (R145). -/
def Fx.keep (x : Fx) (i : Nat) : Fx :=
  match x.inC i with
  | some c => { x with s := x.s.setChan { c with discard := 0 } }
  | none => x

/-- A beat copied to every channel of an output (R135). A header opens a value there; the beat that shows every zero tail
ends it, and with it any kill that has not acted (R147). -/
def Fx.push (x : Fx) (o : Nat) (b : Beat) : Fx :=
  let put (c : Chan) : Chan :=
    let c := { c with q := c.q ++ [b] }
    if !c.vec then c
    else if b.kind = 1 then { c with openv := true, kill := false, stopped := false, began := false }
    else if b.kind = 0 && b.allTail then { c with openv := false, kill := false, stopped := false, began := false }
    else if b.kind = 0 then { c with began := true }
    else c
  { x with s := (x.outC o).foldl (fun s c => s.setChan (put c)) x.s }

/-- The value on an output ends without a zero tail: its consumers have killed it (R146). -/
def Fx.endOut (x : Fx) (o : Nat) : Fx :=
  { x with s := (x.outC o).foldl (fun s c => s.setChan { c with openv := false, kill := false, stopped := false, began := false }) x.s }

/-- A kill of the value now oldest at an input (R145): what reaches the input of it is discarded, and the pulse travels
to the producer if the value is still open there. -/
def Fx.killIn (x : Fx) (i : Nat) (seenDigit : Bool) : Fx :=
  match x.inC i with
  | some c =>
    let pulse := c.openv && c.q.all (·.kind ≠ 1)
    { x with s := x.s.setChan { c with discard := if seenDigit then 2 else 1, kill := c.kill || pulse } }
  | none => x

/-- The formed beats of an element, queued for its outputs. -/
def Fx.queue (x : Fx) (l : List (Nat × Beat)) : Fx := { x with e := { x.e with outq := x.e.outq ++ l } }

/-- The outputs that have a channel. -/
def Fx.outPorts (x : Fx) : List Nat :=
  (x.s.chans.filterMap fun c => if c.slot = x.sl.idx && c.src.fld = x.sl.fld && c.src.site = x.e.site && c.src.sw == x.e.sw
    then some c.src.ix else none).eraseDups
/-- The inputs that have a channel. -/
def Fx.inPorts (x : Fx) : List Nat := (List.range 4).filter fun i => (x.inC i).isSome

/-- The value open on an output is stopped there: all its consumers have killed it, and its first digit beat has left (R146). -/
def Fx.stoppedOn (x : Fx) (o : Nat) : Bool :=
  let cs := x.outC o
  !cs.isEmpty && cs.all fun c => c.stopped && c.began

/-- The first beat formed for an output leaves: every channel there can accept it (R135), and the actor lets a data beat go. -/
def Fx.leaveOn (x : Fx) (o : Nat) : Option Fx :=
  match x.e.outq.find? (·.1 = o) with
  | none => some x
  | some (_, b) =>
    if x.room o then
      (if b.isData ((x.outC o).any (·.vec)) then x.gateOut o else some x).map fun x =>
        ({ x with e := { x.e with outq := x.e.outq.erase (o, b) } } : Fx).push o b
    else none

/-- The firing takes place: the first beat that it forms for each output leaves with it, and the others in the firings that
follow. It does not where an output cannot accept (R136, R173). -/
def Fx.fired (x : Fx) : Option State :=
  (((x.e.outq.map (·.1)).eraseDups).foldl (fun a o => a.bind (·.leaveOn o)) (some x)).map Fx.done

/-- What is formed of a value, up to its last beat or the next beat of another kind. -/
def dropValue : List (Nat × Beat) → List (Nat × Beat)
  | [] => []
  | (o, b) :: r => if b.kind ≠ 0 then (o, b) :: r else if b.allTail then r else dropValue r

/-- Sends the first formed beat; what is formed of a value that has been stopped is dropped (R146). -/
def Fx.emit (x : Fx) : Option State :=
  match x.e.outq with
  | [] => none
  | (o, b) :: _ =>
    if b.kind = 0 && (x.outC o).any (·.vec) && x.stoppedOn o then
      let x := x.endOut o
      some ({ x with e := { x.e with outq := dropValue x.e.outq } } : Fx).done
    else (x.leaveOn o).map Fx.done

/-- Discards one beat of a killed value at an input; the first digit beat is checked first (R145). -/
def Fx.discard (x : Fx) : Option State :=
  x.inPorts.findSome? fun i =>
    match x.inC i with
    | none => none
    | some c =>
      match c.q with
      | [] => none
      | b :: _ =>
        if c.discard = 0 || b.kind ≠ 0 then none
        else if c.discard = 1 && BitVec.ofNat 4 b.tag ≠ (x.e.rin.toList.getD i 0).setWidth 4 then
          some (x.stallAt ccRoundTag 0x31 i (BitVec.ofNat 32 b.tag))
        else some (x.s.setChan { c with q := c.q.drop 1, discard := 2 })

/-! ### Values in -/

def Elem.gotAt (e : Elem) (i : Nat) : List Beat := e.got.toList.getD i []
def Elem.liveAt (e : Elem) (i : Nat) : Bool := e.live.toList.getD i false
def Elem.rinAt (e : Elem) (i : Nat) : W32 := e.rin.toList.getD i 0
def Elem.setGot (e : Elem) (i : Nat) (g : List Beat) (l : Bool) : Elem :=
  { e with got := e.got.mapIdx fun k v => if k = i then g else v, live := e.live.mapIdx fun k v => if k = i then l else v }
/-- The value at an input is complete. -/
def Elem.whole (e : Elem) (i : Nat) : Bool := !(e.gotAt i).isEmpty && !e.liveAt i

/-- One beat of the value at a vector input taken, or the stall that it brings (R132, R142). -/
def Fx.takeBeat (x : Fx) (i : Nat) : Option (Sum State Fx) :=
  match x.head i with
  | none => none
  | some b =>
    let g := x.e.gotAt i
    if g.isEmpty then
      if b.kind = 1 then
        (x.gateIn i).map fun x =>
          let x := (x.drop i).keep i
          .inr { x with e := x.e.setGot i [b] true }
      else if b.kind = 0 then some (.inl (x.stallAt ccCfg 0x22 i))
      else none
    else if b.kind = 0 then
      if g.length = 1 && BitVec.ofNat 4 b.tag ≠ (x.e.rinAt i).setWidth 4 then
        some (.inl (x.stallAt ccRoundTag 0x31 i (BitVec.ofNat 32 b.tag)))
      else (x.gateIn i).map fun x => let x := x.drop i; .inr { x with e := x.e.setGot i (g ++ [b]) (!b.allTail) }
    else some (.inl (x.stallAt ccCfg 0x22 i))

/-- A firing that reads one input. -/
def Fx.takeValue (x : Fx) (i : Nat) : Option State := (x.takeBeat i).map (Sum.elim id Fx.done)

/-- One beat taken at each of some inputs. -/
def Fx.takeEach (x : Fx) : List Nat → Option (Sum State Fx)
  | [] => some (.inr x)
  | i :: r => match x.takeBeat i with
    | some (.inr y) => y.takeEach r
    | z => z

/-- The stall that the beat at the head of one of some inputs brings. -/
def Fx.badBeat (x : Fx) (ins : List Nat) : Option State := ins.findSome? fun i => (x.takeBeat i).bind fun
  | .inl s => some s
  | .inr _ => none

/-- The inputs whose value has not ended: a firing of a value operation reads all of them (R136). -/
def Fx.unended (x : Fx) (ins : List Nat) : List Nat := ins.filter fun i => !x.e.whole i

/-- What a firing reads: a beat at every input whose value has not ended, all of them or none (R136). -/
def Fx.readIn (x : Fx) (ins : List Nat) : Option (Sum State Fx) :=
  let un := x.unended ins
  if un.isEmpty then none
  else match x.badBeat un with
    | some s => some (.inl s)
    | none => x.takeEach un

/-- A firing that only reads. -/
def Fx.takeOne (x : Fx) (ins : List Nat) : Option State := (x.readIn ins).map (Sum.elim id Fx.done)

/-- The value at an input is of no further use: it is killed if it is still open (R85, R87), and nothing more is read of it. -/
def Fx.release (x : Fx) (i : Nat) : Fx :=
  if x.e.liveAt i then
    let x := x.killIn i ((x.e.gotAt i).length ≥ 2)
    { x with e := x.e.setGot i (x.e.gotAt i) false }
  else x

/-- The values at some inputs are finished with: a kill where one is still open (R85), and the way free for the next. -/
def Fx.finish (x : Fx) (ins : List Nat) : Fx :=
  ins.foldl (fun x i =>
    let x := if x.e.liveAt i then x.killIn i ((x.e.gotAt i).length ≥ 2) else x
    { x with e := x.e.setGot i [] false }) x

/-! ### Values out -/

/-- The header of an output value, once every lane's class and exponent is known (R74). -/
inductive Hdr where
  | wait
  | bad
  | ok (e : Int) (cls : Nat)

def LaneRes.expo : LaneRes → Option Int
  | .wait => none
  | .res _ e _ _ => e
def LaneRes.cls : LaneRes → Nat
  | .wait => 0
  | .res c _ _ _ => c
def LaneRes.status : LaneRes → Nat
  | .wait => 0
  | .res _ _ _ st => st
def LaneRes.known : LaneRes → Bool
  | .wait => false
  | .res _ _ _ _ => true

/-- The largest lane exponent, 0 where no lane has one. -/
def vecE (rs : List LaneRes) : Int :=
  ((rs.filterMap LaneRes.expo).foldl (fun a e => match a with
    | none => some e
    | some b => some (max b e)) none).getD 0

def header (rs : List LaneRes) : Hdr :=
  if rs.all LaneRes.known then
    let e := vecE rs
    if e < -32768 || e > 32767 then .bad else .ok e (pack2 (rs.map LaneRes.cls))
  else .wait

/-- Code n, from 1, of a lane under the vector's exponent (R74): none while it is not determined. -/
def LaneRes.code (r : LaneRes) (E : Int) (n : Nat) : Option Nat :=
  match r with
  | .wait => none
  | .res _ e codes _ =>
    let sh := match e with
      | some e => (E - e).toNat
      | none => 0
    if n ≤ sh then some 0
    else
      let l := codes (n - sh)
      match l[n - sh - 1]? with
      | some c => some c
      | none => if l.getLast? = some 3 then some 3 else none

/-- Digit beat n of a value: every lane's code, with the round's tag on the first (R69). -/
def digits (rs : List LaneRes) (n : Nat) (round : W32) : Option Beat :=
  let E := vecE rs
  let cs := rs.filterMap (·.code E n)
  if cs.length = rs.length then some (digitBeat (pack2 cs) (if n = 1 then round.toNat % 16 else 0)) else none

/-- The consumers of some outputs have all killed the value (R146). -/
def Fx.killed (x : Fx) (outs : List Nat) : Bool :=
  let cs := outs.flatMap x.outC
  x.e.busy && x.e.sent ≥ 2 && !cs.isEmpty && cs.all (·.stopped)

/-- The value on the outputs is over. -/
def Fx.close (x : Fx) (outs : List Nat) : Fx :=
  let x := outs.foldl Fx.endOut x
  { x with e := { x.e with busy := false, sent := 0, nval := x.e.nval + 1 } }

/-- Sends the next beat of the value rs on some outputs at once, if it is determined: `after` is applied when the value has
ended. An exponent out of range stalls the element (R74). None where nothing can be sent yet. -/
def Fx.sendValue (x : Fx) (outs : List Nat) (rs : List LaneRes) (round : W32) (after : Fx → Fx) : Option (Option State) :=
  -- a port that has stopped the value sends nothing more of it, whatever the others do (R146)
  let outs' := outs.filter fun o => !x.stoppedOn o
  let send (b : Beat) (g : Fx → Fx) : Option (Option State) :=
    if outs'.all x.room then
      some ((outs'.foldl (fun a o => a.bind (·.gateOut o)) (some x)).map fun x => (g (outs'.foldl (fun x o => x.push o b) x)).done)
    else some none
  if !x.e.busy then
    match header rs with
    | .wait => none
    | .bad => some (some (x.stallAt ccCfg 0x20 noInput))
    | .ok e cls =>
      let st := rs.foldl (fun a r => a ||| r.status) 0
      send (headerBeat e cls) fun x =>
        { x with e := { x.e with busy := true, sent := 1, status := x.e.status ||| BitVec.ofNat 32 st } }
  else
    match digits rs x.e.sent round with
    | none => none
    | some b =>
      send b fun x =>
        if b.allTail then after (x.close outs) else { x with e := { x.e with sent := x.e.sent + 1 } }

/-! ### Markers and control tokens (R142, R143, R150) -/

/-- Nothing has begun at an input: no value and no word taken. -/
def Elem.idle (e : Elem) (i : Nat) : Bool := (e.gotAt i).isEmpty && (i ≠ 0 || e.words.isEmpty)

/-- The value inputs and word inputs that take part in a marker. -/
def Fx.marked (x : Fx) (i : Nat) : Bool := (x.head i).any (·.isMark (x.vec i)) && x.e.idle i
/-- An input holds a token, or has begun one. -/
def Fx.tokened (x : Fx) (i : Nat) : Bool :=
  !x.e.idle i || (x.head i).any fun b => b.isData (x.vec i)

/-- The first of some inputs whose marker has another number than the round there (R142). -/
def Fx.badMark (x : Fx) (ins : List Nat) : Option Nat := ins.find? fun i => (x.head i).any fun b => b.word ≠ x.e.rinAt i
/-- ROUND_TAG at a marker of another round. -/
def Fx.stallMark (x : Fx) (i : Nat) : State := x.stallAt ccRoundTag 0x30 i (((x.head i).map (·.word)).getD 0)

/-- What follows where the markers at some inputs are of their rounds. -/
def Fx.ifMarks (x : Fx) (ins : List Nat) (go : Option State) : Option State :=
  match x.badMark ins with
  | some i => some (x.stallMark i)
  | none => go

/-- The markers at some inputs consumed together; one follows with their number on each output. -/
def Fx.pastMarks (x : Fx) (ins outs : List Nat) : Fx :=
  let k := match ins with
    | i :: _ => x.e.rinAt i
    | [] => 0
  let x := ins.foldl (fun x i => (x.drop i).keep i) x
  let x := x.queue (outs.map fun o => (o, markBeat ((x.outC o).any (·.vec)) k))
  let rin := x.e.rin.mapIdx fun i r => if ins.contains i then r + 1 else r
  let due := if x.e.isC && ins.contains 0 then x.e.lastIn + x.e.swapNext else x.e.lastIn
  let next := if x.e.isC && ins.contains 0 then 0 else x.e.swapNext
  { x with e := { x.e with rin := rin, nval := 0, lastIn := due, swapNext := next } }

/-- The firing that passes the markers, if they are of their rounds. -/
def Fx.passMark (x : Fx) (ins outs : List Nat) : Option State := x.ifMarks ins (x.pastMarks ins outs).fired

/-- What an element does about markers at its inputs: all there, a marker beside a token (R143), or neither. The tile
input takes part, but a word of a fill pairs with nothing. -/
def Fx.markers (x : Fx) (outs : List Nat) : Option State :=
  let ins := x.inPorts
  if ins.isEmpty then none
  else if ins.all x.marked then x.passMark ins outs
  else
    let data := ins.filter (· < 3)
    match data.find? x.marked with
    | some i => if data.any x.tokened then some (x.stallAt ccRoundTag 0x32 i (((x.head i).map (·.word)).getD 0)) else none
    | none => none

/-- The registers exchanged (R150). -/
def Elem.swap (e : Elem) : Elem :=
  { e with tileA := e.tileL, tileL := e.tileA, filled := 0, lfull := false, nval := 0 }

/-- A control token at the head of an input, or a swap that `stswap` placed behind the last marker (R150, R211). -/
def Fx.control (x : Fx) : Option State :=
  let fwd (x : Fx) : Fx := if x.e.swf then x.queue ((x.outPorts.filter fun o => (x.outC o).any (·.vec)).map fun o => (o, swapBeat)) else x
  if x.e.sw then none
  else if x.e.lastIn ≠ 0 && x.e.isC && x.e.hasSt && x.e.idle 0 then
    if x.e.lfull then (fwd { x with e := { x.e.swap with lastIn := x.e.lastIn - 1 } }).fired else none
  else
    x.inPorts.findSome? fun i =>
      match x.head i with
      | none => none
      | some b =>
        if !b.isCtl (x.vec i) || !x.e.idle i then none
        else if bits b.v.toNat 0 48 ≠ 1 then some (x.stallAt ccCfg 0x21 i)
        else if i ≠ 0 || !x.e.isC || !x.e.hasSt then some (x.stallAt ccCfg 0x23 i)
        else if x.e.lfull then (fwd { (x.drop i) with e := x.e.swap }).fired
        else none

/-- A pair list entry set, kept by index. -/
def tileSet (l : List (Nat × W32)) (i : Nat) (w : W32) : List (Nat × W32) := upsert (fun p => p.1 = i) (i, w) l
def tileGet (l : List (Nat × W32)) (i : Nat) : W32 := ((l.find? fun p => p.1 = i).map (·.2)).getD 0

/-- A word of the fill at the tile input (R149). -/
def Fx.fillTile (x : Fx) : Option State :=
  match x.head 3 with
  | some b =>
    if !x.e.isC || x.e.lfull || b.isMark false then none
    else
      let n := x.e.filled + 1
      some ({ (x.drop 3) with e := { x.e with tileL := tileSet x.e.tileL x.e.filled b.word, filled := n
                                              lfull := n ≥ x.e.fillCount } } : Fx).done
  | none => none

/-! ### The advance of ROUND (R141, R202) -/

/-- A source has stopped: it holds, and its last marker has left. -/
def Elem.stopped (e : Elem) : Bool := e.hold && !e.closing && e.outq.isEmpty
/-- A source has ended, and its last marker has left. -/
def Elem.allSent (e : Elem) : Bool := e.ended && e.outq.isEmpty
/-- The lowest round of which a source has not sent the marker. -/
def Elem.srcRound (e : Elem) : W32 :=
  if e.outq.any (fun p => p.2 = markBeat false (e.round - 1) || p.2 = markBeat true (e.round - 1)) then e.round - 1 else e.round
/-- The sources of a region. -/
def State.sourcesOf (s : State) (sl : Slot) : List Elem := (s.region sl).flatMap fun q => q.elems.filter fun e => e.rs && !e.sw
/-- A region counts towards the advance unless its sources have all ended or all stopped. -/
def State.counts (s : State) (sl : Slot) : Bool := (s.sourcesOf sl).any fun e => !(e.allSent || e.stopped)

/-- The sources of a context that count towards the advance, each with its slot. -/
def State.counting (s : State) (ctx : Nat) : List (Slot × Elem) :=
  (s.slots.filter fun sl => sl.st = .running && sl.ctx = ctx && sl.sidx = 0 && s.counts sl).flatMap fun sl =>
    (s.region sl).flatMap fun q => (q.elems.filter fun e => e.rs && !e.sw && !e.allSent).map fun e => (q, e)

/-- ROUND of a context once every source has sent its markers up to these rounds: the lowest of them, if it is later. -/
def State.advanceRound (s : State) (ctx : Nat) (rounds : List W32) : State :=
  let c := s.ctxOf ctx
  let ahead (r : W32) : Nat := let d := (r - c.round).toNat; if d ≥ 2 ^ 31 then 0 else d
  match rounds.map ahead with
  | [] => s
  | d :: ds => let m := ds.foldl min d
               if m = 0 then s else s.setCtx { c with round := c.round + BitVec.ofNat 32 m }

def State.syncRound (s : State) (ctx : Nat) : State := s.advanceRound ctx ((s.counting ctx).map (·.2.srcRound))

/-- The advance as a source's last marker leaves: those that counted before it left count once more, with what they have sent now. -/
def State.markLeft (s t : State) (ctx : Nat) : State :=
  t.advanceRound ctx ((s.counting ctx).map fun (q, e) => (((t.slotOf q.fld q.idx).elems.find? (·.same e)).getD e).srcRound)

def State.syncRounds (s : State) : State :=
  ((s.slots.filter (·.st = .running)).map (·.ctx)).eraseDups.foldl State.syncRound s

/-! ### The frame of a firing -/

/-- A record about the element, or about its region's watchdog, waits to be posted (R401). -/
def Fx.unposted (x : Fx) : Bool :=
  x.s.unposted 2 (locSite x.s.pkg x.sl.fld x.e.site x.sl.idx) || x.s.posts.any fun r => r.kind = 8 && r.party = x.s.slotParty x.sl

/-- Fires an element with its own operation: a stalled one does not fire, nor one whose record is still to be posted; killed beats go, then formed beats leave, then
tile words, control tokens and markers, then the operation. A full output holds all that follows it. -/
def Fx.fire (x : Fx) (outs : List Nat) (stateful : Bool) (body : Fx → Option State) : Option State :=
  if x.e.stall.isSome || x.sl.dead || x.unposted || x.sl.elems.any (fun d => d.site = x.e.site && d.sw && x.e.sw && d.stall.isSome) then none
  else
    (x.discard).or <|
      (if !x.e.outq.isEmpty then x.emit
       else (x.fillTile).or ((x.control).or ((if stateful || x.e.busy then none else x.markers outs).or (body x)))).map fun t =>
        x.s.markLeft t x.sl.ctx

/-- An element of the running slot of a field. -/
def State.fxAt (s : State) (f site : Nat) (sw : Bool) (p : Elem → Bool) : Option Fx :=
  match s.runningAt f with
  | some sl => (sl.elems.find? fun e => e.at site sw && p e).map fun e => { s := s, sl := sl, e := e }
  | none => none

/-- A next state where the firing is enabled; nothing changes where it is not (log 14). -/
def stepOf (s : State) (r : Option State) : Out :=
  match r with
  | some t => .next t.syncRounds
  | none => .next s

/-! ### Kill pulses (R145, R146) -/

/-- KILL: the pulse reaches the producer, unless the value has ended there (R147). -/
def execKill (fld chan : Nat) (s : State) : Out :=
  match s.chan chan with
  | some c => .next (if c.src.fld = fld && c.kill then s.setChan { c with kill := false, stopped := c.openv } else s)
  | none => .next s

end Sys2Proof.Machine
end

