-- ==== Sys2Proof/Machine/Elements.lean ====
section
/-!
DEFINITION. The compute operations (R170 to R175): each constructor is one firing of the element at a site of the field's
running slot.
-/
namespace Sys2Proof.Machine

/-- The value of an element code of a format (R54, R167). -/
def codeVal (fmt bits : Nat) : FVal :=
  match target fmt with
  | .flt f => f.val bits
  | .int n sg =>
    let v := bits % 2 ^ n
    let neg := sg && v ≥ 2 ^ (n - 1)
    let m := if neg then 2 ^ n - v else v
    if m = 0 then .zero false else .fin neg m 0

/-- An element of a format as words: signed integers carry copies of the sign bit (R54). -/
def codeWords (fmt bits : Nat) : List W32 :=
  match target fmt with
  | .flt f => if f.width = 64 then [BitVec.ofNat 32 bits, BitVec.ofNat 32 (bits / 2 ^ 32)] else [BitVec.ofNat 32 bits]
  | .int n sg =>
    if n = 64 then [BitVec.ofNat 32 bits, BitVec.ofNat 32 (bits / 2 ^ 32)] else [(extend n sg bits).setWidth 32]

/-! ### Operators that send while they receive -/

/-- The lanes at a value input; the first digit beat has come. -/
def Fx.operand (x : Fx) (i : Nat) : List LaneIn := lanesIn (x.e.gotAt i)
/-- The value that stationary register A gives to the n-th value of the round (R170). -/
def Fx.stationary (x : Fx) : List LaneIn :=
  (lanesOf ((List.range 16).map fun k => codeVal x.e.fmt (tileGet x.e.tileA (32 * k + x.e.nval % 32)).toNat)).2
/-- Header and first digit beat of a value are there. -/
def Elem.started (e : Elem) (i : Nat) : Bool := (e.gotAt i).length ≥ 2

/-- A stateless operator from value inputs to value outputs: send what is determined, else read on. An input that no lane needs
any more is killed as it is seen (R87). -/
def Fx.streamTo (x : Fx) (needs : Fx → Nat → Bool) (ins outs : List Nat) (res : Fx → List LaneRes) : Option State :=
  if x.killed outs then some ((x.close outs).finish ins).done
  else
    let sent := if ins.all x.e.started then x.sendValue outs (res x) (x.e.rinAt (ins.headD 0)) (·.finish ins) else none
    match sent with
    | some r => r
    | none => (x.readIn ins).map fun
      | .inl s => s
      | .inr y => (if ins.all y.e.started then (ins.filter fun i => !needs y i).foldl Fx.release y else y).done
def Fx.stream (x : Fx) (ins outs : List Nat) (res : Fx → List LaneRes) : Option State := x.streamTo (fun _ _ => true) ins outs res

/-- Lane by lane on one input. -/
def lanes1 (f : LaneIn → LaneRes) (x : Fx) : List LaneRes := (x.operand 0).map f
/-- The second operand: stationary when so configured. -/
def Fx.operand2 (x : Fx) : List LaneIn := if x.e.hasSt then x.stationary else x.operand 1
/-- Lane by lane on two operands. -/
def lanes2 (f : LaneIn → LaneIn → LaneRes) (x : Fx) : List LaneRes := List.zipWith f (x.operand 0) x.operand2

/-- An element at a site with this operation code in the compute columns. -/
def State.computeAt (s : State) (f site op : Nat) : Option Fx := s.fxAt f site false fun e => e.isC && e.op = op

def fireLane1 (f site op : Nat) (g : Elem → LaneIn → LaneRes) (s : State) : Option State :=
  (s.computeAt f site op).bind fun x => x.fire [0] false fun x => x.stream [0] [0] (lanes1 (g x.e))
def fireLane2 (f site op : Nat) (g : LaneIn → LaneIn → LaneRes) (s : State) : Option State :=
  (s.computeAt f site op).bind fun x => x.fire [0] false fun x =>
    x.stream (if x.e.hasSt then [0] else [0, 1]) [0] (lanes2 g)

def fireOadd (f site : Nat) : State → Option State := fireLane2 f site 0x01 laneAdd
def fireOsub (f site : Nat) : State → Option State := fireLane2 f site 0x02 fun x y => laneAdd x y.negate
def fireOmul (f site : Nat) : State → Option State := fireLane2 f site 0x03 laneMul
def fireOdiv (f site : Nat) : State → Option State := fireLane2 f site 0x04 laneDiv
def fireOsqrt (f site : Nat) : State → Option State := fireLane1 f site 0x05 fun _ => laneSqrt
def fireOexp2 (f site : Nat) : State → Option State := fireLane1 f site 0x06 fun _ => laneExp2
def fireOlog2 (f site : Nat) : State → Option State := fireLane1 f site 0x07 fun _ => laneLog2
def fireOneg (f site : Nat) : State → Option State := fireLane1 f site 0x08 fun _ => laneNeg
def fireOabs (f site : Nat) : State → Option State := fireLane1 f site 0x09 fun _ => laneAbs
def fireOscl (f site : Nat) : State → Option State := fireLane1 f site 0x0A fun e => laneScl (toSigned 16 (e.p 0 16))
/-- Whether a lane of `omax` or `omin` still needs digits of its first or second operand (R87): it is undecided, or the operand
has won and goes on. -/
def laneNeeds (wantMin : Bool) (i : Nat) (x y : LaneIn) : Bool :=
  if x.cls = clNan || y.cls = clNan then false
  else
    match cmpLane true x y with
    | none => true
    | some c =>
      let second := if wantMin then c = .gt else c = .lt
      let w := if second then y else x
      (i = 1) = second && w.cls = clFin && !w.tail

def fireMax (f site op : Nat) (mn : Bool) (s : State) : Option State :=
  (s.computeAt f site op).bind fun x => x.fire [0] false fun x =>
    x.streamTo (fun x i => (List.zipWith (laneNeeds mn i) (x.operand 0) x.operand2).any id)
      (if x.e.hasSt then [0] else [0, 1]) [0] (lanes2 (laneMax mn))
def fireOmax (f site : Nat) : State → Option State := fireMax f site 0x0B false
def fireOmin (f site : Nat) : State → Option State := fireMax f site 0x0C true

/-- A copy of a lane, under the header exponent that it came with. -/
def laneCopy (x : LaneIn) : LaneRes := .res x.cls (some x.e) (plainCodes x) 0
def fireOfan (f site : Nat) (s : State) : Option State :=
  (s.computeAt f site 0x18).bind fun x => x.fire [0, 1] false fun x => x.stream [0] [0, 1] (lanes1 laneCopy)

/-! ### Decisions that leave as words -/

/-- Reads on until every lane has decided. The firing that reads the beat which decides the last lane kills what is still open
at its inputs and sends the first word, so it waits for room at the output; further words follow one per firing (R87, R90, R173,
R227). -/
def Fx.decide (x : Fx) (ins : List Nat) (words : Fx → Option (List W32 × Nat)) : Option State :=
  match x.readIn ins with
  | none => none
  | some (.inl s) => some s
  | some (.inr y) =>
    match (if ins.all y.e.started then words y else none) with
    | none => some y.done
    | some (ws, st) =>
      let y := (y.finish ins).queue (ws.map fun w => (0, wordBeat w))
      ({ y with e := { y.e with status := y.e.status ||| BitVec.ofNat 32 st, nval := y.e.nval + 1 } } : Fx).fired

/-- All of a list of decisions, or none. -/
def allSome {α : Type} : List (Option α) → Option (List α)
  | [] => some []
  | some a :: r => (allSome r).map (a :: ·)
  | none :: _ => none

/-- The code of a lane of `ocmp` (R170, R87). -/
def cmpCode (x y : LaneIn) : Option Nat :=
  if x.cls = clNan || y.cls = clNan then some 3
  else (cmpLane false x y).map fun c => match c with
    | .lt => 0
    | .eq => 1
    | .gt => 2
/-- The code of a lane of `osgn`. -/
def sgnCode (x : LaneIn) : Option Nat :=
  if x.cls = clNan then some 3
  else if x.cls = clZero then some 0
  else if x.cls = clInf then some (if x.sgnDigit = 1 then 1 else 2)
  else
    match x.ds.find? (· ≠ 0) with
    | some d => some (if d = 1 then 1 else 2)
    | none => if x.tail then some 0 else none

/-- The word of `ocmp`, and of `osgn`, once every lane has decided. -/
def cmpWords (x : Fx) : Option (List W32 × Nat) :=
  (allSome (List.zipWith cmpCode (x.operand 0) x.operand2)).map fun l => ([BitVec.ofNat 32 (pack2 l)], 0)
def sgnWords (x : Fx) : Option (List W32 × Nat) :=
  (allSome ((x.operand 0).map sgnCode)).map fun l => ([BitVec.ofNat 32 (pack2 l)], 0)

def fireOcmp (f site : Nat) (s : State) : Option State :=
  (s.computeAt f site 0x0D).bind fun x => x.fire [0] false fun x => x.decide (if x.e.hasSt then [0] else [0, 1]) cmpWords

def fireOsgn (f site : Nat) (s : State) : Option State :=
  (s.computeAt f site 0x0E).bind fun x => x.fire [0] false fun x => x.decide [0] sgnWords

/-- A binary64 constant as a lane. -/
def constLane (c : Nat) : LaneIn := let v := fmtD.val c; v.lane ((v.expo).getD 0)

/-- Bits packed, the first lowest. -/
def packBits (l : List Bool) : Nat := l.foldr (fun b a => b.toNat + 2 * a) 0

/-- The word of `thresh` (R175). -/
def threshWords (x : Fx) : Option (List W32 × Nat) :=
  let t := constLane (x.e.p 0 64)
  let dec (l : LaneIn) : Option Bool :=
    if l.cls = clNan || t.cls = clNan then some false
    else (cmpLane false l t).map fun c => c = .gt || (x.e.p 64 1 = 1 && c = .eq)
  let nv := if (x.operand 0).any (·.cls = clNan) then sbNV else 0
  (allSome ((x.operand 0).map dec)).map fun l => ([BitVec.ofNat 32 (packBits l)], nv)

def fireThresh (f site : Nat) (s : State) : Option State :=
  (s.computeAt f site 0x16).bind fun x => x.fire [0] false fun x => x.decide [0] threshWords

/-- The words of a settled value (R173). -/
def settleWords (fmt : Nat) (um : Bool) (l : List (Nat × Nat × Bool)) : List W32 × Nat :=
  let mask := packBits (l.map (·.2.2))
  let fl := l.foldl (fun a r => a ||| r.2.1) 0
  (l.flatMap (fun r => codeWords fmt r.1) ++ (if um then [BitVec.ofNat 32 mask] else []), mask ||| statusOf fl)

/-- The words of `settle`, once every lane is decided or undecided. -/
def settledWords (x : Fx) : Option (List W32 × Nat) :=
  (allSome ((x.operand 0).map (settleLane (target x.e.fmt) x.e.rm))).map (settleWords x.e.fmt (x.e.p 0 1 = 1))

def fireSettle (f site : Nat) (s : State) : Option State :=
  (s.computeAt f site 0x12).bind fun x => x.fire [0] false fun x => x.decide [0] settledWords

/-! ### Select, constants, split (R171, R172) -/

/-- Takes a word at an input into the element's words. -/
def Fx.takeWord (x : Fx) (i : Nat) : Option State :=
  match x.head i with
  | some b =>
    if b.isMark (x.vec i) then none
    else (x.gateIn i).map fun x => ({ (x.drop i) with e := { x.e with words := x.e.words ++ [b.word] } } : Fx).done
  | none => none

/-- A lane aligned to an exponent. -/
def laneUnder (E : Int) (x : LaneIn) : LaneRes :=
  if x.cls = clFin then .res clFin (some E) (fun n => delayed x (E - x.e).toNat n) 0 else x.res

/-- The header exponent of the value at an input. -/
def Elem.expoAt (e : Elem) (i : Nat) : Int := ((e.gotAt i).head?.map (·.expo)).getD 0

def fireOsel (f site : Nat) (s : State) : Option State :=
  (s.computeAt f site 0x0F).bind fun x => x.fire [0] false fun x =>
    match x.e.words with
    | [] =>
      match x.head 0 with
      | some b => if !b.isMark false && b.word.toNat ≥ 2 ^ 16 then some (x.stallAt ccCfg 0x26 0) else x.takeWord 0
      | none => none
    | w :: _ =>
      let rest (x : Fx) : Fx := let x := x.finish [1, 2]; { x with e := { x.e with words := [], cnt := 0 } }
      let loser := if w.toNat = 2 ^ 16 - 1 then 2 else if w = 0 then 1 else 0
      if x.e.cnt = 1 then
        if x.e.whole 1 && x.e.whole 2 then some (rest x).done else x.takeOne [1, 2]
      else if loser ≠ 0 && (x.e.gotAt loser).isEmpty then
        (x.takeValue loser).map fun s =>
          match s.fxAt f site false fun e => e.isC with
          | some y => if (y.e.gotAt loser).isEmpty then s
              else let y := y.killIn loser false
                   y.s.setElem y.sl.fld y.sl.idx (y.e.setGot loser (y.e.gotAt loser) false)
          | none => s
      else
        let E := max (x.e.expoAt 1) (x.e.expoAt 2)
        let lane (k : Nat) : LaneRes :=
          match ((if w.getLsbD k then x.operand 1 else x.operand 2))[k]? with
          | some l => laneUnder E l
          | none => .wait
        let ins := if loser = 2 then [1] else if loser = 1 then [2] else [1, 2]
        if x.killed [0] then some (rest (x.close [0])).done
        else
          let sent := if ins.all x.e.started then
              x.sendValue [0] ((List.range 16).map lane) (x.e.rinAt 0) fun x =>
                if loser ≠ 0 then rest x else { x with e := { x.e with cnt := 1 } }
            else none
          match sent with
          | some r => r
          | none => x.takeOne ins

/-- Sends one value of given lanes, then forgets the words that made it. -/
def Fx.sendWords (x : Fx) (ls : List LaneIn) : Option State :=
  let rest (x : Fx) : Fx := { x with e := { x.e with words := [] } }
  if x.killed [0] then some (rest (x.close [0])).done
  else
    match x.sendValue [0] (ls.map LaneIn.res) (x.e.rinAt 0) rest with
    | some r => r
    | none => none

def fireOconst (f site : Nat) (s : State) : Option State :=
  (s.computeAt f site 0x10).bind fun x => x.fire [0] false fun x =>
    if x.e.words.isEmpty then x.takeWord 0
    else x.sendWords (lanesOf ((List.range 16).map fun k =>
      if (x.e.p 64 16).testBit k then fmtD.val (x.e.p 0 64) else .zero false)).2

/-- The elements that complete words make up. -/
def wordVals (fmt : Nat) : List W32 → List FVal
  | [] => []
  | a :: r =>
    if codeWidth fmt = 64 then
      match r with
      | b :: r => codeVal fmt (a.toNat + b.toNat * 2 ^ 32) :: wordVals fmt r
      | [] => []
    else codeVal fmt a.toNat :: wordVals fmt r

def fireSplit (f site : Nat) (s : State) : Option State :=
  (s.computeAt f site 0x11).bind fun x => x.fire [0] false fun x =>
    if x.e.words.length < 16 * (codeWidth x.e.fmt / 32 |> max 1) then
      match x.head 0 with
      | some b =>
        if b.isMark false then some (x.stallAt ccRoundTag 0x32 0 b.word) else x.takeWord 0
      | none => none
    else x.sendWords (lanesOf (wordVals x.e.fmt x.e.words)).2

/-! ### Stateful elements (R144, R174, R175) -/

def Elem.valsAt (e : Elem) (i : Nat) : List (List Beat) := e.vals.toList.getD i []
def Elem.addVal (e : Elem) (i : Nat) (v : List Beat) : Elem :=
  { e with vals := e.vals.mapIdx fun k l => if k = i then l ++ [v] else l }

/-- Receives at any input that still lacks its marker: whole values are put by, in order of arrival. -/
def Fx.gather (x : Fx) (ins : List Nat) : Option State :=
  match ins.find? fun i => x.e.whole i with
  | some i => some ({ x with e := (x.e.setGot i [] false).addVal i (x.e.gotAt i) } : Fx).done
  | none => ins.findSome? fun i => if x.marked i then none else x.takeValue i

/-- A stateful element with one result value per round: `rs` is formed from the values of all its inputs, port by port. -/
def Fx.round (x : Fx) (rs : List (List LaneIn) → Option (List LaneRes)) : Option State :=
  let ins := x.inPorts.filter (· < 3)
  let rest (x : Fx) : Fx := { x with e := { x.e with closing := true } }
  if x.e.closing then ({ x with e := { x.e with closing := false, vals := Vector.replicate 4 [] } } : Fx).passMark x.inPorts [0]
  else if x.killed [0] then some (rest (x.close [0])).done
  else if x.e.busy || (ins.all x.marked && !ins.isEmpty) then
    match (if x.e.busy then none else x.badMark ins), rs ((ins.flatMap x.e.valsAt).map lanesIn) with
    | some i, _ => some (x.stallMark i)
    | none, some l =>
      match x.sendValue [0] l (x.e.rinAt (ins.headD 0)) rest with
      | some r => r
      | none => none
    | none, none => none
  else x.gather ins

/-- A complete sum as a result. -/
def sumRes (r : LaneSt) : LaneRes :=
  match r.1.res with
  | .wait => .wait
  | .res c e f _ => .res c e f r.2

def plusZero : LaneRes := laneZero 1

def fireRacc (f site : Nat) (s : State) : Option State :=
  (s.computeAt f site 0x13).bind fun x => x.fire [0] true fun x => x.round fun vs =>
    if vs.isEmpty then some (List.replicate 16 plusZero)
    else allSome ((List.range 16).map fun k => (sumLanes (vs.filterMap (·[k]?))).map sumRes)

def fireRsum (f site : Nat) (s : State) : Option State :=
  (s.computeAt f site 0x14).bind fun x => x.fire [0] true fun x => x.round fun vs =>
    if vs.isEmpty then some (List.replicate 16 plusZero)
    else (sumLanes vs.flatten).map fun r => sumRes r :: List.replicate 15 plusZero

/-- The identity of max and min for a format (R94); for an integer format, which R94 does not name, its least or its largest
integer (log 48). -/
def maxIdent (fmt : Nat) (wantMin : Bool) : FVal :=
  match target fmt with
  | .flt f => if f.ieee then .inf (!wantMin) else f.val (f.pack (!wantMin) f.maxCode)
  | .int n sg => codeVal fmt (if wantMin then (if sg then 2 ^ (n - 1) - 1 else 2 ^ n - 1) else (if sg then 2 ^ (n - 1) else 0))

def fireRmax (f site : Nat) (s : State) : Option State :=
  (s.computeAt f site 0x15).bind fun x => x.fire [0] true fun x => x.round fun vs =>
    let mn := x.e.p 0 1 = 1
    let id := maxIdent x.e.fmt mn
    if vs.isEmpty then some ((id.lane ((id.expo).getD 0)).res :: List.replicate 15 plusZero)
    else (maxLanes mn id vs.flatten).map fun r => sumRes r :: List.replicate 15 plusZero

/-- The logits of `conf`, with their numbers, from the values put by; a killed value has none. -/
def logits (n : Nat) (vs : List (List Beat)) : List (Nat × LaneIn) :=
  (vs.zipIdx.flatMap fun p => (lanesIn p.1).zipIdx.map fun q => (16 * p.2 + q.2, q.1)).filter fun p => p.1 < n

/-- The index of the largest logit, the lowest among equals. -/
def bestLogit : List (Nat × LaneIn) → Option (Nat × LaneIn)
  | [] => none
  | a :: r => match bestLogit r with
    | none => some a
    | some b => if cmpLane false a.2 b.2 = some .lt then some b else some a

/-- The margin reaches T (R175): infinities as their signs, finite values exactly. -/
def marginOk (a b : LaneIn) (t : FVal) : Bool :=
  let kind (l : LaneIn) : Int := if l.cls = clInf then l.sgnDigit else 0
  let val (l : LaneIn) : Dy := if l.cls = clFin then l.value else .zero
  let inf := kind a ≠ kind b
  let m := if kind a = 0 && kind b = 0 then (val a).sub (val b) else Dy.zero
  match t with
  | .nan _ => false
  | .inf neg => neg || inf
  | .zero _ => inf || m.m ≥ 0
  | .fin neg k e => inf || (Dy.mk (if neg then -(k : Int) else k) e).le m

/-- Each logit of the open value is known to be below two others: the value is of no further use. -/
def Fx.useless (x : Fx) (n : Nat) : Bool :=
  let vs := x.e.valsAt 0
  let old := logits n vs
  let cur := logits n (vs.map (fun _ => []) ++ [x.e.gotAt 0])
  (lanesIn (x.e.gotAt 0)).all (·.cls ≠ clNan) && x.e.liveAt 0 && x.e.started 0 &&
    cur.all fun c => (old.filter fun o => cmpLane false c.2 o.2 = some .lt).length ≥ 2

def fireConf (f site : Nat) (s : State) : Option State :=
  (s.computeAt f site 0x17).bind fun x => x.fire [0] true fun x =>
    let n := x.e.p 64 16
    if x.marked 0 then x.ifMarks [0] <|
      let ls := logits n (x.e.valsAt 0)
      let nan := ls.any (·.2.cls = clNan)
      let ls := ls.filter (·.2.cls ≠ clNan)
      let (fv, s') := x.s.freeVal
      let (w, x) : Nat × Fx :=
        match bestLogit ls with
        | none => if nan then (0, x) else (fv.toNat % 2 + bits fv.toNat 16 16 * 2 ^ 16, { x with s := s' })
        | some a =>
          match bestLogit (ls.filter (·.1 ≠ a.1)) with
          | none => if nan then (a.1 * 2 ^ 16, x) else (fv.toNat % 2 + a.1 * 2 ^ 16, { x with s := s' })
          | some b => ((!nan && marginOk a.2 b.2 (fmtD.val (x.e.p 0 64))).toNat + a.1 * 2 ^ 16, x)
      let x := x.queue [(0, natBeat w)]
      ({ x with e := { x.e with vals := Vector.replicate 4 []
                                status := x.e.status ||| BitVec.ofNat 32 (if nan then sbNV else 0) } } : Fx).passMark x.inPorts [0]
    else if x.useless n then
      let x := x.finish [0]
      some ({ x with e := x.e.addVal 0 [] } : Fx).done
    else x.gather [0]

/-! ### The constructors -/

def execOadd (fld site : Nat) (s : State) : Out := stepOf s (fireOadd fld site s)
def execOsub (fld site : Nat) (s : State) : Out := stepOf s (fireOsub fld site s)
def execOmul (fld site : Nat) (s : State) : Out := stepOf s (fireOmul fld site s)
def execOdiv (fld site : Nat) (s : State) : Out := stepOf s (fireOdiv fld site s)
def execOsqrt (fld site : Nat) (s : State) : Out := stepOf s (fireOsqrt fld site s)
def execOexp2 (fld site : Nat) (s : State) : Out := stepOf s (fireOexp2 fld site s)
def execOlog2 (fld site : Nat) (s : State) : Out := stepOf s (fireOlog2 fld site s)
def execOneg (fld site : Nat) (s : State) : Out := stepOf s (fireOneg fld site s)
def execOabs (fld site : Nat) (s : State) : Out := stepOf s (fireOabs fld site s)
def execOscl (fld site : Nat) (s : State) : Out := stepOf s (fireOscl fld site s)
def execOmax (fld site : Nat) (s : State) : Out := stepOf s (fireOmax fld site s)
def execOmin (fld site : Nat) (s : State) : Out := stepOf s (fireOmin fld site s)
def execOcmp (fld site : Nat) (s : State) : Out := stepOf s (fireOcmp fld site s)
def execOsgn (fld site : Nat) (s : State) : Out := stepOf s (fireOsgn fld site s)
def execOsel (fld site : Nat) (s : State) : Out := stepOf s (fireOsel fld site s)
def execOconst (fld site : Nat) (s : State) : Out := stepOf s (fireOconst fld site s)
def execSplit (fld site : Nat) (s : State) : Out := stepOf s (fireSplit fld site s)
def execSettle (fld site : Nat) (s : State) : Out := stepOf s (fireSettle fld site s)
def execRacc (fld site : Nat) (s : State) : Out := stepOf s (fireRacc fld site s)
def execRsum (fld site : Nat) (s : State) : Out := stepOf s (fireRsum fld site s)
def execRmax (fld site : Nat) (s : State) : Out := stepOf s (fireRmax fld site s)
def execThresh (fld site : Nat) (s : State) : Out := stepOf s (fireThresh fld site s)
def execConf (fld site : Nat) (s : State) : Out := stepOf s (fireConf fld site s)
def execOfan (fld site : Nat) (s : State) : Out := stepOf s (fireOfan fld site s)

/-- TILE_SWAP (R150): a swap token at input 0, or one that `stswap` placed there. -/
def fireTileSwap (fld site : Nat) (s : State) : Option State :=
  (s.fxAt fld site false (·.isC)).bind fun x =>
    if x.e.stall.isSome || x.sl.dead || !x.e.outq.isEmpty then none else x.control
def execTileSwap (fld site : Nat) (s : State) : Out := stepOf s (fireTileSwap fld site s)

/-- The firing of whatever compute element stands at a site. -/
def fireCompute (f site op : Nat) (s : State) : Option State :=
  match op with
  | 0x01 => fireOadd f site s
  | 0x02 => fireOsub f site s
  | 0x03 => fireOmul f site s
  | 0x04 => fireOdiv f site s
  | 0x05 => fireOsqrt f site s
  | 0x06 => fireOexp2 f site s
  | 0x07 => fireOlog2 f site s
  | 0x08 => fireOneg f site s
  | 0x09 => fireOabs f site s
  | 0x0A => fireOscl f site s
  | 0x0B => fireOmax f site s
  | 0x0C => fireOmin f site s
  | 0x0D => fireOcmp f site s
  | 0x0E => fireOsgn f site s
  | 0x0F => fireOsel f site s
  | 0x10 => fireOconst f site s
  | 0x11 => fireSplit f site s
  | 0x12 => fireSettle f site s
  | 0x13 => fireRacc f site s
  | 0x14 => fireRsum f site s
  | 0x15 => fireRmax f site s
  | 0x16 => fireThresh f site s
  | 0x17 => fireConf f site s
  | 0x18 => fireOfan f site s
  | _ => none

end Sys2Proof.Machine
end

