-- ==== Sys2Proof/Machine/MemElems.lean ====
section
/-!
DEFINITION. Memory elements, address generators and the sequencer ports (R176 to R182, R209): accesses of elements to
memory (R177, R248, R260, R273), round sources (R141, R153, R163, R202).
-/
namespace Sys2Proof.Machine

/-! ### Accesses of an element (R177) -/

/-- How an access of an element went: a value, with the element as it then is; a stall or a record; nothing to do yet. -/
inductive ElAcc where
  | val (x : Fx) (v : Nat)
  | state (s : State)
  | none

/-- A stall from a cause with its two values. -/
def Fx.stallTrap (x : Fx) (k : TrapInfo) (inp : Nat) : State :=
  x.stallWith { cause := k.code, why := if k.code = ccPoison then 0x40 else 0, inp := inp, stage := 0, rcv := 0
                obj := k.fobj.toNat % 2 ^ 32, off := k.faddr.toNat % 2 ^ 48 } k.sub

/-- A homed access of a round waits until every earlier round is complete (R260). -/
def State.roundOpen (s : State) (ctx : Nat) (r : W32) : Bool :=
  let d := (r - s.openRound ctx).toNat
  d = 0 || d ≥ 2 ^ 31

/-- The element as a source of requests (R248). -/
def Fx.source (x : Fx) : Nat := x.s.slotParty x.sl + 2 ^ 16 * (1 + x.e.sw.toNat + 2 * x.e.site + 2 ^ 9 * x.sl.fld)

/-- The checks of R24 for a range but for the one that a resume token has waived (R408). -/
def checkRangeBut (waive own : Nat) (c : Cap) (rights : Nat) (o : Int) (n : Nat) : Option Nat :=
  if waive = 0 then checkRange own c rights o n
  else
    [(ccCapTag, !c.tag), (ccCapPerm, !c.has rights || (c.obj ≥ localObj && c.obj ≠ own)),
     (ccCapBounds, o < c.base || o + n > c.top)].findSome? fun p => if p.2 && p.1 ≠ waive then some p.1 else none

/-- The checks of R24 but for the one that a resume token has waived (R408). -/
def checkCapBut (waive own : Nat) (c : Cap) (rights : Nat) (o : Int) (n : Nat) : Option Nat :=
  if waive = 0 then checkCap own c rights o n
  else (checkRangeBut waive own c rights o n).or (if waive ≠ ccAlign && o % n ≠ 0 then some ccAlign else none)

/-- The bytes of an access one after another, the lowest first. -/
def State.performBytes (s : State) (a : Access) : List Nat → Nat → State × Res
  | [], v => (s, .val v false 0)
  | k :: r, v =>
    let op : AccOp := match a.op with
      | .write w => .write (bits w (8 * k) 8)
      | _ => .read
    match s.perform { a with off := a.off + k, n := 1, op := op } with
    | (s, .val b _ _) => s.performBytes a r (v + b * 2 ^ (8 * k))
    | z => z
/-- An element's access; one that is not aligned, whose check has been waived, goes byte by byte (log 90). -/
def State.performEl (s : State) (a : Access) : State × Res :=
  if a.off % a.n = 0 then s.perform a else s.performBytes a (List.range a.n) 0

/-- The element as it stands, kept without a firing. -/
def Fx.save (x : Fx) : State := x.s.setElem x.sl.fld x.sl.idx x.e

/-- An access at an offset of the element's capability (R177): the checks of R24 and R268, a watchpoint (R424), the round
(R260), then memory. The generation is captured as the access issues, and one that waits or is held performs under that one
(R268). The check that a resume token has waived is left out, and a RACE so waived is taken as no conflict (R274, R408). -/
def Fx.access (x : Fx) (off : Int) (n : Nat) (op : AccOp) : ElAcc :=
  let c := x.sl.capTab.getD (x.e.p 0 3) Cap.null
  let w := x.e.waive
  let o := (c.cur : Int) + off
  let o := if w ≠ 0 then o % 2 ^ 48 else o
  let sc := x.e.p 4 5
  let ctx := x.s.ctxOf x.sl.ctx
  match checkCapBut w (x.s.ownObj x.sl.fld) c (if op.writes then pW else pR) o n with
  | some k => .state (x.stallTrap (capTrap k c o) noInput)
  | none =>
    if x.e.captured.isNone && w ≠ ccScope && !ctx.scopeOk sc then .state (x.stallTrap (scopeTrap ccScope c.obj sc (ctx.gen sc)) noInput)
    else
      let gen := (x.e.captured.map (·.2.1)).getD (ctx.gen sc)
      let issued : Fx := { x with e := { x.e with captured := some (sc, gen, c.obj) } }
      let wait : ElAcc := if x.e.captured.isNone then .state issued.save else .none
      if c.obj < localObj && !x.s.roundOpen x.sl.ctx (x.e.rinAt 0) then wait
      else
        match (if op.writes && w ≠ ccWatch && c.obj < localObj then x.s.struck x.sl.ctx c.obj o.toNat n else []) with
        | k :: r =>
          .state (({ x with s := x.s.setHits x.sl.ctx (k :: r) } : Fx).stallTrap (mkTrap ccWatch k c.obj o.toNat) noInput)
        | [] =>
          let a : Access :=
            { ctx := x.sl.ctx, obj := c.obj, off := o.toNat, n := n, op := op, party := x.s.slotParty x.sl
              round := x.e.rinAt 0, sync := false, rel := [], acq := [], scope := sc
              gen := if w = ccStale then ctx.gen sc else gen, fld := x.sl.fld
              exempt := x.e.passed, force := w = ccRace, site := x.e.site + 1 }
          if x.e.passed && x.s.heldBy a x.source then .none
          else
          match x.s.performEl a with
          | (s, .val v _ _) => .val { x with s := s, e := { x.e with waive := 0, captured := none, passed := false } } v
          | (s, .hold cause why) =>
            if x.e.passed then .none
            else .state (({ issued with s := s, e := { issued.e with passed := true } } : Fx).save.holdAccOnce a cause why x.source)
          | (_, .busy) => wait
          | (_, .raise k) => .state (({ x with s := x.s.keepPoison a k } : Fx).stallTrap k noInput)

/-- Reads one after another, from the first that has not been made: what has been read stays read over a wait and over a stall,
after which the failing read is tried again (R177). -/
def Fx.readsFrom (x : Fx) (moved : Bool) : List (Int × Nat) → Sum (Option State) (Fx × List Nat)
  | [] => .inr ({ x with e := { x.e with part := [] } }, x.e.part)
  | (o, n) :: r =>
    match x.access o n .read with
    | .val x v => ({ x with e := { x.e with part := x.e.part ++ [v] } } : Fx).readsFrom true r
    | .state s => .inl (some s)
    | .none => .inl (if moved then some x.save else none)
def Fx.reads (x : Fx) (l : List (Int × Nat)) : Sum (Option State) (Fx × List Nat) := x.readsFrom false (l.drop x.e.part.length)

/-- The dirty sectors that a storing element publishes as its marker passes (R273), those it has itself written in the round:
the RACE of lowest offset stalls it. -/
def Fx.publish (x : Fx) : Option (Sum State Fx) :=
  let party := x.s.slotParty x.sl
  let ds := x.s.l1.filter fun e => e.fld = x.sl.fld && e.ctx = x.sl.ctx && e.wparty = party && e.wsite = x.e.site + 1 && e.dirty ≠ 0 &&
    e.wround = x.e.rinAt 0
  match x.s.writeBacks ds with
  | (s, .ok) =>
    let sl := s.slotOf x.sl.f0 x.sl.idx
    match sl.lateRace with
    | some k => some (.inl (({ x with s := s.setSlot { sl with lateRace := none } } : Fx).stallTrap k noInput))
    | none => some (.inr { x with s := s })
  | (s, .hold c w) =>
    match ds.find? fun e => s.translate e.ctx e.obj (e.sec * 16) true = .held c w with
    | some e =>
      if x.s.recorded e.ctx e.obj (e.sec * 16) c x.source then none else some (.inl (s.holdOnce e.ctx e.obj (e.sec * 16) c w x.source))
    | none => none
  | _ => none

/-- The element at a memory site of column 15 with this operation. -/
def State.memAt (s : State) (f site op : Nat) : Option Fx := s.fxAt f site false fun e => e.isM && e.col = 15 && e.op = op

/-- The offset that an offset word stands for (R177, R182): 32-bit two's complement. -/
def offInt (w : W32) : Int := w.toInt

/-- The word at the head of a word input: a beat of another kind is not allowed there (R132). -/
def Fx.wordAt (x : Fx) (i : Nat) : Option (Sum State W32) :=
  match x.head i with
  | none => none
  | some b => if b.isMark (x.vec i) then none else if b.kind ≠ 0 then some (.inl (x.stallAt ccCfg 0x22 i)) else some (.inr b.word)

def Fx.setWords (x : Fx) (l : List W32) : Fx := { x with e := { x.e with words := l } }

/-- The words of an n-byte value, low first. -/
def wordsOf (n v : Nat) : List W32 := if n = 8 then [BitVec.ofNat 32 v, BitVec.ofNat 32 (v / 2 ^ 32)] else [BitVec.ofNat 32 v]

/-- The reads of sixteen elements of a format at an offset (R61, R177): offset and size of each. -/
def vectorReads (fmt : Nat) (o : Int) : List (Int × Nat) :=
  if fmt = 6 then (List.range 8).map fun (k : Nat) => (o + (k : Int), 1)
  else let n := codeWidth fmt / 8; (List.range 16).map fun (k : Nat) => (o + (n : Int) * k, n)

/-- The codes that those reads give. -/
def vectorCodes (fmt : Nat) (vs : List Nat) : List Nat := if fmt = 6 then vs.flatMap fun v => [v % 16, v / 16] else vs

def fireMld (f site : Nat) (s : State) : Option State :=
  (s.memAt f site 0x01).bind fun x => x.fire [0] false fun x =>
    if !x.e.words.isEmpty then x.sendWords (lanesOf (wordVals x.e.fmt x.e.words)).2
    else
      match x.wordAt 0 with
      | none => none
      | some (.inl s) => some s
      | some (.inr w) =>
        let mode := x.e.p 9 2
        let o := offInt w
        let rs := if mode = 1 then vectorReads x.e.fmt o else [(o, if mode = 2 then 8 else 4)]
        let go (x : Fx) (vs : List Nat) : Option State := (x.gateIn 0).bind fun x =>
          let x := x.drop 0
          if mode = 1 then some (x.setWords ((vectorCodes x.e.fmt vs).flatMap (codeWords x.e.fmt))).done
          else (x.queue ((vs.flatMap (wordsOf (if mode = 2 then 8 else 4))).map fun w => (0, wordBeat w))).fired
        if (x.gateIn 0).isNone || (mode ≠ 1 && !x.room 0) then none
        else
          match x.reads rs with
          | .inl s => s
          | .inr (x, vs) => go x vs

/-- A marker at a storing element: its writes of the round are published first (R273). -/
def Fx.storeMark (x : Fx) : Option State :=
  let ins := x.inPorts
  if !ins.isEmpty && ins.all x.marked && (x.badMark ins).isNone then
    match x.publish with
    | none => none
    | some (.inl s) => some s
    | some (.inr x) => ({ x with e := { x.e with waive := 0 } } : Fx).passMark ins []
  else x.markers []

def fireMst (f site : Nat) (s : State) : Option State :=
  (s.memAt f site 0x02).bind fun x => x.fire [] true fun x => (x.storeMark).or <|
    let need := if x.e.p 9 2 = 2 then 2 else 1
    match x.wordAt 1 with
    | some (.inl s) => some s
    | none =>
      if (x.head 0).any (·.isMark false) && !x.e.words.isEmpty then some (x.stallAt ccRoundTag 0x32 0 (((x.head 0).map (·.word)).getD 0))
      else none
    | some (.inr d) =>
      if x.e.words.length + 1 < need then x.takeWord 1
      else
        match x.wordAt 0 with
        | none =>
          if (x.head 0).any (·.isMark false) then some (x.stallAt ccRoundTag 0x32 0 (((x.head 0).map (·.word)).getD 0)) else none
        | some (.inl s) => some s
        | some (.inr w) =>
          let ws := x.e.words ++ [d]
          let v := ws.foldr (fun (a : W32) b => a.toNat + b * 2 ^ 32) 0
          let gate (x : Fx) : Option Fx := (x.gateIn 0).bind (·.gateIn 1)
          if (gate x).isNone then none
          else
            match x.access (offInt w) (4 * need) (.write v) with
            | .none => none
            | .state s => some s
            | .val x _ => (gate x).map fun x => (((x.drop 0).drop 1).setWords []).done

/-- MLINK (R178): the words are the node's offset and the count while a traversal goes on. -/
def fireMlink (f site : Nat) (s : State) : Option State :=
  (s.memAt f site 0x03).bind fun x => x.fire [0, 1] false fun x =>
    match x.e.words with
    | a :: n :: _ =>
      let lim := x.e.p 45 16
      if a = BitVec.ofNat 32 (x.e.p 61 32) || (lim ≠ 0 && lim ≤ n.toNat) then ((x.queue [(1, wordBeat n)]).setWords []).fired
      else
        let at' (k : Nat) : Int := offInt (a + BitVec.ofNat 32 k)
        let rs := (List.range (x.e.p 41 4)).map fun j => (at' (x.e.p 25 16 + 4 * j), 4)
        if !x.room 0 then none
        else
          match x.reads (rs ++ [(at' (x.e.p 9 16), 4)]) with
          | .inl s => s
          | .inr (x, vs) =>
            let nx := BitVec.ofNat 32 (vs.getLastD 0)
            let x := x.queue (vs.dropLast.map fun v => (0, natBeat v))
            (x.setWords [nx + BitVec.ofNat 32 (x.e.p 93 32), n + 1]).fired
    | _ =>
      match x.wordAt 0 with
      | some (.inl s) => some s
      | some (.inr w) => (x.gateIn 0).map fun x => ((x.drop 0).setWords [w, 0]).done
      | none => none

/-- The offset of word j of slot k of a ring: base + k × S + 4j, exact (R179). -/
def Elem.ringOff (e : Elem) (k j : W32) : Int := ((e.p 9 32 + k.toNat * e.p 57 16 + 4 * j.toNat : Nat) : Int)

/-- MRING (R179): the words are the slot's number and the number of words done. -/
def fireMring (f site : Nat) (s : State) : Option State :=
  (s.memAt f site 0x04).bind fun x =>
    let store := x.e.p 73 1 = 1
    x.fire [0] store fun x => (if store && x.e.words.isEmpty then x.storeMark else none).or <|
      let size := x.e.p 57 16
      match x.e.words with
      | o :: j :: _ =>
        if 4 * j.toNat ≥ size then some (x.setWords []).done
        else
          let off := x.e.ringOff o j
          if store then
            match x.wordAt 1 with
            | some (.inl s) => some s
            | none =>
              if (x.head 1).any (·.isMark false) then some (x.stallAt ccRoundTag 0x32 1 (((x.head 1).map (·.word)).getD 0)) else none
            | some (.inr d) =>
              if (x.gateIn 1).isNone then none
              else
                match x.access off 4 (.write d.toNat) with
                | .none => none
                | .state s => some s
                | .val x _ => (x.gateIn 1).map fun x => ((x.drop 1).setWords [o, j + 1]).done
          else
            if !x.room 0 then none
            else
              match x.access off 4 .read with
              | .none => none
              | .state s => some s
              | .val x v => ((x.queue [(0, natBeat v)]).setWords [o, j + 1]).fired
      | _ =>
        match x.wordAt 0 with
        | some (.inl s) => some s
        | some (.inr p) =>
          (x.gateIn 0).map fun x =>
            ((x.drop 0).setWords [BitVec.ofNat 32 (p.toNat % x.e.p 41 16), 0]).done
        | none => none

/-! ### Round sources (R141, R153, R176) -/

/-- The round is past the last that a pending partial image lets the sources send (R163). -/
def Fx.drained (x : Fx) : Bool :=
  x.sl.pend = .partDrain && (let d := (x.e.round - x.sl.drainK).toNat; 0 < d && d < 2 ^ 31)

/-- The source may send tokens. -/
def Fx.sends (x : Fx) : Bool := x.e.ramped && !x.e.ended && !x.e.hold && !x.drained

/-- The marker of the source's current round on every output (R141). A generator that `.round` does not name is no source: its
round closes with no marker (log 48). -/
def Fx.closeRound (x : Fx) : Fx :=
  let x := if x.e.rs then x.queue (x.outPorts.map fun o => (o, markBeat ((x.outC o).any (·.vec)) x.e.round)) else x
  { x with e := { x.e with round := x.e.round + 1, rounds := x.e.rounds + 1, tok := 0, closing := false } }

/-- A round that mark, a stop, a partial drain or the count of tokens closes, before any further token. A drain closes the
rounds of a source that has no rule of its own. -/
def Fx.closes (x : Fx) : Bool :=
  x.e.ramped && !x.e.ended &&
    (x.e.closing || (x.e.rpt ≠ 0 && x.e.rpt ≤ x.e.tok) || (x.e.rpt = 0 && x.sl.pend = .partDrain && !x.drained))

/-- One more token sent. -/
def Fx.token (x : Fx) : Fx := { x with e := { x.e with tok := x.e.tok + 1, tokAll := x.e.tokAll + 1 } }

/-- The element at an address-generator site with this operation. -/
def State.agAt (s : State) (f site op : Nat) : Option Fx := s.fxAt f site false fun e => e.isA && e.op = op

/-- The count and stride of dimension k of `agaff` (R182). -/
def Elem.dim (e : Elem) (k : Nat) : Nat × Int := (e.p (32 + 34 * k) 16, toSigned 18 (e.p (48 + 34 * k) 18))

/-- The offsets of token t in a pass: dimension k and those above it. -/
def affOff (e : Elem) : Nat → Nat → Nat → Int
  | 0, _, _ => 0
  | fuel + 1, k, t =>
    let (c, d) := e.dim k
    let c := max c 1
    (t % c : Nat) * d + affOff e fuel (k + 1) (t / c)

/-- Tokens of a pass; a dimension that is not used counts once. -/
def Elem.passLen (e : Elem) : Nat := (List.range 4).foldl (fun a k => a * max (e.dim k).1 1) 1

/-- After nr rounds an address generator ends. -/
def Fx.endRounds (x : Fx) (nr : Nat) : Fx := if nr ≠ 0 && nr ≤ x.e.rounds then { x with e := { x.e with ended := true } } else x

def fireAgaff (f site : Nat) (s : State) : Option State :=
  (s.agAt f site 0x01).bind fun x => x.fire [0] true fun x =>
    if !x.e.ramped || x.e.ended then none
    else if x.e.closing || x.e.passLen ≤ x.e.tok then ((x.closeRound).endRounds (x.e.p 168 8)).fired
    else if !x.sends then none
    else
      let v : Int := (x.e.p 0 32 : Nat) + affOff x.e 4 0 x.e.tok
      ((x.queue [(0, wordBeat (BitVec.ofInt 32 v))]).token).fired

def fireAgmod (f site : Nat) (s : State) : Option State :=
  (s.agAt f site 0x02).bind fun x => x.fire [0] true fun x =>
    if !x.e.ramped || x.e.ended then none
    else if x.e.closing || x.e.p 112 16 ≤ x.e.tok then ((x.closeRound).endRounds (x.e.p 128 8)).fired
    else if !x.sends then none
    else
      let i : Int := (x.e.p 32 32 : Nat) + (x.e.tokAll : Int) * toSigned 16 (x.e.p 64 16)
      let v : Int := (x.e.p 0 32 : Nat) + i % (x.e.p 80 16 : Nat) * (x.e.p 96 16 : Nat)
      ((x.queue [(0, wordBeat (BitVec.ofInt 32 v))]).token).fired

def fireAgidx (f site : Nat) (s : State) : Option State :=
  (s.agAt f site 0x03).bind fun x => x.fire [0] false fun x =>
    match x.wordAt 0 with
    | none => none
    | some (.inl s) => some s
    | some (.inr w) =>
      (x.gateIn 0).bind fun x =>
        ((x.drop 0).queue [(0, wordBeat (BitVec.ofNat 32 (x.e.p 0 32 + w.toNat * 2 ^ x.e.p 32 5)))]).fired

/-! ### Sequencer ports (R180, R206, R209) -/

/-- The binding of kind 0 that holds a port, with its strand's slot. -/
def State.portBind (s : State) (f row slot : Nat) : Option (Nat × Bind) :=
  (s.strands.filter (·.fld = f)).findSome? fun t =>
    (t.binds.find? fun b => !b.kind1 && !b.removed && b.row = row && b.slot = slot).map fun b => (t.slot, b)

def State.updPortBind (s : State) (f slot q : Nat) (g : Bind → Bind) : State :=
  s.updStrand f slot fun t => { t with binds := t.binds.map fun b => if b.q = q then g b else b }

/-- Queue in: entries of the bound push queue leave as words. -/
def Fx.queueIn (x : Fx) : Option State :=
  if x.closes then (x.closeRound).fired
  else if !x.sends then none
  else
    match x.s.portBind x.sl.fld (x.e.site / 16) x.sl.idx with
    | none => none
    | some (t, b) =>
      match b.ents with
      | [] => none
      | v :: r =>
        let x := { x with s := x.s.updPortBind x.sl.fld t b.q fun b => { b with ents := r } }
        let ws := if b.w64 then wordsOf 8 v.toNat else [v.setWidth 32]
        ((x.queue (ws.map fun w => (0, wordBeat w))).token).fired

/-- Queue out: words enter the bound pop queue; every further word after a group is absorbed into SETTLE_U (R20, R180). -/
def Fx.queueOut (x : Fx) : Option State :=
  match x.s.portBind x.sl.fld (x.e.site / 16) x.sl.idx with
  | none => none
  | some (t, b) =>
    match x.wordAt 0 with
    | none => none
    | some (.inl s) => some s
    | some (.inr w) =>
      (x.gateIn 0).bind fun x =>
        if x.e.p 2 1 = 1 && x.e.cnt = x.e.p 3 5 then
          let s := x.s.updStrand x.sl.fld t fun t => { t with settleU := t.settleU ||| w.setWidth 16 }
          some (({ x with s := s, e := { x.e with cnt := 0 } } : Fx).drop 0).done
        else if b.w64 && x.e.nval = 0 then
          some (({ x with e := { x.e with nval := 1, tok := w.toNat, cnt := x.e.cnt + 1 } } : Fx).drop 0).done
        else if b.ents.length ≥ queueCap then none
        else
          let v : W64 := if b.w64 then BitVec.ofNat 64 (x.e.tok + w.toNat * 2 ^ 32) else w.setWidth 64
          let s := x.s.updPortBind x.sl.fld t b.q fun b => { b with ents := b.ents ++ [v] }
          some (({ x with s := s, e := { x.e with nval := 0, cnt := x.e.cnt + 1 } } : Fx).drop 0).done

/-- A record waits at an exit port of the field (R209). -/
def State.exitBusy (s : State) (f row : Nat) : Bool := s.strands.any fun t => t.fld = f && t.exitRec.any fun r => r.1 = row

/-- Strand exit: the record's beats are collected, head first. -/
def Fx.exitPort (x : Fx) : Option State :=
  if x.e.closing || x.s.exitBusy x.sl.fld (x.e.site / 16) then none
  else
    match x.head 0 with
    | none => none
    | some b =>
      if x.e.words.isEmpty && b.kind ≠ kHead then some (x.stallAt ccCfg 0x22 0)
      else
        let e := { x.e with words := x.e.words ++ [b.word], closing := b.kind = kTail }
        some (({ x with e := e } : Fx).drop 0).done

def fireSqp (f site : Nat) (s : State) : Option State :=
  (s.fxAt f site false fun e => e.isM && e.col = 0 && e.op = 0x06).bind fun x =>
    match x.e.p 0 2 with
    | 0 => x.fire [0] true Fx.queueIn
    | 1 => x.fire [] false Fx.queueOut
    | 2 => x.fire [0] true fun x => if x.closes then (x.closeRound).fired else none
    | _ => x.fire [] false Fx.exitPort

/-- The record at an exit port reaches its strand, whose issue resumes (R140, R209). -/
def fireExit (f row : Nat) (s : State) : Option State :=
  (s.fxAt f (16 * row) false fun e => e.isM && e.col = 0 && e.op = 0x06 && e.p 0 2 = 3).bind fun x =>
    match x.e.words with
    | h :: ds =>
      let sl := bits h.toNat 8 3
      let fl := bits h.toNat 11 7
      let cleared := x.s.setElem x.sl.fld x.sl.idx { x.e with words := [], closing := false }
      if !x.e.closing || fl ≠ f || bits h.toNat 18 5 ≠ s.pkg then none
      else
        match s.strandAt f sl with
        | some t =>
          if t.stat = .fabric then
            some (cleared.updStrand f sl fun t => { t with stat := .running, exitRec := some (row, ds) })
          else some cleared
        | none => some cleared
    | [] => none

/-! ### The constructors -/

def execMld (fld site : Nat) (s : State) : Out := stepOf s (fireMld fld site s)
def execMst (fld site : Nat) (s : State) : Out := stepOf s (fireMst fld site s)
def execMlink (fld site : Nat) (s : State) : Out := stepOf s (fireMlink fld site s)
def execMring (fld site : Nat) (s : State) : Out := stepOf s (fireMring fld site s)
def execAgaff (fld site : Nat) (s : State) : Out := stepOf s (fireAgaff fld site s)
def execAgmod (fld site : Nat) (s : State) : Out := stepOf s (fireAgmod fld site s)
def execAgidx (fld site : Nat) (s : State) : Out := stepOf s (fireAgidx fld site s)
def execSqp (fld site : Nat) (s : State) : Out := stepOf s (fireSqp fld site s)
def execRecordAtExit (fld row : Nat) (s : State) : Out := stepOf s (fireExit fld row s)

end Sys2Proof.Machine
end

