-- ==== Sys2Proof/Machine/Switch.lean ====
section
/-!
DEFINITION. Switch operations (R183 to R187, R446 to R449): steer, merge and join node, carry, fwd with virtual circuits,
and the filters of an output port.
-/
namespace Sys2Proof.Machine

/-- The router operation at a site with this code. -/
def State.switchAt (s : State) (f site op : Nat) : Option Fx := s.fxAt f site true fun e => e.op = op

/-- A beat forwarded to some outputs as it is. -/
def Fx.forward (x : Fx) (i : Nat) (b : Beat) (outs : List Nat) : Fx := (x.drop i).queue (outs.map fun o => (o, b))

/-! ### Steer (R183) -/

/-- A valid steer entry: match, new pipe, output. -/
def Elem.steerEntry (e : Elem) (j : Nat) : Option (Nat × Nat × Nat) :=
  if e.p (22 * j + 21) 1 = 1 then some (e.p (22 * j + 13) 8, e.p (22 * j + 5) 8, e.p (22 * j) 5) else none
def Elem.steerOuts (e : Elem) : List Nat := ((List.range 8).filterMap fun j => (e.steerEntry j).map (·.2.2)).eraseDups

/-- A place in the fabric of a region: field, site, and whether it is the router. -/
abbrev Place := Nat × Nat × Bool
/-- The places that beats reach from some places over a region's channels. -/
def reachAll (edges : List (Place × Place)) : Nat → List Place → List Place
  | 0, l => l
  | fuel + 1, l =>
    let new := ((edges.filter fun e => l.contains e.1 && !l.contains e.2).map (·.2)).eraseDups
    if new.isEmpty then l else reachAll edges fuel (l ++ new)
/-- The channels of a context slot as edges between places. -/
def State.edges (s : State) (i : Nat) : List (Place × Place) :=
  (s.chans.filter (·.slot = i)).map fun c => ((c.src.fld, c.src.site, c.src.sw), (c.dst.fld, c.dst.site, c.dst.sw))

/-- A steer lies in a carry's loop (R185): a record gets from the carry to it, and from it back to the carry. -/
def State.inLoop (s : State) (i : Nat) (carry steer : Place) : Bool :=
  let es := s.edges i
  let from' (p : Place) : List Place := reachAll es es.length ((es.filter (·.1 = p)).map (·.2)).eraseDups
  (from' carry).contains steer && (from' steer).contains carry

/-- A record that entry j of a steer has sent on is out of the loop of each carry that names the entry and has the steer in its
loop (R185, log 92). -/
def State.countOut (s : State) (sl : Slot) (steer : Place) (j : Nat) : State :=
  let counts (q : Slot) (e : Elem) : Bool := e.sw && e.op = 3 && e.p 198 3 = j && s.inLoop sl.idx (q.fld, e.site, true) steer
  (s.region sl).foldl (fun s q => s.setSlot { q with
    elems := q.elems.map fun e => if counts q e then { e with cnt := e.cnt - 1 } else e }) s

def fireSteer (f site : Nat) (s : State) : Option State :=
  (s.switchAt f site 0x01).bind fun x => x.fire x.e.steerOuts false fun x =>
    match x.head 0 with
    | none => none
    | some b =>
      if x.e.lastIn ≠ 0 then
        let y := x.forward 0 b [x.e.lastIn - 1]
        ({ y with e := { y.e with lastIn := if b.kind = kTail then 0 else x.e.lastIn } } : Fx).fired
      else if b.isMark false then none
      else if b.kind ≠ kHead then some (x.stallAt ccCfg 0x22 0)
      else if bits b.word.toNat 29 3 ≠ 0 then some (x.stallAt ccCfg 0x24 0)
      else
        let pipe := bits b.word.toNat 0 8
        match (List.range 8).findSome? fun j => (x.e.steerEntry j).bind fun t => if t.1 = pipe then some (j, t) else none with
        | none => some (x.stallAt ccCfg 0x25 0)
        | some (j, _, np, pv) =>
          let b' : Beat := { b with v := BitVec.ofNat 48 (b.word.toNat - pipe + np) }
          let x := x.forward 0 b' [pv]
          (({ x with e := { x.e with lastIn := pv + 1 } } : Fx).fired).map fun s => s.countOut x.sl (x.sl.fld, x.e.site, true) j

/-! ### Tokens passed whole (R138, R184) -/

/-- Where a beat leaves its token: another beat of it follows. -/
def Beat.goesOn (b : Beat) (vec started : Bool) : Bool :=
  if vec then b.kind = 1 || (b.kind = 0 && !b.allTail) else b.kind = kHead || (b.kind = kWord && started)

/-- What is wrong with the next beat of the token at an input, if anything is: a digit where no value is open or a header inside
one, a reserved control code (R132), a first digit beat of another round (R142), or a record head with bits 31:29 not zero
(R139). -/
def Fx.badToken (x : Fx) (i : Nat) (b : Beat) : Option State :=
  let start := x.e.lastIn = 0
  if !x.vec i then
    if start && b.kind = kHead && bits b.word.toNat 29 3 ≠ 0 then some (x.stallAt ccCfg 0x24 i) else none
  else if start then
    if b.kind = 0 then some (x.stallAt ccCfg 0x22 i)
    else if b.isCtl true && bits b.v.toNat 0 48 ≠ 1 then some (x.stallAt ccCfg 0x21 i)
    else none
  else if b.kind ≠ 0 then some (x.stallAt ccCfg 0x22 i)
  else if x.e.sent = 1 && BitVec.ofNat 4 b.tag ≠ (x.e.rinAt i).setWidth 4 then
    some (x.stallAt ccRoundTag 0x31 i (BitVec.ofNat 32 b.tag))
  else none

/-- The next beat of a token passed on: where the token stands then. -/
def Fx.tokenOn (x : Fx) (i : Nat) (more : Bool) : Fx :=
  { x with e := { x.e with lastIn := if more then i + 1 else 0, sent := if more then x.e.sent + 1 else 0 } }

/-- Passes the next beat of the token that input i holds; a value that every consumer has killed is killed at the input. -/
def Fx.passBeat (x : Fx) (i o : Nat) : Option State :=
  let vec := x.vec i
  if vec && x.e.lastIn ≠ 0 && x.e.sent ≥ 2 && x.stoppedOn o then some ((((x.endOut o).killIn i true).tokenOn i false).done)
  else
    match x.head i with
    | none => none
    | some b =>
      match x.badToken i b with
      | some s => some s
      | none =>
        let more := b.goesOn vec (x.e.lastIn ≠ 0)
        let x := x.forward i b [o]
        let x := if b.kind = 1 && vec then x.keep i else x
        (x.tokenOn i more).fired

/-- The enabled inputs of a merge (R184). -/
def Elem.mergeIns (e : Elem) : List Nat := (List.range 4).filter fun i => e.p (205 + i) 1 = 1
def Elem.swOut (e : Elem) : Nat := e.f 224 5

/-- The input holds a token at its head. -/
def Fx.holdsToken (x : Fx) (i : Nat) : Bool := (x.head i).any fun b => !b.isMark (x.vec i)

def fireMerge (f site : Nat) (s : State) : Option State :=
  (s.switchAt f site 0x02).bind fun x =>
    if x.e.p 204 1 = 1 then none
    else x.fire [x.e.swOut] true fun x =>
      let ins := x.e.mergeIns
      let o := x.e.swOut
      if x.e.lastIn ≠ 0 then x.passBeat (x.e.lastIn - 1) o
      else if !ins.isEmpty && ins.all x.marked then x.passMark ins [o]
      else
        match ins.find? x.marked, ins.find? x.holdsToken with
        | some i, some j =>
          -- a marker beside a token (R143, log 91)
          if x.tokened j then some (x.stallAt ccRoundTag 0x32 i (((x.head i).map (·.word)).getD 0)) else x.passBeat j o
        | none, some j => x.passBeat j o
        | _, none => none

/-- JOIN_NODE (R449): `tok` is the input whose tokens are forwarded now. -/
def fireJoin (f site : Nat) (s : State) : Option State :=
  (s.switchAt f site 0x02).bind fun x =>
    if x.e.p 204 1 = 0 then none
    else x.fire [x.e.swOut] true fun x =>
      let ins := x.e.mergeIns
      let o := x.e.swOut
      if x.e.lastIn ≠ 0 then x.passBeat (x.e.lastIn - 1) o
      else
        match ins[x.e.tok]? with
        | none => none
        | some i =>
          match x.head i with
          | none => none
          | some b =>
            if !b.isMark (x.vec i) then x.passBeat i o
            else if b.word ≠ x.e.rinAt i then some (x.stallAt ccRoundTag 0x30 i b.word)
            else
              let last := x.e.tok + 1 = ins.length
              let x := (x.drop i).keep i
              let x := if last then x.queue [(o, b)] else x
              let rin := x.e.rin.mapIdx fun k r => if k = i then r + 1 else r
              ({ x with e := { x.e with rin := rin, tok := if last then 0 else x.e.tok + 1 } } : Fx).fired

/-! ### Carry (R185) -/

/-- The marker of the entry passes when no record is inside the loop; the one that comes back is taken there. -/
def fireCarry (f site : Nat) (s : State) : Option State :=
  (s.switchAt f site 0x03).bind fun x => x.fire [x.e.swOut] true fun x =>
    let o := x.e.swOut
    let letIn (x : Fx) (i : Nat) : Option State :=
      match x.head i with
      | some b =>
        if x.e.lastIn = 0 && b.kind ≠ kHead then some (x.stallAt ccCfg 0x22 i)
        else if x.e.lastIn = 0 && i = 0 && (x.badToken i b).isNone then
          ({ x with e := { x.e with cnt := x.e.cnt + 1 } } : Fx).passBeat i o
        else x.passBeat i o
      | none => none
    let mark (x : Fx) (i : Nat) (pass : Bool) : Option State :=
      match x.head i with
      | some b =>
        if b.word ≠ x.e.rinAt i then some (x.stallAt ccRoundTag 0x30 i b.word)
        else
          let x := x.drop i
          let x := if pass then x.queue [(o, b)] else x
          ({ x with e := { x.e with rin := x.e.rin.mapIdx fun k r => if k = i then r + 1 else r } } : Fx).fired
      | none => none
    if x.e.lastIn ≠ 0 then letIn x (x.e.lastIn - 1)
    else if x.marked 1 then mark x 1 false
    else if x.holdsToken 1 then letIn x 1
    else if x.marked 0 then (if x.e.cnt = 0 && x.e.rinAt 0 = x.e.rinAt 1 then mark x 0 true else none)
    else if x.holdsToken 0 && x.e.cnt < x.e.p 201 4 then letIn x 0
    else none

/-! ### Fwd and virtual circuits (R185, R446 to R448) -/

def Elem.isCircuit (e : Elem) : Bool := e.sw && e.op = 4 && e.p 223 1 = 1
def Elem.isRecv (e : Elem) : Bool := e.p 222 1 = 1
def Elem.cid (e : Elem) : Nat := e.p 214 8
/-- The network of a switch operation. -/
def Elem.swVec (e : Elem) : Bool := e.f 234 1 = 1

/-- The other end of a circuit, where both ends are Running (R448). -/
def Fx.peer (x : Fx) : Option (Slot × Elem) :=
  (x.s.slots.filter fun sl => sl.st = .running && sl.ctx = x.sl.ctx).findSome? fun sl =>
    (sl.elems.find? fun e => e.isCircuit && e.cid = x.e.cid && e.isRecv != x.e.isRecv && e.swVec = x.e.swVec).map fun e => (sl, e)

/-- Beats that a receiver holds (R448). -/
def circuitCap : Nat := 64

/-- The sender's next beat goes to the receiver's buffer; a kill that has come back stops the value at its input. -/
def Fx.sendCircuit (x : Fx) : Option State :=
  match x.peer with
  | none => none
  | some (sl, r) =>
    if x.e.stop && x.e.lastIn ≠ 0 && x.e.sent ≥ 2 then
      let x := x.killIn 0 true
      some ({ x with e := { x.e with stop := false, lastIn := 0, sent := 0 } } : Fx).done
    else
      match x.head 0 with
      | none => none
      | some b =>
        if r.outq.length ≥ circuitCap then none
        else if let some s := (if x.e.lastIn = 0 && b.isMark (x.vec 0) then none else x.badToken 0 b) then some s
        else
          let vec := x.vec 0
          let more := b.goesOn vec (x.e.lastIn ≠ 0)
          let x := x.drop 0
          let x := if (b.kind = 1 && vec) || b.isMark vec then x.keep 0 else x
          let bump := if b.isMark vec then x.e.rin.mapIdx fun k q => if k = 0 then q + 1 else q else x.e.rin
          let x := { x with e := { x.e with rin := bump, lastIn := if more then 1 else 0
                                            sent := if more then x.e.sent + 1 else 0
                                            stop := x.e.stop && more } }
          if b.isMark vec && b.word + 1 ≠ x.e.rinAt 0 then some (x.stallAt ccRoundTag 0x30 0 b.word)
          else some ((x.done).setElem sl.fld sl.idx { r with outq := r.outq ++ [(r.swOut, b)] })

/-- A kill at the receiver's output drops what is buffered of the value, and goes back to the sender unless the value's end has
come. -/
def Fx.recvKill (x : Fx) : Option State :=
  let o := x.e.swOut
  if x.e.swVec && x.stoppedOn o then
    let tail := (x.e.outq.takeWhile fun p => p.2.kind = 0).any (·.2.allTail)
    let rest := dropValue x.e.outq
    let x := x.endOut o
    let s := ({ x with e := { x.e with outq := rest } } : Fx).done
    match x.peer with
    | some (sl, e) => some (if rest.isEmpty && !tail then s.setElem sl.fld sl.idx { e with stop := true } else s)
    | none => some s
  else none

def fireFwd (f site : Nat) (s : State) : Option State :=
  (s.switchAt f site 0x04).bind fun x =>
    if x.e.isCircuit && x.e.isRecv then
      if x.e.stall.isSome || x.sl.dead then none else (x.recvKill).or x.emit
    else if x.e.isCircuit then x.fire [] true Fx.sendCircuit
    else x.fire [x.e.swOut] true fun x =>
      if x.e.lastIn = 0 && x.marked 0 then x.passMark [0] [x.e.swOut] else x.passBeat 0 x.e.swOut

/-! ### Filters (R186, R187) -/

def Elem.vcf (e : Elem) (lo n : Nat) : Nat := e.p (26 * e.sub + lo) n
def Elem.vcfMode (e : Elem) : Nat := e.vcf 23 2
/-- Element width in bits, and elements in a word. -/
def Elem.vcfWidth (e : Elem) : Nat := 8 * 2 ^ e.vcf 21 2
def Elem.vcfPer (e : Elem) : Nat := 32 / e.vcfWidth
/-- The filtered output, and the auxiliary one. -/
def Elem.vcfOut (e : Elem) : Nat := e.f 226 3 * 4 + e.sub
def Elem.vcfAux (e : Elem) : Nat := e.vcf 0 5

/-- A word's elements, the lowest first. -/
def Elem.unpackW (e : Elem) (w : W32) : List W32 :=
  (List.range e.vcfPer).map fun k => BitVec.ofNat 32 (bits w.toNat (e.vcfWidth * k) e.vcfWidth)
/-- Elements packed into one word, the lowest first; missing ones are zero. -/
def Elem.packW (e : Elem) (l : List W32) : W32 :=
  BitVec.ofNat 32 (l.foldr (fun v a => v.toNat + a * 2 ^ e.vcfWidth) 0)

/-- Whole words packed from a list of elements, with the elements left over. -/
def Elem.packAll (e : Elem) : Nat → List W32 → List W32 × List W32
  | 0, l => ([], l)
  | fuel + 1, l =>
    if l.length < e.vcfPer then ([], l)
    else let (ws, r) := e.packAll fuel (l.drop e.vcfPer); (e.packW (l.take e.vcfPer) :: ws, r)

/-- Conversion of one element (R187): its words and flags. -/
def convertElem (ff ft : Nat) (md : RMode) (v : Nat) : List W32 × Nat :=
  let (b, fl) := (target ft).of md (codeVal ff v)
  (codeWords ft b, statusOf fl)

/-- A marker that comes between the two words of a 64-bit source element passes, and the words pair across it: the spec does not
say what a router does there (log 87, DESIGN CHOICE). -/
def Fx.vcConvert (x : Fx) : Option State :=
  match x.wordAt 0 with
  | none => none
  | some (.inl s) => some s
  | some (.inr w) =>
    let ff := x.e.vcf 14 4
    if codeWidth ff = 64 && x.e.buf.isEmpty then some ({ x.drop 0 with e := { (x.drop 0).e with buf := [w] } } : Fx).done
    else
      let v := if codeWidth ff = 64 then (x.e.buf.headD 0).toNat + w.toNat * 2 ^ 32 else w.toNat
      let (ws, st) := convertElem ff (x.e.vcf 10 4) (rmode (x.e.vcf 18 3)) v
      let x := (x.drop 0).queue (ws.map fun w => (x.e.vcfOut, wordBeat w))
      ({ x with e := { x.e with buf := [], status := x.e.status ||| BitVec.ofNat 32 st } } : Fx).fired

/-- One element of zero removal: `cnt` its place in the group, `tok` the mask, `tokAll` the elements kept, `buf` those
not yet packed. -/
def Fx.removeElem (x : Fx) (v : W32) : Fx :=
  let keep : Bool := v ≠ 0
  let mask := x.e.tok + (if keep then 2 ^ x.e.cnt else 0)
  let e := { x.e with buf := if keep then x.e.buf ++ [v] else x.e.buf, tokAll := x.e.tokAll + keep.toNat }
  if x.e.cnt = 31 then ({ x with e := { e with cnt := 0, tok := 0 } } : Fx).queue [(e.vcfAux, natBeat mask)]
  else { x with e := { e with cnt := x.e.cnt + 1, tok := mask } }

def Fx.vcRemove (x : Fx) : Option State :=
  if x.marked 0 then x.ifMarks [0] <|
    let x := if x.e.cnt ≠ 0 then x.queue [(x.e.vcfAux, natBeat x.e.tok)] else x
    let x := if x.e.buf.isEmpty then x else x.queue [(x.e.vcfOut, wordBeat (x.e.packW x.e.buf))]
    let x := x.queue [(x.e.vcfAux, natBeat x.e.tokAll)]
    ({ x with e := { x.e with cnt := 0, tok := 0, tokAll := 0, buf := [] } } : Fx).passMark [0] [x.e.vcfOut, x.e.vcfAux]
  else
    match x.wordAt 0 with
    | none => none
    | some (.inl s) => some s
    | some (.inr w) =>
      let x := (x.e.unpackW w).foldl Fx.removeElem (x.drop 0)
      let (ws, r) := x.e.packAll 8 x.e.buf
      ((({ x with e := { x.e with buf := r } } : Fx)).queue (ws.map fun w => (x.e.vcfOut, wordBeat w))).fired

/-- Ones of a mask. -/
def popc32 (w : W32) : Nat := (List.range 32).foldl (fun a k => a + (w.getLsbD k).toNat) 0

/-- The elements that a mask asks for: a kept one for each set bit, a zero for each clear one. -/
def insertGroup (w : W32) : Nat → List W32 → List W32
  | 0, _ => []
  | n + 1, l => if w.getLsbD (31 - n) then l.headD 0 :: insertGroup w n (l.drop 1) else 0 :: insertGroup w n l

/-- A held word of the mask channel taken as a mask: its 32 elements leave once all it keeps are at hand. `early`: no later
beat of its channel has come. -/
def Fx.insertMask (x : Fx) (w : W32) (early : Bool) : Option State :=
  let n := popc32 w
  if n ≤ x.e.buf.length then
    let (ws, _) := x.e.packAll 33 (insertGroup w 32 x.e.buf)
    let x := ({ x with e := { x.e with words := [], buf := x.e.buf.drop n, tokAll := x.e.tokAll + n, cnt := early.toNat } } : Fx)
    (x.queue (ws.map fun w => (x.e.vcfOut, wordBeat w))).fired
  else if (x.head 0).any (·.isMark false) then
    if early then none else some (x.stallAt ccRoundTag 0x32 0 (((x.head 0).map (·.word)).getD 0))
  else
    match x.wordAt 0 with
    | none => none
    | some (.inl s) => some s
    | some (.inr d) =>
      let x := x.drop 0
      some ({ x with e := { x.e with buf := x.e.buf ++ x.e.unpackW d, words := if early then [w, 1] else x.e.words } } : Fx).done

/-- Zero insertion: `words` holds the last word of the mask channel, `buf` the kept elements at hand, `tokAll` those used. A
word is a mask once another follows it, or while data lies at the data input, which a count word never leaves (log 76): then
`words` has a second entry, and `cnt` is 1 once its elements have left. -/
def Fx.vcInsert (x : Fx) : Option State :=
  match x.head 1 with
  | none =>
    match x.e.words with
    | [] => none
    | [w] => if (x.head 0).any (fun d => !d.isMark false) then x.insertMask w true else none
    | w :: _ => x.insertMask w true
  | some b =>
    if b.isMark false then
      match x.e.words with
      | [] => some (if x.e.cnt = 1 then x.stallAt ccRoundTag 0x33 0 b.word else x.stallAt ccCfg 0x27 1 b.word)
      | [c] =>
        if c.toNat ≠ x.e.tokAll then some (x.stallAt ccCfg 0x27 1 b.word)
        else
          match x.head 0 with
          | none => none
          | some d =>
            if !d.isMark false then some (x.stallAt ccRoundTag 0x33 0 b.word)
            else ({ x with e := { x.e with words := [], buf := [], tokAll := 0 } } : Fx).passMark [0, 1] [x.e.vcfOut]
      | _ => some (x.stallAt ccRoundTag 0x33 0 b.word)
    else if b.kind ≠ 0 then some (x.stallAt ccCfg 0x22 1)
    else
      match x.e.words with
      | [] => some (({ (x.drop 1) with e := { (x.drop 1).e with cnt := 0 } } : Fx).setWords [b.word]).done
      | w :: _ => x.insertMask w false

/-- A block of 256 words transposed. -/
def transpose (l : List W32) : List W32 :=
  (List.range 256).map fun k => l.getD (16 * (k % 16) + k / 16) 0

def Fx.vcTranspose (x : Fx) : Option State :=
  let out (x : Fx) : Fx :=
    (({ x with e := { x.e with buf := [] } } : Fx)).queue ((transpose x.e.buf).map fun w => (x.e.vcfOut, wordBeat w))
  if x.marked 0 then x.ifMarks [0] ((if x.e.buf.isEmpty then x else out x).passMark [0] [x.e.vcfOut])
  else
    match x.wordAt 0 with
    | none => none
    | some (.inl s) => some s
    | some (.inr w) =>
      let x := x.drop 0
      let x := { x with e := { x.e with buf := x.e.buf ++ [w] } }
      (if x.e.buf.length = 256 then out x else x).fired

/-- One firing of a filter's entry. -/
def Fx.filter (x : Fx) : Option State :=
  match x.e.vcfMode with
  | 0 => x.fire [x.e.vcfOut] false Fx.vcConvert
  | 1 => x.fire [] true Fx.vcRemove
  | 2 => x.fire [] true Fx.vcInsert
  | _ => x.fire [] true Fx.vcTranspose

/-- The first entry of the router's vcfilt that may fire. -/
def fireVcfilt (f site : Nat) (s : State) : Option State :=
  (List.range 4).findSome? fun k => (s.fxAt f site true fun e => e.op = 5 && e.sub = k).bind Fx.filter

/-! ### The constructors -/

def execSteer (fld site : Nat) (s : State) : Out := stepOf s (fireSteer fld site s)
def execMerge (fld site : Nat) (s : State) : Out := stepOf s (fireMerge fld site s)
def execJoinNode (fld site : Nat) (s : State) : Out := stepOf s (fireJoin fld site s)
def execCarry (fld site : Nat) (s : State) : Out := stepOf s (fireCarry fld site s)
def execFwd (fld site : Nat) (s : State) : Out := stepOf s (fireFwd fld site s)
def execVcfilt (fld site : Nat) (s : State) : Out := stepOf s (fireVcfilt fld site s)

end Sys2Proof.Machine
end

