-- ==== Sys2Proof/Machine/Images.lean ====
section
/-!
DEFINITION. Configuration images (R158 to R168): reading their frames, the checks of R161 and R163 with the reasons of R197,
and the channels that the router frames lay out (R133 to R135, R164).
-/
namespace Sys2Proof.Machine

/-! ### Reads that the device makes for a strand -/

/-- A read at scope 1 in the name of the strand of a slot (R200, R211). -/
def State.readAs (s : State) (f i ctx : Nat) (c : Cap) (o n : Nat) : State × Res :=
  let a : Access := { ctx := ctx, obj := c.obj, off := o, n := n, op := .read, party := strandParty s.pkg f i
                      round := s.openRound ctx, sync := false, rel := [], acq := [], scope := 1, gen := 0, fld := f, exempt := false }
  if s.behind (.strand f i) a then (s, .busy) else s.perform a

/-- What a run of such reads answers: the values; a record, or nothing new, while a port holds one; a cause and its
offset. -/
inductive RdRes where
  | ok (s : State) (vs : List Nat)
  | wait (s : State)
  | raise (k : TrapInfo) (off : Nat)

/-- Reads of n bytes each, `count` of them from an offset on. -/
def State.readRun (s : State) (f i ctx : Nat) (c : Cap) (n : Nat) : Nat → Nat → RdRes
  | 0, _ => .ok s []
  | count + 1, o =>
    match s.readAs f i ctx c o n with
    | (s, .val v _ _) =>
      match s.readRun f i ctx c n count (o + n) with
      | .ok s vs => .ok s (v :: vs)
      | r => r
    | (s, .hold cause why) => .wait (s.holdOnce ctx c.obj o cause why (strandParty s.pkg f i))
    | (s, .busy) => .wait s
    | (_, .raise k) => .raise k o

/-! ### Frames (R158 to R160) -/

/-- A frame with its index in the image. -/
abbrev FrameAt := Nat × Frame

def Frame.b (f : Frame) (lo n : Nat) : Nat := bits f.toNat lo n
def fKind (f : Frame) : Nat := bits f.toNat 254 2
def fSlot (f : Frame) : Nat := bits f.toNat 252 2
def fSite (f : Frame) : Nat := bits f.toNat 244 8
def fSeq (f : Frame) : Nat := bits f.toNat 240 4
def fb (f : Frame) (lo n : Nat) : Nat := bits f.toNat lo n
/-- A section header. -/
def isHeader (f : Frame) : Bool := fKind f = 2 && fSite f = 255 && fSeq f = 0
def hNfr (f : Frame) : Nat := fb f 224 16
def hNsec (f : Frame) : Nat := fb f 220 4
def hSidx (f : Frame) : Nat := fb f 216 4
def hNact (f : Frame) : Nat := fb f 212 4
def hRamp (f : Frame) : Nat := fb f 200 12
def hWake (f : Frame) : Nat := fb f 188 12
def hCheck (f : Frame) : Nat := fb f 156 32

/-- A section: its header and its frames. -/
structure Sect where
  hdr : FrameAt
  body : List FrameAt

/-- A failed check: its reason and the index of the frame at fault. -/
abbrev Bad := Option (Nat × Nat)

/-- The first failure of a list of checks. -/
def firstBad : List Bad → Bad
  | [] => none
  | some b :: _ => some b
  | none :: r => firstBad r

/-- The first failure over a list. -/
def badIn {α : Type} (f : α → Bad) (l : List α) : Bad := l.findSome? f
def badIf (c : Bool) (why i : Nat) : Bad := if c then some (why, i) else none

/-- What reading an image has come to. -/
inductive ImgRes where
  | ok (s : State) (secs : List Sect)
  | wait (s : State)
  | fail (s : State) (why i : Nat)
  | race (k : TrapInfo)

/-- One frame read through a capability (R200). -/
def State.readFrame (s : State) (f i ctx : Nat) (c : Cap) (k : Nat) : ImgRes ⊕ (State × Frame) :=
  let o := c.cur + 32 * k
  match checkRange (s.ownObj f) c pC o 32 with
  | some _ => .inl (.fail s 0x10 k)
  | none =>
    match s.readRun f i ctx c 16 2 o with
    | .ok s vs => .inr (s, BitVec.ofNat 256 (vs.foldr (fun v a => v + a * 2 ^ 128) 0))
    | .wait s => .inl (.wait s)
    | .raise t _ =>
      if t.code = ccPoison then .inl (.fail s 0x11 k)
      else if t.code = ccRemote then .inl (.fail s 0x12 k)
      else .inl (.race t)

/-- Frames k to k + n − 1. -/
def State.readFrames (s : State) (f i ctx : Nat) (c : Cap) : Nat → Nat → ImgRes ⊕ (State × List FrameAt)
  | 0, _ => .inr (s, [])
  | n + 1, k =>
    match s.readFrame f i ctx c k with
    | .inl r => .inl r
    | .inr (s, fr) =>
      match s.readFrames f i ctx c n (k + 1) with
      | .inl r => .inl r
      | .inr (s, l) => .inr (s, (k, fr) :: l)

/-- The sections from frame k on, at most four: `h0` is the first header once it has been read. -/
def State.readSects (s : State) (f i ctx : Nat) (c : Cap) : Nat → Option Frame → Nat → Nat → ImgRes
  | 0, _, _, _ => .ok s []
  | fuel + 1, h0, k, idx =>
    match s.readFrame f i ctx c k with
    | .inl r => r
    | .inr (s, h) =>
      let first := h0.getD h
      if !isHeader h then .fail s (if idx = 0 then 0x01 else 0x02) k
      else if hNfr h = 0 || hNsec h = 0 || hNsec h > 4 || hSidx h ≠ idx || hNsec h ≠ hNsec first || hRamp h ≠ hRamp first
          || hWake h ≠ hWake first || hWake h < 200 then .fail s 0x02 k
      else
        match s.readFrames f i ctx c (hNfr h) (k + 1) with
        | .inl r => r
        | .inr (s, body) =>
          match body.find? fun p => isHeader p.2 with
          | some p => .fail s 0x02 p.1
          | none =>
            let sec : Sect := { hdr := (k, h), body := body }
            if idx + 1 = hNsec h then .ok s [sec]
            else
              match s.readSects f i ctx c fuel (some first) (k + 1 + hNfr h) (idx + 1) with
              | .ok s l => .ok s (sec :: l)
              | r => r

/-! ### Item 1: kinds, sites, numbers (R158, R159) -/

def siteCol (site : Nat) : Nat := site % 16
/-- The frame's kind, site and seq go together. -/
def frameOk (f : Frame) : Bool :=
  let c := siteCol (fSite f)
  let q := fSeq f
  fSite f < 192 && (match fKind f with
    | 0 => 2 ≤ c && c ≤ 13 && (q = 0 || q = 15)
    | 1 => (c = 0 || c = 15) && q = 0
    | 2 => q ≤ 2
    | _ => (c = 1 || c = 14) && q = 0)
def isTileData (f : Frame) : Bool := fKind f = 0 && fSeq f = 15
def isElemFrame (f : Frame) : Bool := fKind f ≠ 2 && fSeq f = 0
def isSwitchOp (f : Frame) : Bool := fKind f = 2 && fSeq f = 2
def isRoutes (f : Frame) : Bool := fKind f = 2 && fSeq f ≤ 1

/-- Repeated (site, seq) pairs apart from tile data; the two seq-0 kinds of one site are apart. -/
def repeated : List FrameAt → Bad
  | [] => none
  | (_, f) :: r =>
    if isTileData f then repeated r
    else
      match r.find? fun p => !isTileData p.2 && fSite p.2 = fSite f && fSeq p.2 = fSeq f && (fKind p.2 = 2) = (fKind f = 2) with
      | some p => some (0x01, p.1)
      | none => repeated r

def checkItem1 (slot : Nat) (secs : List Sect) : Bad :=
  firstBad [
    badIn (fun s => badIn (fun p => badIf (!frameOk p.2) 0x01 p.1) s.body) secs,
    badIn (fun s => repeated s.body) secs,
    badIn (fun s => badIn (fun p => badIf (fSlot p.2 ≠ slot) 0x01 p.1) (s.hdr :: s.body)) secs ]

/-! ### Item 2: the check word -/

def frameBytes (f : Frame) : List Byte := toBytes 32 f.toNat
/-- The header with its check field zero. -/
def zeroCheck (h : Frame) : Frame := h &&& ~~~(BitVec.ofNat 256 ((2 ^ 32 - 1) * 2 ^ 156))
def checkCrc (s : Sect) : Bad :=
  badIf (crc32c (frameBytes (zeroCheck s.hdr.2) ++ s.body.flatMap fun p => frameBytes p.2) ≠ hCheck s.hdr.2) 0x03 s.hdr.1

/-! ### Item 3: codes, reserved fields, parameters (R164 to R187) -/

/-- Bits lo to lo + n − 1 of a parameter field are zero. -/
def zeroIn (f : Frame) (lo n : Nat) : Bool := fb f lo n = 0
def pvOk (pv : Nat) : Bool := pv / 4 ≤ 4

/-- A router's route entry (R164): en, src, svc, depth. -/
structure RouteEntry where
  en : Bool
  src : Nat
  svc : Nat
  depth : Nat
def routeEntry (f : Frame) (k : Nat) : RouteEntry :=
  { en := fb f (10 * k + 9) 1 = 1, src := fb f (10 * k + 6) 3, svc := fb f (10 * k + 4) 2, depth := fb f (10 * k) 4 }
def routesOk (f : Frame) : Bool :=
  zeroIn f 200 40 && (List.range 20).all fun k =>
    let e := routeEntry f k
    if e.en then e.src ≤ 5 else fb f (10 * k) 9 = 0

def isNarrow (c : Nat) : Bool := 4 ≤ c && c ≤ 6
/-- One entry of a vcfilt (R186). -/
def vcfEntryOk (f : Frame) (k : Nat) : Bool :=
  let o := 26 * k
  let g (lo n : Nat) := fb f (o + lo) n
  if g 25 1 = 0 then g 0 26 = 0
  else
    let mode := g 23 2
    let w := g 21 2
    let conv := [g 18 3, g 14 4, g 10 4].all (· = 0)
    pvOk (g 5 5) && pvOk (g 0 5) && (match mode with
      | 0 => w = 0 && g 18 3 ≤ 4 && g 14 4 ≠ 7 && g 10 4 ≠ 7 && !(isNarrow (g 14 4) && isNarrow (g 10 4)) && g 0 5 = 0
      | 3 => w = 2 && conv && g 0 5 = 0
      | _ => w ≤ 2 && conv)

def switchOpOk (f : Frame) : Bool :=
  let op := fb f 235 5
  let net := fb f 234 1
  pvOk (fb f 229 5) && pvOk (fb f 224 5) && (match op with
    | 1 => net = 0 && zeroIn f 224 5 && zeroIn f 176 48 && (List.range 8).all fun j =>
        let g (lo n : Nat) := fb f (22 * j + lo) n
        if g 21 1 = 0 then g 0 22 = 0 else pvOk (g 0 5)
    | 2 => zeroIn f 0 204 && (fb f 205 1 = 1 || fb f 229 5 = 0) && (List.range 3).all fun i =>
        let pv := fb f (219 - 5 * i) 5
        if fb f (206 + i) 1 = 1 then pvOk pv else pv = 0
    | 3 => net = 0 && pvOk (fb f 219 5) && zeroIn f 205 14 && zeroIn f 0 198 && fb f 201 4 ≠ 0
    | 4 => zeroIn f 0 201 && (if fb f 223 1 = 1 then zeroIn f 205 9 else zeroIn f 205 18)
    | 5 => net = 0 && fb f 224 2 = 0 && zeroIn f 104 120 && (List.range 4).all (vcfEntryOk f)
    | _ => false)

def tileDataOk (f : Frame) : Bool :=
  let w0 := fb f 230 9
  zeroIn f 224 6 && (List.range 7).all fun j => w0 + j ≤ 511 || fb f (32 * j) 32 = 0

/-- Which fields of an element word an operation uses (R166, R170, R176, R182). -/
structure Uses where
  rm : Bool := false
  fmt : Bool := false
  st : Bool := false
  rs : Bool := false
  /-- The operation closes its rounds by its own rule. -/
  own : Bool := false

def computeUses (op : Nat) : Uses :=
  { rm := op = 0x12, fmt := op = 0x11 || op = 0x12 || op = 0x15, st := [0x01, 0x02, 0x03, 0x04, 0x0B, 0x0C, 0x0D].contains op }
def memUses (op param : Nat) : Uses :=
  { fmt := op = 1 && param / 2 ^ 9 % 4 = 1, rs := op = 5 || op = 8 || (op = 6 && param % 2 = 0) }
def agUses (op : Nat) : Uses := { rs := op ≤ 2, own := op ≤ 2 }

/-- The parameter bits of an operation, with its limits. -/
def paramOk (kind op : Nat) (f : Frame) : Bool :=
  let p (lo n : Nat) := fb f lo n
  let top (lo : Nat) : Bool := zeroIn f lo (176 - lo)
  match kind with
  | 0 =>
    if op = 0x0A then top 16
    else if op = 0x10 then top 80
    else if op = 0x12 || op = 0x15 then top 1
    else if op = 0x16 then top 65
    else if op = 0x17 then top 80 && p 64 16 ≠ 0
    else 1 ≤ op && op ≤ 0x18 && top 0
  | 1 =>
    match op with
    | 1 => p 3 1 = 0 && p 9 2 ≠ 3 && top 11
    | 2 => p 3 1 = 0 && (p 9 2 = 0 || p 9 2 = 2) && top 11
    | 3 => p 3 1 = 0 && 1 ≤ p 41 4 && p 41 4 ≤ 8 && top 125
    | 4 => p 3 1 = 0 && p 41 16 ≠ 0 && p 57 16 ≠ 0 && p 57 16 % 16 = 0 && top 74
    | 5 => p 0 4 ≤ 7 && top 9
    | 6 => top 8 && (if p 0 2 = 1 && p 2 1 = 1 then p 3 5 ≠ 0 else p 2 6 = 0)
    | 7 => top 0
    | 8 => top 0
    | _ => false
  | _ =>
    match op with
    | 1 => true
    | 2 => p 80 16 ≠ 0 && p 96 16 ≠ 0 && p 112 16 ≠ 0 && top 136
    | 3 => top 37
    | _ => false

/-- An operation is allowed at its site (R128, R176). -/
def opSiteOk (kind op site : Nat) : Bool :=
  if kind ≠ 1 then true
  else
    let y := site / 16
    if siteCol site = 15 then 1 ≤ op && op ≤ 4
    else match op with
      | 5 => 8 ≤ y
      | 6 => y ≤ 3
      | 7 => y = 4 || y = 5
      | 8 => y = 6 || y = 7
      | _ => false

/-- The rules of R166 and of the operations for an element's frame. swf may be 1 for `ocmp` with st = 1, which has no vector
output: a swap token is then taken and nothing is forwarded (log 87, DESIGN CHOICE). -/
def elemWordOk (f : Frame) : Bool :=
  let kind := fKind f
  let op := fb f 235 5
  let u := if kind = 0 then computeUses op else if kind = 1 then memUses op (fb f 0 176) else agUses op
  let st := fb f 202 1 = 1
  let fmt := fb f 204 4
  paramOk kind op f && opSiteOk kind op (fSite f)
  && (if u.rm then fb f 208 3 ≤ 4 else fb f 208 3 = 0)
  && (if st then u.st && 1 ≤ fmt && fmt ≤ 6 else zeroIn f 192 9 && fb f 203 1 = 0 && (if u.fmt then fmt ≠ 7 else fmt = 0))
  && (fb f 176 16 = 0 || (u.rs && !u.own && fb f 201 1 = 1))
  && (fb f 231 4 ≠ 0 || zeroIn f 211 20)

def checkItem3 (secs : List Sect) : Bad :=
  badIn (fun s => firstBad [
    badIf (!zeroIn s.hdr.2 0 156) 0x04 s.hdr.1,
    badIn (fun p =>
      let f := p.2
      badIf (!(if isRoutes f then routesOk f else if isSwitchOp f then switchOpOk f
        else if isTileData f then tileDataOk f else elemWordOk f)) 0x04 p.1) s.body ]) secs

/-! ### Inputs and outputs of operations (R170, R176, R182) -/

/-- An input or output: its number and its network; an optional input need not have a channel. -/
structure IO where
  ix : Nat
  vec : Bool
  opt : Bool := false

/-- The inputs that an element's operation reads. -/
def elemIns (f : Frame) : List IO :=
  let op := fb f 235 5
  let st := fb f 202 1 = 1
  let v0 : IO := ⟨0, true, false⟩
  let s0 : IO := ⟨0, false, false⟩
  let tile : List IO := if st then [⟨3, false, true⟩] else []
  match fKind f with
  | 0 =>
    if [0x01, 0x02, 0x03, 0x04, 0x0B, 0x0C, 0x0D].contains op then (if st then v0 :: tile else [v0, ⟨1, true, false⟩])
    else if op = 0x0F then [s0, ⟨1, true, false⟩, ⟨2, true, false⟩]
    else if op = 0x10 || op = 0x11 then [s0]
    else if op = 0x13 then [v0, ⟨1, true, true⟩, ⟨2, true, true⟩]
    else [v0]
  | 1 =>
    match op with
    | 2 => [s0, ⟨1, false, false⟩]
    | 4 => if fb f 73 1 = 1 then [s0, ⟨1, false, false⟩] else [s0]
    | 6 => if fb f 0 1 = 1 then [s0] else []
    | 8 => []
    | _ => [s0]
  | _ => if op = 3 then [s0] else []

/-- The outputs of an element's operation; an engine port's output is on either network. -/
def elemOuts (f : Frame) : List IO :=
  let op := fb f 235 5
  let v0 : IO := ⟨0, true, false⟩
  let s0 : IO := ⟨0, false, false⟩
  match fKind f with
  | 0 =>
    if [0x0D, 0x0E, 0x12, 0x16, 0x17].contains op then [s0] else if op = 0x18 then [v0, ⟨1, true, false⟩] else [v0]
  | 1 =>
    match op with
    | 1 => if fb f 9 2 = 1 then [v0] else [s0]
    | 2 => []
    | 3 => [s0, ⟨1, false, false⟩]
    | 4 => if fb f 73 1 = 1 then [] else [s0]
    | 5 => [s0, v0]
    | 6 => if fb f 0 1 = 0 then [s0] else []
    | _ => [v0]
  | _ => [s0]

/-- The input pvs of a switch operation, with the number of each input, and its output pvs. -/
def switchIns (f : Frame) : List (Nat × Nat) :=
  match fb f 235 5 with
  | 2 => (if fb f 205 1 = 1 then [(0, fb f 229 5)] else []) ++ ((List.range 3).filterMap fun i => if fb f (206 + i) 1 = 1 then some (i + 1, fb f (219 - 5 * i) 5) else none)
  | 3 => [(0, fb f 229 5), (1, fb f 219 5)]
  | 5 => (List.range 4).flatMap fun k =>
      let o := 26 * k
      if fb f (o + 25) 1 = 0 then []
      else (4 * k, fb f (o + 5) 5) :: (if fb f (o + 23) 2 = 2 then [(4 * k + 1, fb f o 5)] else [])
  | _ => [(0, fb f 229 5)]
def switchOuts (f : Frame) : List Nat :=
  match fb f 235 5 with
  | 1 => ((List.range 8).filterMap fun j => if fb f (22 * j + 21) 1 = 1 then some (fb f (22 * j) 5) else none).eraseDups
  | 5 => (List.range 4).flatMap fun k =>
      let o := 26 * k
      if fb f (o + 25) 1 = 0 then []
      else (fb f 226 3 * 4 + k) :: (if fb f (o + 23) 2 = 1 then [fb f o 5] else [])
  | _ => [fb f 224 5]
def switchVec (f : Frame) : Bool := fb f 234 1 = 1

/-! ### Routes (R129, R134, R135, R164) -/

/-- The router reached from a section's site by a port, and the port that faces back; none where there is no link. -/
def neighbour (nsec sec site port : Nat) : Option (Nat × Nat × Nat) :=
  let x := site % 16
  let y := site / 16
  match port with
  | 0 => if y > 0 then some (sec, site - 16, 2) else if sec > 0 then some (sec - 1, 11 * 16 + x, 2) else none
  | 1 => if x < 15 then some (sec, site + 1, 3) else none
  | 2 => if y < 11 then some (sec, site + 16, 0) else if sec + 1 < nsec then some (sec + 1, x, 0) else none
  | 3 => if x > 0 then some (sec, site - 1, 1) else none
  | _ => none

/-- The frame of a site that a test picks, in a section. -/
def frameIn (secs : List Sect) (sec : Nat) (p : Frame → Bool) : Option FrameAt :=
  (secs[sec]?).bind fun s => s.body.find? fun q => p q.2
/-- The route entry of an output pv at a router. -/
def entryAt (secs : List Sect) (sec site : Nat) (vec : Bool) (pv : Nat) : Option RouteEntry :=
  (frameIn secs sec fun f => isRoutes f && fSite f = site && (fSeq f = 1) = vec).bind fun p =>
    let e := routeEntry p.2 pv
    if e.en then some e else none

/-- An end of a channel as an image names it. -/
structure EndAt where
  sec : Nat
  site : Nat
  sw : Bool
  ix : Nat
  deriving DecidableEq

/-- Where a channel comes from, tracing back from a router's input pv: its source and the depths on the way; or the
reason it cannot be traced. -/
def traceBack (secs : List Sect) (vec : Bool) : Nat → Nat → Nat → Nat → Nat → Except Nat (EndAt × Nat)
  | 0, _, _, _, _ => .error 0x06
  | fuel + 1, sec, site, pv, acc =>
    if pv / 4 = 4 then .ok ({ sec := sec, site := site, sw := false, ix := pv % 4 }, acc)
    else
      match neighbour secs.length sec site (pv / 4) with
      | none => .error 0x06
      | some (sec', site', back) =>
        let pv' := back * 4 + pv % 4
        match entryAt secs sec' site' vec pv' with
        | none => .error 0x05
        | some e =>
          if e.src = 5 then .ok ({ sec := sec', site := site', sw := true, ix := pv' }, acc + e.depth)
          else traceBack secs vec fuel sec' site' (e.src * 4 + e.svc) (acc + e.depth)

/-- A channel that an image lays out. -/
structure ChanAt where
  vec : Bool
  src : EndAt
  dst : EndAt
  cap : Nat

def traceFuel : Nat := 4 * 192 * 16

/-- The channel into input i of the element at a site, by the local port's entry (R164). -/
def elemChan (secs : List Sect) (sec site : Nat) (vec : Bool) (i : Nat) : Option (Except Nat ChanAt) :=
  (entryAt secs sec site vec (16 + i)).map fun e =>
    let dst : EndAt := { sec := sec, site := site, sw := false, ix := i }
    if e.src = 5 then .ok { vec := vec, src := { sec := sec, site := site, sw := true, ix := 16 + i }, dst := dst, cap := e.depth + 1 }
    else
      match traceBack secs vec traceFuel sec site (e.src * 4 + e.svc) e.depth with
      | .ok (src, d) => .ok { vec := vec, src := src, dst := dst, cap := d + 1 }
      | .error w => .error w

/-- The channel into an input of a switch operation. -/
def switchChan (secs : List Sect) (sec site : Nat) (vec : Bool) (i pv : Nat) : Except Nat ChanAt :=
  match traceBack secs vec traceFuel sec site pv 0 with
  | .ok (src, d) => .ok { vec := vec, src := src, dst := { sec := sec, site := site, sw := true, ix := i }, cap := d + 1 }
  | .error w => .error w

/-- A pv names an edge port of a router (R446). -/
def isEdge (site pv : Nat) : Bool := (siteCol site = 0 && pv / 4 = 3) || (siteCol site = 15 && pv / 4 = 1)
def isCircuitFrame (f : Frame) : Bool := isSwitchOp f && fb f 235 5 = 4 && fb f 223 1 = 1
def isRecvFrame (f : Frame) : Bool := fb f 222 1 = 1

/-- The channels of a section with the frame each is checked at: of its elements' inputs, then of its switch operations'. -/
def sectChans (secs : List Sect) (sec : Nat) : List (Nat × Except Nat ChanAt) :=
  match secs[sec]? with
  | none => []
  | some s => s.body.flatMap fun (k, f) =>
    if isRoutes f then
      let vec := fSeq f = 1
      (List.range 4).filterMap fun i => (elemChan secs sec (fSite f) vec i).map fun c => (k, c)
    else if isSwitchOp f then
      (switchIns f).filterMap fun (i, pv) =>
        if isCircuitFrame f && isRecvFrame f then none else some (k, switchChan secs sec (fSite f) (switchVec f) i pv)
    else []

/-- Every channel of an image, with the frames that fail to trace. -/
def allChans (secs : List Sect) : List (Nat × Except Nat ChanAt) := (List.range secs.length).flatMap (sectChans secs)

def elemFrameAt (secs : List Sect) (sec site : Nat) : Option FrameAt := frameIn secs sec fun f => isElemFrame f && fSite f = site
def switchFrameAt (secs : List Sect) (sec site : Nat) : Option FrameAt := frameIn secs sec fun f => isSwitchOp f && fSite f = site

/-- The source of a channel is an output that drives it, and its destination an input that reads it (R161 item 4). -/
def chanEndsOk (secs : List Sect) (c : ChanAt) : Bool :=
  (if c.src.sw then
      (switchFrameAt secs c.src.sec c.src.site).any fun p => switchVec p.2 = c.vec && (switchOuts p.2).contains c.src.ix
        && !(isCircuitFrame p.2 && !isRecvFrame p.2)
    else (elemFrameAt secs c.src.sec c.src.site).any fun p => (elemOuts p.2).any fun o => o.ix = c.src.ix && o.vec = c.vec) &&
  (c.dst.sw || (elemFrameAt secs c.dst.sec c.dst.site).any fun p => (elemIns p.2).any fun i => i.ix = c.dst.ix && i.vec = c.vec)

/-- The channels that trace. -/
def goodChans (secs : List Sect) : List ChanAt := (allChans secs).filterMap fun p => match p.2 with
  | .ok c => some c
  | .error _ => none

/-- Every input that must be read has its channel; an engine port answers on one network. -/
def inputsOk (cs : List ChanAt) (sec : Nat) (f : Frame) : Bool :=
  ((elemIns f).all fun i => i.opt || cs.any fun c => !c.dst.sw && c.dst.sec = sec && c.dst.site = fSite f && c.dst.ix = i.ix) &&
  !(fKind f = 1 && fb f 235 5 = 5 &&
    (cs.any fun c => !c.src.sw && c.src.sec = sec && c.src.site = fSite f && c.vec) &&
    (cs.any fun c => !c.src.sw && c.src.sec = sec && c.src.site = fSite f && !c.vec))

/-- A route entry is used: the router it leads to, or the element or switch operation there, reads it. -/
def entryUsed (secs : List Sect) (sec site : Nat) (vec : Bool) (pv : Nat) : Bool :=
  if pv / 4 = 4 then pv % 4 < 3 || !vec
  else
    match neighbour secs.length sec site (pv / 4) with
    | none => true
    | some (sec', site', back) =>
      let inPv := back * 4 + pv % 4
      ((List.range 20).any fun q => (entryAt secs sec' site' vec q).any fun e => e.src ≠ 5 && e.src * 4 + e.svc = inPv) ||
      (switchFrameAt secs sec' site').any fun p => switchVec p.2 = vec && (switchIns p.2).any (·.2 = inPv)

/-- A switch operation's outputs have their entries, and its inputs carry no other route (R165). -/
def switchRoutesOk (secs : List Sect) (sec : Nat) (f : Frame) : Bool :=
  let site := fSite f
  let vec := switchVec f
  ((isCircuitFrame f && !isRecvFrame f) || (switchOuts f).all fun pv => (entryAt secs sec site vec pv).any (·.src = 5)) &&
  ((switchIns f).all fun p => !((List.range 20).any fun q => (entryAt secs sec site vec q).any fun e => e.src ≠ 5 && e.src * 4 + e.svc = p.2)) &&
  ((switchIns f).map (·.2)).eraseDups.length = (switchIns f).length

def checkItem4 (secs : List Sect) : Bad :=
  let cs := goodChans secs
  firstBad [
    badIn (fun p => match p.2 with
      | .error 0x05 => some (0x05, p.1)
      | .ok c => badIf (!chanEndsOk secs c) 0x05 p.1
      | _ => none) (allChans secs),
    badIn (fun (sec, s) => badIn (fun p =>
      let f := p.2
      if isElemFrame f then badIf (!inputsOk cs sec f) 0x05 p.1
      else if isSwitchOp f then badIf (!switchRoutesOk secs sec f) 0x05 p.1
      else if isRoutes f then
        badIf (!((List.range 20).all fun pv => (entryAt secs sec (fSite f) (fSeq f = 1) pv).isNone
          || entryUsed secs sec (fSite f) (fSeq f = 1) pv)) 0x05 p.1
      else none) s.body) ((List.range secs.length).zip secs) ]

/-! ### Item 5: depths and links (R134, R135, R446, R447) -/

def depthsOk (f : Frame) : Bool := (List.range 5).all fun port =>
  ((List.range 4).foldl (fun a vc => a + (let e := routeEntry f (4 * port + vc); if e.en then e.depth else 0)) 0) ≤ 32

/-- The ports of a router's entries have links, and edge ports belong to circuit ends. -/
def linksOk (secs : List Sect) (sec : Nat) (f : Frame) : Bool := (List.range 20).all fun pv =>
  let e := routeEntry f pv
  !e.en || ((pv / 4 = 4 || (neighbour secs.length sec (fSite f) (pv / 4)).isSome) &&
    (e.src ≥ 4 || (neighbour secs.length sec (fSite f) e.src).isSome))

def edgesOk (f : Frame) : Bool :=
  let site := fSite f
  if isCircuitFrame f then
    if isRecvFrame f then isEdge site (fb f 229 5) && !isEdge site (fb f 224 5)
    else isEdge site (fb f 224 5) && !isEdge site (fb f 229 5)
  else !((switchIns f).any fun p => isEdge site p.2) && !((switchOuts f).any (isEdge site))

/-- No output port feeds more than four channels. -/
def fanOk (cs : List ChanAt) (c : ChanAt) : Bool := (cs.filter fun d => d.src = c.src && d.vec = c.vec).length ≤ 4

def checkItem5 (secs : List Sect) : Bad :=
  let cs := goodChans secs
  firstBad [
    badIn (fun (sec, s) => badIn (fun p =>
      let f := p.2
      if isRoutes f then badIf (!depthsOk f || !linksOk secs sec f) 0x06 p.1
      else if isSwitchOp f then badIf (!edgesOk f) 0x06 p.1
      else none) s.body) ((List.range secs.length).zip secs),
    badIn (fun p => match p.2 with
      | .error 0x06 => some (0x06, p.1)
      | .ok c => badIf (!fanOk cs c) 0x06 p.1
      | _ => none) (allChans secs) ]

/-! ### Items 6 and 7: actors and sources (R137, R176) -/

def frameActor (f : Frame) : Nat := fb f 231 4
/-- The actor of the element at an end; none for a switch operation. -/
def endActor (secs : List Sect) (e : EndAt) : Nat :=
  if e.sw then 0 else ((elemFrameAt secs e.sec e.site).map fun p => frameActor p.2).getD 0
/-- A channel crosses an actor's boundary at one of its ends. -/
def crosses (secs : List Sect) (c : ChanAt) : Bool :=
  c.src.sec ≠ c.dst.sec || endActor secs c.src ≠ endActor secs c.dst

def actorOk (secs : List Sect) (cs : List ChanAt) (sec nact : Nat) (f : Frame) : Bool :=
  let a := frameActor f
  let site := fSite f
  a ≤ nact &&
  ((List.range 3).all fun i =>
    let b := a ≠ 0 && cs.any fun c => !c.dst.sw && c.dst.sec = sec && c.dst.site = site && c.dst.ix = i && crosses secs c
    (fb f (227 - 4 * i) 4 ≠ 0) = b) &&
  ((List.range 2).all fun o =>
    let b := a ≠ 0 && cs.any fun c => !c.src.sw && c.src.sec = sec && c.src.site = site && c.src.ix = o && crosses secs c
    (fb f (215 - 4 * o) 4 ≠ 0) = b)

def checkItem6 (secs : List Sect) : Bad :=
  let cs := goodChans secs
  badIn (fun (sec, s) => firstBad [
    badIn (fun p => if isElemFrame p.2 then badIf (!actorOk secs cs sec (hNact s.hdr.2) p.2) 0x07 p.1 else none) s.body,
    badIf (!((List.range (hNact s.hdr.2)).all fun a => s.body.any fun p => isElemFrame p.2 && frameActor p.2 = a + 1)) 0x07 s.hdr.1 ])
    ((List.range secs.length).zip secs)

def frameRs (f : Frame) : Bool := fb f 201 1 = 1
def mayRs (f : Frame) : Bool :=
  let op := fb f 235 5
  match fKind f with
  | 1 => (memUses op (fb f 0 176)).rs
  | 3 => (agUses op).rs
  | _ => false

def checkItem7 (secs : List Sect) : Bad :=
  firstBad [
    badIn (fun s => badIn (fun p => badIf (isElemFrame p.2 && frameRs p.2 && !mayRs p.2) 0x08 p.1) s.body) secs,
    badIf (!(secs.any fun s => s.body.any fun p => isElemFrame p.2 && frameRs p.2)) 0x08 0 ]

/-- The checks of R161 on a whole image. An image that breaks items 4 and 5 alike is reported under item 5 (log 77). -/
def checkImage (slot : Nat) (secs : List Sect) : Bad :=
  firstBad [
    badIn (fun s => badIf (fSlot s.hdr.2 ≠ slot) 0x0A s.hdr.1) (secs.take 1),
    checkItem1 slot secs, badIn checkCrc secs, checkItem3 secs, checkItem5 secs, checkItem4 secs, checkItem6 secs, checkItem7 secs ]

/-! ### Partial images (R163) -/

/-- The inputs and outputs of a site's element that the installed channels serve: number and network, and whether the channel
crosses the boundary of an actor of id `a`. -/
def servedIns (chans : List Chan) (actorAt : Port → Nat) (p : Nat × Nat) (a : Nat) : List (Nat × Bool × Bool) :=
  (chans.filter fun c => c.dst.fld = p.1 && c.dst.site = p.2 && !c.dst.sw).map fun c =>
    (c.dst.ix, c.vec, c.src.fld ≠ p.1 || actorAt c.src ≠ a)
def servedOuts (chans : List Chan) (actorAt : Port → Nat) (p : Nat × Nat) (a : Nat) : List (Nat × Bool × Bool) :=
  (chans.filter fun c => c.src.fld = p.1 && c.src.site = p.2 && !c.src.sw).map fun c =>
    (c.src.ix, c.vec, c.dst.fld ≠ p.1 || actorAt c.dst ≠ a)

/-- The new operation reads and writes exactly what the installed channels serve (R163, R161 item 4). -/
def servesOk (f : Frame) (ins outs : List (Nat × Bool × Bool)) : Bool :=
  let has (l : List (Nat × Bool × Bool)) (i : IO) : Bool := l.any fun p => p.1 = i.ix && p.2.1 = i.vec
  let known (l : List IO) (p : Nat × Bool × Bool) : Bool := l.any fun i => i.ix = p.1 && i.vec = p.2.1
  ((elemIns f).all fun i => i.opt || has ins i) && ins.all (known (elemIns f)) && outs.all (known (elemOuts f)) &&
    !(fKind f = 1 && fb f 235 5 = 5 && (outs.any (·.2.1)) && (outs.any fun p => !p.2.1))

/-- cin and pout of a new frame: set where the installed channels cross its actor's boundary, and zero elsewhere (R166). -/
def ratesOk (f : Frame) (ins outs : List (Nat × Bool × Bool)) : Bool :=
  let at' (l : List (Nat × Bool × Bool)) (i : Nat) : Bool := frameActor f ≠ 0 && l.any fun p => p.1 = i && p.2.2
  ((List.range 3).all fun i => (fb f (227 - 4 * i) 4 ≠ 0) = at' ins i) &&
    (List.range 2).all fun o => (fb f (215 - 4 * o) 4 ≠ 0) = at' outs o

/-- Checks of a partial image for the fields from f0 on, against the frames that its sections' slots hold and the channels that
are installed there. -/
def checkPartial (slot : Nat) (secs : List Sect) (held : List (List Frame)) (chans : List Chan) (f0 : Nat) : Bad :=
  let old (sec : Nat) (f : Frame) : Option Frame := (held.getD sec []).find? fun g => isElemFrame g && fSite g = fSite f
  let actorAt (p : Port) : Nat :=
    if p.sw || p.fld < f0 then 0
    else (((held.getD (p.fld - f0) []).find? fun g => isElemFrame g && fSite g = p.site).map frameActor).getD 0
  firstBad [
    badIn (fun s => badIf (fSlot s.hdr.2 ≠ slot) 0x0A s.hdr.1) (secs.take 1),
    checkItem1 slot secs, badIn checkCrc secs,
    badIn (fun (sec, s) => badIn (fun p =>
      badIf (fKind p.2 = 2 || (old sec p.2).isNone) 0x09 p.1) s.body) ((List.range secs.length).zip secs),
    checkItem3 secs,
    badIn (fun (sec, s) => badIn (fun p =>
      match old sec p.2 with
      | none => none
      | some g =>
        let place := (f0 + sec, fSite p.2)
        let ins := servedIns chans actorAt place (frameActor g)
        let outs := servedOuts chans actorAt place (frameActor g)
        if !isElemFrame p.2 then none
        else if frameActor g ≠ frameActor p.2 || frameRs g ≠ frameRs p.2 then some (0x09, p.1)
        else if !servesOk p.2 ins outs then some (0x05, p.1)
        else badIf (!ratesOk p.2 ins outs) 0x07 p.1) s.body)
      ((List.range secs.length).zip secs) ]

/-! ### What an install writes (R162, R168) -/

/-- Register words that a section's tile-data frames give a site: of A (0) or L (1). -/
def tileWords (body : List FrameAt) (site reg : Nat) : List (Nat × W32) :=
  body.foldl (fun l p =>
    if isTileData p.2 && fSite p.2 = site && fb p.2 239 1 = reg then
      (List.range 7).foldl (fun l j =>
        let i := fb p.2 230 9 + j
        if i ≤ 511 then tileSet l i (BitVec.ofNat 32 (fb p.2 (32 * j) 32)) else l) l
    else l) []

/-- The elements of a section as an install leaves them. -/
def sectElems (body : List FrameAt) : List Elem :=
  body.flatMap fun (_, f) =>
    if isElemFrame f then
      let e := Elem.fresh (fSite f) false 0 f 0
      let ta := tileWords body (fSite f) 0
      let tl := tileWords body (fSite f) 1
      [{ e with tileA := ta, tileL := tl, filled := if tl.isEmpty then 0 else e.fillCount, lfull := !tl.isEmpty }]
    else if isSwitchOp f then
      if fb f 235 5 = 5 then (List.range 4).filterMap fun k => if fb f (26 * k + 25) 1 = 1 then some (Elem.fresh (fSite f) true k f 0) else none
      else [Elem.fresh (fSite f) true 0 f 0]
    else []

/-- The channels of an image for a region whose section 0 is on field f0. -/
def imageChans (secs : List Sect) (f0 slot : Nat) (id0 : Nat) : List Chan :=
  (goodChans secs).zipIdx.map fun (c, k) =>
    { id := id0 + k, slot := slot, vec := c.vec
      src := { fld := f0 + c.src.sec, site := c.src.site, sw := c.src.sw, ix := c.src.ix }
      dst := { fld := f0 + c.dst.sec, site := c.dst.site, sw := c.dst.sw, ix := c.dst.ix }
      cap := c.cap, q := [], openv := false, kill := false, stopped := false, discard := 0 }

end Sys2Proof.Machine
end

