-- ==== Sys2Proof/Machine/Atomics.lean ====
section
/-!
DEFINITION. Atomics and vector atomics (R284 to R292).
-/
namespace Sys2Proof.Machine

/-- Bytes of an atomic's size code: .w or .d (R47, R286). -/
def LF.szBytes (w : LF) : Nat := if w.fnBits 0 2 = 0 then 4 else 8
/-- The rights of an atomic (R24). -/
def pRWA : Nat := 19

/-- The offset of this chapter: cursor and displacement, exact (R284). -/
def dispAddr (c : Cap) (w : LF) : Int := effAddr c (sext w.imm)

/-- `atom` (R286). -/
def atomOp (op : Nat) (w : LF) (s : State) : Out :=
  runL w .other { reads := [w.b], loads := [w.d] } (fun s =>
    let c := s.creg5 w.a
    s.store c (dispAddr c w) (LF.szBytes w) pRWA (.atomic op (s.readReg w.b).toNat) w.atOrd w.x.toNat (s.loadDst w.d)
      (atomSigned op) .ld) s

def execAtomAdd (w : LF) (s : State) : Out := atomOp 0 w s
def execAtomMin (w : LF) (s : State) : Out := atomOp 1 w s
def execAtomMax (w : LF) (s : State) : Out := atomOp 2 w s
def execAtomMinu (w : LF) (s : State) : Out := atomOp 3 w s
def execAtomMaxu (w : LF) (s : State) : Out := atomOp 4 w s
def execAtomAnd (w : LF) (s : State) : Out := atomOp 5 w s
def execAtomOr (w : LF) (s : State) : Out := atomOp 6 w s
def execAtomXor (w : LF) (s : State) : Out := atomOp 7 w s
def execAtomSwp (w : LF) (s : State) : Out := atomOp 8 w s
def execAtomFadd (w : LF) (s : State) : Out := atomOp 9 w s
def execAtomInc (w : LF) (s : State) : Out := atomOp 10 w s

/-- `atomcas` reads and writes d (R42, R288). -/
def execAtomcas (w : LF) (s : State) : Out :=
  runL w .other { reads := [w.b, w.d], loads := [w.d] } (fun s =>
    let c := s.creg5 w.a
    s.store c (dispAddr c w) (LF.szBytes w) pRWA (.cas (s.readReg w.d).toNat (s.readReg w.b).toNat) w.atOrd w.x.toNat
      (s.loadDst w.d) true .ld) s

/-! ### Vector atomics (R289 to R292) -/

/-- How the elements of a vector atomic went, with the releases that they read from. The masks are those of elements whose runs
have applied. -/
inductive VRes where
  | ok (s : State) (skip suc : Nat) (rs : List Rel)
  | fault (k : TrapInfo) (off : Int) (s : State) (skip suc : Nat) (rs : List Rel)
  | wait (s : State) (skip suc : Nat) (rs : List Rel)

/-- A plain access of the strand to its operand block. -/
def State.blockAccess (s : State) (c : Cap) (off n : Nat) (op : AccOp) (x : Nat) : Access :=
  { s.strandAccess c.obj off n op 0 x with rel := [], sync := false }

/-- An unskipped element: its number, its target, its operand (expected value), its new value (R289). -/
structure VElem where
  i : Nat
  o : Int
  arg : Nat
  new : Nat

/-- What reading an operand block answers. -/
inductive VBlock where
  | ok (s : State) (l : List VElem)
  | raise (k : TrapInfo) (s : State)
  | wait (s : State)

/-- The entries of the unskipped elements read from the block (R290). -/
def vatomBlock (ca cb : Cap) (x : Nat) (cas : Bool) (skip : Nat) (s : State) : List Nat → VBlock
  | [] => .ok s []
  | i :: r =>
    if bits skip i 1 = 1 then vatomBlock ca cb x cas skip s r
    else
      let e := cb.cur + (if cas then 32 else 16) * i
      if s.behind s.meWho (s.blockAccess cb e 16 .read x) || (cas && s.behind s.meWho (s.blockAccess cb (e + 16) 8 .read x)) then .wait s
      else
      let a := s.blockAccess cb e 16 .read x
      match s.perform a with
      | (s, .raise k) => .raise k s
      | (s, .hold c y) => .wait (s.holdAccOnce a c y s.myParty)
      | (s, .busy) => .wait s
      | (s, .val v _ _) =>
        let put (s : State) (new : Nat) : VBlock :=
          match vatomBlock ca cb x cas skip s r with
          | .ok s l => .ok s ({ i := i, o := (ca.cur : Int) + toSigned 64 v, arg := v / 2 ^ 64, new := new } :: l)
          | y => y
        if !cas then put s 0
        else
          let b := s.blockAccess cb (e + 16) 8 .read x
          match s.perform b with
          | (s, .raise k) => .raise k s
          | (s, .hold c y) => .wait (s.holdAccOnce b c y s.myParty)
          | (s, .busy) => .wait s
          | (s, .val u _ _) => put s u

/-- The runs of the elements: consecutive ones whose targets lie in one 64 KiB page (R290). -/
def pageRuns : List VElem → List (List VElem)
  | [] => []
  | e :: r =>
    match pageRuns r with
    | (f :: q) :: l => if e.o / 65536 = f.o / 65536 then (e :: f :: q) :: l else [e] :: (f :: q) :: l
    | l => [e] :: l

/-- The elements of a run applied in order. A stop leaves the state, and the masks, before the run. -/
def vatomRun (ca cb : Cap) (w : LF) (cas : Bool) (n : Nat) (s : State) (skip suc : Nat) (was : List Rel) (t : State) (tskip tsuc : Nat) (rs : List Rel) :
    List VElem → VRes
  | [] => .ok t tskip tsuc rs
  | e :: r =>
    let at_ := cb.cur + (if cas then 32 else 16) * e.i
    let op := if cas then AccOp.cas e.arg e.new else .atomic (w.fnBits 5 4) e.arg
    let a := { t.strandAccess ca.obj e.o.toNat n op w.atOrd w.x.toNat with acq := [] }
    match t.performSync a with
    | (_, .raise k, _) => .fault k e.o (s.keepPoison a k) skip suc was
    | (_, .hold c y, _) => .wait (s.holdAccOnce a c y s.myParty) skip suc was
    | (_, .busy, _) => .wait s skip suc was
    | (t, .val old _ fl, q) =>
      let back := extend (8 * n) (cas || atomSigned (w.fnBits 5 4)) old
      let b := t.blockAccess cb (at_ + 8) 8 (.write back.toNat) w.x.toNat
      match t.perform b with
      | (t, .val _ _ _) =>
        let hit := cas && old = e.arg % 2 ^ (8 * n)
        let t := if b.obj ≥ localObj then t else t.watchDone b
        vatomRun ca cb w cas n s skip suc was (t.orFlags fl) (tskip ||| 2 ^ e.i) (if hit then tsuc ||| 2 ^ e.i else tsuc) (rs ++ q) r
      | (_, .raise k) => .fault k at_ (s.keepPoison b k) skip suc was
      | (_, .hold c y) => .wait (s.holdAccOnce b c y s.myParty) skip suc was
      | (_, .busy) => .wait s skip suc was

/-- Runs one after another: each is checked as a whole before it applies. -/
def vatomLoop (ca cb : Cap) (w : LF) (cas : Bool) (n : Nat) (s : State) (skip suc : Nat) (rs : List Rel) : List (List VElem) → VRes
  | [] => .ok s skip suc rs
  | q :: l =>
    match q.findSome? fun e => (s.checkAccess ca pRWA e.o n w.x.toNat).map fun k => (k, e.o) with
    | some (k, o) => .fault k o s skip suc rs
    | none =>
      if q.any fun e => s.behind s.meWho (s.strandAccess ca.obj e.o.toNat n (.atomic 0 0) 0 w.x.toNat) then .wait s skip suc rs
      else
      match vatomRun ca cb w cas n s skip suc rs s skip suc rs q with
      | .ok s skip suc rs => vatomLoop ca cb w cas n s skip suc rs l
      | r => r

/-- The acquire of a vector atomic, after its last element (R290): from the releases that all its elements have read from. -/
def State.vatomAcquire (s : State) (w : LF) (rs : List Rel) : Option State :=
  if ordAcq w.atOrd then
    let set := s.setOf w.x.toNat
    (s.acquireFrom s.me.ctx s.myParty set rs).map fun u => u.invalidate s.me.ctx s.me.fld set
  else some s

/-- The end of a vector atomic that has stopped: the masks of what has applied are in its register (R290, R292). -/
def State.vatomFault (s : State) (w : LF) (ca : Cap) (k : TrapInfo) (off : Int) (skip suc : Nat) (rs : List Rel) : Act :=
  let t := s.setSreg w.d (BitVec.ofNat 64 (skip + suc * 2 ^ 16))
  .raise { k with fobj := BitVec.ofNat 64 ca.obj, faddr := BitVec.ofNat 64 (skip + (off % 2 ^ 48).toNat * 2 ^ 16) }
    { t with me := { t.me with vrels := rs, vmask := none } }

/-- `vatom` and `vatomcas`. One that a port holds goes on from its masks, which the device keeps meanwhile. -/
def vatomOp (cas : Bool) (w : LF) (s : State) : Out :=
  runL w .other { reads := [w.d], loads := [w.d] } (fun s =>
    let ca := s.creg5 w.a
    let cb := s.creg5 w.b
    let cnt := w.immBits 0 5 % 16 + 1
    let sz := LF.szBytes w
    let all := 2 ^ cnt - 1
    let d := (s.me.vmask.map (·.2)).getD (s.readReg w.d).toNat
    let skip := d % 2 ^ 16
    let suc := bits d 16 16
    let was := if skip &&& all = 0 then [] else s.me.vrels
    match checkRange (s.ownObj s.me.fld) cb (pR + pW) cb.cur ((if cas then 32 else 16) * cnt) with
    | some k => .raise (capTrap k cb cb.cur) s
    | none =>
      if cb.cur % 16 ≠ 0 then .raise (capTrap ccAlign cb cb.cur) s
      else if s.me.full .ld then .wait s
      else
        match s.staleFence with
        | some k => .raise k s
        | none =>
        match s.release ((if ordRel w.atOrd then [s.setOf w.x.toNat] else []) ++ s.me.relFence.map fun p => s.setOf p.1) with
        | .wait s => .wait s
        | .raise k s => .raise k s
        | .ok s =>
          if s.acquiring || s.behind s.meWho (s.strandAccess ca.obj ca.cur sz (.atomic 0 0) 0 w.x.toNat) then .wait s
          else
            match vatomBlock ca cb w.x.toNat cas skip s (List.range cnt) with
            | .raise k s => .raise k s
            | .wait s => .wait s
            | .ok s l =>
              match vatomLoop ca cb w cas sz s skip suc was (pageRuns l) with
              | .ok s skip suc rs =>
                match s.vatomAcquire w rs with
                | none => s.vatomFault w ca (mkTrap ccSync 0 0 0) ((l.getLast?.map (·.o)).getD ca.cur) skip suc rs
                | some s =>
                  let a := s.strandAccess ca.obj ca.cur 8 .read 0 1
                  let t := { s.me with relFence := [], lastLd := s.ids, lastRels := rs, lastAt := (ca.obj, ca.cur), vrels := [], vmask := none }
                  .done (({ s with me := t }).addFlight a (s.loadDst w.d) false (.done ((skip &&& all) + (suc &&& all) * 2 ^ 16) false) 0 .ld)
              | .wait s skip suc rs => .wait { s with me := { s.me with vmask := some (w.d, skip + suc * 2 ^ 16), vrels := rs } }
              | .fault k off s skip suc rs => s.vatomFault w ca k off skip suc rs) s

def execVatom (w : LF) (s : State) : Out := vatomOp false w s
def execVatomcas (w : LF) (s : State) : Out := vatomOp true w s

end Sys2Proof.Machine
end

