-- ==== Sys2Proof/Machine/System.lean ====
section
/-!
DEFINITION. The system instructions (R125, R126), the system registers (R18 to R20), the context record (R454) and the
entry of a trap that had to wait for loads (R27).
-/
namespace Sys2Proof.Machine

/-- The offset of a context's record in the context table (R454, R457): record c at 256 × c of it (log 15). -/
def State.ctxRec (s : State) (ctx : Nat) : Nat × Nat := (s.host.ctxt.toNat % 2 ^ 32, s.host.ctxt.toNat / 2 ^ 32 * 256 + 256 * ctx)
/-- A context register written: n bytes go to the context record (R454). An instruction whose write the port of the record
holds waits, with no effect (R248). -/
def State.putRec (s t : State) (at_ n v : Nat) (tag : Bool) : Act :=
  let (obj, off) := s.ctxRec s.me.ctx
  if s.host.ctxt = 0 then .done t
  else
    match s.translate 0 obj (off + at_) true with
    | .ok _ _ _ => .done (t.devWrite 0 obj (off + at_) n v tag)
    | .held c w => .wait (s.holdOnce 0 obj (off + at_) c w s.myParty)
    | .busy => .wait s

/-! ### System registers (R18) -/

/-- Numbers listed in R18. -/
def sysListed (n : Nat) : Bool := n ≤ 0x11
/-- Registers that hold a capability. -/
def sysIsCap (n : Nat) : Bool := n = 4 || n = 5 || n = 0xA
/-- Registers with a field marked H (R125). -/
def sysIsH (n : Nat) : Bool := n ≤ 5 || n = 0xA || n = 0xE

/-- IDENT (R20). -/
def identVal : W64 := BitVec.ofNat 64 (0xB140 + 0x0007 * 2 ^ 16 + Config.variant * 2 ^ 32 + Config.step.toNat * 2 ^ 36)
/-- STATUS (R19). -/
def Strand.status (t : Strand) : Nat := t.mode.toNat + 2 * t.pmode.toNat + 4 * t.dflt.toNat
/-- QMAP (R20). -/
def Strand.qmap (t : Strand) : Nat := t.binds.foldl (fun a b => a ||| 2 ^ b.q ||| (if b.push then 2 ^ (8 + b.q) else 0)) 0
/-- CNT (R20). -/
def Strand.cnt (t : Strand) : Nat := t.ldc + t.stc * 2 ^ 8 + t.xpc * 2 ^ 16 + t.tlc * 2 ^ 24

/-- The scalar form of a register; a capability register gives its cursor (R125). -/
def State.sysVal (s : State) (n : Nat) : W64 :=
  let t := s.me
  match n with
  | 0x0 => BitVec.ofNat 64 t.status
  | 0x1 => BitVec.ofNat 64 (t.code.toNat + t.sub.toNat * 2 ^ 8)
  | 0x2 => t.faddr
  | 0x3 => t.fobj
  | 0x4 => BitVec.ofNat 64 t.epc.cur
  | 0x5 => BitVec.ofNat 64 t.ecap.cur
  | 0x6 => BitVec.ofNat 64 (t.ctx % 2 ^ 16)
  | 0x7 => BitVec.ofNat 64 (t.slot + t.fld * 2 ^ 3 + s.pkg * 2 ^ 10)
  | 0x8 => (s.ctxOf t.ctx).round.setWidth 64
  | 0x9 => BitVec.ofNat 64 t.qmap
  | 0xA => BitVec.ofNat 64 t.sdef.cur
  | 0xB => t.frm.setWidth 64
  | 0xC => t.fflags.setWidth 64
  | 0xD => t.settleU.setWidth 64
  | 0xE => (s.ctxOf t.ctx).wpc &&& 0xF1F#64
  | 0xF => identVal
  | 0x10 => BitVec.ofNat 64 t.cnt
  | _ => (s.fieldOf t.fld).cycle

/-- The capability form (R125). A strand reads the ECAP and SCOPE_DEF that it uses: those of its dispatch or of its own last
`sysw`. Whether it reads another strand's later `sysw` before its own next dispatch R18 leaves open (log 84). -/
def State.sysCap (s : State) (n : Nat) : Cap := if n = 4 then s.me.epc else if n = 5 then s.me.ecap else s.me.sdef

/-- The clock has moved on by an amount that is a free value before CYCLE is read (R18, log 16). -/
def State.tickClock (s : State) (n : Nat) : State :=
  if n = 0x11 then
    let f := s.fieldOf s.me.fld
    let (v, s) := s.freeVal
    s.setField { f with cycle := f.cycle + v }
  else s

/-- The scalar write of a register, field by field by its Access code (R9, R10, R19 to R21, R421). -/
def State.sysPut (s : State) (n : Nat) (v : W64) : State :=
  let t := s.me
  match n with
  | 0x0 => { s with me := { t with pmode := v.getLsbD 1 } }
  | 0x1 => { s with me := { t with code := v.extractLsb' 0 8, sub := v.extractLsb' 8 8 } }
  | 0x2 => { s with me := { t with faddr := v } }
  | 0x3 => { s with me := { t with fobj := v } }
  | 0xB => if (v.extractLsb' 0 3).toNat ≤ 4 then { s with me := { t with frm := v.extractLsb' 0 3 } } else s
  | 0xC => { s with me := { t with fflags := v.extractLsb' 0 6 } }
  | 0xD => { s with me := { t with settleU := t.settleU &&& ~~~(v.extractLsb' 0 16) } }
  | 0xE =>
    let c := s.ctxOf t.ctx
    s.setCtx { c with wpc := (v &&& 0x1F#64) ||| (c.wpc &&& 0xF00#64 &&& ~~~v) }
  | _ => s

/-- The capability write of a register (R18, R125). -/
def State.sysPutCap (s : State) (n : Nat) (v : Cap) : State :=
  let t := s.me
  let c := s.ctxOf t.ctx
  if n = 4 then { s with me := { t with epc := v } }
  else if n = 5 then ({ s with me := { t with ecap := v } }).setCtx { c with ecap := v }
  else ({ s with me := { t with sdef := v } }).setCtx { c with sdef := v }

/-- A scalar write, with the context record (R18, R454). -/
def State.sysWrite (s : State) (n : Nat) (v : W64) : Act :=
  let t := s.sysPut n v
  if n = 0xE then s.putRec t 88 8 (t.ctxOf s.me.ctx).wpc.toNat false else .done t
/-- A capability write, with the context record. -/
def State.sysWriteCap (s : State) (n : Nat) (v : Cap) : Act :=
  let t := s.sysPutCap n v
  if n = 4 then .done t else s.putRec t (if n = 5 then 16 else 32) 16 v.bits.toNat v.tag

/-- ILLEGAL_OP at an instruction of these words (R96). -/
def illegalTrap (w0 w1 : W32) : TrapInfo := mkTrap ccIllegal 0 0 (w0.toNat + w1.toNat * 2 ^ 32)
/-- ILLEGAL_OP raised by a decoded instruction. -/
def illegalOf (i : Instr) : TrapInfo :=
  match encode i with
  | [w0] => illegalTrap w0 0
  | w0 :: w1 :: _ => illegalTrap w0 w1
  | [] => illegalTrap 0 0

/-- The checks of R125, then the access. -/
def sysAccess (i : Instr) (n : BitVec 12) (legal : Bool) (kind : Kind) (o : Opnds) (body : State → Act) (s : State) : Out :=
  if !sysListed n.toNat || !legal then s.raise (illegalOf i)
  else if sysIsH n.toNat && !s.me.mode then s.raise (mkTrap ccPriv 0 0 0)
  else run kind 4 o body s

def execSysr (d : RegF) (n : BitVec 12) (s : State) : Out :=
  sysAccess (.sysr d n) n true .plain { writes := [d] }
    (fun s => let s := s.tickClock n.toNat; .done (s.putReg d (s.sysVal n.toNat))) s
def execSysrC (c : CapF) (n : BitVec 12) (s : State) : Out :=
  sysAccess (.sysrC c n) n (sysIsCap n.toNat) .plain {} (fun s => .done (s.setCreg c (s.sysCap n.toNat))) s
def execSysw (a : RegF) (n : BitVec 12) (s : State) : Out :=
  sysAccess (.sysw a n) n (!sysIsCap n.toNat) .other { reads := [a] }
    (fun s => s.sysWrite n.toNat (s.readReg a)) s
def execSyswC (c : CapF) (n : BitVec 12) (s : State) : Out :=
  sysAccess (.syswC c n) n (sysIsCap n.toNat) .other {} (fun s => s.sysWriteCap n.toNat (s.creg c)) s

/-! ### R126 -/

def execNop (s : State) : Out := run .plain 4 {} (fun s => .done s) s
def execIdent (d : RegF) (s : State) : Out := run .plain 4 { writes := [d] } (fun s => .done (s.putReg d identVal)) s
def execTrap (s : State) : Out := run .other 4 {} (fun s => .raise (mkTrap ccTrap 0 0 0) s) s
def execBrk (s : State) : Out := run .other 4 {} (fun s => .raise (mkTrap ccBreak 0 0 0) s) s
/-- `eret` (R29): handler mode only. -/
def execEret (s : State) : Out := runPriv 4 {} (fun s => .jump s.eret) s

/-- The class counters are all zero. -/
def Strand.idle (t : Strand) : Bool := t.ldc = 0 && t.stc = 0 && t.xpc = 0 && t.tlc = 0
/-- Entries pushed have entered their ports (R207). -/
def Strand.drained (t : Strand) : Bool := t.binds.all fun b => !b.push || b.ents.isEmpty || b.removed

/-- The strand of a slot ends (R126, R154, R300): its Finder and its arm go with it. A task whose last strand has ended by
`halt` completes (R194). -/
def State.endStrand (s : State) (f i : Nat) : State :=
  match s.strandAt f i with
  | none => s
  | some t =>
    let s := ((s.leave t).endFinder f i).updStrand f i fun _ => Strand.empty
    let s := { s with arms := s.arms.filter fun a => !(a.fld = f && a.slot = i)
                      streams := s.streams.filter fun st => st.src ≠ .strand f i
                      others := s.others.filter fun u => u.stat ≠ .free || u.finder }
    if s.strands.any fun u => u.task = t.task then s
    else
      match s.taskOf t.task with
      | some k => match k.phase with
        | .running => s.setTask { k with phase := .finishing 0 }
        | _ => s
      | none => s

/-- `halt` waits for the counters and for pushed entries, then ends the strand. A Finder ends at once (R154). -/
def execHalt (s : State) : Out :=
  if s.me.finder then .next s.finderCount.freeMe
  else if s.me.idle && s.me.drained then .next (s.endStrand s.me.fld s.me.slot)
  else .next s

/-- An operation on the strand of a slot as though it were its turn. -/
def State.asStrand (s : State) (f i : Nat) (g : State → State) : State :=
  if s.me.at f i then g s
  else
    match s.others.find? (·.at f i) with
    | none => s
    | some t =>
      let u := g { s with me := t, others := s.me :: s.others.filter fun x => !x.at f i }
      let mine (x : Strand) : Bool := x.finder = s.me.finder && x.fld = s.me.fld && x.slot = s.me.slot && (s.me.stat ≠ .free || x.stat = .free)
      { u with me := (u.others.find? mine).getD Strand.empty, others := u.me :: u.others.filter fun x => !mine x }

/-- TRAP_ENTRY (R27): a cause held while loads were outstanding is taken once LDC is zero. -/
def execTrapEntry (fld slot : Nat) (s : State) : Out :=
  match s.strandAt fld slot with
  | some t =>
    match t.trap with
    | some k => if t.ldc = 0 && t.stat = .running then .next (s.asStrand fld slot fun s => s.takeTrap k) else .next s
    | none => .next s
  | none => .next s

/-- ILLEGAL_OP (R37, R39): words that are no instruction. -/
def execIllegalOp (w0 w1 : W32) (s : State) : Out := s.raise (illegalTrap w0 (if isHead w0 then w1 else 0))

end Sys2Proof.Machine
end

