-- ==== Sys2Proof/Machine/Sync.lean ====
section
/-!
DEFINITION. Fences, scope entries and control blocks (R281, R293 to R297), barriers and monitors (R298 to R301).
-/
namespace Sys2Proof.Machine

/-- SCOPE_INVALID or nothing, for an instruction that names a scope (R268). -/
def State.scopeFault (s : State) (obj x : Nat) : Option TrapInfo :=
  if (s.ctxOf s.me.ctx).scopeOk x then none else some (scopeTrap ccScope obj x ((s.ctxOf s.me.ctx).gen x))

/-- The sets of a release by an instruction of its own, with those of earlier fences. -/
def State.relAt (s : State) (x : Nat) : List Nat := [s.setOf x]

/-! ### Fences -/

/-- The ordering of a fence at a scope (R261, R293): an acquire makes the last load or atomic one, a release makes the
write-backs now and marks the next store or atomic. -/
def State.fenceOrd (s : State) (ord x : Nat) : Act :=
  match s.scopeFault 0 x with
  | some k => .raise k s
  | none =>
    if s.unperformed then .wait s
    else
      let acq (s : State) : Act :=
        if ordAcq ord then
          match s.acquireFrom s.me.ctx s.myParty (s.setOf x) s.me.lastRels with
          | some t => .done (t.invalidate s.me.ctx s.me.fld (s.setOf x))
          | none => .raise (mkTrap ccSync 0 s.me.lastAt.1 s.me.lastAt.2) s
        else .done s
      if ordRel ord then
        match s.release (s.relAt x) with
        | .wait s => .wait s
        | .raise k s => .raise k s
        | .ok s =>
          let p := (x, (s.ctxOf s.me.ctx).gen x)
          acq { s with me := { s.me with relFence := if s.me.relFence.contains p then s.me.relFence else s.me.relFence ++ [p] } }
      else acq s

def execFence (w : LF) (s : State) : Out := runL w .other {} (fun s => s.fenceOrd w.atOrd w.x.toNat) s

/-- Commands that write media (R294). -/
def mediaWrite (opc : Nat) : Bool := opc = 1 || opc = 4 || opc = 8
/-- The pair number of the device's flush queue at a root port (R294). -/
def flushPair (port : Nat) : Nat := 1024 + port
/-- The root port of a program queue pair (R462). -/
def State.pairPort (s : State) (n : Nat) : Nat :=
  match s.host.nvqb.find? (·.1 = n) with
  | some p => bits p.2.toNat 1 2
  | none => 0

/-- The storage part of a fence (R294): writes of the strand complete, then a Flush of each namespace behind a volatile
cache does. -/
def State.storageFence (s : State) : Act :=
  let me := (s.me.fld, s.me.slot)
  let mine (c : NvCmd) : Bool := c.who = some me
  let asked := s.streams.any fun st => st.src = .strand s.me.fld s.me.slot &&
    st.reqs.any fun r => r.major = 0x2C && r.next < r.total && mediaWrite (fieldLE r.blk 4 1)
  if asked || s.nvcmds.any fun c => mine c && !c.flush && mediaWrite c.opc && !c.done then .wait s
  else
    let fl := s.nvcmds.filter fun c => mine c && c.flush
    if fl.isEmpty then
      let ns := s.me.stWrites.foldl (fun a p =>
        let q := (s.pairPort p.1, p.2)
        if a.contains q || !Config.volatileCache (q.1 * 2 ^ 32 + q.2) then a else a ++ [q]) []
      if ns.isEmpty then .done s
      else
        let cmd (i : Nat) (q : Nat × Nat) : NvCmd :=
          { pair := flushPair q.1, cid := s.ids + i, opc := 0, nsid := q.2, who := some me, ctx := s.me.ctx, flush := true
            swap := none, sqe := [], pins := [], data := [], fld := s.me.fld, party := s.myParty, round := 0, status := 0, done := false }
        .wait { s with ids := s.ids + ns.length, nvcmds := s.nvcmds ++ (ns.zipIdx.map fun p => cmd p.2 p.1) }
    else if fl.any (!·.done) then .wait s
    else
      let s := { s with nvcmds := s.nvcmds.filter fun c => !(mine c && c.flush) }
      match fl.find? (·.status ≠ 0) with
      | some c => .raise (mkTrap ccEngine 0x88 0 (c.status % 2 ^ 16 + (c.pair - 1024) % 4 * 2 ^ 16)) s
      | none => .done s

/-- `fence.ord.st`: the ordering first, then the storage part. -/
def execFenceSt (w : LF) (s : State) : Out :=
  runL w .other {} (fun s =>
    match s.fenceOrd w.atOrd w.x.toNat with
    | .done s => s.storageFence
    | r => r) s

/-! ### Control blocks (R281 to R283): every bind reads memory, so no copy is ever stale. -/

/-- The access that binds one sector of a control block: checked as a synchronising read at its home slice. -/
def State.bindAccess (s : State) (obj off : Nat) : Access :=
  { s.strandAccess obj off 16 .capRead 0 4 with sync := true }

/-- What binding sectors answers. -/
inductive BindRes where
  | ok (s : State) (secs : List (Nat × Bool))
  | wait (s : State)
  | raise (k : TrapInfo) (s : State)

/-- What a strand's access to a sector at its home slice finds there: its own earlier stores have gone before it (R95). -/
def State.ownStores (s : State) (a : Access) : State × WbRes :=
  s.writeBacks (s.l1.filter fun e => e.is a.fld a.ctx a.obj (a.off / 16) && e.dirty ≠ 0)

/-- n sectors bound for a strand, after its earlier accesses to them and what its field's L1 has of them. -/
def State.bindSecs (s : State) (a : Access) : Nat → BindRes
  | 0 => .ok s []
  | n + 1 =>
    if s.behind s.meWho a then .wait s
    else
      match s.ownStores a with
      | (s, .hold c w) => .wait (s.holdAccOnce a c w a.party)
      | (s, .busy) => .wait s
      | (s, _) =>
        match (if a.obj ≥ localObj then s.spPerform a else s.homePerform a) with
        | (s, .val v t _) =>
          match s.bindSecs { a with off := a.off + 16 } n with
          | .ok s r => .ok s ((v, t) :: r)
          | x => x
        | (s, .hold c w) => .wait (s.holdAccOnce a c w a.party)
        | (s, .busy) => .wait s
        | (s, .raise k) => .raise k s

/-- The bytes of bound sectors. -/
def secBytes (l : List (Nat × Bool)) : List Byte := l.flatMap fun p => toBytes 16 p.1

/-! ### Scope entries -/

/-- A descriptor read from its 64 bytes (R265); none where it is invalid. -/
def parseScope (x : Nat) (b : List Byte) : Option Scope :=
  let kind := fieldLE b 0 1
  let e : Scope := { ix := x, kind := kind, gen := 0, pkg := fieldLE b 2 1, smask := fieldLE b 4 4, fmask := fieldLE b 8 16
                     dmask := fieldLE b 24 8 }
  let zero := fieldLE b 1 1 / 64 = 0 && fieldLE b 3 1 = 0 && fieldLE b 32 32 = 0 && e.pkg ≤ 31
  if !zero then none
  else if kind = 1 then (if (e.fmask ≠ 0 || e.smask ≠ 0) && e.dmask = 0 then some e else none)
  else if kind = 2 then (if e.dmask ≠ 0 && e.smask = 0 && e.fmask = 0 then some e else none)
  else none

/-- Some access in flight has captured a generation of an entry: of a strand, of an element, of an engine's request; and so
has a fence whose store is still to come (R261, R268). -/
def State.captured (s : State) (ctx x g : Nat) : Bool :=
  (s.flights.any fun f => f.pending && f.acc.ctx = ctx && f.acc.scope = x && f.acc.gen = g) ||
  (s.strands.any fun t => t.ctx = ctx && t.relFence.contains (x, g)) ||
  (s.slots.any fun q => q.ctx = ctx && q.elems.any fun e => e.captured.any fun k => k.1 = x && k.2.1 = g) ||
  ((s.streams.flatMap (·.reqs)) ++ s.follows).any fun r => r.ctx = ctx && r.x = x && r.gen = g

/-- What a strand's write of some sectors at their home slices answers. -/
inductive PutRes where
  | ok (s : State)
  | wait (hold : Option (Access × Nat × Nat))
  | raise (k : TrapInfo)

/-- Pieces of a block written for a strand, each at its home slice; a stop is before the first. -/
def State.putPieces (s : State) (a : Access) : List (Nat × List Byte) → PutRes
  | [] => .ok s
  | (o, b) :: r =>
    let p := { a with off := o, n := b.length, op := .write (ofBytes b) }
    match (if a.obj ≥ localObj then s.spPerform p else s.storeThrough p) with
    | (t, .val _ _ _) => t.putPieces a r
    | (_, .hold c w) => .wait (some (p, c, w))
    | (_, .busy) => .wait none
    | (_, .raise k) => .raise k

/-- Bytes of one descriptor written through SCOPE_DEF (R295): the checks, the page, the write. The write is the strand's own,
at its home slice, and synchronising: of two `scset` on one entry, one takes effect after the other (log 85). -/
def State.putScope (s : State) (x : Nat) (b : List Byte) (e : Scope) : Act :=
  let c := s.me.sdef
  let o := c.cur + 64 * x
  match checkRange (s.ownObj s.me.fld) c pW o b.length with
  | some k => .raise (capTrap k c o) s
  | none =>
    let a := { s.strandAccess c.obj o 16 (.write 0) 0 4 with sync := true, rel := [] }
    match s.putPieces a ((List.range ((b.length + 15) / 16)).map fun i => (o + 16 * i, (b.drop (16 * i)).take 16)) with
    | .raise k => .raise k s
    | .wait (some (p, y, r)) => .wait (s.holdAccOnce p y r s.myParty)
    | .wait none => .wait s
    | .ok s =>
      let cx := s.ctxOf s.me.ctx
      .done (s.setCtx { cx with scopes := upsert (·.ix = x) e cx.scopes })

def execScset (w : LF) (s : State) : Out :=
  runL w .other {} (fun s =>
    let c := s.creg5 w.a
    let o := dispAddr c w
    let x := w.x.toNat
    match checkCap (s.ownObj s.me.fld) c (pR + pS) o 64 with
    | some k => .raise (capTrap k c o) s
    | none =>
      match s.bindSecs (s.bindAccess c.obj o.toNat) 4 with
      | .wait s => .wait s
      | .raise k s => .raise k s
      | .ok s l =>
        let g := ((s.ctxOf s.me.ctx).gen x + 1) % 64
        match parseScope x (secBytes l) with
        | none => .raise (scopeTrap ccScope c.obj x ((s.ctxOf s.me.ctx).gen x)) s
        | some e =>
          if s.captured s.me.ctx x g then .wait s
          else
            let b := secBytes l
            s.putScope x (b.take 1 ++ [BitVec.ofNat 8 g] ++ b.drop 2) { e with gen := g }) s

def execScget (w : LF) (s : State) : Out :=
  runL w .other { writes := [w.d] } (fun s =>
    let x := w.x.toNat
    let c := s.ctxOf s.me.ctx
    let kind := if x ≤ 4 then 3 else (match c.scope x with
      | some e => e.kind
      | none => 0)
    .done (s.putReg w.d (BitVec.ofNat 64 (kind + c.gen x * 2 ^ 8)))) s

def execScinv (w : LF) (s : State) : Out :=
  runL w .other {} (fun s =>
    let x := w.x.toNat
    let c := s.ctxOf s.me.ctx
    let g := (c.gen x + 1) % 64
    if s.captured s.me.ctx x g then .wait s
    else
      let e := (c.scope x).getD { ix := x, kind := 0, gen := 0, pkg := 0, smask := 0, fmask := 0, dmask := 0 }
      s.putScope x [0, BitVec.ofNat 8 g] { e with kind := 0, gen := g }) s

/-- `cbsync` (R297): no bound copy is kept, so only its checks are left to do. -/
def execCbsync (w : LF) (s : State) : Out :=
  runL w .other {} (fun s =>
    if w.a = 0 && w.imm = 0 then .done s
    else
      let c := s.creg5 w.a
      match checkCap (s.ownObj s.me.fld) c pR (dispAddr c w) 64 with
      | some k => .raise (capTrap k c (dispAddr c w)) s
      | none => .done s) s

/-! ### Barriers and monitors -/

/-- The checks of R298: the right s, 16 bytes aligned to 16, no task-local object, then the scope. -/
def State.checkSync (s : State) (c : Cap) (o : Int) (x : Nat) : Option TrapInfo :=
  match checkCap (s.ownObj s.me.fld) c pS o 16 with
  | some k => some (capTrap k c o)
  | none => if c.obj ≥ localObj then some (capTrap ccCapPerm c o) else s.scopeFault c.obj x

/-- Entries of a dome's table: barriers, and monitors of 16 arms each (R298, R300). -/
def State.entriesAt (s : State) (slice : Nat) (ctx : Option Nat) : Nat :=
  let ok (c : Nat) : Bool := match ctx with
    | some k => c = k
    | none => true
  let arms := s.arms.filter fun a => ok a.ctx && homeSlice a.obj (a.sec * 16) = slice
  let secs := arms.foldl (fun l a => if l.contains (a.ctx, a.obj, a.sec) then l else l ++ [(a.ctx, a.obj, a.sec)]) []
  (s.bars.filter fun b => ok b.ctx && homeSlice b.obj (b.sec * 16) = slice).length +
    (secs.map fun k => ((arms.filter fun a => (a.ctx, a.obj, a.sec) = k).length + 15) / 16).sum

/-- No entry can be created: the table and the context's spill area are full (R298, log 17). -/
def State.tableFull (s : State) (obj off ctx : Nat) : Bool :=
  let sl := homeSlice obj off
  s.entriesAt sl none ≥ 256 && s.entriesAt sl (some ctx) ≥ 4096 + (256 - (s.entriesAt sl none - s.entriesAt sl (some ctx)))

def Bar.is (b : Bar) (ctx obj sec : Nat) : Bool := b.ctx = ctx && b.obj = obj && b.sec = sec
def Arm.is (a : Arm) (ctx obj sec : Nat) : Bool := a.ctx = ctx && a.obj = obj && a.sec = sec

/-- ENGINE of this chapter: FADDR holds the offset (R301). -/
def syncTrap (sub obj off : Nat) : TrapInfo := mkTrap ccEngine sub obj off

/-- The release that an arrival or a signal carries (R299, R300). -/
def State.relNow (s : State) (obj off x : Nat) : Rel :=
  let t := s.tables s.me.ctx s.myParty
  { ctx := s.me.ctx, obj := obj, off := off, n := 16, party := s.myParty, set := s.setOf x, table := t.1 ++ t.2 }

/-- An instruction on a barrier or a monitor: its checks, its release where it has one, then its effect. -/
def syncOp (o : Opnds) (w : LF) (pre : State → Option (Nat → Nat → TrapInfo)) (rel : Bool)
    (body : State → Nat → Nat → Act) (s : State) : Out :=
  runL w .other o (fun s =>
    let c := s.creg5 w.a
    let off := dispAddr c w
    match s.checkSync c off w.x.toNat with
    | some k => .raise k s
    | none =>
      match pre s with
      | some k => .raise (k c.obj off.toNat) s
      | none =>
        if rel then
          match s.release (s.relAt w.x.toNat) with
          | .wait s => .wait s
          | .raise k s => .raise k s
          | .ok s => body s c.obj off.toNat
        else body s c.obj off.toNat) s

/-- The entry is a monitor (R299). -/
def State.isMonitor (s : State) (obj off : Nat) : Bool := s.arms.any (·.is s.me.ctx obj (off / 16))
/-- The barrier of a sector. -/
def State.barAt (s : State) (obj off : Nat) : Option Bar := s.bars.find? (·.is s.me.ctx obj (off / 16))
def State.setBar (s : State) (b : Bar) : State := { s with bars := upsert (·.is b.ctx b.obj b.sec) b s.bars }

/-- Reserved bits set in the operand at and above bit n (R299, R300, R301). -/
def State.badHigh (s : State) (r : RegF) (n : Nat) : Option (Nat → Nat → TrapInfo) :=
  if (s.readReg r).toNat / 2 ^ n ≠ 0 then some (syncTrap 0x83) else none

def execBarinit (w : LF) (s : State) : Out :=
  syncOp { reads := [w.b] } w (fun s => s.badHigh w.b 32) true (fun s obj off =>
    let n := (s.readReg w.b).toNat
    if s.isMonitor obj off then .raise (syncTrap 0x82 obj off) s
    else if n = 0 then .done { s with bars := s.bars.filter fun b => !b.is s.me.ctx obj (off / 16) }
    else
      match s.barAt obj off with
      | some b => .done (s.setBar { b with n := n, a := 0, p := b.p + 1, arrivals := b.arrivals.filter fun r => r.1 ≠ b.p })
      | none =>
        if s.tableFull obj off s.me.ctx then .raise (syncTrap 0x84 obj off) s
        else .done (s.setBar { ctx := s.me.ctx, obj := obj, sec := off / 16, n := n, a := 0, p := 0, arrivals := [] })) s

def execBararr (w : LF) (s : State) : Out :=
  syncOp { writes := [w.d] } w (fun _ => none) true (fun s obj off =>
    if s.isMonitor obj off then .raise (syncTrap 0x82 obj off) s
    else
      match s.barAt obj off with
      | none => .raise (syncTrap 0x81 obj off) s
      | some b =>
        let b' := { b with arrivals := b.arrivals ++ [(b.p, s.relNow obj off w.x.toNat)] }
        let b' := if b.a + 1 = b.n then { b' with a := 0, p := b.p + 1 } else { b' with a := b.a + 1 }
        .done ((s.setBar b').putReg w.d (b.p.setWidth 64))) s

def execBarwait (w : LF) (s : State) : Out :=
  syncOp { reads := [w.b] } w (fun _ => none) false (fun s obj off =>
    if s.isMonitor obj off then .raise (syncTrap 0x82 obj off) s
    else
      match s.barAt obj off with
      | none => .raise (syncTrap 0x81 obj off) s
      | some b =>
        let k : W32 := (s.readReg w.b).setWidth 32
        let d := (b.p - k).toNat
        if 1 ≤ d && d ≤ 2 ^ 31 then
          match s.acquireFrom s.me.ctx s.myParty (s.setOf w.x.toNat) ((b.arrivals.filter (·.1 = k)).map (·.2)) with
          | some t => .done (t.invalidate s.me.ctx s.me.fld (s.setOf w.x.toNat))
          | none => .raise (mkTrap ccSync 0 obj off) s
        else .wait s) s

/-- The strand's arm removed (R300). -/
def State.disarm (s : State) : State :=
  { s with arms := s.arms.filter fun a => !(a.fld = s.me.fld && a.slot = s.me.slot) }

def execMonarm (w : LF) (s : State) : Out :=
  syncOp {} w (fun _ => none) false (fun s obj off =>
    if (s.barAt obj off).isSome then .raise (syncTrap 0x82 obj off) s
    else
      let t := s.disarm
      let here := (t.arms.filter (·.is s.me.ctx obj (off / 16))).length
      if here % 16 = 0 && t.tableFull obj off s.me.ctx then .raise (syncTrap 0x84 obj off) s
      else .done { t with arms := t.arms ++
        [{ ctx := s.me.ctx, obj := obj, sec := off / 16, fld := s.me.fld, slot := s.me.slot, woken := 0, rel := none }] }) s

/-- `monwait` (R300): the outcome of the arm, or of the time limit. -/
def execMonwait (w : LF) (s : State) : Out :=
  runL w .other { reads := [w.b], writes := [w.d] } (fun s =>
    match s.scopeFault 0 w.x.toNat with
    | some k => .raise k s
    | none =>
      let clear (s : State) : State := { s.disarm with me := { s.me with waiting := false, timedOut := false } }
      match s.arms.find? fun a => a.fld = s.me.fld && a.slot = s.me.slot with
      | none => .done (s.putReg w.d 3)
      | some a =>
        if a.woken = 1 then
          match s.acquireFrom s.me.ctx s.myParty (s.setOf w.x.toNat) a.rel.toList with
          | some t => .done ((clear (t.invalidate s.me.ctx s.me.fld (s.setOf w.x.toNat))).putReg w.d 1)
          | none => .raise (mkTrap ccSync 0 a.obj (a.sec * 16)) s
        else if a.woken = 2 then .done ((clear s).putReg w.d 2)
        else if s.me.timedOut then .done ((clear s).putReg w.d 0)
        else .wait { s with me := { s.me with waiting := s.readReg w.b ≠ 0 } }) s

/-- MONWAIT_TIMEOUT (R300): the limit of a strand's `monwait` has passed. -/
def execMonwaitTimeout (fld slot : Nat) (s : State) : Out :=
  match s.strandAt fld slot with
  | some t => if t.waiting then .next (s.updStrand fld slot fun t => { t with timedOut := true }) else .next s
  | none => .next s

/-- Arms woken by a signal: the earliest that is not yet woken, or all of them (R300). -/
def wakeBySignal (hit : Arm → Bool) (all : Bool) (r : Rel) : List Arm → List Arm × Nat
  | [] => ([], 0)
  | a :: l =>
    if hit a && a.woken = 0 then
      let a' := { a with woken := 1, rel := some r }
      if all then let (l', n) := wakeBySignal hit all r l; (a' :: l', n + 1) else (a' :: l, 1)
    else let (l', n) := wakeBySignal hit all r l; (a :: l', n)

def execMonsig (w : LF) (s : State) : Out :=
  syncOp { reads := [w.b], writes := [w.d] } w (fun s => s.badHigh w.b 1) true (fun s obj off =>
    if (s.barAt obj off).isSome then .raise (syncTrap 0x82 obj off) s
    else
      let (arms, n) := wakeBySignal (·.is s.me.ctx obj (off / 16)) (s.readReg w.b = 1) (s.relNow obj off w.x.toNat) s.arms
      .done ({ s with arms := arms }.putReg w.d (BitVec.ofNat 64 n))) s

end Sys2Proof.Machine
end

