-- ==== Sys2Proof/Machine/Tiles.lean ====
section
/-!
DEFINITION. The tile table (R236, R237, R302 to R304), cache control (R305), the object query (R306) and `carve` (R307).
-/
namespace Sys2Proof.Machine

/-! ### Tile table -/

def Field.tile (f : Field) (k : Nat) : Option Tile := f.tiles.find? (·.ix = k)
/-- The number of a tile's state, 4 where it is undefined (R304). -/
def Field.tileCode (f : Field) (k : Nat) : Nat :=
  match f.tile k with
  | none => 4
  | some t => match t.st with
    | .empty => 0
    | .filling => 1
    | .ready => 2
    | .draining => 3
/-- A tile set to a state. -/
def Field.setTile (f : Field) (k : Nat) (st : TileSt) : Field :=
  { f with tiles := f.tiles.map fun t => if t.ix = k then { t with st := st } else t }
/-- The scratchpad capability under which the field's own units reach its scratchpad (R232). -/
def State.myField (s : State) : Field := s.fieldOf s.me.fld

/-- What reading many small pieces answers. -/
inductive ReadRes where
  | ok (s : State) (vs : List Nat)
  | wait (s : State)
  | raise (k : TrapInfo) (s : State)

/-- m loads of n bytes one after another, as the strand's own at a scope. -/
def State.readMany (s : State) (obj off n x : Nat) : Nat → ReadRes
  | 0 => .ok s []
  | m + 1 =>
    if s.behind s.meWho (s.strandAccess obj off n .read 0 x) then .wait s
    else
    let a := s.strandAccess obj off n .read 0 x
    match s.perform a with
    | (s, .val v _ _) =>
      match s.readMany obj (off + n) n x m with
      | .ok s r => .ok s (v :: r)
      | y => y
    | (s, .hold c w) => .wait (s.holdAccOnce a c w s.myParty)
    | (s, .busy) => .wait s
    | (s, .raise k) => .raise k s

/-- TILE_STATE of an entry with its reason (R285). -/
def tileTrap (k why : Nat) : TrapInfo := mkTrap ccTileState 0 0 (k + why * 2 ^ 8)

/-- Two tiles share a byte. -/
def Tile.meets (a b : Tile) : Bool := a.base < b.base + b.len && b.base < a.base + a.len

/-- The checks of R302 over the descriptors, entry by entry; base and len are in 64-byte units. -/
def buildTiles (limit : Nat) (done : List Tile) : List (Nat × Nat) → Except TrapInfo (List Tile)
  | [] => .ok done
  | (v, k) :: r =>
    if v % 2 = 0 then buildTiles limit done r
    else
      let t : Tile := { ix := k, base := bits v 1 17, len := bits v 18 17, st := .empty }
      if v / 2 ^ 35 ≠ 0 then .error (tileTrap k 2)
      else if t.len = 0 || (t.base + t.len) * 64 > limit then .error (tileTrap k 3)
      else if done.any t.meets then .error (tileTrap k 0)
      else buildTiles limit (done ++ [t]) r

def execTcfg (w : LF) (s : State) : Out :=
  runL w .other {} (fun s =>
    let c := s.creg5 w.a
    let o := dispAddr c w
    match checkRange (s.ownObj s.me.fld) c pR o 512 with
    | some k => .raise (capTrap k c o) s
    | none =>
      if o % 8 ≠ 0 then .raise (capTrap ccAlign c o) s
      else
        match (List.range 64).find? (fun k => 1 ≤ s.myField.tileCode k && s.myField.tileCode k ≤ 3) with
        | some k => .raise (mkTrap ccTileBusy 0 0 k) s
        | none =>
          match s.readMany c.obj o.toNat 8 1 64 with
          | .wait s => .wait s
          | .raise k s => .raise k s
          | .ok s vs =>
            match buildTiles (s.myField.nmin * step512) [] vs.zipIdx with
            | .error k => .raise k s
            | .ok ts =>
              let s := s.setField { s.myField with tiles := ts }
              .done { s with
                mem := ts.foldl (fun m t => zeroRange m (spKey s.me.fld (t.base * 64)) (t.len * 64)) s.mem
                tags := s.tags.filter fun q => !ts.any fun t =>
                  spKey s.me.fld (t.base * 64) / 16 ≤ q && q < spKey s.me.fld ((t.base + t.len) * 64) / 16 }) s

def execTrel (w : LF) (s : State) : Out :=
  runL w .other {} (fun s =>
    if s.myField.tiles.any fun t => t.st = .filling || t.st = .draining then .wait s
    else .done (s.setField { s.myField with tiles := [] })) s

def execTstate (w : LF) (s : State) : Out :=
  runL w .other { writes := [w.d] } (fun s =>
    let st := w.immBits 0 3
    .done (s.putReg w.d (BitVec.ofNat 64
      ((List.range 64).foldl (fun m k => if s.myField.tileCode k = st then m + 2 ^ k else m) 0)))) s

def execTwait (w : LF) (s : State) : Out :=
  runL w .other { reads := [w.b] } (fun s =>
    let named := (List.range 64).filter fun k => (s.readReg w.b).getLsbD k
    match named.find? fun k => s.myField.tileCode k = 4 with
    | some k => .raise (tileTrap k 1) s
    | none => if named.all fun k => s.myField.tileCode k = w.immBits 0 2 then .done s else .wait s) s

/-! ### Cache control (R305) -/

/-- The fields of this package whose L1s an instruction at a scope acts in. -/
def State.fieldsOf (s : State) (x : Nat) : List Nat :=
  let set := s.setOf x
  (List.range 128).filter fun f => f = s.me.fld && x = 0 || set &&& fieldBit s.pkg f ≠ 0

/-- The sector overlaps [o, o + L). -/
def L1Sec.within (e : L1Sec) (ctx obj o l : Nat) : Bool :=
  e.ctx = ctx && e.obj = obj && e.sec * 16 < o + l && o < e.sec * 16 + 16

/-- The write-backs of `cwb` and `cinv` in all the L1s of a scope. -/
def State.cacheFlush (s : State) (x obj o l : Nat) : Act :=
  let fs := s.fieldsOf x
  let ds := s.l1.filter fun e => fs.contains e.fld && e.dirty ≠ 0 && e.within s.me.ctx obj o l
  match s.writeBacks ds with
  | (s, .ok) => .done s
  | (s, .hold c w) =>
    match ds.find? fun e => s.translate e.ctx e.obj (e.sec * 16) true = .held c w with
    | some e => .wait (s.holdOnce e.ctx e.obj (e.sec * 16) c w e.wparty)
    | none => .wait s
  | (s, _) => .wait s

/-- The range of an instruction checked, then its effect on a homed object. -/
def cacheOp (w : LF) (rights : State → Nat) (body : State → Nat → Nat → Nat → Act) (s : State) : Out :=
  runL w .other { reads := [w.b] } (fun s =>
    let c := s.creg5 w.a
    let o := dispAddr c w
    let l := (s.readReg w.b).toNat % 2 ^ 48
    match checkRange (s.ownObj s.me.fld) c (rights s) o l with
    | some k => .raise (capTrap k c o) s
    | none =>
      match s.scopeFault c.obj w.x.toNat with
      | some k => .raise k s
      | none => if l = 0 || c.obj ≥ localObj then .done s else body s c.obj o.toNat l) s

def execCwb (w : LF) (s : State) : Out :=
  cacheOp w (fun _ => pR) (fun s obj o l => s.cacheFlush w.x.toNat obj o l) s

/-- The metadata of a range reset (R305, R276). -/
def State.clearRace (s : State) (ctx obj o l : Nat) : State :=
  { s with race := s.race.filter fun r => !(r.ctx = ctx && r.obj = obj && r.sec * 16 < o + l && o < r.sec * 16 + 16) }

def execCinv (w : LF) (s : State) : Out :=
  let md (s : State) : Bool := (s.readReg w.b).getLsbD 48
  cacheOp w (fun s => if md s then pR + pW else pR) (fun s obj o l =>
    match s.cacheFlush w.x.toNat obj o l with
    | .done t =>
      let fs := t.fieldsOf w.x.toNat
      let t := { t with l1 := t.l1.filter fun e => !(fs.contains e.fld && e.within t.me.ctx obj o l) }
      .done (if md s then t.clearRace t.me.ctx obj o l else t)
    | r => r) s

/-- A prefetch of sectors one after another; one that fails is dropped (R305), and so is one for which L1 has no free way
(log 98). -/
def State.prefetch (s : State) (a : Access) : Nat → State
  | 0 => s
  | n + 1 =>
    let t := if (s.l1At a.fld a.ctx a.obj (a.off / 16)).isSome || !s.l1Room a.fld a.ctx a.obj (a.off / 16) then s
      else match s.homePerform a with
        | (t, .val v tag _) => t.l1Put (t.fillSec a v tag none)
        | (t, .raise _) => t
        | _ => s
    t.prefetch { a with off := a.off + 16 } n

def execCpf (w : LF) (s : State) : Out :=
  runL w .load { reads := [w.b] } (fun s =>
    let c := s.creg5 w.a
    let o := dispAddr c w
    let l := min ((s.readReg w.b).toNat % 2 ^ 48) 4096
    if (checkRange (s.ownObj s.me.fld) c pR o l).isSome || (s.scopeFault c.obj w.x.toNat).isSome || l = 0 || c.obj ≥ localObj then
      .done s
    else
      let lo := o.toNat / 64 * 64
      let hi := (o.toNat + l + 63) / 64 * 64
      let a := { s.strandAccess c.obj lo 16 .capRead 0 w.x.toNat with party := noParty, exempt := true }
      .done (s.prefetch a ((hi - lo) / 16))) s

/-! ### Object query -/

/-- The answer of `objq` (R306). -/
def State.objInfo (s : State) (obj sel o : Nat) : W64 :=
  let mount := obj % 8
  let d := s.descAt mount s.me.ctx obj
  let none64 := BitVec.allOnes 64
  if sel = 0 then BitVec.ofNat 64 (obj % 256)
  else if sel > 4 || obj ≥ localObj || s.almanac mount s.me.ctx = 0 || !d.ok obj then none64
  else if sel = 1 then BitVec.ofNat 64 d.npg
  else if sel = 2 then BitVec.ofNat 64 d.flags
  else if o / 65536 ≥ d.npg then none64
  else if sel = 3 then BitVec.ofNat 64 (readLE s.mem (d.entryKey mount (o / 65536)) 8)
  else if d.kind = 0 then 0
  else BitVec.ofNat 64 (readLE s.mem (hbmKey mount (d.side + o / 4096)) 1)

/-- `objq` (R306): a tagged capability and no right; LDC counts it. -/
def execObjq (w : LF) (s : State) : Out :=
  runL w .other { reads := [w.b], loads := [w.d] } (fun s =>
    let c := s.creg5 w.a
    let o := dispAddr c w
    let sel := (s.readReg w.b).toNat
    if !c.tag then .raise (capTrap ccCapTag c o) s
    else if (sel = 3 || sel = 4) && (o < c.base || o ≥ c.top) then .raise (capTrap ccCapBounds c o) s
    else if s.me.full .ld then .wait s
    else if c.obj < localObj && c.obj / 8 % 32 ≠ s.pkg && sel ≠ 0 then .raise (capTrap ccRemote c o) s
    else
      let a := s.strandAccess c.obj o.toNat 8 .read 0 1
      .done (s.addFlight a (s.loadDst w.d) false (.done (s.objInfo c.obj sel o.toNat).toNat false) 0 .ld)) s

/-! ### The scratchpad carve-out -/

/-- 16-byte pieces of an elastic range copied between SRAM and a backing capability (R233); none where the backing is not
there. `off` is the scratchpad offset, `base` the offset that the backing's cursor stands for. -/
def State.elasticCopy (s : State) (ctx f : Nat) (backing : Cap) (base off : Nat) (toBacking : Bool) : Nat → Option State
  | 0 => some s
  | n + 1 =>
    let a : Access := { ctx := ctx, obj := backing.obj, off := backing.cur + (off - base), n := 16, op := .capRead
                        party := noParty, round := 0, sync := false, rel := [], acq := [], scope := 1, gen := 0, fld := f
                        exempt := true, elastic := true }
    let key := spKey f off
    let r : Option State :=
      if toBacking then
        match s.homedAccess { a with op := .capWrite { bits := BitVec.ofNat 128 (readLE s.mem key 16), tag := s.tags.contains (key / 16) } } with
        | (s, .val _ _ _) => some s
        | _ => none
      else
        match s.homedAccess a with
        | (s, .val v t _) => some (s.storeSector key 0 0 off v (2 ^ 16 - 1) t)
        | _ => none
    match r with
    | some s => s.elasticCopy ctx f backing base (off + 16) toBacking n
    | none => none

/-- A record for the first page of a range of a backing object that its port holds (R248). -/
def State.holdPages (s : State) (ctx obj off n : Nat) (wr : Bool) (party : Nat) : State :=
  if obj ≥ localObj then s
  else
    let held (p : Nat) : Option (Nat × Nat × Nat) := match s.translate ctx obj (p * 65536) wr with
      | .held c w => some (p, c, w)
      | _ => none
    match ((List.range ((off + n + 65535) / 65536 - off / 65536)).map (off / 65536 + ·)).findSome? held with
    | some (p, c, w) => s.holdOnce ctx obj (max off (p * 65536)) c w party
    | none => s

/-- Sectors in one step of 512 KiB. -/
def stepSecs : Nat := 32768

/-- A capability to a field's scratchpad object, as `carve` makes it (R307). -/
def scratchCap (own mx : Nat) : Cap :=
  let (g, lo, hi) := findGranule 0 (mx * step512) 47 0
  Cap.make own 0 g lo hi (pR + pW + pA + pE + pD)

/-- Accesses to the field's scratchpad that have been issued and have not performed: of strands, of elements, and of engines
for requests of the field (R307). -/
def State.scratchBusy (s : State) (fld : Nat) : Bool :=
  (s.flights.any fun g => g.pending && g.acc.obj ≥ localObj && g.acc.fld = fld) ||
  (s.slots.any fun q => q.fld = fld && q.elems.any fun e => e.captured.any fun k => k.2.2 ≥ localObj) ||
  ((s.streams.flatMap (·.reqs)).any fun r => r.fld = fld &&
    ((r.pend.any fun p => p.1 ≥ localObj) ||
     s.ports.any fun p => p.obj = (s.fieldOf fld).backing.obj && p.srcs.contains (r.party + 2 ^ 32 * (r.id + 1))))

/-- `carve` (R307). TILE_BUSY names the lowest tile that is not Empty (R285); where every tile is Empty, the lowest that
reaches beyond min (log 86). -/
def execCarve (w : LF) (s : State) : Out :=
  runL w .other { reads := [w.b] } (fun s =>
    let ca := s.creg5 w.a
    let v := (s.readReg w.b).toNat
    let mn := v % 16
    let mx := v / 16 % 16
    let f := s.myField
    let bad : Option Nat :=
      if mn > mx || v / 256 ≠ 0 then some ccCapBounds
      else if mx = mn then none
      else if !ca.tag then some ccCapTag
      else if !ca.has (pR + pW) || ca.obj ≥ localObj then some ccCapPerm
      else if ca.cur < ca.base || ca.cur + (mx - mn) * step512 > ca.top then some ccCapBounds
      else none
    match bad with
    | some k => .raise (if mn > mx || v / 256 ≠ 0 then mkTrap k 0 ca.obj v else capTrap k ca ca.cur) s
    | none =>
      match f.tiles.find? fun t => (t.base + t.len) * 64 > mn * step512 with
      | some t =>
        .raise (mkTrap ccTileBusy 0 0 (((List.range 64).find? fun k => 1 ≤ f.tileCode k && f.tileCode k ≤ 3).getD t.ix)) s
      | none =>
        if s.scratchBusy s.me.fld || f.moving.isSome then .wait s
        else
          let ctx := s.me.ctx
          let n' := max mn (min mx f.n)
          -- the old elastic steps go to the old backing, then the new ones come from the new backing
          match s.elasticCopy ctx s.me.fld f.backing (f.nmin * step512) (f.nmin * step512) true ((f.n - f.nmin) * stepSecs) with
          | none => .wait (s.holdPages ctx f.backing.obj f.backing.cur ((f.n - f.nmin) * step512) true s.myParty)
          | some t =>
            let lo := min f.nmin mn * step512
            let t := { t with mem := zeroRange t.mem (spKey s.me.fld lo) (15 * step512 - lo)
                              tags := t.tags.filter fun q => q < spKey s.me.fld lo / 16 || spKey s.me.fld (15 * step512) / 16 ≤ q }
            match t.elasticCopy ctx s.me.fld ca (mn * step512) (mn * step512) false ((n' - mn) * stepSecs) with
            | none => .wait (s.holdPages ctx ca.obj ca.cur ((n' - mn) * step512) false s.myParty)
            | some t =>
              let t := t.setField { t.myField with n := n', nmin := mn, nmax := mx, backing := if mx = mn then Cap.null else ca }
              let own := if s.ownObj s.me.fld = 0 then localObj else s.ownObj s.me.fld
              .done (t.setCreg (w.d.extractLsb' 0 4) (scratchCap own mx))) s

/-! ### The elastic boundary (R233, R234) -/

/-- ELASTIC_INTERVAL (R234): the rule at the end of an interval. The counts of the sampling sets depend on a replacement
order that the spec leaves open: they are free values (log 18). -/
def execElasticInterval (fld : Nat) (s : State) : Out :=
  let (gl, s) := s.freeVal
  let (ll, s) := s.freeVal
  let f := s.fieldOf fld
  let f' := { f with gl := 0, ll := 0, gs := 0, ls := 0 }
  let gl := 64 * gl.toNat
  let ll := 64 * ll.toNat
  let ls := if f.n ≥ f.nmin + 1 then f.ls else 0
  if f.moving.isSome then .next (s.setField f')
  else if f.n < f.nmax && f.gs ≥ ll + 1024 then .next (s.setField { f' with moving := some true })
  else if f.n > f.nmin && gl ≥ ls + 1024 then .next (s.setField { f' with moving := some false })
  else .next (s.setField f')

/-- The field's L1 emptied before the boundary takes four of its ways: their dirty sectors written back, and invalidated. Which
lines lie in those ways the spec leaves open: all of them are taken to (log 86). None: a port holds a write-back. -/
def State.giveWays (s : State) (fld : Nat) : Except State State :=
  let ds := s.l1.filter fun e => e.fld = fld && e.dirty ≠ 0
  match s.writeBacks ds with
  | (t, .ok) => .ok { t with l1 := t.l1.filter (·.fld ≠ fld) }
  | (t, .hold c w) =>
    match ds.find? fun e => t.translate e.ctx e.obj (e.sec * 16) true = .held c w with
    | some e => .error (t.holdOnce e.ctx e.obj (e.sec * 16) c w e.wparty)
    | none => .error t
  | (t, _) => .error t

/-- BOUNDARY_MOVE_COMPLETE (R233): one step has moved; no value changes. -/
def execBoundaryMoveComplete (fld : Nat) (s : State) : Out :=
  let f := s.fieldOf fld
  let ctx := match s.taskAt fld with
    | some t => t.ctx
    | none => 0
  match f.moving with
  | some true =>
    match s.giveWays fld with
    | .error t => .next t
    | .ok s =>
      match s.elasticCopy ctx fld f.backing (f.nmin * step512) (f.n * step512) false stepSecs with
      | some t => .next (t.setField { t.fieldOf fld with n := f.n + 1, moving := none })
      | none => .next (s.holdPages ctx f.backing.obj (f.backing.cur + (f.n - f.nmin) * step512) step512 false noParty)
  | some false =>
    match s.elasticCopy ctx fld f.backing (f.nmin * step512) ((f.n - 1) * step512) true stepSecs with
    | some t => .next (t.setField { t.fieldOf fld with n := f.n - 1, moving := none })
    | none => .next (s.holdPages ctx f.backing.obj (f.backing.cur + (f.n - 1 - f.nmin) * step512) step512 true noParty)
  | none => .next s

/-! ### L1 probes and evictions -/

/-- L1_PROBE (R272): a copy renewed from the home slice, when it has no dirty byte. -/
def execL1Probe (fld ctx obj sec : Nat) (s : State) : Out :=
  match s.l1At fld ctx obj sec with
  | some e =>
    if e.dirty ≠ 0 then .next s
    else
      match s.devRead16 ctx obj (sec * 16) 16, s.devKey ctx obj (sec * 16) false with
      | some v, some (k, _, _) => .next (s.l1Put { e with
          data := BitVec.ofNat 128 v, tag := s.tags.contains (k / 16), valid := true
          rels := s.rels.filter fun r => r.hits ctx obj sec 0xFFFF })
      | _, _ => .next s
  | none => .next s

/-- EVICTION_WRITE_BACK (R238, R273): a sector leaves L1; a RACE found is kept for its writer. -/
def execEvictionWriteBack (fld ctx obj sec : Nat) (s : State) : Out :=
  match s.l1At fld ctx obj sec with
  | some e =>
    match s.writeBack e with
    | (t, .ok) => .next (t.l1Drop fld ctx obj sec)
    | (t, .race o) => .next ((t.keepRace e o).l1Drop fld ctx obj sec)
    | (_, .hold c w) => .next (s.holdOnce ctx obj (sec * 16) c w e.wparty)
    | (_, .busy) => .next s
  | none => .next s

end Sys2Proof.Machine
end

