-- ==== Sys2Proof/Machine/Service.lean ====
section
/-!
DEFINITION. The fault queue and its consumption (R401 to R403, R407), and the Reticle watchpoints (R421 to R425).
-/
namespace Sys2Proof.Machine

/-- CFG_INVALID with its reason, frame offset and image object (R197). -/
def cfgTrap (why off obj : Nat) : TrapInfo := mkTrap ccCfg 0 obj (why % 2 ^ 8 + off % 2 ^ 48 * 2 ^ 8)

/-! ### Watchpoints -/

/-- `wpset` (R422): checks in the order of R406. -/
def execWpset (c : CapF) (b : RegF) (s : State) : Out :=
  run .other 4 { reads := [b] } (fun s =>
    let x := s.creg c
    let v := (s.readReg b).toNat
    match checkCap (s.ownObj s.me.fld) x pR x.cur 16 with
    | some k => .raise (capTrap k x x.cur) s
    | none =>
      if x.obj ≥ localObj then .raise (capTrap ccCapPerm x x.cur) s
      else if bits v 2 14 ≠ 0 || bits v 32 32 ≠ 0 || bits v 16 16 = 0 then .raise (cfgTrap 0x0B 0 0) s
      else
        let k := v % 4
        let cx := s.ctxOf s.me.ctx
        let wp : Watch := { k := k, obj := x.obj, sec := x.cur / 16, mask := BitVec.ofNat 16 (bits v 16 16) }
        .done (s.setCtx { cx with
          wpc := (cx.wpc ||| BitVec.ofNat 64 (2 ^ k)) &&& ~~~(BitVec.ofNat 64 (2 ^ (8 + k)))
          watches := upsert (·.k = k) wp cx.watches })) s

/-- `wpclr` (R422). -/
def execWpclr (b : RegF) (s : State) : Out :=
  run .other 4 { reads := [b] } (fun s =>
    let v := (s.readReg b).toNat
    let cx := s.ctxOf s.me.ctx
    if v / 8 ≠ 0 then .raise (cfgTrap 0x0B 0 0) s
    else .done (s.setCtx { cx with
      wpc := cx.wpc &&& ~~~(if v / 4 = 1 then 0xF#64 else BitVec.ofNat 64 (2 ^ (v % 4))) })) s

/-! ### The fault queue -/

/-- A record's 64 bytes (R402); its cycle count is a free value (R4, log 16). -/
def Record.bytes (r : Record) (cyc : W64) (seq : Nat) : List Byte :=
  toBytes 1 r.kind ++ toBytes 1 r.cause ++ toBytes 1 r.sub ++ toBytes 1 r.why ++ toBytes 2 r.party ++ toBytes 2 r.tno ++
  toBytes 8 r.loc.toNat ++ toBytes 4 r.obj ++ toBytes 6 r.off ++ toBytes 2 0 ++ toBytes 4 r.cnt ++ toBytes 16 r.det.toNat ++
  toBytes 8 cyc.toNat ++ toBytes 4 seq ++ toBytes 4 0

/-- The location word a record is posted with (R404): a port's carries its token, the low 16 bits of the record's seq. -/
def Record.postLoc (r : Record) (seq : Nat) : W64 :=
  if r.loc.toNat % 8 = 1 then (r.loc &&& ~~~(BitVec.ofNat 64 (0xFFFF * 2 ^ 32))) ||| BitVec.ofNat 64 (seq % 2 ^ 16 * 2 ^ 32) else r.loc

/-- FAULT_RECORD_POST (R401): the oldest record of a context that a unit has to post is written, unless the ring is full
or its header invalid. -/
def execFaultRecordPost (ctx : Nat) (s : State) : Out :=
  match s.posts.find? (·.ctx = ctx), s.fqHeader ctx with
  | some r, some (lgn, wr, rd) =>
    if (wr + 2 ^ 32 - rd) % 2 ^ 32 ≥ 2 ^ lgn then .next s
    else
      let c := (s.ctxOf ctx).fq
      let (cyc, s) := s.freeVal
      let o := fqOff c.cur lgn wr
      -- the port's entry that this record opened: not that of a later record of the same page and cause
      let open_ (p : PortRec) : Bool := r.tells p && p.seq.isNone && (s.posts.filter (·.tells p)).length ≤ 1
      let b := ({ r with loc := r.postLoc wr }).bytes cyc wr
      let s := (List.range 4).foldl (fun s i =>
        s.devWrite ctx c.obj (o + 16 * i) 16 (fieldLE b (16 * i) 16) false) s
      let s := s.devWrite ctx c.obj (c.cur + 4) 4 ((wr + 1) % 2 ^ 32) false
      .next { s with posts := s.posts.erase r
                     ports := s.ports.map fun p => if open_ p then { p with seq := some (BitVec.ofNat 32 wr) } else p }
  | _, _ => .next s

/-- `fltq` (R407): reads and writes b. -/
def execFltq (b : RegF) (s : State) : Out :=
  run .other 4 { reads := [b], writes := [b] } (fun s =>
    let n := (s.readReg b).toNat
    let q := (s.ctxOf s.me.ctx).fq
    if n / 256 ≠ 0 then .raise (cfgTrap 0x0B 0 0) s
    else
      match s.fqHeader s.me.ctx with
      | none => .raise (mkTrap ccEngine 0x91 q.obj q.cur) s
      | some _ =>
        if s.unperformed then .wait s
        else
          match s.performSync (s.strandAccess q.obj q.cur 16 .read 1 4) with
          | (s, .val v _ _, _) =>
            let wr := bits v 32 32
            let rd := bits v 64 32
            let rd' := (rd + min n ((wr + 2 ^ 32 - rd) % 2 ^ 32)) % 2 ^ 32
            let fin (s : State) : Act := .done (s.setSreg b (BitVec.ofNat 64 (wr * 2 ^ 32 + rd')))
            if n = 0 then fin s
            else
              match s.release [arraySet] with
              | .wait s => .wait s
              | .raise k s => .raise k s
              | .ok s =>
                match s.performSync (s.strandAccess q.obj (q.cur + 8) 4 (.write rd') 2 4) with
                | (s, .val _ _ _, _) => fin s
                | (s, .hold c w, _) => .wait (s.holdAccOnce (s.strandAccess q.obj q.cur 16 .read 1 4) c w s.myParty)
                | (s, .busy, _) => .wait s
                | (s, .raise k, _) => .raise k s
          | (s, .hold c w, _) => .wait (s.holdAccOnce (s.strandAccess q.obj q.cur 16 .read 1 4) c w s.myParty)
          | (s, .busy, _) => .wait s
          | (s, .raise k, _) => .raise k s) s

end Sys2Proof.Machine
end

