-- ==== Sys2Proof/Machine/Regions.lean ====
section
/-!
DEFINITION. Launching regions (R195 to R205): region words, installs and partial images, start, switch, stop and drop,
status, marks and rounds.
-/
namespace Sys2Proof.Machine

/-! ### Region words (R195) -/

/-- CFG_INVALID without an image (R197). -/
def cfgInv (why : Nat) : TrapInfo := cfgTrap why 0 0

/-- The strand's task. -/
def State.myTask (s : State) : Option Task := s.taskOf s.me.task
/-- The field of a task-relative number (R192). -/
def State.taskField (s : State) (n : Nat) : Option Nat := s.myTask.bind fun t => t.fields[n]?

/-- Field and slot that a region word names; none for a reserved bit or a field beyond nf (R197 reason 0x0B). -/
def State.regionWord (s : State) (v : W64) : Option (Nat × Nat) :=
  if bits v.toNat 8 56 ≠ 0 then none else (s.taskField (bits v.toNat 0 6)).map fun f => (f, bits v.toNat 6 2)

/-- Work in progress on a slot (R196). -/
def Slot.pending (sl : Slot) : Bool := sl.pend ≠ .none
/-- The fields of a slot's region. -/
def Slot.fieldsOf (sl : Slot) : List Nat := (List.range sl.nsec).map (sl.f0 + ·)
/-- The other slots of the same fields. -/
def State.rivals (s : State) (sl : Slot) : List Slot := s.slots.filter fun e => (sl.fieldsOf).contains e.fld && e.idx ≠ sl.idx

/-- Every section's slot of a region rewritten. -/
def State.mapRegion (s : State) (sl : Slot) (g : Slot → Slot) : State :=
  { s with slots := s.slots.map fun e => if e.f0 = sl.f0 && e.idx = sl.idx then g e else e }

/-- A source (R176), or a generator that sends without being one. -/
def Elem.isSource (e : Elem) : Bool := !e.sw && (e.rs || (e.isA && e.op ≤ 2))

/-- A monitor arm of a saved task stays in its table under a number that no field has (R411), and so do the releases in its
scratchpads, the commands of its strands and the saves that they have asked for. -/
def parkedField (tno j : Nat) : Nat := 1024 + 32 * tno + j

/-- XPC of the strand that an operation counts for goes down (R215), in its saved task where that has been saved meanwhile. -/
def State.xpDown (s : State) (o : Option (Nat × Nat)) : State :=
  match o with
  | some (f, i) =>
    if f < 1024 then s.updStrand f i (·.down .xp)
    else { s with saved := s.saved.map fun v =>
             { v with strands := v.strands.map fun t => if parkedField v.tno t.fld = f && t.slot = i then t.down .xp else t } }
  | none => s

/-! ### Hand-offs (R469) -/

/-- What starting a party needs: every earlier access has performed, and the start record. -/
inductive HandRes where
  | ok (s : State) (start : List Nat)
  | wait (s : State)
  | raise (k : TrapInfo) (s : State)

def State.handoff (s : State) : HandRes :=
  let (t, st) := s.tables s.me.ctx s.myParty
  let start := addParties [s.myParty] (t ++ st)
  if start.length > 64 then .raise (mkTrap ccSync 0 0 0) s
  else
    match s.release [arraySet] with
    | .ok s => .ok s start
    | .wait s => .wait s
    | .raise k s => .raise k s

/-! ### Start (R141, R153, R201) -/

/-- An element at the start of its region: its round, and the ramp (R153). -/
def Elem.begin (e : Elem) (first : W32) (ramped : Bool) : Elem :=
  { e with rin := Vector.replicate 4 first, round := first, closing := if e.isSource then false else e.closing, hold := false
           tok := if e.isSource then 0 else e.tok, ramped := ramped }

/-- The sources of a region in the order of R153: section by section, by site. -/
def State.rampOrder (s : State) (sl : Slot) : List (Nat × Nat) :=
  let key (q : Slot) (e : Elem) : Nat × Nat := (q.fld, e.site)
  let l := (s.region sl).flatMap fun q => (q.elems.filter fun e => e.rs && !e.sw).map (key q)
  l.mergeSort fun a b => a.1 < b.1 || (a.1 = b.1 && a.2 ≤ b.2)

/-- Source number i may send at once: floor(i × Rc / n) = 0. -/
def State.rampNow (s : State) (sl : Slot) (f site : Nat) : Bool :=
  let l := s.rampOrder sl
  let rc := ((sl.frames.head?).map hRamp).getD 0
  let i := l.idxOf (f, site)
  i ≥ l.length || i * rc < l.length

/-- The region runs (R201): capability table, first round, ramp, start record. -/
def State.startRegion (s : State) (sl : Slot) (caps : List Cap) (start : List Nat) : State :=
  let first := (s.ctxOf sl.ctx).round
  let opn := s.openRound sl.ctx
  s.mapRegion sl fun q =>
    { q with st := .running, pend := .none, owner := none, capTab := caps, round0 := first, table := [], tabRound := opn
             start := start, dead := false
             elems := q.elems.map fun e => e.begin first (e.sw || !e.rs || s.rampNow sl q.fld e.site) }

/-- The capability table that a strand gives a region (R201). -/
def State.tableOf (s : State) : List Cap := (List.range 8).map fun i => s.me.caps.toList.getD (8 + i) Cap.null

/-- Sources close their round as `mark` makes it, and then hold (R202). -/
def State.haltRegion (s : State) (sl : Slot) (p : Pend) (owner : Option (Nat × Nat)) : State :=
  s.mapRegion sl fun q =>
    { q with pend := p, owner := owner, elems := q.elems.map fun e =>
      if e.isSource then { e with closing := !e.ended, hold := true } else e }

/-- The checks that `rgrun` and `cfgsw` share (R201): the slot, ready to run. -/
inductive SlotRes where
  | ok (sl : Slot)
  | wait
  | raise (k : TrapInfo)

def State.readySlot (s : State) (v : W64) : SlotRes :=
  match s.regionWord v with
  | none => .raise (cfgInv 0x0B)
  | some (f, i) =>
    let sl := s.slotOf f i
    if sl.pending || (s.rivals sl).any Slot.pending then .wait
    else if sl.why ≠ 0 then .raise (cfgTrap sl.why sl.whyOff sl.img.obj)
    else if sl.st ≠ .installed then .raise (cfgInv 0x0A)
    else if sl.sidx ≠ 0 then .raise (cfgInv 0x0B)
    else .ok sl

def execRgrun (a : RegF) (s : State) : Out :=
  run .other 4 { reads := [a] } (fun s =>
    match s.readySlot (s.readReg a) with
    | .raise k => .raise k s
    | .wait => .wait s
    | .ok sl =>
      if (s.rivals sl).any (·.st = .running) then .raise (cfgInv 0x0A) s
      else
        match s.handoff with
        | .wait s => .wait s
        | .raise k s => .raise k s
        | .ok s start => .done ((s.startRegion sl s.tableOf start).syncRounds)) s

/-- `cfgsw` (R201): the running slots are stopped first; the capability table and the start record wait in the slot. -/
def execCfgsw (a : RegF) (s : State) : Out :=
  run .other 4 { reads := [a] } (fun s =>
    match s.readySlot (s.readReg a) with
    | .raise k => .raise k s
    | .wait => .wait s
    | .ok sl =>
      if s.me.full .xp then .wait s
      else
        match s.handoff with
        | .wait s => .wait s
        | .raise k s => .raise k s
        | .ok s start =>
          let caps := s.tableOf
          let s := s.mapRegion sl fun q => { q with pend := .switch, owner := some (s.me.fld, s.me.slot), capTab := caps, start := start }
          let run := ((s.rivals sl).filter (·.st = .running)).map fun q => s.slotOf q.f0 q.idx
          .done ((run.foldl (fun s q => s.haltRegion q .stop none) s).up .xp)) s

/-- SWITCH_COMPLETE (R201): every other slot of the fields has drained. -/
def execSwitchComplete (fld slot : Nat) (s : State) : Out :=
  let sl := s.slotOf fld slot
  if sl.pend = .switch && sl.sidx = 0 && !((s.rivals sl).any (·.st = .running)) then
    .next (((s.startRegion sl sl.capTab sl.start).xpDown sl.owner).syncRounds)
  else .next s

/-- RAMP_RELEASE (R153): the ramp lets a source send. -/
def execRampRelease (fld site : Nat) (s : State) : Out :=
  match s.fxAt fld site false fun e => !e.ramped with
  | some x => .next (s.setElem x.sl.fld x.sl.idx { x.e with ramped := true })
  | none => .next s

/-! ### Stop and drop (R202, R203) -/

/-- The element has nothing under way; what a receiving circuit end holds stays for the next start (R448). -/
def State.quietElem (s : State) (sl : Slot) (e : Elem) : Bool :=
  let circuit := e.isCircuit && e.isRecv
  let sent := !(e.isCircuit && !e.isRecv) || (match ({ s := s, sl := sl, e := e } : Fx).peer with
    | some (_, r) => r.outq.isEmpty
    | none => true)
  e.stall.isNone && (circuit || e.outq.isEmpty) && !e.busy && e.got.toList.all (·.isEmpty) && e.words.isEmpty
    && e.vals.toList.all (·.isEmpty) && sent && (!e.isSource || e.ended || (e.hold && !e.closing))
    && !(s.streams.any fun st => st.src = .elem sl.fld sl.idx e.site && !st.reqs.isEmpty)

/-- A channel of a region. -/
def Slot.owns (sl : Slot) (c : Chan) : Bool := c.slot = sl.idx && (sl.fieldsOf).contains c.src.fld

/-- Every element has passed its last marker and holds no open value, and every channel is empty (R202). -/
def State.quiet (s : State) (sl : Slot) : Bool :=
  ((s.region sl).all fun q => q.elems.all (s.quietElem q)) && (s.chans.all fun c => !sl.owns c || c.q.isEmpty)

def execRgstop (a : RegF) (s : State) : Out :=
  run .other 4 { reads := [a] } (fun s =>
    match s.regionWord (s.readReg a) with
    | none => .raise (cfgInv 0x0B) s
    | some (f, i) =>
      let sl := s.slotOf f i
      if sl.pending then .wait s
      else if sl.st ≠ .running then .raise (cfgInv 0x0A) s
      else if s.me.full .xp then .wait s
      else .done (((s.haltRegion sl .stop (some (s.me.fld, s.me.slot))).up .xp).syncRounds)) s

/-- STOP_COMPLETE (R202). -/
def execStopComplete (fld slot : Nat) (s : State) : Out :=
  let sl := s.slotOf fld slot
  if sl.pend = .stop && sl.sidx = 0 && s.quiet sl then
    .next (((s.mapRegion sl fun q => { q with st := .installed, pend := .none, owner := none }).xpDown sl.owner).syncRounds)
  else .next s

/-- The bindings of kind 0 to a slot's ports become removed (R203, R17). -/
def State.unbindSlot (s : State) (sl : Slot) : State :=
  let f (t : Strand) : Strand := { t with binds := t.binds.map fun b =>
    if (sl.fieldsOf.contains t.fld && (!b.kind1) && b.slot = sl.idx) then { b with removed := true } else b }
  { s with me := f s.me, others := s.others.map f }

/-- A region's slots emptied: its frames, tiles and status words are gone, and fills that have not performed end (R203, R211).
What a failed partial image recorded stays until the slot next starts an install (R197). -/
def State.dropRegion (s : State) (sl : Slot) : State :=
  let s := s.unbindSlot sl
  let mine (p : Fill) : Bool := (sl.fieldsOf).contains p.fld && p.slot = sl.idx
  let s := (s.fills.filter mine).foldl (fun s p => s.updStrand p.fld p.owner (·.down .tl)) s
  { s with chans := s.chans.filter fun c => !sl.owns c
           fills := s.fills.filter fun p => !mine p
           slots := s.slots.map fun e =>
             if e.f0 = sl.f0 && e.idx = sl.idx then
               { Slot.blank e.fld e.idx with lateRace := e.lateRace, tabRound := e.tabRound, why := e.why, whyOff := e.whyOff, img := e.img }
             else e }

def execCfgdrop (a : RegF) (s : State) : Out :=
  run .other 4 { reads := [a] } (fun s =>
    match s.regionWord (s.readReg a) with
    | none => .raise (cfgInv 0x0B) s
    | some (f, i) =>
      let sl := s.slotOf f i
      if sl.pending then .wait s
      else match sl.st with
        | .running => .raise (cfgInv 0x0A) s
        | .installed => .done (s.dropRegion sl)
        | _ => .done s) s

/-! ### Installs (R200) -/

/-- The checks that `cfgld` and `cfgpart` make at once. -/
def State.cfgArgs (s : State) (c : Cap) (v : W64) : Sum TrapInfo Slot :=
  match checkCap (s.ownObj s.me.fld) c pC c.cur 32 with
  | some k => .inl (capTrap k c c.cur)
  | none =>
    match s.regionWord v with
    | none => .inl (cfgTrap 0x0B 0 c.obj)
    | some (f, i) => .inr (s.slotOf f i)

def execCfgld (c : CapF) (b : RegF) (s : State) : Out :=
  run .other 4 { reads := [b] } (fun s =>
    let img := s.creg c
    match s.cfgArgs img (s.readReg b) with
    | .inl k => .raise k s
    | .inr sl =>
      if sl.pending then .wait s
      else if sl.st ≠ .empty then .raise (cfgTrap 0x0A 0 img.obj) s
      else if s.me.full .xp then .wait s
      else
        .done ((s.setSlot { Slot.blank sl.fld sl.idx with
          st := .installing, pend := .read, owner := some (s.me.fld, s.me.slot), img := img, ctx := s.me.ctx
          lateRace := sl.lateRace }).up .xp)) s

def execCfgpart (c : CapF) (b : RegF) (s : State) : Out :=
  run .other 4 { reads := [b] } (fun s =>
    let img := s.creg c
    match s.cfgArgs img (s.readReg b) with
    | .inl k => .raise k s
    | .inr sl =>
      if sl.pending then .wait s
      else if sl.why ≠ 0 then .raise (cfgTrap sl.why sl.whyOff sl.img.obj) s
      else if sl.st ≠ .installed && sl.st ≠ .running then .raise (cfgTrap 0x0A 0 img.obj) s
      else if s.me.full .xp then .wait s
      else .done ((s.setSlot { sl with pend := .part, owner := some (s.me.fld, s.me.slot), img := img }).up .xp)) s

/-- The install ends in failure: reason and offset are recorded (R197). -/
def State.installFails (s : State) (sl : Slot) (why k : Nat) (drop : Bool) : State :=
  let off := if why ≤ 0x0A || 0x10 ≤ why then sl.img.cur + 32 * k else 0
  let e := if drop then { Slot.blank sl.fld sl.idx with lateRace := sl.lateRace } else { sl with pend := .none, owner := none }
  (s.setSlot { e with why := why, whyOff := off, img := sl.img }).xpDown sl.owner

/-- A race that a frame read found goes to the strand that issued the install (log 19). -/
def State.frameRace (s : State) (sl : Slot) (k : TrapInfo) (drop : Bool) : State :=
  let s := match sl.owner with
    | some (f, i) => s.updStrand f i fun t => match t.trap with
      | some _ => t
      | none => { t with trap := some k }
    | none => s
  let e := if drop then { Slot.blank sl.fld sl.idx with lateRace := sl.lateRace } else { sl with pend := .none, owner := none }
  (s.setSlot e).xpDown sl.owner

/-- The run of sections lies within the task and in one dome (R195, R200). -/
def State.sectionsOk (s : State) (f nsec : Nat) : Bool :=
  match s.taskAt f with
  | some t => (List.range nsec).all fun i => (f + i) / 4 = f / 4 && t.fields.contains (f + i)
  | none => nsec = 1

/-- A circuit end is registered already for the context, or twice in the image (R448). -/
def State.circuitTaken (s : State) (ctx : Nat) (secs : List Sect) : Bad :=
  let ends := secs.flatMap fun q => q.body.filter fun p => isCircuitFrame p.2
  let key (f : Frame) : Bool × Nat := (isRecvFrame f, fb f 214 8)
  let held := (s.slots.filter fun sl => sl.ctx = ctx && sl.st ≠ .empty).flatMap fun sl =>
    (sl.elems.filter Elem.isCircuit).map fun e => (e.isRecv, e.cid)
  badIn (fun p => badIf (held.contains (key p.2) || (ends.filter fun q => key q.2 = key p.2).length > 1) 0x06 p.1) ends

/-- Reads an image for a slot as its owner does (R200). -/
def State.readImage (s : State) (sl : Slot) : ImgRes :=
  let (f, i) := sl.owner.getD (sl.fld, 0)
  s.readSects f i sl.ctx sl.img 4 none 0 0

/-- CFGLD_INSTALL (R200): the frames are read and checked; a good image's sections take their slots. -/
def execCfgldInstall (fld slot : Nat) (s : State) : Out :=
  let sl := s.slotOf fld slot
  if sl.pend ≠ .read then .next s
  else
    match s.readImage sl with
    | .wait s => .next s
    | .race k => .next (s.frameRace sl k true)
    | .fail s why k => .next (s.installFails sl why k true)
    | .ok s secs =>
      let n := secs.length
      if !s.sectionsOk fld n then .next (s.installFails sl 0x0B 0 true)
      else if (List.range n).any fun i => i ≠ 0 && (s.slotOf (fld + i) slot).st ≠ .empty then .next (s.installFails sl 0x0A 0 true)
      else
        match firstBad [checkImage slot secs, s.circuitTaken sl.ctx secs] with
        | some (why, k) => .next (s.installFails sl why k true)
        | none =>
          .next (secs.zipIdx.foldl (fun s (q, i) =>
            let old := s.slotOf (fld + i) slot
            s.setSlot { (if i = 0 then sl else { Slot.blank (fld + i) slot with lateRace := old.lateRace }) with
              st := .installing, pend := .install, owner := if i = 0 then sl.owner else none, img := sl.img, ctx := sl.ctx
              f0 := fld, nsec := n, sidx := i, frames := q.hdr.2 :: q.body.map (·.2) }) s)

/-- The sections that a region's slots hold. -/
def State.heldSects (s : State) (sl : Slot) : List Sect :=
  ((List.range sl.nsec).map fun i => s.slotOf (sl.f0 + i) sl.idx).map fun q =>
    let l := q.frames.zipIdx.map fun p => (p.2, p.1)
    { hdr := l.headD (0, 0), body := l.drop 1 }

/-- INSTALL_COMPLETE (R152, R162): the frames are written; status words and tiles read zero where nothing fills them. -/
def execInstallComplete (fld slot : Nat) (s : State) : Out :=
  let sl := s.slotOf fld slot
  if sl.pend ≠ .install || sl.sidx ≠ 0 then .next s
  else
    let secs := s.heldSects sl
    let cs := imageChans secs sl.f0 sl.idx s.ids
    let s := { s with chans := s.chans ++ cs, ids := s.ids + cs.length }
    let s := s.mapRegion sl fun q => { q with
      st := .installed, pend := .none, owner := none, elems := sectElems ((secs[q.sidx]?.map (·.body)).getD []) }
    .next (s.xpDown sl.owner)

/-! ### Partial images (R163) -/

/-- An element takes a new frame, with the register words that come with it. The spec does not say what becomes of the counts of
its rounds and tokens nor of a register that tile data names in part: the counts (`agmod`'s i, nr, a source that has ended) begin
anew, and the named register holds the words given and zeros (log 87, DESIGN CHOICE). -/
def takeFrame (body : List FrameAt) (e : Elem) : Elem :=
  if e.sw then e
  else
    let w := ((body.find? fun p => isElemFrame p.2 && fSite p.2 = e.site).map (·.2))
    let ta := tileWords body e.site 0
    let tl := tileWords body e.site 1
    let e := match w with
      | some w => { e with word := w, status := 0, tok := 0, tokAll := 0, rounds := 0, ended := false, cnt := 0, nval := 0 }
      | none => e
    let e := if ta.isEmpty then e else { e with tileA := ta }
    if tl.isEmpty then e else { e with tileL := tl, filled := e.fillCount, lfull := true }

/-- A section's frames with some replaced. -/
def replaceFrames (old : List Frame) (body : List Frame) : List Frame :=
  old.map fun f => if isElemFrame f then (body.find? fun g => isElemFrame g && fSite g = fSite f).getD f else f

def atIndex (l : List Frame) : List FrameAt := l.map fun f => (0, f)

/-- The highest round that a source of a region is in (R163). -/
def State.topRound (s : State) (sl : Slot) : W32 :=
  (s.sourcesOf sl).foldl (fun a e => let d := (e.srcRound - a).toNat; if 0 < d && d < 2 ^ 31 then e.srcRound else a)
    (((s.sourcesOf sl).head?.map Elem.srcRound).getD sl.round0)

/-- CFGPART_APPLY (R200, R163): replaced at once in an Installed slot; a Running one begins to drain. The image may have fewer
sections than the region; one that reaches the slot of another region is refused with 0x0A (log 93). -/
def execCfgpartApply (fld slot : Nat) (s : State) : Out :=
  let sl := s.slotOf fld slot
  if sl.pend ≠ .part then .next s
  else
    match s.readImage sl with
    | .wait s => .next s
    | .race k => .next (s.frameRace sl k false)
    | .fail s why k => .next (s.installFails sl why k false)
    | .ok s secs =>
      let n := secs.length
      let slots := (List.range n).map fun i => s.slotOf (fld + i) slot
      if !s.sectionsOk fld n then .next (s.installFails sl 0x0B 0 false)
      else if slots.any fun q => (q.st ≠ .installed && q.st ≠ .running) || q.f0 ≠ sl.f0 then .next (s.installFails sl 0x0A 0 false)
      else
        match checkPartial slot secs (slots.map (·.frames)) (s.chans.filter (·.slot = slot)) fld with
        | some (why, k) => .next (s.installFails sl why k false)
        | none =>
          let body (q : Slot) : List Frame :=
            if q.fld < fld then [] else ((secs[q.fld - fld]?).map fun x => x.body.map (·.2)).getD []
          if sl.st = .installed then
            .next ((s.mapRegion sl fun q => { q with
              pend := .none, owner := none, frames := replaceFrames q.frames (body q)
              elems := q.elems.map (takeFrame (atIndex (body q))) }).xpDown sl.owner)
          else
            let k := s.topRound sl
            .next (s.mapRegion sl fun q => { q with pend := .partDrain, fresh := body q, drainK := k
                                                    owner := if q.sidx = 0 then sl.owner else none })

/-- r lies after k, modulo 2^32. -/
def roundAfter (r k : W32) : Bool := let d := (r - k).toNat; 0 < d && d < 2 ^ 31

/-- The element has sent marker k on every output and holds no open value. -/
def Fx.passed (x : Fx) (k : W32) : Bool :=
  x.e.stall.isNone && x.e.outq.isEmpty && !x.e.busy && x.e.got.toList.all (·.isEmpty) &&
  (x.inPorts.all fun i => roundAfter (x.e.rinAt i) k) && (!x.e.isSource || x.e.ended || roundAfter x.e.round k)

/-- PARTIAL_FRAME_TAKE (R163). -/
def execPartialFrameTake (fld slot site : Nat) (s : State) : Out :=
  let sl := s.slotOf fld slot
  match sl.elems.find? fun e => e.at site false with
  | none => .next s
  | some e =>
    let mine := sl.fresh.filter fun f => fSite f = site
    let x : Fx := { s := s, sl := sl, e := e }
    if sl.pend = .partDrain && !mine.isEmpty && x.passed sl.drainK then
      .next (s.setSlot { (sl.setElem (takeFrame (atIndex mine) e)) with
        fresh := sl.fresh.filter fun f => fSite f ≠ site, frames := replaceFrames sl.frames mine })
    else .next s

/-- PARTIAL_DRAIN_COMPLETE (R163): every named element has its frame; the sources go on with round k + 1. -/
def execPartialDrainComplete (fld slot : Nat) (s : State) : Out :=
  let sl := s.slotOf fld slot
  if sl.pend = .partDrain && sl.sidx = 0 && (s.region sl).all (·.fresh.isEmpty) then
    .next ((s.mapRegion sl fun q => { q with pend := .none, owner := none, kp := sl.drainK }).xpDown sl.owner)
  else .next s

/-! ### Status, marks and rounds (R204, R205) -/

def Slot.stCode (sl : Slot) : Nat := match sl.st with
  | .empty => 0
  | .installing => 1
  | .installed => 2
  | .running => 3

/-- The slot state word (R204). -/
def State.slotWord (s : State) (sl : Slot) : Nat :=
  sl.stCode + sl.pending.toNat * 4 + ((s.region sl).any fun q => q.elems.any (·.stall.isSome)).toNat * 8
    + sl.why * 2 ^ 8 + sl.kp.toNat * 2 ^ 16

/-- The status word of a site's element or router (R169). -/
def Slot.status (sl : Slot) (site : Nat) (sw : Bool) : W32 :=
  (sl.elems.filter fun e => e.at site sw).foldl (fun a e => a ||| e.status) 0

/-- The item that `rgstat` selects; where the spec gives none, a free value. -/
def State.rgItem (s : State) (sl : Slot) (q : Slot) (sel site : Nat) : W64 × State :=
  match sel with
  | 0 => (BitVec.ofNat 64 (s.slotWord sl), s)
  | 1 => (BitVec.ofNat 64 sl.whyOff, s)
  | 2 => ((q.status site false).setWidth 64, s)
  | 3 => ((q.status site true).setWidth 64, s)
  | 4 => ((s.fieldOf q.fld).replays.setWidth 64, s)
  | 5 => let f := s.fieldOf sl.fld; (f.finDropped ++ f.finIssued, s)
  | _ =>
    match (s.sourcesOf sl).map Elem.srcRound with
    | [] => s.freeVal
    | r :: rs => ((rs.foldl (fun a r => if roundAfter a r then r else a) r).setWidth 64, s)

def execRgstat (d a : RegF) (s : State) : Out :=
  run .other 4 { reads := [a], writes := [d] } (fun s =>
    let v := (s.readReg a).toNat
    let sel := bits v 8 4
    let sec := bits v 12 2
    match (if bits v 22 42 ≠ 0 then none else s.taskField (bits v 0 6)), s.taskField (bits v 0 6 + sec) with
    | none, _ | _, none => .raise (cfgInv 0x0B) s
    | some f, some g =>
      let sl := s.slotOf f (bits v 6 2)
      let nsec := if sl.st = .empty then 1 else sl.nsec
      if sel ≥ 7 || (sec ≠ 0 && sec ≥ nsec) then .raise (cfgInv 0x0B) s
      else
        let (r, s) := s.rgItem sl (s.slotOf g sl.idx) sel (bits v 14 8)
        .done (s.putReg d r)) s

def execMark (a : RegF) (s : State) : Out :=
  run .other 4 { reads := [a] } (fun s =>
    match s.regionWord (s.readReg a) with
    | none => .raise (cfgInv 0x0B) s
    | some (f, i) =>
      let sl := s.slotOf f i
      if sl.pending then .wait s
      else if sl.st ≠ .running then .raise (cfgInv 0x0A) s
      else .done (s.mapRegion sl fun q => { q with elems := q.elems.map fun e =>
        if e.isSource && !e.ended then { e with closing := true } else e })) s

/-- `rwait` (R205): the round lies before ROUND, and it is complete (R260). -/
def execRwait (a : RegF) (s : State) : Out :=
  run .other 4 { reads := [a] } (fun s =>
    let v := s.readReg a
    let r : W32 := v.setWidth 32
    let c := s.ctxOf s.me.ctx
    let before (n : W32) : Bool := let d := (n - r).toNat; 1 ≤ d && d ≤ 2 ^ 31
    if v.toNat ≥ 2 ^ 32 then .raise (cfgInv 0x0B) s
    else if before c.round && before c.openRound then .done s
    else .wait s) s

/-- The element has passed marker j. -/
def State.elemPast (s : State) (sl : Slot) (e : Elem) (j : W32) : Bool :=
  let x : Fx := { s := s, sl := sl, e := e }
  e.ended || ((x.inPorts.all fun i => roundAfter (e.rinAt i) j) && (!e.isSource || roundAfter e.round j) &&
    !(e.outq.any fun p => p.2 = markBeat false j || p.2 = markBeat true j))

/-- ROUND_COMPLETE (R260): ROUND is past the open round, every element has passed its marker and every access and request
of it is done; its dirty sectors are written back, and a RACE among them is delivered (R273, R274). -/
def execRoundComplete (ctx : Nat) (s : State) : Out :=
  let c := s.ctxOf ctx
  let j := c.openRound
  let running := s.slots.filter fun sl => sl.st = .running && sl.ctx = ctx
  if roundAfter c.round j && (running.all fun sl => sl.elems.all fun e => s.elemPast sl e j)
      && !(s.flights.any fun f => f.acc.ctx = ctx && f.acc.round = j && f.pending)
      && !(s.streams.any fun st => st.reqs.any fun r => r.ctx = ctx && r.round = j) then
    let ds := s.l1.filter fun e => e.ctx = ctx && e.dirty ≠ 0 && e.wround = j
    match s.writeBacks ds with
    | (s, .ok) =>
      let give (t : Strand) : Strand := match t.lateRace, t.trap with
        | some k, none => if t.ctx = ctx then { t with trap := some k, lateRace := none } else t
        | _, _ => t
      let s := s.setCtx { s.ctxOf ctx with openRound := j + 1 }
      .next { s with me := give s.me, others := s.others.map give }
    | (s, .hold x w) =>
      match ds.find? fun e => s.translate e.ctx e.obj (e.sec * 16) true = .held x w with
      | some e => .next (s.holdOnce e.ctx e.obj (e.sec * 16) x w e.wparty)
      | none => .next s
    | (s, _) => .next s
  else .next s

/-! ### Stationary tiles (R211) -/

/-- A tile word is well formed: no reserved bit, and a compute site (R199 item 2). -/
def tileWordOk (v : Nat) : Bool :=
  let site := bits v 0 8
  bits v 20 44 = 0 && site < 192 && 2 ≤ siteCol site && siteCol site ≤ 13

/-- The element that a tile word names in its slot (R199 item 3). -/
def State.tileElem (s : State) (v : Nat) : Sum TrapInfo (Slot × Elem) :=
  let sl := s.slotOf s.me.fld (bits v 8 2)
  match sl.elems.find? fun e => e.at (bits v 0 8) false with
  | some e => if e.hasSt then .inr (sl, e) else .inl (cfgInv 0x0D)
  | none => .inl (cfgInv 0x0D)

/-- A slot whose install is under way has no element yet. -/
def Slot.loading (sl : Slot) : Bool := sl.pend = .read || sl.pend = .install

def execStld (c : CapF) (b : RegF) (s : State) : Out :=
  run .other 4 { reads := [b] } (fun s =>
    let x := s.creg c
    let v := (s.readReg b).toNat
    let n := bits v 10 10
    match checkRange (s.ownObj s.me.fld) x pR x.cur (4 * n) with
    | some k => .raise (capTrap k x x.cur) s
    | none =>
      if x.cur % 4 ≠ 0 then .raise (capTrap ccAlign x x.cur) s
      else if !tileWordOk v then .raise (cfgInv 0x0B) s
      else if (s.slotOf s.me.fld (bits v 8 2)).loading then .wait s
      else
        match s.tileElem v with
        | .inl k => .raise k s
        | .inr (sl, e) =>
          if n ≠ e.fillCount then .raise (cfgInv 0x0D) s
          else if s.me.full .tl then .wait s
          else
            let f : Fill := { fld := s.me.fld, slot := sl.idx, site := e.site, owner := s.me.slot, cap := x, n := n }
            .done ({ s with fills := s.fills ++ [f] }.up .tl)) s

/-- The L of a fill's element still holds an earlier fill. -/
def State.fillWaits (s : State) (p : Fill) : Bool :=
  ((s.slotOf p.fld p.slot).elems.find? fun e => e.at p.site false).any (·.lfull)

/-- STLD_FILL_COMPLETE (R211): the oldest fill of a site's elements whose L is free. -/
def execStldFillComplete (fld site : Nat) (s : State) : Out :=
  match s.fills.find? fun p => p.fld = fld && p.site = site && !s.fillWaits p with
  | none => .next s
  | some p =>
    let sl := s.slotOf fld p.slot
    let drop (s : State) : State := { s with fills := s.fills.erase p }
    match sl.elems.find? fun e => e.at site false with
    | none => .next ((drop s).updStrand fld p.owner (·.down .tl))
    | some e =>
      if e.lfull then .next s
      else
        match s.readRun fld p.owner (((s.strandAt fld p.owner).map (·.ctx)).getD sl.ctx) p.cap 4 p.n p.cap.cur with
        | .wait s => .next s
        | .raise k _ =>
          .next ((drop s).updStrand fld p.owner fun t =>
            let t := t.down .tl
            match t.trap with
            | some _ => t
            | none => { t with trap := some k })
        | .ok s vs =>
          let e := { e with tileL := vs.zipIdx.foldl (fun l q => tileSet l q.2 (BitVec.ofNat 32 q.1)) e.tileL, filled := p.n, lfull := true }
          .next (((drop s).setElem fld p.slot e).updStrand fld p.owner (·.down .tl))

/-- `stswap` (R211): a swap follows the next marker at input 0. -/
def execStswap (a : RegF) (s : State) : Out :=
  run .other 4 { reads := [a] } (fun s =>
    let v := (s.readReg a).toNat
    if bits v 10 10 ≠ 0 || !tileWordOk v then .raise (cfgInv 0x0B) s
    else if (s.slotOf s.me.fld (bits v 8 2)).loading then .wait s
    else
      match s.tileElem v with
      | .inl k => .raise k s
      | .inr (sl, e) => .done (s.setElem sl.fld sl.idx { e with swapNext := e.swapNext + 1 })) s

end Sys2Proof.Machine
end

