-- ==== Sys2Proof/Machine/Queues.lean ====
section
/-!
DEFINITION. Queue bindings (R206 to R208), strands into the fabric and back (R209, R210), new strands, task records and the
Finder (R190, R191, R212, R213), `tdone`, `yield` and `wait` (R46, R214, R215).
-/
namespace Sys2Proof.Machine

/-- QUEUE_UNBOUND at a register. -/
def unbound (r : Nat) : TrapInfo := mkTrap ccQueue 0 0 r

/-! ### Bindings -/

/-- The binding of queue q. -/
def State.queueAt (s : State) (q : PredF) : Option Bind := s.me.binds.find? (·.q = q.toNat)

/-- The sequencer port of a row in a slot has this direction (R180). -/
def Slot.hasPort (sl : Slot) (row dir : Nat) : Bool :=
  sl.elems.any fun e => e.at (16 * row) false && e.op = 0x06 && e.p 0 2 = dir

/-- `qbind` (R206), for push or for pop. -/
def State.qbind (s : State) (q : PredF) (v : Nat) (push : Bool) : Act :=
  let b : Bind := { q := q.toNat, kind1 := bits v 3 1 = 1, push := push, row := bits v 0 2, slot := bits v 4 2
                    w64 := bits v 2 1 = 1, ents := [], removed := false }
  let add (s : State) : Act := .done { s with me := { s.me with binds := s.me.binds ++ [b] } }
  if b.kind1 then
    if v ≠ 0xC then .raise (cfgInv 0x0B) s
    else if push || (s.queueAt q).isSome then .raise (cfgInv 0x0C) s
    else add s
  else if v / 64 ≠ 0 then .raise (cfgInv 0x0B) s
  else
    let sl := s.slotOf s.me.fld b.slot
    if sl.loading then .wait s
    else if !sl.hasPort b.row (if push then 0 else 1) || (s.portBind s.me.fld b.row b.slot).isSome || (s.queueAt q).isSome then
      .raise (cfgInv 0x0C) s
    else add s

def execQbindIn (q : PredF) (a : RegF) (s : State) : Out :=
  run .other 4 { reads := [a] } (fun s => s.qbind q (s.readReg a).toNat false) s
def execQbindOut (q : PredF) (a : RegF) (s : State) : Out :=
  run .other 4 { reads := [a] } (fun s => s.qbind q (s.readReg a).toNat true) s

/-- `qunbind` (R207, R317). A load that still owes a push queue its entry is waited for as an entry is (R103, log 94). -/
def execQunbind (q : PredF) (s : State) : Out :=
  run .other 4 {} (fun s =>
    match s.queueAt q with
    | none => .done s
    | some b =>
      if b.push && !b.removed && (!b.ents.isEmpty || s.me.dests.any fun d => d.2 = Dst.queue b.q) then .wait s
      else
        -- a response for it that comes later finds no destination, whatever the queue is bound to then (R317)
        let lose (r : Req) : Req := if r.sink = .queue q.toNat then { r with sink := .lost } else r
        .done { s with
          me := { s.me with binds := s.me.binds.filter fun c => c.q ≠ q.toNat
                            dests := s.me.dests.filter fun d => d.2 ≠ Dst.queue q.toNat }
          streams := s.streams.map fun st => if st.src = .strand s.me.fld s.me.slot then { st with reqs := st.reqs.map lose } else st }) s

/-- `qpeek` (R208). A load that still owes a push queue its entry holds a place in it. -/
def execQpeek (d : RegF) (q : PredF) (s : State) : Out :=
  run .other 4 { writes := [d] } (fun s =>
    match s.queueAt q with
    | none => .raise (unbound (q.toNat + 24)) s
    | some b =>
      if b.removed then .raise (unbound (q.toNat + 24)) s
      else
        let owed := if b.push then (s.me.dests.filter fun d => d.2 = Dst.queue b.q).length else 0
        .done (s.putReg d (BitVec.ofNat 64 (if b.push then queueCap - b.ents.length - owed else b.ents.length)))) s

/-! ### Into the fabric and back -/

/-- The registers that a mask names, ascending. -/
def maskRegs (v : Nat) : List RegF := ((List.range 32).filter fun k => bits v (32 + k) 1 = 1).map fun k => BitVec.ofNat 5 k

/-- The checks that `enter` and `await` share on their masks: reserved fields (R209). -/
def maskBad (v lo : Nat) : Bool := v / 2 ^ 32 = 0 || bits v 32 1 = 1 || bits v lo (32 - lo) ≠ 0

/-- A strand record (R139): a head and data beats, the last a tail. -/
def recordBeats (head : Nat) (ws : List W32) : List Beat :=
  { kind := kHead, v := BitVec.ofNat 48 head } ::
    ws.zipIdx.map fun p => { kind := if p.2 + 1 = ws.length then kTail else kWord, v := p.1.setWidth 48 }

/-- A register as two words, low first. -/
def regWords (v : W64) : List W32 := [v.setWidth 32, v.extractLsb' 32 32]

/-- Whether a slot of the field runs, and which, is still changing: a stop drains, or a switch is to start (R196). -/
def State.settling (s : State) (f : Nat) : Bool := s.slots.any fun e => e.fld = f && (e.pend = .stop || e.pend = .switch)

/-- `enter` (R209). A round that is to close closes first (R141). -/
def execEnter (a : RegF) (s : State) : Out :=
  run .other 4 { reads := [a] } (fun s =>
    let v := (s.readReg a).toNat
    let rs := maskRegs v
    if maskBad v 10 then .raise (cfgInv 0x0B) s
    else if s.settling s.me.fld then .wait s
    else
      match s.fxAt s.me.fld (16 * bits v 0 2) false fun e => e.op = 0x06 && e.p 0 2 = 2 with
      | none => .raise (cfgInv 0x0C) s
      | some x =>
        match rs.find? fun r => (s.bindOf r).isSome with
        | some r => .raise (unbound r.toNat) s
        | none =>
          if s.me.exitRec.isSome then .raise (cfgInv 0x0E) s
          else if !x.e.outq.isEmpty || !x.sends || x.closes then .wait s
          else
            let head := bits v 2 8 + s.me.slot * 2 ^ 8 + s.me.fld * 2 ^ 11 + s.pkg * 2 ^ 18 + (2 * rs.length - 1) * 2 ^ 23
            let x := (x.queue ((recordBeats head (rs.flatMap fun r => regWords (s.sreg r))).map fun b => (0, b))).token
            let t := x.s.setElem x.sl.fld x.sl.idx x.e
            .done { t with me := { t.me with stat := .fabric } }) s

/-- Words paired into registers, low first. -/
def putWords (s : State) : List RegF → List W32 → State
  | r :: rs, lo :: hi :: ws => putWords (s.setSreg r (hi ++ lo)) rs ws
  | _, _ => s

/-- `await` (R210). A record of another length is discarded and no register changes. -/
def execAwait (a : RegF) (s : State) : Out :=
  run .other 4 { reads := [a] } (fun s =>
    let v := (s.readReg a).toNat
    let rs := maskRegs v
    if maskBad v 2 then .raise (cfgInv 0x0B) s
    else
      match rs.find? fun r => (s.bindOf r).isSome with
      | some r => .raise (unbound r.toNat) s
      | none =>
        match s.me.exitRec with
        | none => .wait s
        | some (row, ws) =>
          let gone : State := { s with me := { s.me with exitRec := none } }
          if row ≠ bits v 0 2 then .wait s
          else if ws.length ≠ 2 * rs.length then .raise (cfgInv 0x0E) gone
          else .done (putWords gone rs ws)) s

/-! ### Meridian's queues (R216) and task records (R190, R191) -/

/-- A queue as a device reset leaves it. -/
def MQ.blank (die q : Nat) : MQ :=
  { die := die, q := q, en := false, hq := false, base := 0, wbase := 0, lvl := 0, age := 1, ctx := 0, rsv := [], subs := [], recs := []
    st := 0, dn := false }
def State.mqOf (s : State) (die q : Nat) : MQ := (s.mqs.find? fun m => m.die = die && m.q = q).getD (MQ.blank die q)
def State.setMQ (s : State) (m : MQ) : State := { s with mqs := upsert (fun x => x.die = m.die && x.q = m.q) m s.mqs }
/-- Records that a queue holds. -/
def mqCap : Nat := 256

/-- A capability from a sector. -/
def secCap (p : Nat × Bool) : Cap := { bits := BitVec.ofNat 128 p.1, tag := p.2 }

/-- A task record from its four sectors, unless R191 refuses it; its priority must be the queue's base level. -/
def parseTask (secs : List (Nat × Bool)) (base : Nat) (start : List Nat) : Option TaskRec :=
  match secs with
  | [e, a, i, w] =>
    let r : TaskRec :=
      { entry := secCap e, args := secCap a, image := secCap i, nf := bits w.1 0 8, prio := bits w.1 8 8
        quantum := bits w.1 16 16, cmp := bits w.1 32 32, start := start, saved := none }
    let nfOk := (1 ≤ r.nf && r.nf ≤ 4) || (r.nf % 4 = 0 && r.nf ≠ 0 && r.nf ≤ 32)
    if r.entry.tag && r.entry.has pX && (r.args.tag || r.args = Cap.null) && ((r.image.tag && r.image.has pC) || r.image = Cap.null)
        && nfOk && r.prio ≤ 7 && r.prio = base && 1 ≤ r.quantum && bits w.1 64 64 = 0 then some r
    else none
  | _ => none

/-! ### New strands (R30, R212) -/

/-- The lowest free slot of a field's sequencer. -/
def State.freeSlot (s : State) (f : Nat) : Option Nat := (List.range 8).find? fun i => !(s.slotsUsed f).contains i

/-- A strand as it begins (R30). -/
def State.newStrand (s : State) (f i ctx tno : Nat) (pcc c1 : Cap) (start : List Nat) : Strand :=
  let c := s.ctxOf ctx
  { Strand.empty with
    stat := .running, fld := f, slot := i, ctx := ctx, task := tno, pcc := pcc
    caps := (Vector.replicate 16 Cap.null).set 1 c1, ecap := c.ecap, sdef := c.sdef
    tabRound := c.openRound, start := start }

/-- A strand of the task starts: the registers of its slot are its own. -/
def State.addStrand (s : State) (t : Strand) : State :=
  { s with others := s.others ++ [t], left := s.left.filter fun u => !(u.fld = t.fld && u.slot = t.slot) }

/-- `spawn` with md = 0. -/
def State.spawnStrand (s : State) (c : Cap) (v : Nat) : Act :=
  match s.checkTarget c c.cur with
  | .raise k => .raise k s
  | .wait s => .wait s
  | .ok =>
    match (if v / 2 ^ 7 ≠ 0 then none else s.taskField (bits v 1 6)) with
    | none => .raise (cfgInv 0x0B) s
    | some f =>
      match s.freeSlot f with
      | none => .wait s
      | some i =>
        match s.handoff with
        | .wait s => .wait s
        | .raise k s => .raise k s
        | .ok s start => .done (s.addStrand (s.newStrand f i s.me.ctx s.me.task c (s.creg 1) start))

/-- A read of a sector through L1 at the strand's own scope: every earlier store of the strand is seen in it. -/
def State.recordAccess (s : State) (c : Cap) : Access := s.strandAccess c.obj c.cur 16 .capRead 0 1

/-- Sectors in ascending order. -/
def State.readRecord (s : State) (a : Access) : Nat → BindRes
  | 0 => .ok s []
  | n + 1 =>
    if s.behind s.meWho a then .wait s
    else
    match s.perform a with
    | (s, .val v t _) =>
      match s.readRecord { a with off := a.off + 16 } n with
      | .ok s r => .ok s ((v, t) :: r)
      | x => x
    | (s, .hold c w) => .wait (s.holdAccOnce a c w a.party)
    | (s, .busy) => .wait s
    | (s, .raise k) => .raise k s

/-- A record for queue m: it waits for room there, and the strand hands off to the task's entry strand (R469). -/
def State.appendTask (s : State) (m : MQ) (r : TaskRec) : Act :=
  let s : State := { s with me := { s.me with bound := some r } }
  if m.recs.length ≥ mqCap then .wait s
  else
    match s.handoff with
    | .wait s => .wait s
    | .raise k s => .raise k s
    | .ok s start => .done (({ s with me := { s.me with bound := none } } : State).setMQ { m with recs := m.recs ++ [{ r with start := start }] })

/-- `spawn` with md = 1. The record is one line, bound once (R281), and the checks are those at its read. -/
def State.spawnTask (s : State) (c : Cap) (v : Nat) : Act :=
  let m := s.mqOf (s.me.fld / 32) (bits v 1 6)
  match s.me.bound with
  | some r => s.appendTask m r
  | none =>
    match checkCap (s.ownObj s.me.fld) c pR c.cur 64 with
    | some k => .raise (capTrap k c c.cur) s
    | none =>
      if v / 2 ^ 7 ≠ 0 then .raise (cfgInv 0x0B) s
      else if m.hq && !s.me.mode then .raise (mkTrap ccPriv 0 0 0) s
      else if m.ctx ≠ s.me.ctx || !m.en then .raise (mkTrap ccCapPerm 0 c.obj m.q) s
      else
        match s.bindSecs (s.bindAccess c.obj c.cur) 4 with
        | .wait s => .wait s
        | .raise k s => .raise k s
        | .ok s secs =>
          match parseTask secs m.base [] with
          | none => .raise (cfgTrap 0x0F 0 0) s
          | some r => s.appendTask m r

/-- `spawn` as sb[0] selects (R212). -/
def State.spawn (s : State) (c : CapF) (b : RegF) : Act :=
  let v := (s.readReg b).toNat
  if v % 2 = 0 then s.spawnStrand (s.creg c) v else s.spawnTask (s.creg c) v

def execSpawnStrand (c : CapF) (b : RegF) (s : State) : Out := run .other 4 { reads := [b] } (fun s => s.spawn c b) s
def execSpawnTask (c : CapF) (b : RegF) (s : State) : Out := run .other 4 { reads := [b] } (fun s => s.spawn c b) s

/-! ### The Finder (R154, R213) -/

/-- A Finder: it owns no registers but copies of its strand's, and counters and bindings of none (R17, R154). -/
def Strand.finderOf (t : Strand) (pcc : Cap) (limit : Nat) : Strand :=
  { Strand.empty with
    stat := .running, fld := t.fld, slot := t.slot, ctx := t.ctx, task := t.task, regs := t.regs, preds := t.preds
    caps := t.caps, pcc := pcc, mode := t.mode, pmode := t.pmode, dflt := t.dflt, code := t.code, sub := t.sub, faddr := t.faddr
    fobj := t.fobj, epc := t.epc, ecap := t.ecap, sdef := t.sdef, frm := t.frm, fflags := t.fflags, settleU := t.settleU
    finder := true, limit := limit }

def execFinder (c : CapF) (b : RegF) (s : State) : Out :=
  run .other 4 { reads := [b] } (fun s =>
    let x := s.creg c
    match s.checkTarget x x.cur with
    | .raise k => .raise k s
    | .wait s => .wait s
    | .ok =>
      -- the sequencer holds at most one
      let s := { s with others := s.others.filter fun t => !(t.finder && t.fld = s.me.fld) }
      .done { s with others := s.others ++ [s.me.finderOf x (s.readReg b).toNat] }) s

/-- A Finder that has issued its last instruction (R213). -/
def Strand.spent (t : Strand) (f : Nat) : Bool := t.finder && t.fld = f && t.stat = .stopped

/-- FINDER_LIMIT (R213): it ends. -/
def execFinderLimit (fld : Nat) (s : State) : Out :=
  if s.me.spent fld then .next s.freeMe
  else .next { s with others := s.others.filter fun t => !t.spent fld }

/-! ### `tdone`, `yield`, `wait` -/

/-- The strand's task goes to completion (R194). -/
def execTdone (s : State) : Out :=
  run .other 4 {} (fun s =>
    if !s.me.idle then .wait s
    else
      match s.myTask with
      | some k => .done (s.setTask { k with phase := .finishing 0 })
      | none => .done s) s

def execYield (s : State) : Out :=
  run .other 4 {} (fun s =>
    match s.myTask with
    | some k => .done (s.setTask { k with yielded := true })
    | none => .done s) s

/-- `wait` (R46): every counter is at or below its field; 63 is no condition. -/
def execWait (ld st cp tl : BitVec 6) (s : State) : Out :=
  run .plain 4 {} (fun s =>
    if s.me.ldc ≤ ld.toNat && s.me.stc ≤ st.toNat && s.me.xpc ≤ cp.toNat && s.me.tlc ≤ tl.toNat then .done s else .wait s) s

end Sys2Proof.Machine
end

