-- ==== Sys2Proof/Machine/Meridian.lean ====
section
/-!
DEFINITION. Meridian (R192 to R194, R216 to R222): submission, placement, dispatch, completion; pre-emption, context frames,
escalation and restore (R410 to R418).
-/
namespace Sys2Proof.Machine

/-! ### Submission by the operating system (R458) -/

/-- The access that binds one sector of a submitted record: the host complex's write was a release, so the record is as its
hart has left it (R455, R458). -/
def State.submitAccess (s : State) (ctx obj off : Nat) : Access :=
  { ctx := ctx, obj := obj, off := off, n := 16, op := .capRead, party := hostParty, round := s.openRound ctx, sync := true
    rel := [], acq := [], scope := 4, gen := 0, fld := 128, exempt := false }

/-- Sectors of a record bound at home for the host complex (R281). -/
def State.bindHost (s : State) (a : Access) : Nat → BindRes
  | 0 => .ok s []
  | n + 1 =>
    match s.homePerform a with
    | (s, .val v t _) =>
      match s.bindHost { a with off := a.off + 16 } n with
      | .ok s r => .ok s ((v, t) :: r)
      | x => x
    | (s, .hold c w) => .wait (s.holdAccOnce a c w a.party)
    | (s, .busy) => .wait s
    | (s, .raise k) => .raise k s

/-- A queue's oldest write to MQSUB acted on; one whose record a port holds waits. A record that cannot be read is refused as
one that R191 refuses (log 95). -/
def State.submit (s : State) (die q : Nat) : State :=
  let m := s.mqOf die q
  match m.subs with
  | [] => s
  | v :: r =>
    let fin (s : State) (st : Nat) (m : MQ) : State := s.setMQ { m with subs := r, st := st, dn := r.isEmpty }
    if !m.en then fin s 2 m
    else
      match s.bindHost (s.submitAccess m.ctx (bits v 0 32) (bits v 32 32 * 64)) 4 with
      | .wait s => s
      | .raise _ s => fin s 0x0F m
      | .ok s secs =>
        match parseTask secs m.base [hostParty] with
        | none => fin s 0x0F m
        | some t => if m.recs.length ≥ mqCap then fin s 1 m else fin s 0 { m with recs := m.recs ++ [t] }

/-- A write to MQSUB q (R458). -/
def execMqsubWrite (die q : Nat) (v : W64) (s : State) : Out :=
  let m := s.mqOf die q
  if s.host.st ≠ 6 || die ≥ 4 || q ≥ 64 then .next (s.hartGets none)
  else .next (((s.hartGets (some 0)).setMQ { m with dn := false, subs := m.subs ++ [v.toNat] }).submit die q)

/-- A write to MQCFG q (R216). A base level written while records wait is in force from the next dispatch on. -/
def execMqcfgWrite (die q : Nat) (v : W64) (s : State) : Out :=
  let m := s.mqOf die q
  let n := v.toNat
  if s.host.st ≠ 6 || die ≥ 4 || q ≥ 64 then .next (s.hartGets none)
  else
  let s := s.hartGets (some 0)
  let hq := bits n 1 1 = 1
  let b := if bits n 2 3 = 7 && !hq then m.wbase else bits n 2 3
  let m := { m with en := bits n 0 1 = 1, hq := hq, wbase := b, age := if bits n 8 16 = 0 then m.age else bits n 8 16
                    ctx := bits n 24 16 }
  .next (s.setMQ (if m.recs.isEmpty then { m with base := b, lvl := b } else m))

/-! ### Placement (R220) -/

/-- The fields of a die that no task holds and no fence keeps back. -/
def State.freeFields (s : State) (die : Nat) : List Nat :=
  ((List.range 32).map (32 * die + ·)).filter fun f => (s.taskAt f).isNone && !(s.fieldOf f).fenced

/-- The first run of n free fields of a dome. -/
def domeRun (free : List Nat) (dome n : Nat) : Option (List Nat) :=
  ((List.range (5 - n)).map fun i => (List.range n).map fun j => 4 * dome + i + j).find? fun r => r.all free.contains

def domeFree (free : List Nat) (dome : Nat) : Nat := (free.filter (· / 4 = dome)).length

/-- The domes of one mount that are wholly free. -/
def wholeDomes (free : List Nat) (mount : Nat) : List Nat :=
  ((List.range 4).map (4 * mount + ·)).filter fun d => domeFree free d = 4

/-- A placement of nf fields on a die among the given free ones (R220). -/
def placement (die nf : Nat) (free : List Nat) : Option (List Nat) :=
  if nf ≤ 4 then
    let cs := (List.range 8).filterMap fun d => (domeRun free (8 * die + d) nf).map fun r => (domeFree free (8 * die + d), r)
    (cs.foldl (fun a c => match a with
      | none => some c
      | some b => if c.1 < b.1 then some c else some b) none).map (·.2)
  else
    let a := wholeDomes free (2 * die)
    let b := wholeDomes free (2 * die + 1)
    let ds := (if b.length > a.length then b ++ a else a ++ b).take (nf / 4)
    if ds.length = nf / 4 then some (ds.flatMap fun d => (List.range 4).map (4 * d + ·)) else none

/-- Fields reserved for another queue of the die (R219). -/
def State.reserved (s : State) (die q : Nat) : List Nat := (s.mqs.filter fun m => m.die = die && m.q ≠ q).flatMap (·.rsv)

/-- The placement of a queue's head, with `also` counted as free (R218, R221). -/
def State.headPlace (s : State) (m : MQ) (also : List Nat) : Option (List Nat) :=
  match m.recs with
  | [] => none
  | r :: _ =>
    let free := ((List.range 32).map (32 * m.die + ·)).filter fun f =>
      ((s.taskAt f).isNone || also.contains f) && !(s.fieldOf f).fenced
    placement m.die r.nf (if m.lvl = 7 then free else free.filter fun f => !(s.reserved m.die m.q).contains f)

/-! ### Fields changing hands -/

/-- A key lies in a field's accumulator stores (R230), or in its scratchpad. -/
def inAcc (f k : Nat) : Bool := accKey f 0 0 0 0 ≤ k && k < accKey (f + 1) 0 0 0 0
def inSp (f k : Nat) : Bool := spKey f 0 ≤ k && k < spKey (f + 1) 0

/-- A field without a task: its stores are zero, it has no tile and no scratchpad (R230, R232). What belongs to the hardware
stays. -/
def State.clearField (s : State) (f : Nat) : State :=
  let o := s.fieldOf f
  let s := s.setField { Field.blank f with
    replays := o.replays, finIssued := o.finIssued, finDropped := o.finDropped, fenced := o.fenced, cycle := o.cycle
    lastSlot := o.lastSlot }
  -- what has been released in its scratchpad is no longer there either
  { s with mem := s.mem.filter fun c => !inAcc f c.1, rels := s.rels.filter fun r => r.obj ≠ 2 ^ 32 + f }

/-- The slots of some fields are dropped with all that flows there; streams of their elements answer nobody any more. -/
def State.dropFields (s : State) (fs : List Nat) : State :=
  { s with slots := s.slots.filter fun q => !fs.contains q.fld
           chans := s.chans.filter fun c => !fs.contains c.src.fld
           fills := s.fills.filter fun p => !fs.contains p.fld
           streams := s.streams.map fun st => match st.src with
             | .elem f _ _ => if fs.contains f then { st with dead := true } else st
             | _ => st }

/-- The strands of a task and their Finders are gone. -/
def State.dropStrands (s : State) (fs : List Nat) : State :=
  let mine (t : Strand) : Bool := (t.stat ≠ .free || t.finder) && fs.contains t.fld
  { s with me := if mine s.me then Strand.empty else s.me, others := s.others.filter fun t => !mine t }

/-- The strands of some fields. -/
def State.strandsOn (s : State) (fs : List Nat) : List Strand := s.strands.filter fun t => fs.contains t.fld

/-! ### Dispatch (R193, R218, R454) -/

/-- The context record read from the context table (R454); where it is not there or not valid, what the device holds. -/
def State.readCtx (s : State) (ctx : Nat) : State :=
  let (obj, off) := s.ctxRec ctx
  match s.devReadSecs 0 obj off 6 with
  | some [h, e, d, q, p, w] =>
    let old := s.ctxOf ctx
    if bits h.1 0 16 = ctx && bits h.1 16 1 = 1 then
      s.setCtx { old with
        wdg := if bits h.1 24 8 = 0 then 20 else bits h.1 24 8, sth := bits h.1 32 16, ecap := secCap e, sdef := secCap d
        fq := secCap q, fpool := secCap p, nfr := bits w.1 0 16, nfmax := bits w.1 16 8
        wpc := BitVec.ofNat 64 (bits w.1 64 64) &&& 0xF1F#64 }
    else s
  | _ => s

/-- The lowest task number from 1 in no use on the die (R402, log 80); 0 stands for no task. -/
def State.freshTno (s : State) (die : Nat) : Nat :=
  let used := (s.tasks.filter (·.die = die)).map (·.tno % 2 ^ 16)
  ((List.range (used.length + 1)).find? fun n => !used.contains (n + 1)).getD 0 + 1 + die * 2 ^ 16

/-- A new task on some fields: its image begins to be installed, and its entry strand is ready to start. -/
def State.startTask (s : State) (m : MQ) (r : TaskRec) (fs : List Nat) : State :=
  let tno := s.freshTno m.die
  let f := fs.headD 0
  let s := fs.foldl State.clearField s
  let s := s.setTask { tno := tno, die := m.die, q := m.q, ctx := m.ctx, body := r, fields := fs, phase := .installing
                       yielded := false, owner := none, frame := Cap.null }
  -- as `cfgld` would raise ALIGN (R200), the install is refused at once
  if r.image ≠ Cap.null && r.image.cur % 32 ≠ 0 then
    match s.taskOf tno with
    | some k => s.setTask { k with phase := .finishing 0x1A }
    | none => s
  else
  let s := s.addStrand (s.newStrand f 0 m.ctx tno r.entry r.args r.start)
  if r.image = Cap.null then s
  else s.setSlot { Slot.blank f 0 with st := .installing, pend := .read, owner := some (f, 0), img := r.image, ctx := m.ctx }

/-! ### Renumbering (R413) -/

/-- The lowest of some rounds, as they follow one another. -/
def lowest : List W32 → Option W32
  | [] => none
  | r :: l => some (l.foldl (fun a r => if roundAfter a r then r else a) r)

/-- The head word of a strand record with its field replaced (R139). -/
def reHead (g : Nat → Nat) (v : Nat) : Nat := v - bits v 11 7 * 2 ^ 11 + g (bits v 11 7) % 128 * 2 ^ 11

/-- Beats with rounds moved on by d: markers, and the tag of each value's first digit beat; heads with fields replaced. -/
def moveBeats (d : W32) (g : Nat → Nat) (vec : Bool) : Bool → List Beat → List Beat
  | _, [] => []
  | first, b :: r =>
    let b' : Beat :=
      if b.isMark vec then markBeat vec (b.word + d)
      else if vec && b.kind = 0 && first then digitBeat (bits b.v.toNat 0 32) ((b.tag + d.toNat) % 16)
      else if !vec && b.kind = kHead then { b with v := BitVec.ofNat 48 (reHead g b.v.toNat) }
      else b
    b' :: moveBeats d g vec (vec && b.kind = 1) r

/-- An element with its rounds moved on. -/
def Elem.move (e : Elem) (d : W32) (g : Nat → Nat) (vecOut : Nat → Bool) : Elem :=
  { e with rin := e.rin.map (· + d), round := e.round + d
           got := e.got.map fun l => match l with
             | h :: r => h :: moveBeats d g true true r
             | [] => []
           outq := e.outq.map fun p => (p.1, ((moveBeats d g (vecOut p.1) false [p.2]).headD p.2))
           words := if e.isM && e.op = 0x06 && e.p 0 2 = 3 then match e.words with
               | h :: r => BitVec.ofNat 32 (reHead g h.toNat) :: r
               | [] => []
             else e.words }

/-! ### Saving (R411) -/

def moveStrand (g : Nat → Nat) (t : Strand) : Strand := { t with fld := g t.fld }
def moveWho (g : Nat → Nat) : Who → Who
  | .strand f i => .strand (g f) i
  | .elem f c i => .elem (g f) c i
  | w => w
def moveSrc (g : Nat → Nat) : Src → Src
  | .strand f i => .strand (g f) i
  | .elem f c i => .elem (g f) c i
def moveSlot (g : Nat → Nat) (q : Slot) : Slot :=
  { q with fld := g q.fld, f0 := g q.f0, owner := q.owner.map fun p => (g p.1, p.2) }
def moveChan (g : Nat → Nat) (c : Chan) : Chan :=
  { c with src := { c.src with fld := g c.src.fld }, dst := { c.dst with fld := g c.dst.fld } }

/-- What the source of a stream is on. -/
def Src.fld : Src → Nat
  | .strand f _ => f
  | .elem f _ _ => f

/-- The rounds that an element is in: of its inputs with a channel, and of a source. -/
def elemRounds (chans : List Chan) (q : Slot) (e : Elem) : List W32 :=
  (if e.sw then [] else (List.range 4).filterMap fun i =>
    if chans.any fun c => c.slot = q.idx && c.dst.fld = q.fld && c.dst.site = e.site && (!c.dst.sw) && c.dst.ix = i then some (e.rinAt i) else none)
  ++ (if e.isSource && !e.ended then [e.srcRound] else [])

/-- The lowest open round of a region among some slots. -/
def lowRound (slots : List Slot) (chans : List Chan) (sl : Slot) : Option W32 :=
  lowest ((slots.filter fun q => q.f0 = sl.f0 && q.idx = sl.idx).flatMap fun q => q.elems.flatMap (elemRounds chans q))

/-- Records of the pool that hold no saved task. -/
def State.poolFrame (s : State) (ctx nf : Nat) : Option Cap :=
  let c := s.ctxOf ctx
  if !c.fpool.tag || nf > c.nfmax then none
  else
    ((List.range c.nfr).map fun i => c.fpool.setCur (c.fpool.cur + i * (4096 + c.nfmax * 9 * 2 ^ 20))).find? fun p =>
      !(s.saved.any fun v => v.obj = p.obj && v.off = p.cur)

/-- The header of a frame and the record behind it (R410): bytes 0 to 63 as four sectors, then the record's sectors. -/
def frameSectors (k : Task) (full : Bool) (rbase : W32) (check : BitVec 32) : List (Nat × Bool) :=
  [(k.ctx + k.tno % 2 ^ 16 * 2 ^ 16 + k.fields.length * 2 ^ 32 + (if full then 2 else 1) * 2 ^ 40 + rbase.toNat * 2 ^ 64
      + check.toNat * 2 ^ 96, false), (0, false), (0, false), (0, false),
   (k.body.entry.bits.toNat, k.body.entry.tag), (k.body.args.bits.toNat, k.body.args.tag),
   (k.body.image.bits.toNat, k.body.image.tag),
   (k.body.nf + k.body.prio * 2 ^ 8 + k.body.quantum * 2 ^ 16 + k.body.cmp * 2 ^ 32, false)]

/-- Sectors written one after another by the device. -/
def State.putSecs (s : State) (ctx obj : Nat) : Nat → List (Nat × Bool) → State
  | _, [] => s
  | o, p :: r => (s.devWrite ctx obj o 16 p.1 p.2).putSecs ctx obj (o + 16) r

/-- A task is written to a frame and its fields are freed (R411, R416 step 5). -/
def State.saveTask (s : State) (k : Task) (full : Bool) (c : Cap) (phase : TaskPhase) : State :=
  let fs := k.fields
  let g (f : Nat) : Nat := fs.idxOf f
  let on (f : Nat) : Bool := fs.contains f
  let slots := s.slots.filter fun q => on q.fld
  let chans := s.chans.filter fun c => on c.src.fld
  let rbase := ((lowest (slots.filterMap fun q => if q.st = .running && q.sidx = 0 then lowRound slots chans q else none))).getD
    (s.ctxOf k.ctx).round
  let cell (p : Host.Cell) : Option (Nat × Host.Cell) :=
    match (fs.find? fun f => inSp f p.1), (fs.find? fun f => inAcc f p.1) with
    | some f, _ => some (2 * g f, (p.1 - spKey f 0, p.2))
    | _, some f => some (2 * g f + 1, (p.1 - accKey f 0 0 0 0, p.2))
    | _, _ => none
  let tag (t : Nat) : Option (Nat × Nat) := (fs.find? fun f => inSp f (16 * t)).map fun f => (g f, t - spKey f 0 / 16)
  let mine (w : Who) : Bool := match w with
    | .strand f _ => on f
    | .elem f _ _ => on f
    | _ => false
  let strands := (s.strandsOn fs).map fun t => { moveStrand g t with waiting := false, timedOut := false }
  let sv : Saved :=
    { tno := k.tno, full := full, rbase := rbase, obj := c.obj, off := c.cur, check := s.ids, home := fs, strands := strands
      slots := slots.map fun q => { moveSlot g q with elems := q.elems.map fun e => e.move 0 g fun _ => false }
      chans := chans.map fun c => { moveChan g c with q := moveBeats 0 g c.vec false c.q }
      fields := fs.map fun f => { s.fieldOf f with no := g f }
      cells := s.mem.filterMap cell, tags := s.tags.filterMap tag
      flights := (s.flights.filter fun f => mine f.who).map fun f => { f with who := moveWho g f.who }
      fills := (s.fills.filter fun p => on p.fld).map fun p => { p with fld := g p.fld }
      streams := (s.streams.filter fun st => on st.src.fld).map fun st => { st with src := moveSrc g st.src } }
  let s := s.putSecs k.ctx c.obj c.cur (frameSectors k full rbase (Config.frameCheck s.ids))
  let gone (n : NvCmd) : Bool := n.flush && n.who.any fun p => on p.1
  let park (p : Nat × Nat) : Nat × Nat := if on p.1 then (parkedField k.tno (g p.1), p.2) else p
  let s := { s with
    ids := s.ids + 1, saved := sv :: s.saved.filter (·.tno ≠ k.tno), mem := s.mem.filter fun p => !(fs.any fun f => inSp f p.1)
    tags := s.tags.filter fun t => !(fs.any fun f => inSp f (16 * t)), flights := s.flights.filter fun f => !mine f.who
    streams := s.streams.filter fun st => !on st.src.fld
    nvcmds := (s.nvcmds.filter fun n => !gone n).map fun (n : NvCmd) => { n with who := n.who.map park }
    tasks := s.tasks.map fun (j : Task) => { j with owner := j.owner.map park }
    arms := s.arms.map fun (a : Arm) => if on a.fld then { a with fld := parkedField k.tno (g a.fld) } else a
    rels := s.rels.map fun (r : Rel) => if r.obj ≥ 2 ^ 32 && on (r.obj - 2 ^ 32) then { r with obj := 2 ^ 32 + parkedField k.tno (g (r.obj - 2 ^ 32)) } else r }
  let s := (s.dropFields fs).dropStrands fs
  (fs.foldl State.clearField s).setTask { k with fields := [], phase := phase, yielded := false, frame := c }

/-- The dirty sectors of a task in its fields' L1s arrive at home before its fields are freed. -/
def State.flushFields (s : State) (k : Task) : State × WbRes :=
  match s.writeBacks (s.l1.filter fun e => k.fields.contains e.fld && e.ctx = k.ctx && e.dirty ≠ 0) with
  | (s, .ok) => ({ s with l1 := s.l1.filter fun e => !(k.fields.contains e.fld && e.ctx = k.ctx) }, .ok)
  | (s, .hold c w) =>
    match s.l1.find? fun e => k.fields.contains e.fld && e.ctx = k.ctx && e.dirty ≠ 0 &&
        s.translate e.ctx e.obj (e.sec * 16) true = .held c w with
    | some e => (s.holdOnce e.ctx e.obj (e.sec * 16) c w e.wparty, .hold c w)
    | none => (s, .hold c w)
  | r => r

/-- The elastic steps of a field that lie in its SRAM written to their backing (R233, R411); a port may hold a page of it. -/
def State.saveSteps (s : State) (ctx f : Nat) : Except State State :=
  let d := s.fieldOf f
  match s.elasticCopy ctx f d.backing (d.nmin * step512) (d.nmin * step512) true ((d.n - d.nmin) * stepSecs) with
  | some t => .ok t
  | none => .error (s.holdPages ctx d.backing.obj d.backing.cur ((d.n - d.nmin) * step512) true noParty)

/-- What a save needs first: the elastic steps of the task's fields in their backing, and no dirty sector in their L1s. -/
def State.flushTask (s : State) (k : Task) : State × WbRes :=
  match k.fields.foldlM (fun s f => s.saveSteps k.ctx f) s with
  | .ok s => s.flushFields k
  | .error s => (s, .busy)

/-- The record of a save (R403 kind 7). -/
def State.postSave (s : State) (k : Task) (why : Nat) (c : Cap) : State :=
  s.post { Record.blank k.ctx 7 with why := why, tno := k.tno, obj := c.obj, off := c.cur, cnt := k.fields.length }

/-! ### Restore (R413) -/

/-- A saved task is placed on new fields; its regions' rounds begin at ROUND, and its strands use the context record as it was
read at this dispatch (R454). -/
def State.restoreTask (s : State) (m : MQ) (k : Task) (v : Saved) (r : TaskRec) (fs : List Nat) : State :=
  let g (j : Nat) : Nat := fs.getD j 0
  let ct := s.ctxOf k.ctx
  let now := ct.round
  let delta (q : Slot) : W32 :=
    if q.st = .running then match lowRound v.slots v.chans q with
      | some l => now - l
      | none => 0
    else 0
  let dOf (fld idx : Nat) : W32 := match v.slots.find? fun q => q.fld = fld && q.idx = idx with
    | some q => delta q
    | none => 0
  let vecOut (q : Slot) (e : Elem) (o : Nat) : Bool :=
    v.chans.any fun c => c.slot = q.idx && c.src.fld = q.fld && c.src.site = e.site && c.src.sw == e.sw && c.src.ix = o && c.vec
  let slot (q : Slot) : Slot :=
    let d := delta q
    { moveSlot g q with ctx := k.ctx, round0 := q.round0 + d, drainK := q.drainK + d
                        elems := q.elems.map fun e => e.move d g (vecOut q e) }
  let chan (c : Chan) : Chan :=
    let first := match v.slots.find? fun q => q.fld = c.dst.fld && q.idx = c.slot with
      | some q => c.discard = 1 || q.elems.any fun e => e.at c.dst.site c.dst.sw && (e.gotAt c.dst.ix).length = 1
      | none => false
    { moveChan g c with q := moveBeats (dOf c.src.fld c.slot) g c.vec first c.q }
  let flight (f : Flight) : Flight :=
    let w := moveWho g f.who
    let party := match w with
      | .strand x i => strandParty s.pkg x i
      | _ => f.acc.party
    let fld := match w with
      | .strand x _ => x
      | _ => f.acc.fld
    { f with who := w, acc := { f.acc with fld := fld, party := party, round := s.openRound k.ctx }
             phase := match f.phase with
               | .done a b => .done a b
               | _ => .arriving }
  let strm (t : Stream) : Stream :=
    let src := moveSrc g t.src
    let d := match t.src with
      | .elem f c _ => dOf f c
      | _ => 0
    let party := match src with
      | .strand x i => strandParty s.pkg x i
      | .elem x c _ =>
        match v.slots.find? fun q => g q.fld = x && q.idx = c with
        | some q => regionParty s.pkg (g q.f0) c
        | none => 0
    { t with src := src, reqs := t.reqs.map fun r => { r with fld := src.fld, party := party, round := r.round + d } }
  let s := v.fields.foldl (fun s f =>
    let o := s.fieldOf (g f.no)
    s.setField { f with no := g f.no, replays := o.replays, finIssued := o.finIssued, finDropped := o.finDropped
                        fenced := o.fenced, cycle := o.cycle, lastSlot := o.lastSlot }) s
  let mem := (fs.foldl (fun m f => zeroRange m (spKey f 0) (2 ^ 24)) s.mem)
  let key (p : Nat × Host.Cell) : Nat := (if p.1 % 2 = 0 then spKey (g (p.1 / 2)) 0 else accKey (g (p.1 / 2)) 0 0 0 0) + p.2.1
  let back (p : Nat × Nat) : Nat × Nat :=
    match (List.range fs.length).find? fun j => p.1 = parkedField k.tno j with
    | some j => (g j, p.2)
    | none => p
  let s := s.setTask { k with fields := fs, q := m.q, body := r, phase := .running, frame := Cap.null }
  { s with
    nvcmds := s.nvcmds.map fun (n : NvCmd) => { n with who := n.who.map back }
    tasks := s.tasks.map fun (j : Task) => { j with owner := j.owner.map back }
    mem := v.cells.foldl (fun m p => writeByte m (key p) p.2.2) mem
    tags := v.tags.foldl (fun l p => setIn l (spKey (g p.1) 0 / 16 + p.2)) (s.tags.filter fun t => !(fs.any fun f => inSp f (16 * t)))
    others := s.others ++ v.strands.map fun t => { moveStrand g t with ecap := ct.ecap, sdef := ct.sdef }
    left := s.left.filter fun u => !fs.contains u.fld
    rels := s.rels.map fun (r : Rel) =>
      match (List.range fs.length).find? fun j => r.obj = 2 ^ 32 + parkedField k.tno j with
      | some j => { r with obj := 2 ^ 32 + g j }
      | none => r
    slots := s.slots ++ v.slots.map slot, chans := s.chans ++ v.chans.map chan
    flights := s.flights ++ v.flights.map flight, fills := s.fills ++ v.fills.map fun p => { p with fld := g p.fld }
    streams := s.streams ++ v.streams.map strm, saved := s.saved.filter (·.tno ≠ k.tno)
    arms := s.arms.map fun a =>
      match (List.range fs.length).find? fun j => a.fld = parkedField k.tno j with
      | some j => { a with fld := g j }
      | none => a }

/-- The head of a queue goes to its fields. -/
def State.dispatch (s : State) (m : MQ) (r : TaskRec) (fs : List Nat) : State :=
  let s := s.readCtx m.ctx
  let s : State := match r.saved with
    | none => s.startTask m r fs
    | some tno =>
      match s.taskOf tno, s.saved.find? (·.tno = tno) with
      | some k, some v => (s.restoreTask m k v { r with saved := none } fs).syncRounds
      | _, _ => s
  let s := s.setMQ { m with recs := m.recs.drop 1, rsv := [], base := m.wbase, lvl := m.wbase }
  { s with lastQ := upsert (fun p => p.1 = m.die && p.2.1 = m.lvl) (m.die, m.lvl, m.q) s.lastQ }

/-- The queues of a die at a level, in round robin from the one after the last served. -/
def State.robin (s : State) (die lvl : Nat) : List MQ :=
  let last := ((s.lastQ.find? fun p => p.1 = die && p.2.1 = lvl).map fun p => p.2.2).getD 63
  ((List.range 64).map fun i => s.mqOf die ((last + 1 + i) % 64)).filter fun m => m.lvl = lvl && m.en && !m.recs.isEmpty

/-- The dispatch that R218 selects. -/
def State.selects (s : State) (die : Nat) : Option (MQ × TaskRec × List Nat) :=
  ((List.range 8).map (7 - ·)).findSome? fun l => (s.robin die l).findSome? fun m =>
    match m.recs, s.headPlace m [] with
    | r :: _, some p => some (m, r, p)
    | _, _ => none

/-- MERIDIAN_SELECT (R218), with the submissions that have waited for their record. -/
def execMeridianSelect (die : Nat) (s : State) : Out :=
  let s := (s.mqs.filter fun m => m.die = die && !m.subs.isEmpty).foldl (fun s m => s.submit die m.q) s
  match s.selects die with
  | some (m, r, p) => .next (s.dispatch m r p)
  | none => .next s

/-- ENTRY_STRAND_START (R193): a refused image completes the task with status 0x1A. -/
def execEntryStrandStart (tno : Nat) (s : State) : Out :=
  match s.taskOf tno with
  | none => .next s
  | some k =>
    if k.phase ≠ .installing then .next s
    else
      let sl := s.slotOf (k.fields.headD 0) 0
      if k.body.image = Cap.null then .next (s.setTask { k with phase := .running })
      else if sl.pending then .next s
      else if sl.st = .installed then .next (s.setTask { k with phase := .running })
      else .next ((s.dropStrands k.fields).setTask { k with phase := .finishing 0x1A })

/-! ### Ageing and reservation (R217, R219) -/

/-- The queue has a head that ages, whether or not the queue is enabled (R217). -/
def MQ.ages (m : MQ) : Bool := !m.recs.isEmpty && m.base ≠ 7
def execQueueAgeing (die q : Nat) (s : State) : Out :=
  let m := s.mqOf die q
  .next (if m.ages then s.setMQ { m with lvl := min (m.lvl + 1) 6 } else s)

/-- The fields that a queue at level 6 would reserve. -/
def State.reserves (s : State) (m : MQ) : Option (List Nat) :=
  if !m.ages || m.lvl ≠ 6 || (s.mqs.any fun x => x.die = m.die && !x.rsv.isEmpty) then none
  else
    match m.recs with
    | [] => none
    | r :: _ => placement m.die r.nf (((List.range 32).map (32 * m.die + ·)).filter fun f => !(s.fieldOf f).fenced)
def execReservationTake (die q : Nat) (s : State) : Out :=
  let m := s.mqOf die q
  match s.reserves m with
  | some p => .next (s.setMQ { m with rsv := p })
  | none => .next s

/-! ### Completion (R194) -/

/-- Every class counter of the task's strands is zero, and none is stopped. -/
def State.taskIdle (s : State) (k : Task) : Bool :=
  (s.strandsOn k.fields).all fun t => t.idle && t.stat ≠ .stopped

/-- The completion word of a task whose fields are free, written with release at scope 4, or its record (R194, R403 kind 5). It
is the last write of its first strand's party (log 12). Nothing while a port holds it. -/
def State.completionWord (s : State) (k : Task) (st f : Nat) (table : List Nat) : Option State :=
  if k.body.cmp = 2 ^ 32 - 1 then some s
  else
    let c := k.body.args
    let o := c.cur + k.body.cmp
    let party := strandParty s.pkg f 0
    let fails (code : Nat) : State :=
      s.post { Record.blank k.ctx 5 with cause := code, party := party, tno := k.tno, obj := c.obj, off := o % 2 ^ 48 }
    match checkCap localObj c pW o 4 with
    | some code => some (fails code)
    | none =>
      let v := 2 ^ 31 + st % 2 ^ 8
      if c.obj ≥ localObj then
        let (data, mask) := inSector o 4 v
        some (s.storeSector (spKey f o) 0 0 o data mask false)
      else if c.obj / 8 % 32 ≠ s.pkg then some (fails ccRemote)
      else
        match s.translate k.ctx c.obj o true with
        | .ok _ _ _ =>
          let s := s.devWrite k.ctx c.obj o 4 v false
          let s := s.setRace ((s.raceOf k.ctx c.obj (o / 16)).wroteBy party (BitVec.ofNat 16 (s.openRound k.ctx).toNat) true)
          some { s with rels := (s.rels.filter fun r => !r.overlaps k.ctx c.obj o 4) ++
            [{ ctx := k.ctx, obj := c.obj, off := o, n := 4, party := party, set := arraySet, table := table }] }
        | _ => none

/-- Steps 3 to 5 (R194): slots, bindings and strands are dropped, and the fields are free. -/
def State.freeTask (s : State) (k : Task) : State :=
  let gone (a : Arm) : Bool := k.fields.contains a.fld
  let s := (s.strandsOn k.fields).foldl State.leave s
  let s := ({ s with arms := s.arms.filter fun a => !gone a }.dropFields k.fields).dropStrands k.fields
  k.fields.foldl State.clearField s

/-- Step 6: the task is gone once its completion word is written. A frame that waits for it is left empty (R414). -/
def State.postTask (s : State) (k : Task) (st f : Nat) (table : List Nat) : State :=
  match s.completionWord k st f table with
  | none =>
    match s.translate k.ctx k.body.args.obj (k.body.args.cur + k.body.cmp) true with
    | .held c w => s.holdOnce k.ctx k.body.args.obj (k.body.args.cur + k.body.cmp) c w (strandParty s.pkg f 0)
    | _ => s
  | some s =>
    let s := if k.owner.isSome then s.devWrite k.ctx k.frame.obj (k.frame.cur + 5) 1 0 false else s
    State.syncRounds { s.xpDown k.owner with tasks := s.tasks.filter fun t => t.tno ≠ k.tno }

/-- TASK_COMPLETION (R194): steps 2 to 6. -/
def execTaskCompletion (tno : Nat) (s : State) : Out :=
  match s.taskOf tno with
  | none => .next s
  | some k =>
    match k.phase with
    | .finishing st =>
      if !s.taskIdle k then .next s
      else
        match s.flushFields k with
        | (s, .ok) =>
          let f := k.fields.headD 0
          let table := addParties [] (k.body.start ++ (s.strandsOn k.fields).flatMap fun t => strandParty s.pkg t.fld t.slot :: (t.table ++ t.start))
          let k := { k with fields := [], phase := .posting st f table }
          .next (((s.freeTask { k with fields := (s.taskOf tno).elim [] (·.fields) }).setTask k).postTask k st f table)
        | (s, _) => .next s
    | .posting st f table => .next (s.postTask k st f table)
    | _ => .next s

/-! ### Pre-emption (R221, R416) -/

/-- A waiting head could be placed if the task's fields were free. -/
def State.contended (s : State) (k : Task) : Bool :=
  s.mqs.any fun m => m.die = k.die && m.en && m.lvl ≥ (s.mqOf k.die k.q).base && (s.headPlace m k.fields).isSome

/-- Sources of the task's running regions close their round and then hold; a partial drain ends first (R418). -/
def State.holdTask (s : State) (k : Task) : State :=
  { s with slots := s.slots.map fun q =>
      if k.fields.contains q.fld && q.st = .running && q.pend ≠ .partDrain then
        { q with elems := q.elems.map fun e => if e.isSource && !e.hold then { e with closing := !e.ended, hold := true } else e }
      else q }

/-- QUANTUM_EXPIRY (R221): at expiry, or at the first check after `yield`. -/
def execQuantumExpiry (tno : Nat) (s : State) : Out :=
  match s.taskOf tno with
  | none => .next s
  | some k =>
    if k.phase ≠ .running then .next s
    else if s.contended k then .next ((s.setTask { k with phase := .saving 0, yielded := false }).holdTask k)
    else .next (s.setTask { k with yielded := false })

/-- Objects that requests of the task may name: those of its strands, its regions and its engine requests. -/
def State.taskObjs (s : State) (k : Task) : List Nat :=
  (s.strandsOn k.fields).flatMap (fun t => (t.pcc :: t.caps.toList).map (·.obj))
  ++ (s.slots.filter fun q => k.fields.contains q.fld).flatMap (fun q => (q.img :: q.capTab).map (·.obj))
  ++ (s.streams.filter fun st => k.fields.contains st.src.fld).flatMap fun st => st.reqs.flatMap fun r => r.caps.map (·.2.obj)

/-- Some unit of the task is stalled by a fault, a port holds some request of it, or a stream of it is held by a watchpoint
(R412). A port's record names no task: one of the task's context for an object that its units name is taken as holding a
request of it (log 41, DEDUCED). -/
def State.stalled (s : State) (k : Task) : Bool :=
  (s.slots.any fun q => k.fields.contains q.fld && (q.dead || q.elems.any (·.stall.isSome)))
  || (s.flights.any fun f => (match f.who with
      | .strand x _ => k.fields.contains x
      | .elem x _ _ => k.fields.contains x
      | _ => false) && (match f.phase with
      | .held _ => true
      | _ => false))
  || (s.streams.any fun st => k.fields.contains st.src.fld && (st.heldWp || st.stall.isSome))
  || (s.ports.any fun p => p.ctx = k.ctx && (s.taskObjs k).contains p.obj)

/-- A strand of the task is stopped by a double fault (R418). -/
def State.halted (s : State) (k : Task) : Bool := (s.strandsOn k.fields).any fun t => t.stat = .stopped

/-- Everything of the task has come to rest (R416 step 4). -/
def State.rested (s : State) (k : Task) : Bool :=
  s.taskIdle k && !(s.slots.any fun q => k.fields.contains q.fld && q.pending)
  && (s.slots.all fun q => !(k.fields.contains q.fld) || q.st ≠ .running || q.sidx ≠ 0 || s.quiet q)

/-- An install of the task is under way: it ends first (R418). -/
def State.installs (s : State) (k : Task) : Bool := s.slots.any fun q => k.fields.contains q.fld && q.loading

/-- The queue is at its base level. -/
def State.atBase (s : State) (die q : Nat) : State :=
  let m := s.mqOf die q
  s.setMQ { m with lvl := m.base }

/-- The task goes to the head of a queue, as its record and its saved state. -/
def State.requeue (s : State) (k : Task) (die q : Nat) : State :=
  let m := s.mqOf die q
  let m := { m with recs := { k.body with saved := some k.tno } :: m.recs }
  (s.setMQ m).setTask { (s.taskOf k.tno).getD k with phase := .queued, die := die, q := q }

/-- A save that may begin: small when all has come to rest, full when some unit is stalled or a strand is
stopped. -/
def State.saveKind (s : State) (k : Task) : Option Bool :=
  if s.installs k then none else if s.rested k then some false else if s.stalled k || s.halted k then some true else none

/-- PREEMPTION_SAVE (R416): the save goes into a frame of the pool and the task back to the head of its queue. -/
def execPreemptionSave (tno : Nat) (s : State) : Out :=
  match s.taskOf tno with
  | none => .next s
  | some k =>
    if k.phase ≠ .saving 0 then .next s
    else
      match s.saveKind k, s.poolFrame k.ctx k.fields.length with
      | some full, some c =>
        match s.flushTask k with
        | (s, .ok) => .next ((((s.saveTask k full c .queued).requeue k k.die k.q).atBase k.die k.q).syncRounds)
        | (s, _) => .next s
      | _, _ => .next (s.holdTask k)

/-! ### Escalation (R412) -/

/-- A record of the saved task is still open. -/
def State.recordOpen (s : State) (v : Saved) (ctx : Nat) : Bool :=
  (v.slots.any fun q => q.dead || q.elems.any (·.stall.isSome))
  || (v.flights.any fun f => f.pending && s.ports.any fun p => p.ctx = ctx && p.obj = f.acc.obj && p.page = f.acc.off / 65536)
  || (v.streams.any fun st => st.heldWp || st.stall.isSome)

/-- STALL_ESCALATION (R412): a task stalled for its context's threshold is saved; one whose records are all closed goes back
to its queue. -/
def execStallEscalation (tno : Nat) (s : State) : Out :=
  match s.taskOf tno with
  | none => .next s
  | some k =>
    match k.phase with
    | .running =>
      if (s.ctxOf k.ctx).sth = 0 || !s.stalled k then .next s
      else
        match s.poolFrame k.ctx k.fields.length with
        | none => .next s
        | some c =>
          match s.flushTask k with
          | (s, .ok) => .next (((s.saveTask k true c .escalated).postSave k 1 c).syncRounds)
          | (s, _) => .next s
    | .escalated =>
      match s.saved.find? (·.tno = tno) with
      | some v => .next (if s.recordOpen v k.ctx then s else s.requeue k k.die k.q)
      | none => .next s
    | _ => .next s

/-! ### `ctxsave` and `ctxload` (R414, R415) -/

/-- Bytes of a frame for nf fields (R410). -/
def frameSize (nf : Nat) : Nat := 4096 + nf * 9 * 2 ^ 20

def execCtxsave (c : CapF) (b : RegF) (s : State) : Out :=
  if !s.me.mode then s.raise (mkTrap ccPriv 0 0 0)
  else run .other 4 { reads := [b] } (fun s =>
    let x := s.creg c
    let v := (s.readReg b).toNat
    let die := bits v 21 2
    let k := s.tasks.find? fun t => t.die = die && t.tno % 2 ^ 16 = bits v 0 16
    let nf := ((k.map (·.fields.length)).getD 1)
    match checkRange (s.ownObj s.me.fld) x (pR + pW) x.cur (frameSize nf) with
    | some e => .raise (capTrap e x x.cur) s
    | none =>
      if x.cur % 4096 ≠ 0 then .raise (capTrap ccAlign x x.cur) s
      else if v / 2 ^ 23 ≠ 0 then .raise (cfgInv 0x0B) s
      else if bits v 16 5 ≠ s.pkg then .raise (mkTrap ccRemote 0 x.obj x.cur) s
      else
        match k with
        | none => .raise (cfgInv 0x0A) s
        | some k =>
          let live := match k.phase with
            | .running | .saving 0 | .finishing _ => true
            | _ => false
          if k.ctx ≠ s.me.ctx || !live || k.owner.isSome || k.tno = s.me.task then .raise (cfgInv 0x0A) s
          else if s.me.full .xp then .wait s
          else
            let k := { k with owner := some (s.me.fld, s.me.slot), frame := x }
            match k.phase with
            | .finishing _ => .done ((s.setTask k).up .xp)
            | _ => .done (((s.setTask { k with phase := .saving 2 }).holdTask k).up .xp)) s

/-- CTXSAVE_COMPLETE (R414): the task is saved and parked. -/
def execCtxsaveComplete (tno : Nat) (s : State) : Out :=
  match s.taskOf tno with
  | none => .next s
  | some k =>
    if k.phase ≠ .saving 2 then .next s
    else
      match s.saveKind k with
      | none => .next (s.holdTask k)
      | some full =>
        match s.flushTask k with
        | (s, .ok) =>
          let s := (s.saveTask { k with owner := none } full k.frame .parked).postSave k 2 k.frame
          .next ((s.xpDown k.owner).syncRounds)
        | (s, _) => .next s

/-- The saved task of a frame: the one saved in its place, or one of that number on the strand's die. -/
def State.savedIn (s : State) (x : Cap) (n die : Nat) : Option (Task × Saved) :=
  let v := match s.saved.find? fun v => v.obj = x.obj && v.off = x.cur && v.tno % 2 ^ 16 = n with
    | some v => some v
    | none => s.saved.find? fun v => v.tno % 2 ^ 16 = n && (s.taskOf v.tno).any fun (k : Task) => k.die = die
  v.bind fun v => (s.taskOf v.tno).map fun k => (k, v)

/-- The check word of a frame matches (R410): the word itself, and the record that it covers. -/
def frameGood (k : Task) (v : Saved) (secs : List (Nat × Bool)) : Bool :=
  let want := frameSectors { k with fields := List.replicate k.body.nf 0 } v.full v.rbase (Config.frameCheck v.check)
  (secs.headD (0, false)).1 / 2 ^ 96 = (Config.frameCheck v.check).toNat && (secs.drop 4).map (·.1) = (want.drop 4).map (·.1)

def execCtxload (c : CapF) (b : RegF) (s : State) : Out :=
  if !s.me.mode then s.raise (mkTrap ccPriv 0 0 0)
  else run .other 4 { reads := [b] } (fun s =>
    let x := s.creg c
    let q := (s.readReg b).toNat
    match checkRange (s.ownObj s.me.fld) x pR x.cur 4096 with
    | some e => .raise (capTrap e x x.cur) s
    | none =>
      if x.cur % 4096 ≠ 0 then .raise (capTrap ccAlign x x.cur) s
      else if q / 64 ≠ 0 then .raise (cfgInv 0x0B) s
      else
        match s.readRecord (s.recordAccess x) 8 with
        | .wait s => .wait s
        | .raise k s => .raise k s
        | .ok s secs =>
          let h := (secs.headD (0, false)).1
          let w := ((secs.drop 7).headD (0, false)).1
          let m := s.mqOf (s.me.fld / 32) q
          if bits h 0 16 ≠ s.me.ctx then .raise (capTrap ccCapPerm x x.cur) s
          else
            match s.savedIn x (bits h 16 16) m.die with
            | some (k, v) =>
              if !frameGood k v secs then .raise (cfgTrap 0x03 0 x.obj) s
              else if (bits h 40 8 ≠ 1 && bits h 40 8 ≠ 2) || bits h 32 8 ≠ bits w 0 8 then .raise (cfgTrap 0x0B 0 0) s
              else if k.phase ≠ .parked && k.phase ≠ .escalated then .raise (cfgTrap 0x0A 0 0) s
              else if m.ctx ≠ s.me.ctx || !m.en then .raise (mkTrap ccCapPerm 0 x.obj m.q) s
              else if m.recs.length ≥ mqCap then .wait s
              else .done (s.requeue k m.die q)
            -- the task is not parked: it was restored already, or completed
            | none => .raise (cfgTrap 0x0A 0 0) s) s

end Sys2Proof.Machine
end

