-- ==== Sys2Proof/Machine/Engines.lean ====
section
/-!
DEFINITION. Engines and streams (R308 to R317, R335 to R341): what a request is checked for and how it joins its stream,
accesses of engines (R254, R278, R424), one element at a time, response elements and their delivery, completion, `eresp`.
-/
namespace Sys2Proof.Machine

/-! ### Engines (R308, R309) -/

def engId (pkg kind idx : Nat) : Nat := kind + idx * 16 + pkg * 2 ^ 12
/-- The engine of the strand's or element's field that serves a kind, where the field alone decides it. -/
def engIdx (kind f : Nat) : Nat :=
  if kind = 2 || kind = 5 || kind = 6 then f / 16 else if kind = 9 then f else 2 * (f / 4) + f % 4 / 2

/-- The request's engine stream as a source (R248). -/
def Req.source (r : Req) : Nat := r.party + 2 ^ 32 * (r.id + 1)

/-- The class that a request counts in (R308, R335). -/
def engCls (major : Nat) : Cls := if (0x24 ≤ major && major ≤ 0x28) || major = 0x33 then .tl else .xp

/-! ### Accesses of an engine -/

/-- The access of a request (R312), made by its engine for its party. -/
def Req.access (r : Req) (obj off n : Nat) (op : AccOp) (sync exempt : Bool) : Access :=
  { ctx := r.ctx, obj := obj, off := off, n := n, op := op, party := r.party, round := r.round, sync := sync, rel := [], acq := []
    scope := r.x, gen := r.gen, fld := r.fld, exempt := exempt, unit := r.eng + 1 }

/-- The fields whose L1s hold copies that a party has made: every field of a region (R254), the issuing field of a strand. -/
def State.partyFields (s : State) (party fld : Nat) : List Nat :=
  if party < 2 ^ 14 then
    let sl := s.slotOf (bits party 2 7) (bits party 0 2)
    (List.range sl.nsec).map (sl.f0 + ·)
  else [fld]

/-- A sector's copies in some fields' L1s written back and dropped. -/
def State.flushIn (s : State) (a : Access) : List Nat → State × WbRes
  | [] => (s, .ok)
  | f :: r =>
    match s.flushAt f a.ctx a.obj (a.off / 16) with
    | (s, .hold c w) => (s, .hold c w)
    | (s, .busy) => (s, .busy)
    | (s, _) => s.flushIn a r

/-- What an engine works on lies below L1: the copies of its party are written back first, and none is left that its own write
would make stale; so whoever of the party consumes the response reads what the engine has written (R279, R312). -/
def State.engFlush (s : State) (a : Access) : State × WbRes := s.flushIn a (s.partyFields a.party a.fld)

/-- An engine reaches memory below L1. -/
def State.engPerform (s : State) (a : Access) : State × Res :=
  if a.obj ≥ localObj then s.spPerform a
  else
    match s.engFlush a with
    | (s, .hold c w) => (s, .hold c w)
    | (s, .busy) => (s, .busy)
    | (s, _) => s.homePerform a

/-- An access of another stream of the same engine, which a port has held before, goes first there (R248). -/
def State.portBehind (s : State) (r : Req) (a : Access) : Bool :=
  match s.mountOf a with
  | none => false
  | some m =>
    let own (st : Stream) : Bool := st.reqs.any (·.id = r.id)
    let mine := ((s.streams.find? own).bind (·.port)).filter (·.1 = m)
    s.streams.any fun st => st.eng = r.eng && !own st && st.port.any fun p => p.1 = m && mine.all fun q => p.2 < q.2

/-- An access of a request has to wait: it is held (R249), or another one is before it at its port. -/
def State.engWaits (s : State) (r : Req) (a : Access) : Bool := s.heldBy a r.source || s.portBehind r a

/-- A port holds an access of a request: it is in the port's record, and the stream waits behind it there (R248, R316). -/
def State.holdReq (s : State) (r : Req) (a : Access) (cause why : Nat) : State :=
  let s := s.holdAccOnce a cause why r.source
  let at_ := (s.portAccess a).obj % 8
  let put (st : Stream) : Stream :=
    if st.reqs.any (·.id = r.id) && !(st.port.any (·.1 = at_)) then { st with port := some (at_, s.ids) } else st
  { s with ids := s.ids + 1, streams := s.streams.map put }

/-- Why an element's work stops: a port holds it (with the access and what its record says), it waits, or a fault, with the
flags raised so far and the access that found it. -/
inductive EStop where
  | wait (hold : Option (Access × Nat × Nat))
  | fault (k : TrapInfo) (fl : Nat) (at_ : Option Access)

/-- What an element's work goes on with: the machine, its request, its flags, and the writes it has asked for. -/
structure EW where
  s : State
  r : Req
  fl : Nat
  wq : List (Nat × Nat × List Byte)

/-- Work of an engine; a stop undoes it. -/
abbrev Eng := StateT EW (Except EStop)

def eStop {α : Type} (e : EStop) : Eng α := fun _ => .error e
def eFault {α : Type} (k : TrapInfo) : Eng α := fun w => .error (.fault k w.fl none)
/-- ENGINE with a subcode (R362, R383). -/
def engTrap (sub obj off : Nat) : TrapInfo := mkTrap ccEngine sub obj off
def eFlags (f : Nat) : Eng Unit := modify fun w => { w with fl := w.fl ||| f }

/-- An access at once. -/
def eAccess (a : Access) : Eng (Nat × Bool) := fun w =>
  if w.s.engWaits w.r a then .error (.wait none)
  else
    match w.s.engPerform a with
    | (s, .val v t _) => .ok ((v, t), { w with s := s })
    | (_, .hold c y) => .error (.wait (some (a, c, y)))
    | (_, .busy) => .error (.wait none)
    | (_, .raise k) => .error (.fault k w.fl (some a))

/-- The sector pieces of [off, off + n): offset and length of each. -/
def pieces (off n : Nat) : List (Nat × Nat) :=
  if n = 0 then []
  else (List.range ((off % 16 + n + 15) / 16)).map fun i =>
    let a := max off (16 * (off / 16 + i))
    (a, min (off + n) (16 * (off / 16 + i) + 16) - a)

/-- n bytes read for a request, sector by sector. -/
def eBytes (obj off n : Nat) (sync : Bool := false) (exempt : Bool := false) : Eng (List Byte) := do
  let r := (← get).r
  let l ← (pieces off n).mapM fun p => do
    let v ← eAccess (r.access obj p.1 p.2 .read sync exempt)
    pure (toBytes p.2 v.1)
  pure l.flatten

/-- n bytes as a number. -/
def eNum (obj off n : Nat) : Eng Nat := do pure (ofBytes (← eBytes obj off n))

/-- Bytes to be written when the element's work is done. -/
def eWrite (obj off : Nat) (b : List Byte) : Eng Unit := modify fun w =>
  { w with wq := w.wq ++ (pieces off b.length).map fun p => (obj, p.1, (b.drop (p.1 - off)).take p.2) }

/-- Bytes written at once, for work that reads them again. -/
def ePut (obj off : Nat) (b : List Byte) : Eng Unit := do
  let r := (← get).r
  let _ ← (pieces off b.length).mapM fun p =>
    eAccess (r.access obj p.1 p.2 (.write (ofBytes ((b.drop (p.1 - off)).take p.2))) false false)
  pure ()

/-! ### Writes landing (R277, R278, R424) -/

/-- How a write of one sector went. -/
inductive Land where
  | ok (rdr : Nat)
  | wait (s : State)
  | fault (k : TrapInfo)

/-- One write: a race with a reader is noted, one with a writer is a fault. The copies of its own party arrive at home before its
check is made there. -/
def State.engWrite (s : State) (r : Req) (obj off : Nat) (b : List Byte) : State × Land :=
  let a := r.access obj off b.length (.write (ofBytes b)) false true
  let go (s : State) (m : Option Race) (rdr : Nat) : State × Land :=
    match (if obj ≥ localObj then s.spPerform a else s.homePerform a) with
    | (t, .val _ _ _) => ((match m with
      | some m => t.setRace m
      | none => t), .ok rdr)
    | (_, .hold c w) => (s, .wait (s.holdReq r a c w))
    | (_, .busy) => (s, .wait s)
    | (_, .raise k) => (s, .fault k)
  if s.engWaits r a then (s, .wait s)
  else if obj ≥ localObj then go s none 0
  else
    match s.engFlush a with
    | (_, .hold c w) => (s, .wait (s.holdReq r a c w))
    | (_, .busy) => (s, .wait s)
    | (s, _) =>
      let m := s.raceOf r.ctx obj (off / 16)
      let r16 := BitVec.ofNat 16 r.round.toNat
      match raceStep m r.party r16 false false true (s.holds r.ctx r.party) with
      | .ok m' => go s (some m') 0
      | .error other =>
        if m.wv && m.wr = r16 && !s.holds r.ctx r.party m.wp.toNat then (s, .fault (raceTrap obj (off / 16) other))
        else go s (some (m.wroteBy r.party r16 false)) other

/-- What the writes of an element have come to. -/
inductive Landed where
  | done | wait | hit
  | fault (k : TrapInfo)

/-- The engine's location word. -/
def State.locEng (s : State) (eng : Nat) : W64 := locEngine s.pkg eng

/-- The location of an engine, or of a matrix array where its operation is held (R404). -/
def State.locHeld (s : State) (f eng : Nat) : W64 :=
  if eng % 16 = 8 then locArray s.pkg f (eng / 16 % 2) else if eng % 16 = 9 then locArray s.pkg f 0 else s.locEng eng

/-- A record about a request (R316, R424). -/
def State.postReq (s : State) (r : Req) (eng kind : Nat) (k : TrapInfo) (held : Bool := false) : State :=
  s.post { Record.blank r.ctx kind with
    cause := k.code, sub := k.sub, party := r.party, loc := if held then s.locHeld r.fld eng else s.locEng eng, obj := k.fobj.toNat % 2 ^ 32
    off := k.faddr.toNat % 2 ^ 48, cnt := r.next, stream := (s.streams.find? fun st => st.reqs.any (·.id = r.id)).map (·.id), tno := match s.taskAt r.fld with
      | some t => t.tno % 2 ^ 16
      | none => 0 }

/-- Pending writes one after another; after a watchpoint's hit, to the end of its 64-byte line. -/
def State.landGo (s : State) (r : Req) (eng : Nat) :
    Option (Nat × Nat) → Nat → List (Nat × Nat × List Byte) → State × List (Nat × Nat × List Byte) × Nat × Landed
  | line, rdr, [] => (s, [], rdr, if line.isSome then .hit else .done)
  | line, rdr, (obj, off, b) :: ps =>
    if line.any fun l => l ≠ (obj, off / 64) then (s, (obj, off, b) :: ps, rdr, .hit)
    else
      match s.engWrite r obj off b with
      | (s, .ok rd) =>
        let ks := if obj ≥ localObj then [] else s.struck r.ctx obj off b.length
        match ks, line with
        | k :: _, none =>
          ((s.setHits r.ctx ks).postReq r eng 6 (mkTrap ccWatch k obj off)).landGo r eng (some (obj, off / 64))
            (if rdr = 0 then rd else rdr) ps
        | _, _ => (s.setHits r.ctx ks).landGo r eng line (if rdr = 0 then rd else rdr) ps
      | (_, .wait s) => (s, (obj, off, b) :: ps, rdr, .wait)
      | (s, .fault k) => (s, ps, rdr, .fault k)

/-! ### Response elements (R339) -/

def respWord (st cause sub eidx eng rdr flg rtag res : Nat) : W128 :=
  BitVec.ofNat 128 (st + cause * 2 ^ 8 + sub * 2 ^ 16 + eidx % 2 ^ 16 * 2 ^ 24 + eng * 2 ^ 40 + rdr % 2 ^ 16 * 2 ^ 64
    + flg % 64 * 2 ^ 80 + rtag * 2 ^ 88 + res % 2 ^ 32 * 2 ^ 96)

/-- What an element's own work answers: status, cause, subcode, result. -/
structure ElemRes where
  st : Nat := 0
  cause : Nat := 0
  sub : Nat := 0
  res : Nat := 0
  /-- The cause that a record is posted with although the element has stopped with status 0x06 (R359). -/
  note : Option TrapInfo := none
  /-- The element has faulted, and what it had done before stays. -/
  fault : Option TrapInfo := none
  /-- The element is not over: what it has done so far stays. -/
  more : Bool := false

def Req.rtag (r : Req) : Nat := fieldLE r.blk 2 1
def Req.lu (r : Req) : Bool := fieldLE r.blk 3 1 / 2 % 2 = 1
def Req.ob (r : Req) : Bool := r.fn % 2 = 1
/-- The number at a block offset, and the capability there. -/
def Req.b (r : Req) (i n : Nat) : Nat := fieldLE r.blk i n
def Req.cap (r : Req) (i : Nat) : Cap := ((r.caps.find? (·.1 = i)).map (·.2)).getD Cap.null

/-! ### Streams (R310 to R317) -/

def State.streamAt (s : State) (sid : Nat) : Option Stream := s.streams.find? (·.id = sid)
def State.setStream (s : State) (st : Stream) : State := { s with streams := s.streams.map fun t => if t.id = st.id then st else t }
def Stream.setReq (st : Stream) (r : Req) : Stream := { st with reqs := st.reqs.map fun q => if q.id = r.id then r else q }

/-- The request whose elements are performed now: requests of a stream follow one another. -/
def Stream.cur (st : Stream) : Option Req := st.reqs.find? fun r => r.next < r.total

/-- An element's response, where somebody takes it; data for an element's output takes its place (R342). -/
def Req.answer (r : Req) (w : W128) : Req :=
  { r with next := r.next + 1, out := none, rdr := 0
           resps := if r.sink = .none || r.toElem then r.resps else r.resps ++ [w] }

/-- A fault of an element (R316): its response carries the flags that the work raised and the reader noted before (R313). -/
def State.engFault (s : State) (st : Stream) (r : Req) (k : TrapInfo) (fl : Nat := 0) : State :=
  let w := respWord 1 k.code k.sub r.next st.eng r.rdr fl r.rtag 0
  (s.postReq r st.eng 4 k).setStream { (st.setReq { r.answer w with bad := true, pend := [] }) with skip := true, port := none }

/-- The writes of the current element land, and its response is ready when all have. -/
def State.engLand (s : State) (st : Stream) (r : Req) (w : W128) : State :=
  let keep (s : State) : Stream := { st with port := (s.streamAt st.id).bind (·.port) }
  let all (rdr : Nat) : Stream :=
    { st.setReq ({ r with pend := [] }.answer (w ||| BitVec.ofNat 128 (rdr % 2 ^ 16 * 2 ^ 64))) with port := none }
  match s.landGo r st.eng none r.rdr r.pend with
  | (s, _, rdr, .done) => s.setStream (all rdr)
  | (s, ps, rdr, .wait) => s.setStream ((keep s).setReq { r with pend := ps, rdr := rdr, out := some w })
  | (s, [], rdr, .hit) => s.setStream { all rdr with heldWp := true }
  | (s, ps, rdr, .hit) => s.setStream { (st.setReq { r with pend := ps, rdr := rdr, out := some w }) with heldWp := true, port := none }
  | (s, _, rdr, .fault k) => s.engFault st { r with rdr := rdr } k (bits w.toNat 80 6)

/-- The element that a stream comes from, with its slot. -/
def State.srcElem (s : State) (src : Src) : Option Fx :=
  match src with
  | .elem f c site =>
    let sl := s.slotOf f c
    if sl.st = .running then (sl.elems.find? fun e => e.at site false).map fun e => { s := s, sl := sl, e := e } else none
  | _ => none

/-- The format of the data that a request sends to its element's output. -/
def Req.outFmt (r : Req) (x : Fx) : Nat := if r.major = 0x20 || r.major = 0x21 then r.b 9 1 else x.e.fmt
/-- The bytes of data that leave on an element's output at once (R342): a word, or the sixteen elements of a value. -/
def Req.outUnit (r : Req) (x : Fx) : Nat := if (x.outC 0).any (·.vec) then 2 * codeWidth (r.outFmt x) else 4

/-- Responses or data of the stream still have to leave before request r may start an element (R317): what of r's own data
does not make up a word or a value yet waits for more. -/
def State.mustLeave (s : State) (st : Stream) (r : Req) : Bool :=
  st.reqs.any fun q => !q.resps.isEmpty ||
    (!q.data.isEmpty && (q.id ≠ r.id || (s.srcElem st.src).all fun x => q.outUnit x ≤ q.data.length))

/-- The next element of a stream's request, if it is of one of the given majors and may be performed now. `hold` says
which faults stay at the head of the stream (R324). -/
def State.engRun (s : State) (sid : Nat) (majors : List Nat) (body : Req → Eng ElemRes)
    (hold : TrapInfo → Bool := fun _ => false) : Option State :=
  match s.streamAt sid with
  | none => none
  | some st =>
    match st.cur with
    | none => none
    | some r =>
      if !majors.contains r.major || st.heldWp || st.stall.isSome || s.posts.any (·.stream = some sid) || s.mustLeave st r then none
      else
        match r.out with
        | some w => some (s.engLand st r w)
        | none =>
          if r.ob && (st.reqs.head?.any fun q => q.id ≠ r.id) then none
          else if r.ob && st.skip && !r.started then
            let ws := if r.sink = .none || r.toElem then [] else
              (List.range r.total).map fun i => respWord 3 0 0 i st.eng 0 0 r.rtag 0
            some (s.setStream (st.setReq { r with started := true, next := r.total, resps := ws }))
          else if r.bad then some (s.setStream (st.setReq (r.answer (respWord 2 0 0 r.next st.eng 0 0 r.rtag 0))))
          else if !r.toPin.isEmpty then none
          else
            match body r { s := s, r := { r with started := true }, fl := 0, wq := [] } with
            | .ok (e, w) =>
              let resp := respWord e.st e.cause e.sub r.next st.eng 0 w.fl r.rtag e.res
              let st' := (w.s.streamAt sid).getD st
              if e.more then some (w.s.setStream { st'.setReq w.r with port := none })
              else
                match e.fault with
                | some k => some (w.s.engFault st' w.r k w.fl)
                | none =>
                  let s := match e.note with
                    | some k => w.s.postReq r st.eng 4 k
                    | none => w.s
                  some (s.engLand (st'.setReq { w.r with pend := w.wq }) { w.r with pend := w.wq } resp)
            | .error (.wait (some (a, cause, why))) => some (s.holdReq r a cause why)
            | .error (.wait none) => none
            | .error (.fault k fl at_) =>
              let s := match at_ with
                | some a => s.keepPoison a k
                | none => s
              if hold k then some ((s.postReq r st.eng 4 k true).setStream { st with stall := some k, port := none })
              else some (s.engFault st r k fl)

/-- A next state where the engine has something to do; nothing changes otherwise (log 14). -/
def engStep (s : State) (r : Option State) : Out := .next (r.getD s)

/-! ### Pages pinned (R250) -/

/-- Entries of a port's pin table. -/
def pinCap : Nat := 4096

/-- Pins held at a mount, by requests and by commands. -/
def State.pinsAt (s : State) (mount : Nat) : Nat :=
  let n (l : List Pin) : Nat := (l.filter fun p => p.obj % 8 = mount).length
  (s.streams.foldl (fun a st => st.reqs.foldl (fun a r => a + n r.pinned) a) 0) + s.nvcmds.foldl (fun a c => a + n c.pins) 0

/-- PAGE_PIN: the next page of the stream's transformation is translated and entered. -/
def execPagePin (sid : Nat) (s : State) : Out :=
  match s.streamAt sid with
  | none => .next s
  | some st =>
    match st.cur with
    | none => .next s
    | some r =>
      match r.toPin with
      | [] => .next s
      | (obj, page, wr) :: rest =>
        let a := r.access obj (page * 65536) 1 (if wr then .write 0 else .read) false true
        if s.pinsAt (obj % 8) ≥ pinCap || s.engWaits r a then .next s
        else
          match s.translate r.ctx obj (page * 65536) wr with
          | .ok key kind side =>
            .next (s.setStream { st.setReq { r with
              toPin := rest, pinned := r.pinned ++ [s.newPin r.ctx obj page key kind side] } with port := none })
          | .held c w => .next (s.holdReq r a c w)
          | .busy => .next s

/-! ### Requests as they are issued (R311, R335 to R338) -/

/-- A capability that a request names: its block offset, the rights besides e, whether it may be null, and the extent
relative to its cursor; an extent of 0 is one that the engine checks piece by piece. -/
structure CapUse where
  at_ : Nat
  rights : Nat
  null : Bool := false
  lo : Int := 0
  n : Nat := 0

/-- What checking a block gives: its element count, the offsets at fault, its capabilities, its tiles with the scratchpad
ranges that must lie in them (a range of length 0 lies in any), the extents it pins, its engine, and the instruction's own checks. -/
structure Plan where
  total : Nat
  bad : List Nat := []
  uses : List CapUse := []
  dtile : Option (Nat × Nat × Nat) := none
  stile : Option (Nat × Nat × Nat) := none
  pins : List (Nat × Int × Nat × Bool) := []
  eng : Nat
  own : Option TrapInfo := none

/-- Who issues a request. -/
structure Issuer where
  src : Src
  fld : Nat
  ctx : Nat
  party : Nat
  round : W32
  x : Nat
  caps : List (Nat × Cap)
  obj : Nat
  /-- The data of a copy or gather goes to the element's output (R342). -/
  out : Bool
  /-- The cause whose check is left out, because a resume token has waived it (R408); 0 for none. -/
  waive : Nat := 0

def Issuer.cap (i : Issuer) (at_ : Nat) : Cap := ((i.caps.find? (·.1 = at_)).map (·.2)).getD Cap.null

/-- A byte of a block that is not zero, for each that should be. -/
def nonZero (blk : List Byte) (lo n : Nat) : List Nat := ((List.range n).map (lo + ·)).filter fun i => fieldLE blk i 1 ≠ 0
/-- An offset at fault where a condition fails. -/
def badAt (ok : Bool) (off : Nat) : List Nat := if ok then [] else [off]

/-- The header of every block (R337); `noRing` for a sink that leaves no room for a ring. -/
def headBad (blk : List Byte) (noRing : Bool) : List Nat :=
  nonZero blk 0 2 ++ badAt (fieldLE blk 3 1 < 4) 3 ++ badAt (!(noRing && fieldLE blk 3 1 % 2 = 1)) 3 ++
    (if fieldLE blk 3 1 % 2 = 0 then nonZero blk 16 16 else [])

/-- R311 for one capability. -/
def State.checkUse (s : State) (i : Issuer) (u : CapUse) : Option TrapInfo :=
  let c := i.cap u.at_
  if u.null && c = Cap.null then none
  else
    let o : Int := if u.n = 0 then c.base else c.cur + u.lo
    (checkRangeBut i.waive (s.ownObj i.fld) c (u.rights + pE) o u.n).map fun k => capTrap k c (if u.n = 0 then c.cur else o)

/-- Pages of homed objects that an extent touches. -/
def pagesOf (c : Cap) (lo : Int) (n : Nat) (wr : Bool) : List (Nat × Nat × Bool) :=
  let o := (c.cur + lo).toNat
  if n = 0 || c.obj ≥ localObj then []
  else (List.range ((o + n - 1) / 65536 + 1 - o / 65536)).map fun k => (c.obj, o / 65536 + k, wr)

/-- Every page of a plan once; a page that is written counts as written. -/
def Plan.pages (p : Plan) (i : Issuer) : List (Nat × Nat × Bool) :=
  let l := p.pins.flatMap fun (a, lo, n, wr) => pagesOf (i.cap a) lo n wr
  l.foldl (fun acc q => if acc.any fun z => z.1 = q.1 && z.2.1 = q.2.1 then acc
    else acc ++ [(q.1, q.2.1, l.any fun z => z.1 = q.1 && z.2.1 = q.2.1 && z.2.2)]) []

/-- What the tile checks say (R237, R318, R344): a fault, a wait, or that the request may go on. -/
inductive TileRes where
  | ok
  | wait
  | raise (k : TrapInfo)

def Field.inTile (f : Field) (t : Nat × Nat × Nat) : Bool :=
  match f.tile t.1 with
  | some e => t.2.2 = 0 || (e.base * 64 ≤ t.2.1 && t.2.1 + t.2.2 ≤ (e.base + e.len) * 64)
  | none => true

def Field.tileCheck (f : Field) (p : Plan) : TileRes :=
  let undefined (t : Option (Nat × Nat × Nat)) : Option Nat := t.bind fun t => if f.tileCode t.1 = 4 then some t.1 else none
  match undefined p.dtile, undefined p.stile with
  | some k, _ => .raise (tileTrap k 1)
  | none, some k => .raise (tileTrap k 1)
  | none, none =>
    match p.dtile, p.stile with
    | some d, st =>
      if f.tileCode d.1 = 1 || f.tileCode d.1 = 2 then .raise (tileTrap d.1 0)
      else if f.tileCode d.1 ≠ 0 || st.any (fun t => f.tileCode t.1 ≠ 2) then .wait else .ok
    | none, some t => if f.tileCode t.1 ≠ 2 then .wait else .ok
    | none, none => .ok

/-! A field's tile table serves what waits there in the order of arrival (R237). -/

/-- The request still waits. -/
def State.waitsThere (s : State) (f : Nat) : Waiter → Bool
  | .strand i c => (s.strandAt f i).any fun t => t.stat = .running && t.pcc.cur = c
  | .elem c site =>
    (s.slotOf f c).st = .running && (s.slotOf f c).elems.any fun e => e.at site false && e.stall.isNone && !e.words.isEmpty
  | .req id => s.streams.any fun st => st.stall.isNone && st.cur.any (·.id = id)

/-- A fill of tile d, reading tiles l, may issue. -/
def Field.issuable (f : Field) (d : Option Nat) (l : List Nat) : Bool :=
  d.all (fun k => f.tileCode k = 0) && l.all fun k => f.tileCode k = 2

/-- A request that has waited longer for one of these tiles may issue now: it goes first. -/
def State.tileBehind (s : State) (f : Nat) (w : Waiter) (d : Option Nat) (l : List Nat) : Bool :=
  let fd := s.fieldOf f
  (fd.waits.takeWhile (·.1 ≠ w)).any fun v =>
    s.waitsThere f v.1 && fd.issuable v.2.1 v.2.2 && (v.2.1.toList ++ v.2.2).any (d.toList ++ l).contains

/-- The request waits at the table, in the place it has there. -/
def State.tileWait (s : State) (f : Nat) (w : Waiter) (d : Option Nat) (l : List Nat) : State :=
  let fd := s.fieldOf f
  if fd.waits.any (·.1 = w) then s
  else s.setField { fd with waits := (fd.waits.filter fun v => s.waitsThere f v.1) ++ [(w, d, l)] }

/-- The request waits there no longer. -/
def State.tileGone (s : State) (f : Nat) (w : Waiter) : State :=
  let fd := s.fieldOf f
  if fd.waits.any (·.1 = w) then s.setField { fd with waits := fd.waits.filter (·.1 ≠ w) } else s

/-- Offsets at fault for tiles that do not hold their range. -/
def Field.tileBad (f : Field) (p : Plan) : List Nat :=
  badAt (p.dtile.all f.inTile) 10 ++ badAt (p.stile.all f.inTile) 11

/-- The pin limit (R338 item 6): the mount that a transformation spans with more than 4,096 pages. -/
def Plan.overPinned (p : Plan) (i : Issuer) : Option Nat :=
  (List.range 8).find? fun m => ((p.pages i).filter fun q => q.1 % 8 = m).length > pinCap

/-- Items 2 to 7 of R338. -/
def State.checkReq (s : State) (i : Issuer) (blk : List Byte) (noRing : Bool) (p : Plan) : Sum TrapInfo TileRes :=
  let f := s.fieldOf i.fld
  let bad := headBad blk noRing ++ p.bad ++ f.tileBad p
  match bad with
  | b :: l => .inl (engTrap 0x8B i.obj (l.foldl min b))
  | [] =>
    let ring : List CapUse := if fieldLE blk 3 1 % 2 = 1 then [{ at_ := 16, rights := pR + pW, n := 64 }] else []
    match (p.uses ++ ring).findSome? (s.checkUse i) with
    | some k => .inl k
    | none =>
      if i.waive ≠ ccScope && !(s.ctxOf i.ctx).scopeOk i.x then .inl (scopeTrap ccScope i.obj i.x ((s.ctxOf i.ctx).gen i.x))
      else
        match f.tileCheck p with
        | .raise k => .inl k
        | t =>
          match p.overPinned i with
          | some m => .inl (engTrap 0x8C i.obj m)
          | none =>
            match p.own with
            | some k => .inl k
            | none => .inr t

/-- A request as its engine accepts it. -/
def State.mkReq (s : State) (i : Issuer) (major fn imm : Nat) (blk : List Byte) (ops : List W64) (sink : Sink) (toElem : Bool)
    (p : Plan) : Req :=
  { id := s.ids, major := major, fn := fn, x := i.x, gen := (s.ctxOf i.ctx).gen i.x, imm := imm, blk := blk, caps := i.caps
    ops := ops, sink := sink, toElem := toElem, fld := i.fld, eng := p.eng, ctx := i.ctx, party := i.party, round := i.round, total := p.total
    next := 0, bad := false, started := false, toPin := p.pages i, pinned := [], buf := [], pend := [], out := none, rdr := 0
    data := [], resps := [], follow := none, prog := 0 }

/-- The stream of a source to an engine has no room (R310). -/
def State.streamFull (s : State) (src : Src) (eng : Nat) : Bool :=
  s.streams.any fun st => st.src = src && st.eng = eng && st.reqs.length ≥ 16

/-- An issuer as it waits at the tile table. -/
def State.waiter (s : State) (i : Issuer) : Waiter :=
  match i.src with
  | .strand f k => .strand k (((s.strandAt f k).map (·.pcc.cur)).getD 0)
  | .elem _ c site => .elem c site

/-- A request that its tiles allow goes before none that has waited longer for one of them (R237). -/
def State.tileTurn (s : State) (i : Issuer) (p : Plan) : TileRes → Bool
  | .ok => !s.tileBehind i.fld (s.waiter i) (p.dtile.map (·.1)) ((p.stile.map (·.1)).toList)
  | _ => false

/-- The issuer waits at the table. -/
def State.tileQueue (s : State) (i : Issuer) (p : Plan) : State :=
  s.tileWait i.fld (s.waiter i) (p.dtile.map (·.1)) ((p.stile.map (·.1)).toList)

/-- The request joins its stream; its tiles move (R237). -/
def State.enqueue (s : State) (i : Issuer) (p : Plan) (r : Req) : State :=
  let s := { s.tileGone i.fld (s.waiter i) with ids := s.ids + 1 }
  let f := s.fieldOf i.fld
  let f := match p.dtile with
    | some t => f.setTile t.1 .filling
    | none => f
  let f := match p.stile with
    | some t => if r.lu then f.setTile t.1 .draining else f
    | none => f
  let s := s.setField f
  if s.streams.any fun st => st.src = i.src && st.eng = p.eng then
    { s with streams := s.streams.map fun st => if st.src = i.src && st.eng = p.eng then { st with reqs := st.reqs ++ [r] } else st }
  else
    { s with ids := s.ids + 1
             streams := s.streams ++ [{ id := s.ids, src := i.src, eng := p.eng, reqs := [r], skip := false, heldWp := false
                                        stall := none, dead := false }] }

/-- The strand as an issuer. -/
def State.issuer (s : State) (x : Nat) (caps : List (Nat × Cap)) (obj : Nat) : Issuer :=
  { src := .strand s.me.fld s.me.slot, fld := s.me.fld, ctx := s.me.ctx, party := s.myParty, round := s.openRound s.me.ctx
    x := x, caps := caps, obj := obj, out := false }

/-- The sink of d is a queue that is not bound as R336 wants it. -/
def State.sinkUnbound (s : State) (d : RegF) : Bool :=
  24 ≤ d.toNat && !((s.bindOf d).any fun b => b.kind1 && (!b.push) && !b.removed)

/-- The sink of d and the block (R336). -/
def sinkOf (d : RegF) (blk : List Byte) (ring : Cap) : Sink :=
  if 24 ≤ d.toNat then .queue (d.toNat - 24) else if fieldLE blk 3 1 % 2 = 1 then .ring ring else .none

/-- The end of an issue: room, the release (R312), the counter and the stream. -/
def State.sendReq (s : State) (i : Issuer) (p : Plan) (t : TileRes) (cls : Cls) (r : State → Req) (also : State → State := id) : Act :=
  if !s.tileTurn i p t then .wait (s.tileQueue i p)
  else if s.me.full cls || s.streamFull i.src p.eng then .wait s
  else
    match s.staleFence with
    | some k => .raise k s
    | none =>
      match s.release [s.setOf i.x] with
      | .wait s => .wait s
      | .raise k s => .raise k s
      | .ok s => .done (also ((s.enqueue i p (r s)).up cls))

/-- An instruction that names a request block (R337, R338). -/
def engBlock (w : LF) (major size : Nat) (reads : List RegF) (plan : State → Issuer → List Byte → Plan)
    (also : State → List Byte → State → State := fun _ _ => id) (s : State) : Out :=
  runL w .other { reads := reads } (fun s =>
    let c := s.creg5 w.a
    let o := dispAddr c w
    if s.sinkUnbound w.d then .raise (unbound w.d.toNat) s
    else
      match checkRange (s.ownObj s.me.fld) c pR o size with
      | some k => .raise (capTrap k c o) s
      | none =>
        if o % 64 ≠ 0 then .raise (capTrap ccAlign c o) s
        else
          match s.readRecord (s.strandAccess c.obj o.toNat 16 .capRead 0 1) (size / 16) with
          | .wait s => .wait s
          | .raise k s => .raise k s
          | .ok s secs =>
            let blk := secBytes secs
            let i := s.issuer w.x.toNat (secs.zipIdx.map fun p => (16 * p.2, secCap p.1)) c.obj
            let p := plan s i blk
            match s.checkReq i blk (24 ≤ w.d.toNat) p with
            | .inl k => .raise k s
            | .inr t =>
              s.sendReq i p t (engCls major) (fun s =>
                s.mkReq i major w.fn.toNat w.imm.toNat blk (reads.map s.readReg) (sinkOf w.d blk (i.cap 16)) false p) (also s blk)) s

/-! ### Delivery (R317, R340) -/

/-- The header of a ring: log2 of its slots, wr and rd; none where it is not valid. -/
def ringHeader (v : Nat) (rest : List Nat) : Option (Nat × Nat × Nat) :=
  if 1 ≤ bits v 0 8 && bits v 0 8 ≤ 16 && bits v 8 24 = 0 && bits v 96 32 = 0 && rest.all (· = 0) then
    some (bits v 0 8, bits v 32 32, bits v 64 32)
  else none

/-- The offset of a ring's slot. -/
def ringSlot (o lgn i : Nat) : Nat := o + 64 + 16 * (i % 2 ^ lgn)

/-- An element into a ring: none while the ring is full. -/
def ringPut (c : Cap) (w : W128) : Eng (Option Unit) := do
  let e ← get
  let r := e.r
  let h ← eAccess (r.access c.obj c.cur 16 .read true false)
  let rest ← (List.range 3).mapM fun k => do
    let v ← eAccess (r.access c.obj (c.cur + 16 + 16 * k) 16 .read true true)
    pure v.1
  match ringHeader h.1 rest with
  | none => eFault (engTrap 0x91 c.obj c.cur)
  | some (lgn, wr, rd) =>
    if (wr + 2 ^ 32 - rd) % 2 ^ 32 = 2 ^ lgn then pure none
    else
      let o := ringSlot c.cur lgn wr
      match checkRange (e.s.ownObj r.fld) c (pR + pW) o 16 with
      | some k => eFault (capTrap k c o)
      | none =>
        -- rd is read with acquire: its releases enter the party's table (R270)
        let set := e.s.memberSet r.ctx r.fld r.x
        match e.s.acquireFrom r.ctx r.party set (e.s.relsAt r.ctx c.obj (c.cur + 8) 4) (r.eng + 1) r.fld with
        | none => eFault (mkTrap ccSync 0 c.obj (c.cur + 8))
        | some s =>
          modify fun e => { e with s := s }
          -- what the element covers is released with it, at the request's scope, to whoever consumes it (R279)
          let _ ← eAccess { r.access c.obj o 16 (.write w.toNat) false false with rel := [set] }
          let _ ← eAccess { r.access c.obj (c.cur + 4) 4 (.write ((wr + 1) % 2 ^ 32)) true false with rel := [set] }
          pure (some ())

/-- Nobody takes the stream's responses any more: they are discarded, with one record (R317). -/
def State.discardResps (s : State) (st : Stream) (r : Req) : State :=
  (s.postReq r st.eng 4 (engTrap 0x8A 0 0)).setStream { st with
    dead := false, reqs := st.reqs.map fun q => { q with resps := [], data := [], sink := .none, toElem := false } }

/-- Words or values leave on an element's output; a round source counts each as a token (R176). -/
def Fx.sendTokens (x : Fx) (ts : List (List Beat)) : Fx :=
  ts.foldl (fun x bs =>
    let x := x.queue (bs.map fun b => (0, b))
    if x.e.rs then (let x := x.token; if x.e.rpt ≠ 0 && x.e.rpt ≤ x.e.tok then x.closeRound else x) else x) x
/-- The element takes no data now: beats are still leaving, or a round source holds or has a round to close. -/
def Fx.outBusy (x : Fx) : Bool := !x.e.outq.isEmpty || (x.e.rs && (x.closes || !x.sends))
/-- The round of what the element sends. -/
def Fx.outRound (x : Fx) : W32 := if x.e.rs then x.e.round else x.e.rinAt 0

/-- RESPONSE_DELIVERY (R313, R317): the oldest response element of a stream, unless data of an earlier request has to leave
first (R333). -/
def State.deliverResp (s : State) (sid : Nat) : Option State :=
  match s.streamAt sid with
  | none => none
  | some st =>
    match st.reqs.find? fun r => !r.resps.isEmpty || !r.data.isEmpty with
    | none => none
    | some r =>
      match r.resps with
      | [] => none
      | w :: ws =>
        let took := st.setReq { r with resps := ws }
        if st.dead then some (s.discardResps st r)
        else
          match r.sink with
          | .none => some (s.setStream took)
          | .lost => some (s.discardResps st r)
          | .queue q =>
            match st.src with
            | .strand f i =>
              match (s.strandAt f i).bind fun t => t.binds.find? fun b => b.q = q && b.kind1 && (!b.push) && !b.removed with
              | none => some (s.discardResps st r)
              | some b =>
                if b.ents.length + 2 > queueCap then none
                else some ((s.setStream took).updPortBind f i q fun b =>
                  { b with ents := b.ents ++ [w.setWidth 64, w.extractLsb' 64 64] })
            | _ => some (s.discardResps st r)
          | .ring c =>
            match ringPut c w { s := s, r := r, fl := 0, wq := [] } with
            | .ok (some (), e) => some (e.s.setStream { took with port := none })
            | .ok (none, _) => none
            | .error (.wait (some (a, cause, why))) => some (s.holdReq r a cause why)
            | .error (.wait none) => none
            | .error (.fault k _ at_) =>
              let s := match at_ with
                | some a => s.keepPoison a k
                | none => s
              some ((s.postReq r st.eng 4 k).setStream { took with port := none })
          | .elem =>
            match s.srcElem st.src with
            | none => some (s.discardResps st r)
            | some x =>
              if x.outBusy then none
              else
                let ws := (List.range 4).map fun k => [wordBeat (w.extractLsb' (32 * k) 32)]
                some ((s.setStream took).setElem x.sl.fld x.sl.idx (x.sendTokens ws).e)

/-- The beats of a complete vector value of given elements (R71). -/
def valueBeats (vs : List FVal) (round : W32) : List Beat :=
  let ls := (lanesOf vs).2
  let rs := ls.map LaneIn.res
  let ds := (List.range (laneFuel ls + 2)).filterMap fun n => digits rs (n + 1) round
  (match header rs with
   | .ok e cls => [headerBeat e cls]
   | _ => []) ++ ds.takeWhile (fun b => !b.allTail) ++ (ds.find? (·.allTail)).toList

/-- Data for an element's output (R342): the next word, or the next sixteen elements of the format, the last of a request
filled up with zeros. -/
def State.deliverData (s : State) (sid : Nat) : Option State :=
  match s.streamAt sid with
  | none => none
  | some st =>
    match st.reqs.find? fun r => !r.resps.isEmpty || !r.data.isEmpty, s.srcElem st.src with
    | some r, some x =>
      let fmt := r.outFmt x
      let n := r.outUnit x
      if !r.toElem || !r.resps.isEmpty || x.outBusy || (r.data.length < n && r.next < r.total) then none
      else
        let v := fieldLE r.data 0 n
        let bs := if (x.outC 0).any (·.vec) then valueBeats ((List.range 16).map fun k => codeVal fmt (bits v (codeWidth fmt * k) (codeWidth fmt))) x.outRound
          else [natBeat v]
        some ((s.setStream (st.setReq { r with data := r.data.drop n })).setElem x.sl.fld x.sl.idx (x.sendTokens [bs]).e)
    | some r, none => if r.toElem && r.resps.isEmpty then some (s.discardResps st r) else none
    | none, _ => none

def execResponseDelivery (st : Nat) (s : State) : Out := engStep s ((s.deliverResp st).or (s.deliverData st))

/-! ### Completion (R313, R314, R316) -/

/-- The source's counter goes down. -/
def State.srcDown (s : State) (src : Src) (cls : Cls) : State :=
  match src with
  | .strand f i => s.updStrand f i (·.down cls)
  | _ => s

/-- REQUEST_COMPLETE: the oldest request, once every element is performed and delivered. -/
def State.completeReq (s : State) (sid : Nat) : Option State :=
  match s.streamAt sid with
  | none => none
  | some st =>
    match st.reqs with
    | [] => none
    | r :: rs =>
      if r.next < r.total || !r.resps.isEmpty || !r.data.isEmpty || r.follow.isSome then none
      else
        let skip := if !r.bad && !r.ob && !(rs.any (·.bad)) then false else st.skip
        some ((s.setStream { st with reqs := rs, skip := skip, dead := st.dead && !rs.isEmpty }).srcDown st.src (engCls r.major))
def execRequestComplete (st : Nat) (s : State) : Out := engStep s (s.completeReq st)

/-! ### Tiles (R237) -/

/-- A request of the field still works on a tile: it fills it, or it is the request whose last use drains it. Matrix requests
name theirs in their control register (R346), the others by a block offset. -/
def State.tileBusy (s : State) (f k : Nat) (fill : Bool) : Bool :=
  s.streams.any fun st => st.reqs.any fun r => r.fld = f && r.next < r.total &&
    (if r.major = 0x24 || r.major = 0x25 then
      let c := (r.ops.getD 4 0).toNat
      !fill && r.started && ((bits c 6 2 = 3 && bits c 0 6 = k) || (bits c 14 2 = 3 && bits c 8 6 = k))
     else 0x20 ≤ r.major && r.major ≤ 0x23 && r.b (if fill then 10 else 11) 1 = k && (fill || r.lu))

/-- TILE_FILL_COMPLETE: the fill's last byte has landed. -/
def execTileFillComplete (fld tile : Nat) (s : State) : Out :=
  let f := s.fieldOf fld
  .next (if f.tileCode tile = 1 && !s.tileBusy fld tile true then s.setField (f.setTile tile .ready) else s)
/-- TILE_DRAIN_COMPLETE: the last read of the request that drains it is done (R237). -/
def execTileDrainComplete (fld tile : Nat) (s : State) : Out :=
  let f := s.fieldOf fld
  .next (if f.tileCode tile = 3 && !s.tileBusy fld tile false then s.setField (f.setTile tile .empty) else s)

/-! ### Follow-on commands (R319) -/

/-- A request takes its place in a stream: before the requests issued after it that have not begun. -/
def placeReq (r : Req) : List Req → List Req
  | [] => [r]
  | q :: l => if q.id > r.id && !q.started then r :: q :: l else q :: placeReq r l

/-- FOLLOW_ON_ISSUE: the copy's last byte has landed, or the copy has faulted. -/
def execFollowOnIssue (sid : Nat) (s : State) : Out :=
  match s.streamAt sid with
  | none => .next s
  | some st =>
    match st.reqs.find? fun r => r.follow.isSome && r.next = r.total with
    | none => .next s
    | some r =>
      match s.follows.find? fun q => r.follow = some q.id with
      | none => .next (s.setStream (st.setReq { r with follow := none }))
      | some q =>
        let s := { s.setStream (st.setReq { r with follow := none }) with follows := s.follows.filter fun p => p.id ≠ q.id }
        -- not issued: it takes its place with its response, and completes as any other request (R319)
        let q := if r.bad then { q with started := true, next := q.total
                                        resps := if q.sink = .none then [] else [respWord 3 0 0 0 (engId s.pkg 8 (2 * q.fld + q.fn / 2 % 2)) 0 0 q.rtag 0] }
          else q
        let eng := engId s.pkg 8 (2 * q.fld + q.fn / 2 % 2)
        if s.streams.any fun t => t.src = st.src && t.eng = eng then
          .next { s with streams := s.streams.map fun t =>
            if t.src = st.src && t.eng = eng then { t with reqs := placeReq q t.reqs } else t }
        else
          .next { s with ids := s.ids + 1
                         streams := s.streams ++ [{ id := s.ids, src := st.src, eng := eng, reqs := [q], skip := false
                                                    heldWp := false, stall := none, dead := false }] }

/-! ### `eresp` (R341) -/

/-- A response element of a ring is consumed: an acquire, at its request's scope, of what it covers (R279, R314). The engine's
write of the slot has released that. None where the table would overflow (R270). -/
def State.consume (s : State) (rs : List Rel) : Option State :=
  let rs := rs.filter fun r => r.unit ≠ 0 && r.n = 16
  (s.acquireFrom s.me.ctx s.myParty arraySet rs).map fun s => rs.foldl (fun s r => s.invalidate s.me.ctx s.me.fld r.set) s

/-- A pair of registers that a bound queue stands in (R336). -/
def State.pairBound (s : State) (d : RegF) : Option Nat :=
  if (s.bindOf d).isSome then some d.toNat else if (s.bindOf (d + 1)).isSome then some (d.toNat + 1) else none
/-- A pair of registers written. -/
def State.setPair (s : State) (d : RegF) (lo hi : W64) : State := (s.setSreg d lo).setSreg (d + 1) hi

def execEresp (w : LF) (s : State) : Out :=
  runL w .other {} (fun s =>
    let c := s.creg5 w.a
    let o := dispAddr c w
    let x := w.x.toNat
    match s.pairBound w.d with
    | some q => .raise (unbound q) s
    | none =>
      match checkRange (s.ownObj s.me.fld) c (pR + pW) o 64 with
      | some k => .raise (capTrap k c o) s
      | none =>
        if o % 64 ≠ 0 then .raise (capTrap ccAlign c o) s
        else
          match s.scopeFault c.obj x with
          | some k => .raise k s
          | none =>
            let a := o.toNat
            let hold (s : State) (y r : Nat) : Act := .wait (s.holdAccOnce (s.strandAccess c.obj a 16 .read 1 x) y r s.myParty)
            if s.unperformed then .wait s
            else
              match s.readRecord { s.strandAccess c.obj (a + 16) 16 .capRead 0 x with exempt := true } 3 with
              | .wait s => .wait s
              | .raise k s => .raise k s
              | .ok s rest =>
                match s.performSync (s.strandAccess c.obj a 16 .read 1 x) with
                | (s, .hold y r, _) => hold s y r
                | (s, .busy, _) => .wait s
                | (s, .raise k, _) => .raise k s
                | (s, .val v _ _, _) =>
                  match ringHeader v (rest.map (·.1)) with
                  | none => .raise (engTrap 0x91 c.obj a) s
                  | some (lgn, wr, rd) =>
                    if wr = rd then
                      if w.fn.toNat % 2 = 1 then .done (s.setPair w.d 0xFF 0) else .wait s
                    else
                      let so := ringSlot a lgn rd
                      match checkRange (s.ownObj s.me.fld) c (pR + pW) so 16 with
                      | some k => .raise (capTrap k c so) s
                      | none =>
                        let el := s.strandAccess c.obj so 16 .read 0 x
                        match s.perform el with
                        | (s, .hold y r) => .wait (s.holdAccOnce el y r s.myParty)
                        | (s, .busy) => .wait s
                        | (s, .raise k) => .raise k s
                        | (s, .val e _ _) =>
                          match s.consume (s.readRels el) with
                          | none => .raise (mkTrap ccSync 0 c.obj so) s
                          | some s =>
                          match s.release [s.setOf x] with
                          | .wait s => .wait s
                          | .raise k s => .raise k s
                          | .ok s =>
                            match s.performSync (s.strandAccess c.obj (a + 8) 4 (.write ((rd + 1) % 2 ^ 32)) 2 x) with
                            | (s, .hold y r, _) => hold s y r
                            | (s, .busy, _) => .wait s
                            | (s, .raise k, _) => .raise k s
                            | (s, .val _ _ _, _) =>
                              .done (s.setPair w.d (BitVec.ofNat 64 e) (BitVec.ofNat 64 (e / 2 ^ 64)))) s

end Sys2Proof.Machine
end

