-- ==== Sys2Proof/Machine/Copies.lean ====
section
/-!
DEFINITION. Copy engines with their gather, codec and checksum units (R318, R330, R331, R343 to R345, R351, R352).
-/
namespace Sys2Proof.Machine

/-- A signed 64-bit field of a block. -/
def fieldS (blk : List Byte) (i : Nat) : Int := toSigned 64 (fieldLE blk i 8)

/-- Data that an element writes: to memory, or to the output of the issuing element (R342). -/
def eSend (c : Cap) (off : Int) (b : List Byte) : Eng Unit := do
  if (← get).r.toElem then modify fun w => { w with r := { w.r with data := w.r.data ++ b } }
  else eWrite c.obj (c.cur + off).toNat b

/-! ### Formats in memory (R61, R167) -/

/-- Bytes of n elements of a format. -/
def fmtBytes (fmt n : Nat) : Nat := (codeWidth fmt * n + 7) / 8
/-- Codes packed little-endian. -/
def packCodes (fmt : Nat) (cs : List Nat) : List Byte :=
  let w := codeWidth fmt
  toBytes (fmtBytes fmt cs.length) (cs.foldr (fun c a => c % 2 ^ w + 2 ^ w * a) 0)
/-- n codes from bytes. -/
def unpackCodes (fmt n : Nat) (b : List Byte) : List Nat :=
  let w := codeWidth fmt
  let v := ofBytes b
  (List.range n).map fun i => bits v (w * i) w

/-- The band scale of a copy. -/
def bandOne : FVal := .fin false 1 0

/-- Lists of eight. -/
def octets {α : Type} : Nat → List α → List (List α)
  | 0, _ => []
  | n + 1, l => l.take 8 :: octets n (l.drop 8)

/-- The values of codes with their block scales. -/
def valuesOf (fmt : Nat) (cs scales : List Nat) : List FVal :=
  if isNarrow fmt then cs.zipIdx.map fun p => blockElem (narrowFmt (fmt - 4)) p.1 (scales.getD (p.2 / 8) 0) bandOne
  else cs.map (codeVal fmt)

/-- Elements of one format converted to another (R64 to R68): codes, block scales, flags. -/
def convertCodes (ff ft : Nat) (md : RMode) (cs scales : List Nat) : List Nat × List Nat × Nat :=
  let vs := valuesOf ff cs scales
  if isNarrow ft then
    let bs := (octets (vs.length / 8) vs).map (encodeBlock (narrowFmt (ft - 4)) md bandOne)
    (bs.flatMap (·.2.1), bs.map (·.1), bs.foldl (fun a b => a ||| b.2.2) 0)
  else
    let rs := vs.map ((target ft).of md)
    (rs.map (·.1), [], rs.foldl (fun a r => a ||| r.2) 0)

/-! ### `xcopy`, `xcopy2` (R343, R344) -/

/-- A conversion that R124 codes. -/
def convertible (ff ft : Nat) : Bool := (ft < 4 && (ff < 7 || (8 ≤ ff && ff ≤ 11))) || (ff < 4 && ft ≠ 7)
def fmtOk (f : Nat) : Bool := f < 16 && f ≠ 7
def tileNoOk (t : Nat) : Bool := t < 64 || t = 0xFF
/-- A tile of a block with the extent that must lie in it. -/
def tileUse (c : Cap) (k : Nat) (lo : Int) (n : Nat) : Option (Nat × Nat × Nat) :=
  if k = 0xFF then none else some (k, (c.cur + lo).toNat, n)

/-- The smallest extent that holds some extents. -/
def hull : List (Int × Nat) → Int × Nat
  | [] => (0, 0)
  | e :: l =>
    let lo := l.foldl (fun a x => min a x.1) e.1
    let hi : Int := l.foldl (fun a x => max a (x.1 + (x.2 : Int))) (e.1 + (e.2 : Int))
    (lo, (hi - lo).toNat)

/-- The extents of one side of a copy, relative to its cursor: its rows, then its block scales. -/
def copyRows (two : Bool) (blk : List Byte) (dst : Bool) : List (Int × Nat) :=
  let b := fmtBytes (fieldLE blk (if dst then 9 else 8) 1) (fieldLE blk 4 4)
  let p := if two then fieldS blk (if dst then 72 else 64) else 0
  (List.range (if two then fieldLE blk 12 2 else 1)).map fun (i : Nat) => (p * i, b)
def copyScales (blk : List Byte) (dst : Bool) : List (Int × Nat) :=
  if isNarrow (fieldLE blk (if dst then 9 else 8) 1) && fieldLE blk 8 1 ≠ fieldLE blk 9 1 then
    [((fieldLE blk 12 4 : Nat), fieldLE blk 4 4 / 8)]
  else []

/-- Two extents share a byte. -/
def meets (a b : Int × Nat) : Bool := a.1 < b.1 + b.2 && b.1 < a.1 + a.2
/-- An extent of a capability in its object. -/
def atCap (c : Cap) (e : Int × Nat) : Int × Nat := (c.cur + e.1, e.2)

def copyPlan (two : Bool) (rm : Nat) (s : State) (i : Issuer) (blk : List Byte) : Plan :=
  let n := fieldLE blk 4 4
  let ff := fieldLE blk 8 1
  let ft := fieldLE blk 9 1
  let dt := fieldLE blk 10 1
  let st := fieldLE blk 11 1
  let src := i.cap 32
  let dst := i.cap 48
  let own := s.ownObj i.fld
  let sRows := hull (copyRows two blk false)
  let dRows := hull (copyRows two blk true)
  let sSc := copyScales blk false
  let dSc := copyScales blk true
  let use (at_ rights : Nat) (e : Int × Nat) : CapUse := { at_ := at_, rights := rights, lo := e.1, n := e.2 }
  { total := if two then fieldLE blk 12 2 else (n + 1023) / 1024
    bad := badAt (1 ≤ n && (two || n ≤ 67107840)) 4 ++ badAt (fmtOk ff) 8 ++ badAt (fmtOk ft) 9 ++
      badAt (if ff = ft then rm = 0 else convertible ff ft) 8 ++
      badAt (!((isNarrow ff || isNarrow ft) && n % 8 ≠ 0)) 4 ++
      badAt (!(two && isNarrow ff)) 8 ++ badAt (!(two && isNarrow ft)) 9 ++
      badAt (!(i.out && ff ≠ ft && isNarrow ft)) 9 ++
      badAt (tileNoOk dt && (dt = 0xFF || (dst.obj = own && !i.out))) 10 ++ badAt (tileNoOk st && (st = 0xFF || src.obj = own)) 11 ++
      badAt (!(sSc.any (meets sRows) || dSc.any (meets dRows))) 12 ++
      (if two then badAt (1 ≤ fieldLE blk 12 2) 12 ++ nonZero blk 14 2 ++ nonZero blk 80 16 else [])
    uses := (sRows :: sSc).map (use 32 pR) ++ (if i.out then [] else (dRows :: dSc).map (use 48 pW))
    dtile := tileUse dst dt (hull (dRows :: dSc)).1 (hull (dRows :: dSc)).2
    stile := tileUse src st (hull (sRows :: sSc)).1 (hull (sRows :: sSc)).2
    pins := if ff = ft then [] else
      (copyRows two blk false ++ sSc).map (fun e => (32, e.1, e.2, false)) ++
        (if i.out then [] else (copyRows two blk true ++ dSc).map fun e => (48, e.1, e.2, true))
    eng := engId s.pkg 0 (engIdx 0 i.fld) }

/-- The source of element k: its elements, then its block scales. -/
def copySegs (two : Bool) (blk : List Byte) (k : Nat) : List (Int × Nat) :=
  if two then [(fieldS blk 64 * k, fmtBytes (fieldLE blk 8 1) (fieldLE blk 4 4))]
  else
    let m := min 1024 (fieldLE blk 4 4 - 1024 * k)
    ((fmtBytes (fieldLE blk 8 1) (1024 * k) : Nat), fmtBytes (fieldLE blk 8 1) m) ::
      (copyScales blk false).map fun e => (e.1 + (128 * k : Nat), m / 8)

/-- Pieces of a capability read one after another. -/
def eSegs (c : Cap) (l : List (Int × Nat)) : Eng (List Byte) := do
  let bs ← l.mapM fun e => eBytes c.obj ((c.cur : Int) + e.1).toNat e.2
  pure bs.flatten

/-- The source bytes of an element; where source and destination overlap, all of them are read before the first (R344). -/
def eSource (c : Cap) (both : Bool) (segs : Nat → List (Int × Nat)) : Eng (List Byte) := do
  let r := (← get).r
  if !both then eSegs c (segs r.next)
  else
    let all ← if r.next = 0 then eSegs c ((List.range r.total).flatMap segs) else pure r.buf
    let n := (segs r.next).foldl (fun a e => a + e.2) 0
    modify fun w => { w with r := { w.r with buf := all.drop n } }
    pure (all.take n)

def copyBody (r : Req) : Eng ElemRes := do
  let two := r.major = 0x21
  let src := r.cap 32
  let dst := r.cap 48
  let ff := r.b 8 1
  let ft := r.b 9 1
  let k := r.next
  let n := if two then r.b 4 4 else min 1024 (r.b 4 4 - 1024 * k)
  let exts (d : Bool) := (copyRows two r.blk d ++ copyScales r.blk d).map (atCap (if d then dst else src))
  let both := !r.toElem && src.obj = dst.obj && (exts false).any fun e => (exts true).any (meets e)
  let b ← eSource src both (copySegs two r.blk)
  let at_ : Int := if two then fieldS r.blk 72 * k else (fmtBytes ft (1024 * k) : Nat)
  if ff = ft then
    eSend dst at_ b
  else
    let m := fmtBytes ff n
    let (cs, ss, fl) := convertCodes ff ft (rmode (r.fn / 2 % 8)) (unpackCodes ff n (b.take m)) ((b.drop m).map (·.toNat))
    eSend dst at_ (packCodes ft cs)
    if !ss.isEmpty then eSend dst (r.b 12 4 + 128 * k : Nat) (ss.map (BitVec.ofNat 8))
    eFlags fl
  pure {}

def execXcopy (w : LF) (s : State) : Out := engBlock w 0x20 64 [] (copyPlan false (bits w.fn.toNat 1 3)) (s := s)
def execXcopy2 (w : LF) (s : State) : Out := engBlock w 0x21 96 [] (copyPlan true (bits w.fn.toNat 1 3)) (s := s)
def execCopyElementPerform (st : Nat) (s : State) : Out := engStep s (s.engRun st [0x20, 0x21] copyBody)

/-! ### `xgather`, `xscatter` (R318, R345) -/

def idxBytes (iw : Nat) : Nat := if iw % 2 = 0 then 4 else 8

def gatherPlan (scatter : Bool) (s : State) (i : Issuer) (blk : List Byte) : Plan :=
  let n := fieldLE blk 4 2
  let iw := fieldLE blk 8 1
  let recB := fieldLE blk 12 4
  let own := s.ownObj i.fld
  let d := fieldLE blk 10 1
  let t := fieldLE blk 11 1
  let table := i.cap 32
  let lin := i.cap 48
  -- the extent of a gather's destination and a scatter's source is known; a record's place in the table is not
  let onTable (k : Nat) := if k = 0xFF then none else some (k, 0, 0)
  { total := n
    bad := badAt (1 ≤ n) 4 ++ nonZero blk 6 2 ++ badAt (iw < 4) 8 ++ nonZero blk 9 1 ++
      badAt (tileNoOk d && (d = 0xFF || ((if scatter then table else lin).obj = own && !i.out))) 10 ++
      badAt (tileNoOk t && (t = 0xFF || (if scatter then lin else table).obj = own)) 11 ++
      badAt (1 ≤ recB && recB ≤ 65536) 12 ++ nonZero blk 88 8
    uses := [{ at_ := 32, rights := if scatter then pW else pR }] ++
      (if i.out then [] else [{ at_ := 48, rights := if scatter then pR else pW, n := n * recB }]) ++
      [{ at_ := 64, rights := pR, n := n * idxBytes iw }]
    dtile := if scatter then onTable d else tileUse lin d 0 (n * recB)
    stile := if scatter then tileUse lin t 0 (n * recB) else onTable t
    eng := engId s.pkg 1 (engIdx 1 i.fld) }

/-- The range lies in a tile of the field, where the block names one. -/
def eInTile (k off n : Nat) : Eng Unit := do
  let w ← get
  if k ≠ 0xFF && !(w.s.fieldOf w.r.fld).inTile (k, off, n) then eFault (engTrap 0x8B localObj (if w.r.major = 0x23 then 10 else 11))

def gatherBody (r : Req) : Eng ElemRes := do
  let scatter := r.major = 0x23
  let iw := r.b 8 1
  let ib := idxBytes iw
  let v ← eNum (r.cap 64).obj ((r.cap 64).cur + ib * r.next) ib
  let idx : Int := if iw < 2 then v else toSigned (8 * ib) v
  let n := r.b 12 4
  let table := r.cap 32
  let o : Int := table.cur + idx * fieldS r.blk 80
  match checkRange ((← get).s.ownObj r.fld) table ((if scatter then pW else pR) + pE) o n with
  | some k => eFault (capTrap k table o)
  | none =>
    eInTile (r.b (if scatter then 10 else 11) 1) o.toNat n
    let lin := r.cap 48
    if scatter then
      let b ← eBytes lin.obj (lin.cur + n * r.next) n
      eWrite table.obj o.toNat b
    else
      let b ← eBytes table.obj o.toNat n
      eSend lin (n * r.next : Nat) b
    pure {}

def execXgather (w : LF) (s : State) : Out := engBlock w 0x22 96 [] (gatherPlan false) (s := s)
def execXscatter (w : LF) (s : State) : Out := engBlock w 0x23 96 [] (gatherPlan true) (s := s)
def execGatherElementPerform (st : Nat) (s : State) : Out := engStep s (s.engRun st [0x22, 0x23] gatherBody)

/-! ### `xcodec` (R251 to R253, R330, R351) -/

def codecPlan (s : State) (i : Issuer) (blk : List Byte) : Plan :=
  let comp := fieldLE blk 5 1 = 0
  let n := fieldLE blk 8 4
  let r := if comp then pR else pW
  let c := if comp then pW else pR
  { total := n
    bad := badAt (1 ≤ fieldLE blk 4 1 && fieldLE blk 4 1 ≤ 3) 4 ++ badAt (fieldLE blk 5 1 ≤ 1) 5 ++ nonZero blk 6 2 ++
      badAt (1 ≤ n && n ≤ 65535) 8 ++ nonZero blk 12 4 ++ nonZero blk 80 16
    uses := [{ at_ := 32, rights := r, n := 4096 * n }, { at_ := 48, rights := c, n := 4096 * n }, { at_ := 64, rights := c, n := n }]
    pins := [(32, 0, 4096 * n, !comp), (48, 0, 4096 * n, comp), (64, 0, n, comp)]
    eng := engId s.pkg 3 (engIdx 3 i.fld) }

/-- The coded form of a chunk that the engine stores: which code lengths it takes is free, and it decodes to the chunk. -/
def codeChunk (kind : Nat) (b : List Byte) : Nat × List Byte :=
  let (len, out) := Config.codeChunk kind b
  if 1 ≤ len && len ≤ 63 && out.length = 64 * len && decodeChunk kind len out = some b then (len, out) else (0, b)

def codecBody (r : Req) : Eng ElemRes := do
  let kind := r.b 4 1
  let ex := r.cap 32
  let co := r.cap 48
  let le := r.cap 64
  let k := r.next
  if r.b 5 1 = 0 then
    let b ← eBytes ex.obj (ex.cur + 4096 * k) 4096
    let (len, out) := codeChunk kind b
    eWrite co.obj (co.cur + 4096 * k) out
    eWrite le.obj (le.cur + k) [BitVec.ofNat 8 len]
    pure { res := len }
  else
    let len ← eNum le.obj (le.cur + k) 1
    if len > 63 then pure { st := 4, res := len }
    else
      let raw ← eBytes co.obj (co.cur + 4096 * k) (if len = 0 then 4096 else 64 * len)
      match (if len = 0 then some raw else decodeChunk kind len raw) with
      | none => pure { st := 4, res := len }
      | some b =>
        eWrite ex.obj (ex.cur + 4096 * k) b
        pure { res := len }

def execXcodec (w : LF) (s : State) : Out := engBlock w 0x29 96 [] codecPlan (s := s)
def execCodecChunkPerform (st : Nat) (s : State) : Out := engStep s (s.engRun st [0x29] codecBody)

/-! ### `xcksum` (R331, R352) -/

/-- Bytes of a logical block, and of its protection information. -/
def lbaBytes (lbs : Nat) : Nat := if lbs = 0 then 512 else 4096
def piBytes (gt : Nat) : Nat := if gt = 0 then 8 else 16

/-- The offset at fault of a capability field that has to be null: its lowest byte that is not zero; the field, where a word form
names a capability there (R342). -/
def nullCap (i : Issuer) (blk : List Byte) (o : Nat) : List Nat :=
  let l := nonZero blk o 16
  l ++ badAt (!l.isEmpty || i.cap o = Cap.null) o

def cksumPlan (s : State) (i : Issuer) (blk : List Byte) : Plan :=
  let m := fieldLE blk 4 1
  let n := fieldLE blk 8 4
  { total := 1
    bad := badAt (m ≤ 2) 4 ++
      (if m = 0 then nonZero blk 5 3 else badAt (fieldLE blk 5 1 ≤ 1) 5 ++ badAt (1 ≤ fieldLE blk 6 1 && fieldLE blk 6 1 ≤ 3) 6 ++
        badAt (fieldLE blk 7 1 ≤ 1) 7) ++
      badAt (1 ≤ n && (m = 0 || n ≤ 65535)) 8 ++ nonZero blk 14 2 ++ (if m = 0 then nullCap i blk 48 else []) ++ nonZero blk 72 24
    uses := { at_ := 32, rights := pR, n := if m = 0 then n else n * lbaBytes (fieldLE blk 7 1) } ::
      (if m = 0 then [] else [{ at_ := 48, rights := if m = 1 then pW else pR, n := n * piBytes (fieldLE blk 5 1) }])
    eng := engId s.pkg 7 (engIdx 7 i.fld) }

/-- Big-endian bytes. -/
def toBytesBE (n v : Nat) : List Byte := (toBytes n v).reverse

/-- The protection information of a logical block in the NVM Command Set's order: guard, application tag, reference tag. -/
def protInfo (gt at_ rt : Nat) (b : List Byte) : List Byte :=
  if gt = 0 then toBytesBE 2 (crc16 b) ++ toBytesBE 2 at_ ++ toBytesBE 4 rt
  else toBytesBE 8 (crc64 b) ++ toBytesBE 2 at_ ++ toBytesBE 6 rt

/-- Bytes of protection information that are compared: all but the reference tag for type 3. -/
def protCompared (gt pit : Nat) : Nat := if pit = 3 then (if gt = 0 then 4 else 10) else piBytes gt

/-- Blocks compared one after another, from block k on: the first that does not match. -/
def protCheck (pi : Cap) (r : Req) (gt pit lb at_ rt : Nat) : Nat → Nat → Eng (Option Nat)
  | 0, _ => pure none
  | n + 1, k => do
    let b ← eBytes (r.cap 32).obj ((r.cap 32).cur + lb * k) lb
    let p ← eBytes pi.obj (pi.cur + piBytes gt * k) (piBytes gt)
    let m := protCompared gt pit
    if (protInfo gt at_ (rt + k) b).take m = p.take m then protCheck pi r gt pit lb at_ rt n (k + 1) else pure (some k)

def cksumBody (r : Req) : Eng ElemRes := do
  let n := r.b 8 4
  let c := r.cap 32
  if r.b 4 1 = 0 then
    let b ← eBytes c.obj c.cur n
    pure { res := crc32c b }
  else
    let gt := r.b 5 1
    let lb := lbaBytes (r.b 7 1)
    let at_ := r.b 12 2
    let rt := r.b 64 8
    if r.b 4 1 = 1 then
      let ps ← (List.range n).mapM fun k => do
        let b ← eBytes c.obj (c.cur + lb * k) lb
        pure (protInfo gt at_ (rt + k) b)
      eWrite (r.cap 48).obj (r.cap 48).cur ps.flatten
      pure { res := n }
    else
      match ← protCheck (r.cap 48) r gt (r.b 6 1) lb at_ rt n 0 with
      | none => pure { res := n }
      | some k => pure { st := 4, res := k }

def execXcksum (w : LF) (s : State) : Out := engBlock w 0x2A 96 [] cksumPlan (s := s)
def execChecksumPerform (st : Nat) (s : State) : Out := engStep s (s.engRun st [0x2A] cksumBody)

end Sys2Proof.Machine
end

