-- ==== Sys2Proof/Machine/Matrix.lean ====
section
/-!
DEFINITION. The matrix arrays (R320 to R324, R346 to R348): operand layout (R235), accumulator entries (R230), `mma`, `mmx`,
`accrd`, `accwr` and the drain port `mxp` (R181).
-/
namespace Sys2Proof.Machine

/-! ### Scratchpad operands (R235) -/

structure SpOp where
  base : Nat
  row : Nat
  tile : Nat
  rot : Nat
  rows : Nat
  n16 : Nat
  /-- Reserved bits of the second word. -/
  rest : Nat

def spOp (w0 w1 : Nat) : SpOp :=
  { base := bits w0 0 32, row := bits w0 32 16, tile := bits w0 48 16, rot := bits w1 0 8, rows := bits w1 8 7
    n16 := if bits w1 15 8 = 0 then 256 else bits w1 15 8, rest := bits w1 23 41 }

/-- The offset of chunk c of row i of operand tile t. -/
def SpOp.chunk (o : SpOp) (t i c : Nat) : Nat := o.base + t * o.tile + i * o.row + 16 * ((c + i * o.rot) % o.n16)
/-- Chunks that k elements of a format take. -/
def chunksOf (fmt k : Nat) : Nat := (codeWidth fmt * k + 127) / 128
def SpOp.aligned (o : SpOp) : Bool := o.base % 16 = 0 && o.row % 16 = 0 && o.tile % 16 = 0
/-- The offsets of the chunks that the first rows' k elements take. An instruction's operand is operand tile 0: no field of an
operand or of an instruction names another (R235, R346, log 96). -/
def SpOp.offs (o : SpOp) (rows fmt k : Nat) : List Nat :=
  (List.range rows).flatMap fun i => (List.range (chunksOf fmt k)).map (o.chunk 0 i)

/-- The codes of k elements of each row. -/
def eRows (obj : Nat) (o : SpOp) (rows fmt k : Nat) : Eng (List (List Nat)) :=
  (List.range rows).mapM fun i => do
    let bs ← (List.range (chunksOf fmt k)).mapM fun c => eBytes obj (o.chunk 0 i c) 16
    pure (unpackCodes fmt k bs.flatten)

/-! ### Accumulator entries (R230) -/

def State.acc (s : State) (f arr t i j : Nat) : Nat := readLE s.mem (accKey f arr t i j) 16
def State.setAcc (s : State) (f arr t i j v : Nat) : State := { s with mem := writeLE s.mem (accKey f arr t i j) 16 v }
def accKind (e : Nat) : Nat := bits e 126 2
def accFmt (e : Nat) : Nat := bits e 122 4
def accOvf (e : Nat) : Bool := bits e 112 1 = 1
def accVal (e : Nat) : Int := toSigned 112 e
/-- An entry that R230 allows. -/
def accOk (e : Nat) : Bool :=
  accKind e ≠ 3 && bits e 113 9 = 0 && (if accKind e = 1 then accFmt e ≤ 3 else accFmt e = 0) && (accKind e = 2 || !accOvf e)
def accIeee (fmt v : Nat) : Nat := 2 ^ 126 + fmt * 2 ^ 122 + v
def accFixed (ovf : Bool) (v : Int) : Nat := 2 * 2 ^ 126 + (if ovf then 2 ^ 112 else 0) + (v % 2 ^ 112).toNat

/-- The scale of a tile. -/
def Field.scale (f : Field) (arr t : Nat) : W64 := f.tsc.toList.getD (4 * arr + t) 0
def Field.setScale (f : Field) (arr t : Nat) (v : W64) : Field :=
  { f with tsc := f.tsc.mapIdx fun k w => if k = 4 * arr + t then v else w }

/-- The entries of a tile, row by row. -/
def State.tileEntries (s : State) (f arr t : Nat) : List (List Nat) :=
  (List.range 64).map fun i => (List.range 64).map fun j => s.acc f arr t i j
/-- Rows of entries written from row i0 on. -/
def State.setRows (s : State) (f arr t : Nat) (i0 : Nat) (es : List (List Nat)) : State :=
  es.zipIdx.foldl (fun s r => r.1.zipIdx.foldl (fun s e => s.setAcc f arr t (i0 + r.2) e.2 e.1) s) s

/-! ### The shadow copy (R324) -/

def inTileCells (f arr t k : Nat) : Bool := accKey f arr t 0 0 ≤ k && k < accKey f arr t 64 0
/-- The tile and its scale as the operation of a request finds them. -/
def State.takeShadow (s : State) (f req arr t : Nat) : State :=
  let fl := s.fieldOf f
  let cs := (s.mem.filter fun c => inTileCells f arr t c.1).map fun c => (c.1 - accKey f arr t 0 0, c.2)
  s.setField { fl with shadow :=
    { req := req, arr := arr, tile := t, cells := cs, scale := fl.scale arr t } :: fl.shadow.filter fun p => p.req ≠ req }
/-- The tile and its scale as the request's shadow copy holds them. -/
def State.restoreShadow (s : State) (f req : Nat) : State :=
  let fl := s.fieldOf f
  match fl.shadow.find? (·.req = req) with
  | some p =>
    let k0 := accKey f p.arr p.tile 0 0
    let m := s.mem.filter fun c => !inTileCells f p.arr p.tile c.1
    { s.setField (fl.setScale p.arr p.tile p.scale) with mem := p.cells.foldl (fun m c => writeByte m (k0 + c.1) c.2) m }
  | none => s

/-! ### Issue (R335, R346, R347) -/

/-- A fault of a scratchpad operand: FOBJ names the field (R338). -/
def State.spTrap (s : State) (code sub faddr : Nat) : TrapInfo :=
  mkTrap code sub (if s.ownObj s.me.fld = 0 then localObj else s.ownObj s.me.fld) faddr

/-- A request without a block. -/
def State.sendPlain (s : State) (w : LF) (major arr : Nat) (ops : List W64) : Act :=
  let i := s.issuer 0 [] 0
  let p : Plan := { total := 1, eng := engId s.pkg 8 (2 * s.me.fld + arr) }
  s.sendReq i p .ok .tl fun s => s.mkReq i major w.fn.toNat w.imm.toNat [] ops (sinkOf w.d [] Cap.null) false p

/-- A matrix operation's fields. -/
structure MatOp where
  mmx : Bool
  fa : Nat
  fb : Nat
  facc : Nat
  k : Nat
  a : SpOp
  b : SpOp
  ctl : Nat
  sca : Nat
  scb : Nat
  arr : Nat
  t : Nat
  md : RMode

def matOp (mmx : Bool) (fn imm : Nat) (ops : List W64) : MatOp :=
  let v (i : Nat) : Nat := (ops.getD i 0).toNat
  { mmx := mmx, fa := bits imm 0 4, fb := bits imm 4 4, facc := bits imm 8 4
    k := (if mmx then 32 else 16) * bits imm 12 9, a := spOp (v 0) (v 1), b := spOp (v 2) (v 3), ctl := v 4
    sca := bits (v 5) 0 32, scb := bits (v 5) 32 32, arr := bits fn 1 1, t := bits fn 2 2, md := rmode (bits fn 4 3) }

/-- A value outside the ranges of R346. -/
def MatOp.bad (m : MatOp) : Bool :=
  let fmtBad (f : Nat) : Bool := if m.mmx then f < 4 || f > 6 else f > 3
  let opBad (o : SpOp) (f : Nat) : Bool := o.rest ≠ 0 || o.rows ≠ 64 || codeWidth f * m.k > 128 * o.n16
  let band (f v : Nat) : Bool := v ≠ 0 && (!m.mmx || f ≠ 6)
  fmtBad m.fa || fmtBad m.fb || m.facc > 1 || (!m.mmx && (m.fa = 0 || m.fb = 0) && m.facc ≠ 0) || m.k = 0
    || m.k > (if m.mmx then 8192 else 4096) || opBad m.a m.fa || opBad m.b m.fb || bits m.ctl 16 16 ≠ 0
    || band m.fa (bits m.ctl 32 16) || band m.fb (bits m.ctl 48 16)

/-- The tiles that the operands name, with the offsets that must lie in them and their last-use bits. -/
def MatOp.tiles (m : MatOp) : List (Nat × List Nat × Bool) :=
  (if bits m.ctl 6 1 = 1 then [(bits m.ctl 0 6, m.a.offs 64 m.fa m.k, (bits m.ctl 7 1 == 1))] else []) ++
    (if bits m.ctl 14 1 = 1 then [(bits m.ctl 8 6, m.b.offs 64 m.fb m.k, (bits m.ctl 15 1 == 1))] else [])

/-- The checks of R346 and R347. -/
def State.matCheck (s : State) (m : MatOp) : Option TrapInfo :=
  let f := s.myField
  let mx := f.nmax * step512
  let offs := m.a.offs 64 m.fa m.k ++ m.b.offs 64 m.fb m.k
  let ks := m.k / 8
  if m.bad then some (s.spTrap ccEngine 0x8B 0)
  else if !m.a.aligned then some (s.spTrap ccAlign 0 m.a.base)
  else if !m.b.aligned then some (s.spTrap ccAlign 0 m.b.base)
  else
    match offs.find? fun o => o + 16 > mx with
    | some o => some (s.spTrap ccCapBounds 0 o)
    | none =>
      if m.mmx && m.sca + 64 * ks > mx then some (s.spTrap ccCapBounds 0 m.sca)
      else if m.mmx && m.scb + 64 * ks > mx then some (s.spTrap ccCapBounds 0 m.scb)
      else
        match m.tiles.find? fun t => f.tileCode t.1 = 4 with
        | some t => some (tileTrap t.1 1)
        | none => if m.tiles.all fun t => t.2.1.all fun o => f.inTile (t.1, o, 16) then none else some (s.spTrap ccEngine 0x8B 0)

def matIssue (w : LF) (major : Nat) (mmx : Bool) (s : State) : Out :=
  let x : RegF := w.x
  let regs := [w.a, w.a + 1, w.b, w.b + 1, x] ++ if mmx then [x + 1] else []
  runL w .other { reads := regs } (fun s =>
    if s.sinkUnbound w.d then .raise (unbound w.d.toNat) s
    else
      let m := matOp mmx w.fn.toNat w.imm.toNat (regs.map s.readReg)
      match s.matCheck m with
      | some k => .raise k s
      | none => s.sendPlain w major m.arr (regs.map s.readReg)) s

def execMma (w : LF) (s : State) : Out := matIssue w 0x24 false s
def execMmx (w : LF) (s : State) : Out := matIssue w 0x25 true s

/-! ### Performing an operation (R320 to R324) -/

/-- An `attn` of another stream runs, and both arrays of the field serve nothing else (R325): it has begun and waits for keys, a
fault holds it, or its rows have not all left. -/
def State.arrayBusy (s : State) (f sid : Nat) : Bool :=
  s.streams.any fun st => st.id ≠ sid && st.eng = engId s.pkg 9 f &&
    ((st.stall.isSome && st.cur.any (·.major = 0x28)) ||
      st.reqs.any fun r => r.major = 0x28 && ((r.started && r.next < r.total) || !r.data.isEmpty))

/-- A matrix request's fields; none for another request. -/
def Req.mat (r : Req) : Option MatOp := if r.major = 0x24 || r.major = 0x25 then some (matOp (r.major = 0x25) r.fn r.imm r.ops) else none
/-- The tiles that an operation reads. -/
def MatOp.reads (m : MatOp) : List Nat := m.tiles.map (·.1)

/-- The named tiles are defined, hold the operands, and are ready; those of a last use begin to drain (R237, R302, R347). The
table is as it stands now, whatever it was at issue. -/
def eTiles (m : MatOp) : Eng Unit := do
  let w ← get
  let f := w.s.fieldOf w.r.fld
  let own := w.s.ownObj w.r.fld
  match m.tiles.find? fun t => f.tileCode t.1 = 4 with
  | some t => eFault (tileTrap t.1 1)
  | none =>
    if !(m.tiles.all fun t => t.2.1.all fun o => f.inTile (t.1, o, 16)) then eFault (mkTrap ccEngine 0x8B own 0)
    else if (m.tiles.any fun t => f.tileCode t.1 ≠ 2) || w.s.tileBehind w.r.fld (.req w.r.id) none m.reads then eStop (.wait none)
    else
      let s := w.s.tileGone w.r.fld (.req w.r.id)
      set { w with s := s.setField (m.tiles.foldl (fun (f : Field) (t : Nat × List Nat × Bool) => if t.2.2 then f.setTile t.1 .draining else f) (s.fieldOf w.r.fld)) }

/-- One entry of `mma` (R321), or none for ENGINE 0x90. -/
def mmaEntry (facc : Nat) (md : RMode) (e : Nat) (xs : List (FVal × FVal)) : Option FRes :=
  let f := ieeeFmt facc
  let go (a : Nat) : FRes := xs.foldl (fun r p => let q := f.fmaV md p.1 p.2 r.1; (q.1, r.2 ||| q.2)) (a, 0)
  if accKind e = 0 then some (go 0)
  else if accKind e = 1 && accFmt e = facc then some (go (bits e 0 64))
  else none

/-- Faults that hold an operation (R324): all but those that its work reports (R321, R322, R348); an operand that its tile does
not hold any more is a fault of the tile table. -/
def arrayHolds (k : TrapInfo) : Bool := k.code ≠ ccEngine || k.sub = 0x8B

def mmaBody (r : Req) : Eng ElemRes := do
  let m := matOp false r.fn r.imm r.ops
  let w ← get
  if w.s.arrayBusy r.fld 0 then eStop (.wait none)
  else
    eTiles m
    let own := w.s.ownObj r.fld
    let a ← eRows own m.a 64 m.fa m.k
    let b ← eRows own m.b 64 m.fb m.k
    let es := (w.s.tileEntries r.fld m.arr m.t).zip a
    let bv := b.map fun row => row.map (codeVal m.fb)
    let out ← es.mapM fun (row, ac) =>
      let av := ac.map (codeVal m.fa)
      (row.zip bv).mapM fun (e, bc) =>
        match mmaEntry m.facc m.md e (av.zip bc) with
        | some q => do eFlags q.2; pure (accIeee m.facc q.1)
        | none => eFault (engTrap 0x90 0 0)
    modify fun w => { w with s := w.s.setRows r.fld m.arr m.t 0 out }
    pure {}

/-- An operand row has a NaN code in a block whose scale does not make its codes ignored (R60, R62). -/
def rowNan (vs : List FVal) (sc : List Nat) : Bool :=
  ((octets sc.length vs).zip sc).any fun p => p.2 ≠ 0 && p.1.any FVal.isNan

/-- x of R322 for one entry, in units of 2^−56; none for a NaN. A code of a block of scale 0x00 is ignored, a NaN code too: R60
and R62 say so, and R322 refers to R62 there (log 88). -/
def mmxSum (fa fb : Nat) (a b sa sb : List Nat) : Option Int :=
  let va := a.map (narrowFmt (fa - 4)).val
  let vb := b.map (narrowFmt (fb - 4)).val
  if sa.contains 255 || sb.contains 255 || rowNan va sa || rowNan vb sb then none
  else
    let sc (n : Nat) : Int := let (m, e) := scaleVal n; m * 2 ^ (e + 8).toNat
    let ps := octets sa.length ((va.zip vb).map fun p => p.1.scaled (-17) * p.2.scaled (-17))
    some ((ps.zip (sa.zip sb)).foldl (fun x p => x + p.1.foldl (· + ·) 0 * sc p.2.1 * sc p.2.2 * 64) 0)

/-- One entry of `mmx` (R322) with its flags, or none for ENGINE 0x90. -/
def mmxEntry (e : Nat) (x : Option Int) : Option (Nat × Nat) :=
  if accKind e = 1 && ((ieeeFmt (accFmt e)).val (bits e 0 64)).isNan then some (e, 0)
  else if accKind e = 1 || accKind e = 3 then none
  else if accOvf e then some (e, 0)
  else
    match x with
    | none => some (accIeee 0 0x7FF8000000000000, 0)
    | some x =>
      let y := (if accKind e = 0 then 0 else accVal e) + x
      if y.natAbs ≥ 2 ^ 111 then some (accFixed true (if y < 0 then -(2 ^ 111 - 1) else 2 ^ 111 - 1), flOF)
      else some (accFixed false y, 0)

/-- The block scales of an operand, row by row. -/
def eScales (obj off n : Nat) : Eng (List (List Nat)) :=
  (List.range 64).mapM fun i => do pure ((← eBytes obj (off + i * n) n).map (·.toNat))

def mmxBody (r : Req) : Eng ElemRes := do
  let m := matOp true r.fn r.imm r.ops
  let w ← get
  if w.s.arrayBusy r.fld 0 then eStop (.wait none)
  else
    eTiles m
    let own := w.s.ownObj r.fld
    let a ← eRows own m.a 64 m.fa m.k
    let b ← eRows own m.b 64 m.fb m.k
    let sa ← eScales own m.sca (m.k / 8)
    let sb ← eScales own m.scb (m.k / 8)
    let band (f lo : Nat) : Nat := if f = 6 then (convFmt fmtD fmtB .rne (bits m.ctl lo 16)).1 else fmtD.one
    let bp := BitVec.ofNat 64 (fmtD.mul .rne (band m.fa 32) (band m.fb 48)).1
    let es := w.s.tileEntries r.fld m.arr m.t
    if (es.any fun row => row.any fun e => accKind e ≠ 0) && (w.s.fieldOf r.fld).scale m.arr m.t ≠ bp then eFault (engTrap 0x92 0 0)
    else
      let out ← (es.zip (a.zip sa)).mapM fun (row, ac, sc) =>
        (row.zip (b.zip sb)).mapM fun (e, bc, sd) =>
          match mmxEntry e (mmxSum m.fa m.fb ac bc sc sd) with
          | some q => do eFlags q.2; pure q.1
          | none => eFault (engTrap 0x90 0 0)
      modify fun w =>
        let s := w.s.setRows r.fld m.arr m.t 0 out
        { w with s := s.setField ((s.fieldOf r.fld).setScale m.arr m.t bp) }
      pure {}

/-- What precedes an attempt at a stream's operation: it has reached the tile table and keeps its place there (R237), and its
shadow copy is taken as it starts (R324). -/
def State.shadowed (s : State) (sid : Nat) : State :=
  match (s.streamAt sid).bind Stream.cur with
  | some r =>
    match r.mat with
    | some m =>
      if r.out.isSome || ((s.streamAt sid).any (·.stall.isSome)) then s
      else
        let s := if m.reads.all fun k => (s.fieldOf r.fld).tileCode k = 2 then s else s.tileWait r.fld (.req r.id) none m.reads
        s.takeShadow r.fld r.id m.arr m.t
    | none => s
  | none => s

/-- The shadow copies of operations that are over are not kept. -/
def State.dropShadows (s : State) (sid : Nat) : State :=
  match s.streamAt sid with
  | some st =>
    st.reqs.foldl (fun s r =>
      if r.mat.isSome && r.next = r.total then
        let f := s.fieldOf r.fld
        s.setField { f with shadow := f.shadow.filter (·.req ≠ r.id) }
      else s) s
  | none => s

/-- An attempt at an operation of an array. -/
def State.arrayStep (s : State) (sid major : Nat) (body : Req → Eng ElemRes) : Out :=
  let s := s.shadowed sid
  .next (((s.engRun sid [major] body arrayHolds).getD s).dropShadows sid)

def execMmaPerform (st : Nat) (s : State) : Out := s.arrayStep st 0x24 mmaBody
def execMmxPerform (st : Nat) (s : State) : Out := s.arrayStep st 0x25 mmxBody

/-! ### Rows out and in (R323, R348) -/

/-- The value of an entry: as it is drained, with the flags it raises; a saturated entry has only a sign. -/
def drained (tsc : W64) (e : Nat) : Except Bool (FVal × Nat) :=
  match accKind e with
  | 1 => .ok ((ieeeFmt (accFmt e)).val (bits e 0 64), 0)
  | 2 =>
    let v := accVal e
    if accOvf e then .error (v < 0)
    else
      let x : FVal := if v = 0 then .zero false else .fin (v < 0) v.natAbs (-56)
      let t := fmtD.val tsc.toNat
      if t.isNan then .ok (.nan false, 0) else if x.badMul t then .ok (.nan false, flNV) else .ok (x.mulV t, 0)
  | _ => .ok (.zero false, 0)

/-- An entry converted to a format (R323): an overflow of the target for a saturated one (R65). -/
def drainCode (ft : Nat) (md : RMode) (tsc : W64) (e : Nat) : Nat × Nat :=
  match drained tsc e with
  | .ok (v, fl) => let r := (target ft).of md v; (r.1, r.2 ||| fl)
  | .error neg => let r := (target ft).of md (.fin neg 1 20000); (r.1, r.2 ||| flOF)

structure RowOp where
  arr : Nat
  t : Nat
  raw : Bool
  md : RMode
  ft : Nat
  row0 : Nat
  n : Nat
  base : Nat
  pitch : Nat
  rest : Nat

def rowOp (fn imm : Nat) (a : W64) : RowOp :=
  { arr := bits fn 1 1, t := bits fn 2 2, raw := bits fn 7 1 = 1, md := rmode (bits fn 4 3), ft := bits imm 0 4
    row0 := bits imm 4 6, n := bits imm 10 6 + 1, base := bits a.toNat 0 32, pitch := bits a.toNat 32 16, rest := bits a.toNat 48 16 }
/-- Bytes of a row in the scratchpad. -/
def RowOp.bytes (o : RowOp) (raw : Bool) : Nat := if raw then 1024 else fmtBytes o.ft 64

def State.rowCheck (s : State) (o : RowOp) (raw : Bool) : Option TrapInfo :=
  let mx := s.myField.nmax * step512
  if o.rest ≠ 0 || o.row0 + o.n > 64 then some (s.spTrap ccEngine 0x8B 0)
  else if o.base % 16 ≠ 0 || o.pitch % 16 ≠ 0 then some (s.spTrap ccAlign 0 o.base)
  else ((List.range o.n).find? fun j => o.base + j * o.pitch + o.bytes raw > mx).map fun j => s.spTrap ccCapBounds 0 (o.base + j * o.pitch)

def rowIssue (w : LF) (major : Nat) (raw : Bool) (regs : List RegF) (s : State) : Out :=
  runL w .other { reads := regs } (fun s =>
    if s.sinkUnbound w.d then .raise (unbound w.d.toNat) s
    else
      let ops := regs.map s.readReg
      let o := rowOp w.fn.toNat w.imm.toNat (ops.getD 0 0)
      match s.rowCheck o raw with
      | some k => .raise k s
      | none => s.sendPlain w major o.arr ops) s

def execAccrd (w : LF) (s : State) : Out := rowIssue w 0x26 (w.fnBits 7 1 = 1) [w.a] s
def execAccwr (w : LF) (s : State) : Out := rowIssue w 0x27 true (if w.fnBits 8 1 = 1 then [w.a, w.b] else [w.a]) s

def accrdBody (r : Req) : Eng ElemRes := do
  let o := rowOp r.fn r.imm (r.ops.getD 0 0)
  let s := (← get).s
  if s.arrayBusy r.fld 0 then eStop (.wait none)
  else
    let tsc := (s.fieldOf r.fld).scale o.arr o.t
    let _ ← (List.range o.n).mapM fun j => do
      let es := (List.range 64).map fun c => s.acc r.fld o.arr o.t (o.row0 + j) c
      let at_ := o.base + j * o.pitch
      if o.raw then eWrite (s.ownObj r.fld) at_ (es.flatMap (toBytes 16))
      else
        let cs := es.map (drainCode o.ft o.md tsc)
        eFlags (cs.foldl (fun a c => a ||| c.2) 0)
        eWrite (s.ownObj r.fld) at_ (packCodes o.ft (cs.map (·.1)))
    pure {}

def accwrBody (r : Req) : Eng ElemRes := do
  let o := rowOp r.fn r.imm (r.ops.getD 0 0)
  let s := (← get).s
  if s.arrayBusy r.fld 0 then eStop (.wait none)
  else
    let rows ← (List.range o.n).mapM fun j => do
      let b ← eBytes (s.ownObj r.fld) (o.base + j * o.pitch) 1024
      pure ((List.range 64).map fun c => fieldLE b (16 * c) 16)
    match rows.zipIdx.findSome? fun p => (p.1.findIdx? fun e => !accOk e).map fun c => (o.row0 + p.2, c) with
    | some (i, c) => eFault (engTrap 0x8D (s.ownObj r.fld) (i + 64 * c))
    | none =>
      modify fun w =>
        let s := w.s.setRows r.fld o.arr o.t o.row0 rows
        { w with s := if bits r.fn 8 1 = 1 then s.setField ((s.fieldOf r.fld).setScale o.arr o.t (r.ops.getD 1 0)) else s }
      pure {}

def execAccrdPerform (st : Nat) (s : State) : Out := engStep s (s.engRun st [0x26] accrdBody arrayHolds)
def execAccwrPerform (st : Nat) (s : State) : Out := engStep s (s.engRun st [0x27] accwrBody arrayHolds)

/-! ### The drain port (R181, R323) -/

/-- The element as the source of requests (R310, R312). -/
def Fx.issuer (x : Fx) (scope : Nat) (caps : List (Nat × Cap)) (out : Bool) : Issuer :=
  { src := .elem x.sl.fld x.sl.idx x.e.site, fld := x.sl.fld, ctx := x.sl.ctx, party := x.s.slotParty x.sl, round := x.e.rinAt 0
    x := scope, caps := caps, obj := 0, out := out }

/-- Requests of the element that have not completed. -/
def Fx.pendingReq (x : Fx) : Bool := x.s.streams.any fun t => t.src = .elem x.sl.fld x.sl.idx x.e.site && !t.reqs.isEmpty

/-- The internal major of a drain command. -/
def majDrain : Nat := 0x3F

/-- The values of some rows of a tile as beats, four to a row; a saturated entry leaves as an infinity. -/
def State.drainBeats (s : State) (f arr t row0 n : Nat) (round : W32) : List Beat × Bool :=
  let tsc := (s.fieldOf f).scale arr t
  let es := (List.range n).flatMap fun i => (List.range 64).map fun j => drained tsc (s.acc f arr t (row0 + i) j)
  let vs := es.map fun e => match e with
    | .ok p => p.1
    | .error neg => .inf neg
  ((List.range (4 * n)).flatMap fun k => valueBeats ((vs.drop (16 * k)).take 16) round,
    es.any fun e => match e with
      | .ok _ => false
      | .error _ => true)

/-- MXP: a drain command joins the element's stream, or the one at its head is performed. -/
def fireMxp (f site : Nat) (s : State) : Option State :=
  (s.fxAt f site false fun e => e.isM && e.col = 0 && e.op = 0x07).bind fun x =>
    let arr := site / 16 % 2
    x.fire [0] x.pendingReq fun x =>
      if x.pendingReq then
        match x.s.streams.find? fun t => t.src = .elem f x.sl.idx site with
        | some st =>
          match st.cur with
          | some r =>
            if x.s.arrayBusy f st.id then none
            else
              let c := r.imm
              let (bs, ovf) := x.s.drainBeats f arr (bits c 0 2) (bits c 2 6) (bits c 8 6 + 1) r.round
              let e := { x.e with status := x.e.status ||| (if ovf then BitVec.ofNat 32 sbOF else 0) }
              let x : Fx := { x with s := x.s.setStream (st.setReq { r with next := 1, started := true }), e := e }
              (x.queue (bs.map fun b => (0, b))).fired
          | none => none
        | none => none
      else
        match x.wordAt 0 with
        | none => none
        | some (.inl s) => some s
        | some (.inr w) =>
          let c := w.toNat
          if bits c 14 18 ≠ 0 || bits c 2 6 + bits c 8 6 + 1 > 64 then some (x.stallAt ccCfg 0x0B 0)
          else
            (x.gateIn 0).map fun x =>
              let x := x.drop 0
              let i := x.issuer 0 [] false
              let p : Plan := { total := 1, eng := engId x.s.pkg 8 (2 * f + arr) }
              let s := x.s.enqueue i p (x.s.mkReq i majDrain 0 c [] [] .none false p)
              ({ x with s := s } : Fx).done
def execMxp (fld site : Nat) (s : State) : Out := stepOf s (fireMxp fld site s)

end Sys2Proof.Machine
end

