-- ==== Sys2Proof/Machine/Nvme.lean ====
section
/-!
DEFINITION. The queues of NVMe controllers in HBM (R332, R355, R356, R461): where the entries of a pair lie, an entry
submitted with its data pointers, a completion posted, and the doorbells.
-/
namespace Sys2Proof.Machine

/-- A queue has 2 to 4,096 entries (R332). -/
def queueSize (n : Nat) : Nat := min (max n 2) 4096
def sqSize (pair : Nat) : Nat := queueSize (Config.sqSize pair)
def cqSize (pair : Nat) : Nat := queueSize (Config.cqSize pair)
/-- The key of a queue in HBM: the address that the operating system gave the controller (R462, log 97). -/
def queueBase (a : Nat) : Nat := hbmKey (a / 2 ^ 48 % 8) (a / 64 * 64 % (Config.frames * 65536))
def sqBase (pair : Nat) : Nat := queueBase (Config.sqAddr pair)
def cqBase (pair : Nat) : Nat := queueBase (Config.cqAddr pair)

/-- A pair's positions; a pair that was never used stands at 0. -/
def State.nvq (s : State) (pair : Nat) : NvQueue :=
  (s.nvqs.find? (·.pair = pair)).getD { pair := pair, sqTail := 0, sqHead := 0, cqTail := 0, cqHead := 0 }
def State.setNvq (s : State) (q : NvQueue) : State := { s with nvqs := s.nvqs.filter (·.pair ≠ q.pair) ++ [q] }

def NvQueue.sqFull (q : NvQueue) : Bool := (q.sqTail + 1) % sqSize q.pair = q.sqHead
def NvQueue.cqFull (q : NvQueue) : Bool := (q.cqTail + 1) % cqSize q.pair = q.cqHead

/-- Bytes of a queue written in HBM, sector after sector; a queue's sectors are not coded. -/
def State.queueWrite (s : State) (key : Nat) (b : List Byte) : State :=
  (pieces key b.length).foldl (fun s p =>
    let (data, mask) := inSector p.1 p.2 (ofBytes ((b.drop (p.1 - key)).take p.2))
    s.storeSector p.1 0 0 p.1 data mask false) s

/-- The pages of one object from off on, each as its bus address: the key in HBM of its first byte that the transfer uses. -/
def prpList (pins : List Pin) (obj off n : Nat) : List Nat :=
  if n = 0 then []
  else (List.range ((off + n - 1) / 65536 - off / 65536 + 1)).map fun i =>
    let page := off / 65536 + i
    let frame := ((pins.find? fun p => p.obj = obj && p.page = page).map (·.frame)).getD 0
    hbmKey (obj % 8) (frame * 65536 + (if i = 0 then off % 65536 else 0))

/-- The two data pointers of an entry: up to two pages themselves, and the list where there are more (log 97). -/
def prpWords (pair slot : Nat) : List Nat → Nat × Nat
  | [] => (0, 0)
  | [a] => (a, 0)
  | [a, b] => (a, b)
  | a :: _ => (a, Config.prpAddr (pair * 4096 + slot))

/-- A submission entry of the NVM Command Set without its pointers. -/
def sqeBytes (opc cid nsid slba cdw12 cdw13 cdw14 cdw15 : Nat) : List Byte :=
  toBytes 1 opc ++ toBytes 1 0 ++ toBytes 2 cid ++ toBytes 4 nsid ++ toBytes 32 0 ++ toBytes 8 slba ++ toBytes 4 cdw12 ++
    toBytes 4 cdw13 ++ toBytes 4 cdw14 ++ toBytes 4 cdw15

/-- The command with its PRP list and the pointers of its entry, from the pages that it pins: data, and metadata if any. -/
def NvCmd.filled (c : NvCmd) (slot : Nat) (data : Nat × Nat × Nat) (md : Option (Nat × Nat)) : NvCmd :=
  let l := prpList c.pins data.1 data.2.1 data.2.2
  let (p1, p2) := prpWords c.pair slot l
  let mp := md.elim 0 fun m => (prpList c.pins m.1 m.2 1).headD 0
  { c with prps := l, sent := true, sqe := c.sqe.take 16 ++ toBytes 8 mp ++ toBytes 8 p1 ++ toBytes 8 p2 ++ c.sqe.drop 40 }

/-- A page translated and entered in the pin table (R250). -/
def ePin (obj page : Nat) (wr : Bool) : Eng Pin := do
  let w ← get
  let a := w.r.access obj (page * 65536) 1 (if wr then .write 0 else .read) false true
  if w.s.pinsAt (obj % 8) ≥ pinCap || w.s.engWaits w.r a then eStop (.wait none)
  else
    match w.s.translate w.r.ctx obj (page * 65536) wr with
    | .ok key kind side => pure (w.s.newPin w.r.ctx obj page key kind side)
    | .held c y => eStop (.wait (some (a, c, y)))
    | .busy => eStop (.wait none)

/-- The entry of a command written at the tail of its pair's submission queue, and the doorbell rung (R355). -/
def State.ringDoor (s : State) (c : NvCmd) : State :=
  let q := s.nvq c.pair
  (s.queueWrite (sqBase c.pair + 64 * q.sqTail) c.sqe).setNvq { q with sqTail := (q.sqTail + 1) % sqSize c.pair }

/-- A completion entry written by the controller, with the head of the submission queue that it reports. -/
def State.cqPut (s : State) (pair : Nat) (e : W128) : State :=
  let q := s.nvq pair
  (s.queueWrite (cqBase pair + 16 * q.cqTail) (toBytes 16 e.toNat)).setNvq
    { q with sqHead := bits e.toNat 64 16 % sqSize pair, cqTail := (q.cqTail + 1) % cqSize pair }

/-- The completion doorbell: one more entry is taken (R356). -/
def State.cqTake (s : State) (pair : Nat) : State :=
  let q := s.nvq pair
  s.setNvq { q with cqHead := (q.cqHead + 1) % cqSize pair }

/-- The bytes [key, key + n) lie within one queue of the pair. -/
def inQueue (pair key n : Nat) : Bool :=
  (sqBase pair ≤ key && key + n ≤ sqBase pair + 64 * sqSize pair) || (cqBase pair ≤ key && key + n ≤ cqBase pair + 16 * cqSize pair)

end Sys2Proof.Machine
end

