-- ==== Sys2Proof/Machine/Kv.lean ====
section
/-!
DEFINITION. The KV engine and the backfill engine (R357 to R359, R361, R364 to R380): pool descriptors, the Ephemeris table,
sequence descriptors, and the requests that change them. Accesses to the table, the descriptors and the row store are
synchronising ones at the pool scope (R357); those to lists, rows and weights are the request's own.
-/
namespace Sys2Proof.Machine

/-! ### Pools (R364, R365) -/

structure Pool where
  raw : List Byte
  tab : Cap
  data : Cap
  seqs : Cap

def Pool.n (p : Pool) : Nat := 2 ^ fieldLE p.raw 0 1
def Pool.d (p : Pool) : Nat := 16 * fieldLE p.raw 1 1
def Pool.fin (p : Pool) : Nat := fieldLE p.raw 2 1
def Pool.nl (p : Pool) : Nat := fieldLE p.raw 3 1
def Pool.vseq (p : Pool) : Nat := fieldLE p.raw 4 4
def Pool.vlay (p : Pool) : Nat := fieldLE p.raw 8 1
def Pool.psc (p : Pool) : Nat := fieldLE p.raw 9 1
/-- Bytes of one row, and of one block. -/
def Pool.rowB (p : Pool) : Nat := fmtBytes p.fin p.d
def Pool.bb (p : Pool) : Nat := 32 * p.rowB

/-- Capability c covers n bytes from its cursor with some rights, for the field own. -/
def covers (own : Nat) (c : Cap) (rights n : Nat) : Bool := (checkRange own c rights c.cur n).isNone

def Pool.ok (own : Nat) (p : Pool) : Bool :=
  let lgt := fieldLE p.raw 0 1
  let dd := fieldLE p.raw 1 1
  4 ≤ lgt && lgt ≤ 24 && 1 ≤ dd && dd ≤ 16 && 1 ≤ p.fin && p.fin ≤ 3 && 1 ≤ p.nl && p.vlay < p.nl && p.psc ≤ 31 &&
    fieldLE p.raw 10 6 = 0 && covers own p.tab (pR + pW + pA + pE) (64 + 36 * p.n) &&
    covers own p.data (pR + pW + pE) (p.n * p.bb) && p.seqs.tag && p.seqs.has (pR + pW + pA + pE)

/-- A synchronising access of the engine at a scope, as a release there where it is one. -/
def kAccess (x obj off n : Nat) (op : AccOp) (rel : Bool) (exempt : Bool := false) : Eng (Nat × Bool) := do
  let w ← get
  let a := w.r.access obj off n op true exempt
  eAccess { a with scope := x, gen := (w.s.ctxOf w.r.ctx).gen x, rel := if rel then [w.s.memberSet w.r.ctx w.r.fld x] else [] }

/-- n bytes, sector by sector. -/
def kBytes (x obj off n : Nat) (exempt : Bool := false) : Eng (List Byte) := do
  let l ← (pieces off n).mapM fun p => do pure (toBytes p.2 (← kAccess x obj p.1 p.2 .read false exempt).1)
  pure l.flatten
/-- n sectors with their tags. -/
def kSecs (x obj off n : Nat) : Eng (List (Nat × Bool)) := (List.range n).mapM fun i => kAccess x obj (off + 16 * i) 16 .capRead false
def kPut (x obj off : Nat) (b : List Byte) (rel : Bool := false) : Eng Unit := do
  let _ ← (pieces off b.length).mapM fun p => kAccess x obj p.1 p.2 (.write (ofBytes ((b.drop (p.1 - off)).take p.2))) rel
  pure ()
/-- A 4-byte atomic add. -/
def kAdd (x obj off : Nat) (v : Int) (rel : Bool) : Eng Unit := do
  let _ ← kAccess x obj off 4 (.atomic 0 (v % 2 ^ 32).toNat) rel
  pure ()

/-- The pool descriptor that a capability names, bound once for a request, whatever its elements (R281, R364). -/
def eBindPool (c : Cap) : Eng Pool := do
  let w ← get
  if c.cur % 64 ≠ 0 then eFault (capTrap ccAlign c c.cur)
  else
    let secs ← match w.r.bind with
      | some l => pure l
      | none => kSecs w.r.x c.obj c.cur 4
    modify fun w => { w with r := { w.r with bind := some secs } }
    let p : Pool := { raw := secBytes (secs.take 1), tab := secCap (secs.getD 1 (0, false)), data := secCap (secs.getD 2 (0, false))
                      seqs := secCap (secs.getD 3 (0, false)) }
    if !p.ok (w.s.ownObj w.r.fld) then eFault (engTrap 0x8E c.obj c.cur)
    else if !(w.s.ctxOf w.r.ctx).scopeOk p.psc then
      eFault (scopeTrap ccScope c.obj p.psc ((w.s.ctxOf w.r.ctx).gen p.psc))
    else pure p

/-! ### Entries (R366) -/

abbrev Ent := List Byte
def Pool.entOff (p : Pool) (b : Nat) : Nat := p.tab.cur + 64 + 32 * b
def Pool.slotOff (p : Pool) (i : Nat) : Nat := p.tab.cur + 64 + 32 * p.n + 4 * (i % p.n)
def Ent.seq (e : Ent) : Nat := fieldLE e 0 4
def Ent.lblk (e : Ent) : Nat := fieldLE e 4 2
def Ent.layer (e : Ent) : Nat := fieldLE e 6 1
def Ent.flags (e : Ent) : Nat := fieldLE e 7 1
def Ent.flag (e : Ent) (i : Nat) : Bool := bits (Ent.flags e) i 1 = 1
def Ent.pol (e : Ent) : Nat := bits (Ent.flags e) 4 2
def Ent.pres (e : Ent) : Nat := fieldLE e 8 2
def Ent.refc (e : Ent) : Nat := fieldLE e 10 1
def Ent.mass (e : Ent) : Nat := fieldLE e 11 1
def Ent.next (e : Ent) : Nat := fieldLE e 12 4
def Ent.pend (e : Ent) : Nat := fieldLE e 16 4
def flValid : Nat := 0
def flShared : Nat := 1
def flPinned : Nat := 2
def flTransit : Nat := 3
def flChain : Nat := 6
def flListed : Nat := 7

/-- An entry; the attention engine's read of one takes no part in race detection (R381). -/
def kEnt (p : Pool) (b : Nat) : Eng Ent := do kBytes p.psc p.tab.obj (p.entOff b) 32 ((← get).r.major = 0x28)
/-- Some bytes of an entry written. -/
def kEntPut (p : Pool) (b i : Nat) (v : List Byte) (rel : Bool := false) : Eng Unit := kPut p.psc p.tab.obj (p.entOff b + i) v rel
/-- A flag of an entry set or cleared; the entry's other flags stay. -/
def kFlag (p : Pool) (b i : Nat) (on rel : Bool) : Eng Unit := do
  let f := Ent.flags (← kEnt p b)
  kEntPut p b 7 [BitVec.ofNat 8 (if on then f ||| 2 ^ i else f - (f &&& 2 ^ i))] rel
/-- A malformed table (R383). -/
def malformed (p : Pool) (off : Nat) : TrapInfo := engTrap 0x98 p.tab.obj off

/-- The header's counts: nfree, head, tail. -/
def kHdr (p : Pool) : Eng (Nat × Nat × Nat) := do
  let b ← kBytes p.psc p.tab.obj p.tab.cur 12
  pure (fieldLE b 0 4, fieldLE b 4 4, fieldLE b 8 4)
def kHdrPut (p : Pool) (nfree head tail : Nat) : Eng Unit :=
  kPut p.psc p.tab.obj p.tab.cur (toBytes 4 nfree ++ toBytes 4 head ++ toBytes 4 tail)

/-! ### Sequence descriptors (R370, R371) -/

def descOk (b : List Byte) : Bool :=
  fieldLE b 0 4 ≠ 0 && bits (fieldLE b 16 1) 0 2 ≠ 3 && bits (fieldLE b 16 1) 3 2 ≠ 3 && bits (fieldLE b 16 1) 5 3 = 0 &&
    fieldLE b 17 1 = 0 && fieldLE b 42 2 = 0

def Pool.descOff (p : Pool) (s : Nat) : Nat := p.seqs.cur + 64 * s
/-- The descriptor of sequence s with its layer-table capability. -/
def kDesc (p : Pool) (s : Nat) : Eng (List Byte × Cap) := do
  let w ← get
  let bad := engTrap 0x8E p.seqs.obj (p.descOff s)
  if (checkRange (w.s.ownObj w.r.fld) p.seqs pR (p.descOff s) 64).isSome || p.descOff s % 16 ≠ 0 then eFault bad
  else
    let secs ← kSecs p.psc p.seqs.obj (p.descOff s) 4
    let b := secBytes secs
    if !descOk b || fieldLE b 0 4 ≠ s then eFault bad else pure (b, secCap (secs.getD 3 (0, false)))
/-- The sequence whose descriptor a request names. -/
def kNamed (p : Pool) (c : Cap) : Eng Nat := do
  let r : Int := (c.cur : Int) - p.seqs.cur
  if c.obj ≠ p.seqs.obj || r ≤ 0 || r % 64 ≠ 0 then eFault (engTrap 0x8E c.obj c.cur)
  else
    let s := (r / 64).toNat
    let _ ← kDesc p s
    pure s
def kDescPut (p : Pool) (s off v : Nat) : Eng Unit := kPut p.psc p.seqs.obj (p.descOff s + off) (toBytes 4 v)
def kDescAdd (p : Pool) (s off : Nat) (v : Int) (rel : Bool) : Eng Unit := kAdd p.psc p.seqs.obj (p.descOff s + off) v rel

/-! ### Lookup (R367) -/

def kvHash (s j l : Nat) : Nat := (s * 0x9E3779B1 + j * 0x85EBCA77 + l * 0xC2B2AE3D) % 2 ^ 32
def Pool.window (p : Pool) (s j l : Nat) : List Nat := (List.range 8).map fun k => (kvHash s j l + k) % p.n

/-- The first entry of a list that passes a test. -/
def kFirst (p : Pool) (ok : Ent → Bool) : List Nat → Eng (Option Nat)
  | [] => pure none
  | b :: l => do if ok (← kEnt p b) then pure (some b) else kFirst p ok l

/-- The first entry of a chain that passes a test, or the chain's end. -/
def kChain (p : Pool) (ok : Ent → Bool) : Nat → Nat → Eng (Sum Nat Nat)
  | 0, b => eFault (malformed p (p.entOff b))
  | n + 1, b => do
    let e ← kEnt p b
    if !Ent.flag e flChain then pure (.inr b)
    else if Ent.next e ≥ p.n then eFault (malformed p (p.entOff b))
    else if ok (← kEnt p (Ent.next e)) then pure (.inl (Ent.next e)) else kChain p ok n (Ent.next e)

/-- The search order of a key: its window, then the chain of the window's last entry. -/
def kSearch (p : Pool) (ok : Ent → Bool) (s j l : Nat) : Eng (Sum Nat Nat) := do
  match ← kFirst p ok (p.window s j l) with
  | some b => pure (.inl b)
  | none => kChain p ok p.n ((kvHash s j l + 7) % p.n)

def matchKey (s j l : Nat) (e : Ent) : Bool := Ent.flag e flValid && Ent.seq e = s && Ent.lblk e = j && Ent.layer e = l

/-- `look`: parent hops are left to go. -/
def kLook (p : Pool) (j l : Nat) : Nat → Nat → Eng (Option Nat)
  | hops, s => do
    match ← kSearch p (matchKey s j l) s j l with
    | .inl b => pure (some b)
    | .inr _ =>
      let d := (← kDesc p s).1
      match hops with
      | 0 => pure none
      | h + 1 => if fieldLE d 4 4 = 0 || 16 * j ≥ fieldLE d 8 4 then pure none else kLook p j l h (fieldLE d 4 4)
def look (p : Pool) (s j l : Nat) : Eng (Option Nat) := kLook p j l 4 s

/-! ### Allocation and release (R368, R369) -/

/-- The next entry of the free ring that may be used. -/
def kPop (p : Pool) : Nat → Eng (Option Nat)
  | 0 => pure none
  | n + 1 => do
    let (nf, hd, tl) ← kHdr p
    if hd = tl then pure none
    else
      let b := ofBytes (← kBytes p.psc p.tab.obj (p.slotOff hd) 4)
      if b ≥ p.n then eFault (malformed p (p.slotOff hd))
      else
        kHdrPut p nf ((hd + 1) % 2 ^ 32) tl
        kFlag p b flListed false false
        let e ← kEnt p b
        if Ent.seq e = 0 && !Ent.flag e flChain then pure (some b) else kPop p n

/-- An entry taken for a key; its valid bit comes last, with release. -/
def kTake (p : Pool) (b s j l pol : Nat) : Eng Unit := do
  let f := Ent.flags (← kEnt p b)
  let keep := bits f 6 2 * 64 + pol * 16
  kEntPut p b 0 (toBytes 4 s ++ toBytes 2 j ++ toBytes 1 l ++ toBytes 1 keep ++ toBytes 2 0 ++ [1, 0])
  kEntPut p b 16 (toBytes 4 0)
  let (nf, hd, tl) ← kHdr p
  kHdrPut p ((nf + 2 ^ 32 - 1) % 2 ^ 32) hd tl
  kEntPut p b 7 (toBytes 1 (keep + 1)) true

/-- An entry for a key that `look` does not find; none where the ring runs dry. -/
def kAlloc (p : Pool) (s j l pol : Nat) : Eng (Option Nat) := do
  match ← kSearch p (fun e => Ent.seq e = 0) s j l with
  | .inl b =>
    kTake p b s j l pol
    pure (some b)
  | .inr last =>
    match ← kPop p (2 * p.n) with
    | none => pure none
    | some b =>
      kEntPut p last 12 (toBytes 4 b)
      kFlag p last flChain true false
      kTake p b s j l pol
      pure (some b)

def kRelease (p : Pool) (b : Nat) : Eng Unit := do
  let f := Ent.flags (← kEnt p b)
  let (nf, hd, tl) ← kHdr p
  let listed := bits f 7 1 = 1
  kEntPut p b 7 (toBytes 1 (bits f 6 1 * 64 + 128))
  kEntPut p b 0 (toBytes 4 0)
  kEntPut p b 8 [0, 0, 0]
  kEntPut p b 16 (toBytes 4 0)
  if listed then kHdrPut p ((nf + 1) % 2 ^ 32) hd tl
  else
    kPut p.psc p.tab.obj (p.slotOff tl) (toBytes 4 b)
    kHdrPut p ((nf + 1) % 2 ^ 32) hd ((tl + 1) % 2 ^ 32)

/-- A sequence's reference on a block goes; whether the entry was released (R374). -/
def kUnref (p : Pool) (b : Nat) : Eng Bool := do
  let c := Ent.refc (← kEnt p b) - 1
  kEntPut p b 10 [BitVec.ofNat 8 c]
  if c = 0 then
    kRelease p b
    pure true
  else
    if c = 1 then kFlag p b flShared false false
    pure false

/-- Undoes what a computation has done unless it answers something. -/
def eTry {α : Type} (m : Eng (Option α)) : Eng (Option α) := do
  let w ← get
  match ← m with
  | some a => pure (some a)
  | none =>
    set w
    pure none

/-! ### Stops (R359) -/

/-- FREE_EMPTY (R359, R400). -/
def ccFree : Nat := 0x1B
def stopRes (k : TrapInfo) (done : Nat) : ElemRes :=
  { st := 6, cause := k.code, sub := k.sub, res := done, note := if k.code = ccFree then none else some k }
def freeEmpty : TrapInfo := mkTrap ccFree 0 0 0

/-! ### Issue (R357) -/

/-- The mount that serves a pool. -/
def kvMount (i : Issuer) : Nat := if (i.cap 32).obj ≥ localObj then i.fld / 16 else (i.cap 32).obj % 8

def kvPlan (kind total : Nat) (bad : List Nat) (uses : List CapUse) (s : State) (i : Issuer) (_ : List Byte) : Plan :=
  { total := total, bad := bad, uses := { at_ := 32, rights := pR, n := 64 } :: uses, eng := engId s.pkg kind (kvMount i) }

def seqUse : CapUse := { at_ := 48, rights := pR, n := 64 }

def lookPlan (s : State) (i : Issuer) (blk : List Byte) : Plan :=
  let n := fieldLE blk 4 2
  kvPlan 6 n (badAt (1 ≤ n) 4 ++ nonZero blk 6 10) [{ at_ := 48, rights := pR, n := 8 * n }] s i blk
def appPlan (s : State) (i : Issuer) (blk : List Byte) : Plan :=
  let n := fieldLE blk 4 1
  kvPlan 6 1 (badAt (1 ≤ n && n ≤ 32) 4 ++ nonZero blk 5 11) [{ at_ := 48, rights := pR, n := 32 * n }] s i blk
def forkPlan (s : State) (i : Issuer) (blk : List Byte) : Plan :=
  kvPlan 6 1 (nonZero blk 4 4 ++ nonZero blk 12 4 ++ nonZero blk 80 16) [seqUse, { at_ := 64, rights := pR + pW, n := 64 }] s i blk
def freePlan (s : State) (i : Issuer) (blk : List Byte) : Plan := kvPlan 6 1 (nonZero blk 4 4 ++ nonZero blk 12 4) [seqUse] s i blk
def polPlan (s : State) (i : Issuer) (blk : List Byte) : Plan :=
  kvPlan 6 1 (badAt (fieldLE blk 4 1 ≤ 2) 4 ++ badAt (fieldLE blk 5 1 ≤ 1) 5 ++ nonZero blk 7 1 ++ nonZero blk 12 4) [seqUse] s i blk
def scorePlan (s : State) (i : Issuer) (blk : List Byte) : Plan := kvPlan 6 1 (nonZero blk 4 12 ++ nonZero blk 48 16) [] s i blk
def evictPlan (s : State) (i : Issuer) (blk : List Byte) : Plan := kvPlan 6 1 (nonZero blk 4 12) [seqUse] s i blk
def enqPlan (s : State) (i : Issuer) (blk : List Byte) : Plan :=
  let e := fieldLE blk 4 1
  let nl := fieldLE blk 5 1
  kvPlan 5 1 (badAt (e + 1 < nl) 4 ++ badAt (e < nl) 5 ++ nonZero blk 6 2 ++ nonZero blk 12 4 ++ nonZero blk 80 16)
    [seqUse, { at_ := 64, rights := pR }] s i blk

def execKvlook (w : LF) (s : State) : Out := engBlock w 0x2E 64 [] lookPlan (s := s)
def execKvapp (w : LF) (s : State) : Out := engBlock w 0x2F 64 [] appPlan (s := s)
def execKvfork (w : LF) (s : State) : Out := engBlock w 0x30 96 [] forkPlan (s := s)
def execKvfree (w : LF) (s : State) : Out := engBlock w 0x31 64 [] freePlan (s := s)
def execKvpol (w : LF) (s : State) : Out := engBlock w 0x32 64 [] polPlan (s := s)
def execBfenq (w : LF) (s : State) : Out := engBlock w 0x34 96 [] enqPlan (s := s)
def execEvscore (w : LF) (s : State) : Out := engBlock w 0x36 64 [] scorePlan (s := s)
def execSqevict (w : LF) (s : State) : Out := engBlock w 0x37 64 [] evictPlan (s := s)

/-- The KV engine of a stream performs a request of another stream: requests are performed one at a time (R370). -/
def State.kvBusy (s : State) (sid : Nat) : Bool :=
  match s.streamAt sid with
  | some st => s.streams.any fun t => t.eng = st.eng && t.id ≠ sid && t.reqs.any fun q => q.started && q.next < q.total
  | none => false
/-- The next element of a request at its KV engine. -/
def State.kvStep (s : State) (sid major : Nat) (body : Req → Eng ElemRes) : Out :=
  if s.kvBusy sid then .next s else engStep s (s.engRun sid [major] body)

/-! ### `kvlook` -/

def lookBody (r : Req) : Eng ElemRes := do
  let p ← eBindPool (r.cap 32)
  let k ← eBytes (r.cap 48).obj ((r.cap 48).cur + 8 * r.next) 8
  if fieldLE k 7 1 ≠ 0 then eFault (engTrap 0x8B (r.cap 48).obj ((r.cap 48).cur + 8 * r.next + 7))
  else
    match ← look p (fieldLE k 0 4) (fieldLE k 4 2) (fieldLE k 6 1) with
    | some b => pure { res := b }
    | none => pure { st := 5 }
def execKvlookPerform (st : Nat) (s : State) : Out := s.kvStep st 0x2E lookBody

/-! ### `kvapp` (R358, R359, R372, R375) -/

/-- The entry that eviction by mass takes next for an item of sequence s. -/
def kVictim (p : Pool) (s : Nat) : Nat → Nat → Option (Nat × Nat) → Eng (Option Nat)
  | 0, _, best => pure (best.map (·.1))
  | n + 1, b, best => do
    let e ← kEnt p b
    if Ent.flag e flValid && Ent.refc e = 1 && !Ent.flag e flPinned && !Ent.flag e flTransit && Ent.pend e = 0 && Ent.seq e ≠ s
        && best.all fun q => Ent.mass e < q.2 then
      let d := (← kDesc p (Ent.seq e)).1
      kVictim p s n (b + 1) (if bits (fieldLE d 16 1) 2 1 = 0 then some (b, Ent.mass e) else best)
    else kVictim p s n (b + 1) best

/-- Entries for all the blocks of a list; none where the ring runs dry. -/
def kAllocAll (p : Pool) (s l pol : Nat) : List Nat → Eng (Option (List (Nat × Nat)))
  | [] => pure (some [])
  | j :: js => do
    match ← kAlloc p s j l pol with
    | none => pure none
    | some b => do pure ((← kAllocAll p s l pol js).map ((j, b) :: ·))

/-- With eviction while it helps. -/
def kSupply (p : Pool) (s l pol : Nat) (ev : Bool) (js : List Nat) : Nat → Eng (Option (List (Nat × Nat)))
  | 0 => eTry (kAllocAll p s l pol js)
  | n + 1 => do
    match ← eTry (kAllocAll p s l pol js) with
    | some l => pure (some l)
    | none =>
      if !ev then pure none
      else
        match ← kVictim p s p.n 0 none with
        | none => pure none
        | some b =>
          kRelease p b
          kSupply p s l pol ev js n

/-- One item: none when it is complete, otherwise why it stops. -/
def kvItem (p : Pool) (list : Cap) (ev : Bool) (i : Nat) : Eng (Option TrapInfo) := do
  let w ← get
  let off := list.cur + 32 * i
  let b ← eBytes list.obj off 16
  let rows := secCap (← eAccess (w.r.access list.obj (off + 16) 16 .capRead false false))
  let s := fieldLE b 0 4
  let l := fieldLE b 4 1
  let nt := fieldLE b 5 1
  let pos := fieldLE b 8 4
  if nt = 0 || nt > 16 || l ≥ p.nl || fieldLE b 6 2 ≠ 0 || fieldLE b 12 4 ≠ 0 || (pos + nt - 1) / 16 ≥ 65536 then
    pure (some (engTrap 0x8B list.obj off))
  else
    let d := (← kDesc p s).1
    if pos ≠ fieldLE d 12 4 then pure (some (engTrap 0x94 p.seqs.obj (p.descOff s)))
    else
      let js := if pos / 16 = (pos + nt - 1) / 16 then [pos / 16] else [pos / 16, (pos + nt - 1) / 16]
      let found ← js.mapM fun j => do pure (j, ← look p s j l)
      let have_ := found.filterMap fun q => q.2.map fun b => (q.1, b)
      let shared ← have_.filterMapM fun q => do pure (if Ent.refc (← kEnt p q.2) > 1 then some q.2 else none)
      match shared with
      | b :: _ => pure (some (mkTrap ccCow 0 p.tab.obj (p.entOff b)))
      | [] =>
        match ← kSupply p s l (bits (fieldLE d 16 1) 0 2) ev ((found.filter (·.2.isNone)).map (·.1)) p.n with
        | none => pure (some freeEmpty)
        | some new =>
          let n := 2 * nt * p.rowB
          match checkRange (w.s.ownObj w.r.fld) rows (pR + pE) rows.cur n with
          | some k => eFault (capTrap k rows rows.cur)
          | none =>
            let src ← eBytes rows.obj rows.cur n
            let _ ← (List.range nt).mapM fun t => do
              let q := pos + t
              match (have_ ++ new).find? (·.1 = q / 16) with
              | none => pure ()
              | some (_, b) =>
                let row (k : Nat) := (src.drop (k * p.rowB)).take p.rowB
                let at_ := p.data.cur + b * p.bb + q % 16 * p.rowB
                kPut p.psc p.data.obj at_ (row t)
                kPut p.psc p.data.obj (at_ + 16 * p.rowB) (row (nt + t))
            let _ ← (have_ ++ new).mapM fun q => do
              let m := (List.range nt).foldl (fun m t => if (pos + t) / 16 = q.1 then m ||| 2 ^ ((pos + t) % 16) else m) 0
              kEntPut p q.2 8 (toBytes 2 (Ent.pres (← kEnt p q.2) ||| m)) true
            if l + 1 = p.nl then kDescPut p s 12 (pos + nt)
            pure none

/-- Items in order; a fault leaves those before it complete. -/
def kvItems (p : Pool) (list : Cap) (ev : Bool) : Nat → Nat → Eng ElemRes
  | 0, done => pure { res := done }
  | n + 1, done => do
    let w ← get
    match (kvItem p list ev done).run w with
    | .ok (none, w') =>
      set w'
      kvItems p list ev n (done + 1)
    | .ok (some k, w') =>
      set w'
      pure (stopRes k done)
    | .error (.fault k fl at_) =>
      set { w with fl := fl, s := match at_ with
        | some a => w.s.keepPoison a k
        | none => w.s }
      pure { fault := some k }
    | .error e => eStop e

def appBody (r : Req) : Eng ElemRes := do
  let p ← eBindPool (r.cap 32)
  kvItems p (r.cap 48) (bits r.fn 1 1 = 1) (r.b 4 1) 0
def execKvappPerform (st : Nat) (s : State) : Out := s.kvStep st 0x2F appBody

/-! ### `kvfork` (R373) -/

/-- Ancestors of a sequence, at most some. -/
def kHops (p : Pool) : Nat → Nat → Eng Nat
  | 0, _ => pure 0
  | n + 1, s => do
    let a := fieldLE (← kDesc p s).1 4 4
    if a = 0 then pure 0 else do pure (1 + (← kHops p n a))

/-- The entries that look finds for some blocks of every layer. -/
def kBlocks (p : Pool) (s : Nat) (js : List Nat) : Eng (List (Nat × Nat × Nat)) := do
  let l ← ((List.range p.nl).flatMap fun l => js.map fun j => (l, j)).mapM fun q => do
    pure ((← look p s q.2 q.1).map fun b => (q.1, q.2, b))
  pure (l.filterMap id)

def forkSeq (p : Pool) (parent child pos : Nat) : Eng ElemRes := do
  let pd := (← kDesc p parent).1
  let cd := (← kDesc p child).1
  if fieldLE cd 12 4 ≠ 0 then eFault (engTrap 0x8B 0 64)
  else if pos > fieldLE pd 12 4 then eFault (engTrap 0x8B 0 8)
  else if (← kHops p 4 parent) ≥ 4 then eFault (engTrap 0x8B 0 48)
  else
    let bs ← kBlocks p parent (List.range ((pos + 15) / 16))
    let _ ← bs.mapM fun q => do
      let c := Ent.refc (← kEnt p q.2.2)
      if c ≥ 255 then eFault (engTrap 0x95 p.tab.obj (p.entOff q.2.2))
      else
        kEntPut p q.2.2 10 [BitVec.ofNat 8 (c + 1)]
        kFlag p q.2.2 flShared true false
    kDescPut p child 4 parent
    kDescPut p child 8 pos
    kDescPut p child 12 pos
    pure { res := bs.length }

def unshareGo (p : Pool) (s j : Nat) : List (Nat × Nat × Nat) → Eng (Option Unit)
  | [] => pure (some ())
  | (l, _, b) :: r => do
    let e ← kEnt p b
    match ← kAlloc p s j l (Ent.pol e) with
    | none => pure none
    | some n =>
      let rows ← kBytes p.psc p.data.obj (p.data.cur + b * p.bb) p.bb
      kPut p.psc p.data.obj (p.data.cur + n * p.bb) rows
      kEntPut p n 8 (toBytes 2 (Ent.pres e)) true
      let c := Ent.refc e - 1
      kEntPut p b 10 [BitVec.ofNat 8 c]
      if c = 1 then kFlag p b flShared false false
      unshareGo p s j r

def unshare (p : Pool) (s pos : Nat) : Eng ElemRes := do
  let d := (← kDesc p s).1
  if pos ≥ fieldLE d 12 4 then eFault (engTrap 0x8B 0 8)
  else
    let bs ← kBlocks p s [pos / 16]
    let multi ← bs.filterM fun q => do pure (decide (Ent.refc (← kEnt p q.2.2) > 1))
    let own ← multi.filterM fun q => do pure (decide (Ent.seq (← kEnt p q.2.2) = s))
    match own with
    | q :: _ => eFault (engTrap 0x99 p.tab.obj (p.entOff q.2.2))
    | [] =>
      match ← eTry (unshareGo p s (pos / 16) multi) with
      | none => pure (stopRes freeEmpty 0)
      | some () => pure { res := multi.length }

def forkBody (r : Req) : Eng ElemRes := do
  let p ← eBindPool (r.cap 32)
  let a ← kNamed p (r.cap 48)
  let b ← kNamed p (r.cap 64)
  if a = b then unshare p a (r.b 8 4) else forkSeq p a b (r.b 8 4)
def execKvforkPerform (st : Nat) (s : State) : Out := s.kvStep st 0x30 forkBody

/-! ### `kvfree`, `kvpol`, `evscore` (R374, R375, R377) -/

/-- Every reference of a sequence below an edge released; 0 for all. -/
def freeSeq (p : Pool) (s e : Nat) : Eng Nat := do
  let d := (← kDesc p s).1
  let len := fieldLE d 12 4
  let edge := fieldLE d 24 4
  let hi := if e = 0 then (len + 15) / 16 else e / 16
  let js := ((List.range (min hi 65536)).filter fun j => edge / 16 ≤ j)
  let n ← ((List.range p.nl).flatMap fun l => js.map fun j => (l, j)).foldlM (fun n q => do
    match ← look p s q.2 q.1 with
    | some b => pure (if ← kUnref p b then n + 1 else n)
    | none => pure n) 0
  if e = 0 then
    kDescPut p s 12 0
    kDescPut p s 24 0
  else kDescPut p s 24 (max edge e)
  pure n

def freeBody (r : Req) : Eng ElemRes := do
  let p ← eBindPool (r.cap 32)
  let s ← kNamed p (r.cap 48)
  if fieldLE (← kDesc p s).1 20 4 ≠ 0 then eStop (.wait none)
  else pure { res := ← freeSeq p s (r.b 8 4) }
def execKvfreePerform (st : Nat) (s : State) : Out := s.kvStep st 0x31 freeBody

def polBody (r : Req) : Eng ElemRes := do
  let p ← eBindPool (r.cap 32)
  let s ← kNamed p (r.cap 48)
  let v := r.b 4 1
  if r.b 5 1 = 0 then
    let f := fieldLE (← kDesc p s).1 16 1
    kPut p.psc p.seqs.obj (p.descOff s + 16) (toBytes 1 (f / 4 * 4 + v))
    pure { res := 0 }
  else
    let n ← (List.range (r.b 10 2)).foldlM (fun n k => do
      match ← look p s (r.b 8 2 + k) (r.b 6 1) with
      | some b =>
        let f := Ent.flags (← kEnt p b)
        kEntPut p b 7 (toBytes 1 (f / 64 * 64 + v * 16 + f % 16))
        pure (n + 1)
      | none => pure n) 0
    pure { res := n }
def execKvpolPerform (st : Nat) (s : State) : Out := s.kvStep st 0x32 polBody

def scoreBody (r : Req) : Eng ElemRes := do
  let p ← eBindPool (r.cap 32)
  let _ ← (List.range p.n).mapM fun b => do
    let e ← kEnt p b
    if Ent.flag e flValid then kEntPut p b 11 (toBytes 1 (Ent.mass e / 2))
  pure { res := p.n }
def execEvscorePerform (st : Nat) (s : State) : Out := s.kvStep st 0x36 scoreBody

/-! ### `sqevict` (R376) -/

/-- The decision: swapping beats recomputing. -/
def swapWins (p : Pool) (d : List Byte) : Bool :=
  let len := fieldLE d 12 4
  let wbw := fieldLE d 28 2
  let rbw := fieldLE d 30 2
  let bytes := p.nl * ((len + 15) / 16) * p.bb
  -- B / (wbw 10^8) + B / (rbw 10^8) < len fpt 10^6 / (mrate 10^9), multiplied out
  wbw > 0 && rbw > 0 && bytes * (wbw + rbw) * fieldLE d 36 4 * 10 ^ 9 < len * fieldLE d 32 4 * 10 ^ 6 * (wbw * rbw) * 10 ^ 8

/-- Writes of a swap that belong to a request. -/
def State.swapCmds (s : State) (id : Nat) : List NvCmd := s.nvcmds.filter fun c => c.swap = some id

/-- Bytes 16 to 19 of a descriptor with another swp; the queue pair there stays (R371). -/
def withSwp (d : List Byte) (v : Nat) : Nat := let w := fieldLE d 16 4; w - bits w 3 2 * 8 + v * 8

/-- The writes of a swap count as storage writes of the issuing strand (R294, R376). -/
def State.swapWrites (s : State) (r : Req) (pair nsid : Nat) : State :=
  if r.party ≥ 2 ^ 15 then
    s.updStrand (bits r.party 3 7) (bits r.party 0 3) fun t =>
      if t.stWrites.contains (pair, nsid) then t else { t with stWrites := t.stWrites ++ [(pair, nsid)] }
  else s

def evictStart (p : Pool) (s : Nat) (r : Req) : Eng ElemRes := do
  let d := (← kDesc p s).1
  if bits (fieldLE d 16 1) 2 1 ≠ 1 || bits (fieldLE d 16 1) 3 2 ≠ 0 then eFault (engTrap 0x8B 0 48)
  else if fieldLE d 20 4 ≠ 0 then eStop (.wait none)
  else if !swapWins p d then
    let _ ← freeSeq p s 0
    kDescPut p s 16 (withSwp d 2)
    pure { res := 1 }
  else
    let nb := (fieldLE d 12 4 + 15) / 16
    let bs ← kBlocks p s (List.range nb)
    let lbs := max 1 (Config.lbaSize (fieldLE d 40 2))
    let lpb := (p.bb + lbs - 1) / lbs
    let cmds ← bs.zipIdx.mapM fun q => do
      kFlag p q.1.2.2 flTransit true false
      let lba := fieldLE d 44 4 + (q.1.1 * nb + q.1.2.1) * lpb
      let c : NvCmd := { pair := fieldLE d 18 2, cid := q.2, opc := 1, nsid := fieldLE d 40 2
                         who := match r.party / 2 ^ 15 with
                           | 1 => some (bits r.party 3 7, bits r.party 0 3)
                           | _ => none
                         ctx := r.ctx, flush := false, swap := some r.id
                         sqe := sqeBytes 1 q.2 (fieldLE d 40 2) lba (lpb - 1) 0 0 0
                         pins := [], data := [(p.data.obj, p.data.cur + q.1.2.2 * p.bb, p.bb)], fld := r.fld, party := r.party
                         round := r.round, status := 0, done := false, sent := false }
      pure c
    modify fun w =>
      { w with s := { w.s.swapWrites r (fieldLE d 18 2) (fieldLE d 40 2) with nvcmds := w.s.nvcmds ++ cmds }, r := { w.r with prog := 1 } }
    pure { more := true }

/-- The next Write of a swap: its pages are pinned, and its entry goes to the pair's queue when that has room. -/
def swapSend (c : NvCmd) : Eng ElemRes := do
  let q := (← get).s.nvq c.pair
  if q.sqFull then eStop (.wait none)
  else
    let (obj, off, n) := c.data.headD (0, 0, 0)
    let pins ← (List.range ((off + n - 1) / 65536 - off / 65536 + 1)).mapM fun i => ePin obj (off / 65536 + i) false
    let d := { c with pins := pins }.filled q.sqTail (obj, off, n) none
    modify fun w => { w with s := ({ w.s with nvcmds := w.s.nvcmds.map fun e => if e = c then d else e } : State).ringDoor d }
    pure { more := true }

def evictEnd (p : Pool) (s : Nat) (r : Req) : Eng ElemRes := do
  let w ← get
  let cs := w.s.swapCmds r.id
  if cs.any (!·.done) then
    match cs.find? (!·.sent) with
    | some c => swapSend c
    | none => eStop (.wait none)
  else
    set { w with s := { w.s with nvcmds := w.s.nvcmds.filter fun c => c.swap ≠ some r.id } }
    let d := (← kDesc p s).1
    if cs.any (·.status ≠ 0) then
      let bs ← kBlocks p s (List.range ((fieldLE d 12 4 + 15) / 16))
      let _ ← bs.mapM fun q => kFlag p q.2.2 flTransit false false
      pure { fault := some (engTrap 0x97 p.seqs.obj (p.descOff s)) }
    else
      let _ ← freeSeq p s 0
      kDescPut p s 16 (withSwp d 1)
      pure { res := 0 }

def evictBody (r : Req) : Eng ElemRes := do
  let p ← eBindPool (r.cap 32)
  let s ← kNamed p (r.cap 48)
  if r.prog = 0 then evictStart p s r else evictEnd p s r
def execSqevictPerform (st : Nat) (s : State) : Out := s.kvStep st 0x37 evictBody

/-! ### Early exit and backfill (R378 to R380) -/

/-- Deferred records that one engine holds. -/
def backfillCap : Nat := 256

/-- The layer table of a pool, bound (R282, R379): H, and the weights of a layer. -/
def kLayers (p : Pool) (lt : Cap) : Eng (Nat × List (Nat × Bool)) := do
  let w ← get
  let size := 64 * (2 + (p.nl + 1) / 2)
  if !lt.tag || lt.cur % 64 ≠ 0 then eFault (engTrap 0x8E lt.obj lt.cur)
  else
    match checkRange (w.s.ownObj w.r.fld) lt pR lt.cur size with
    | some k => eFault (capTrap k lt lt.cur)
    | none =>
      let secs ← kSecs w.r.x lt.obj lt.cur (size / 16)
      let b := secBytes secs
      let h := fieldLE b 4 2
      if fieldLE b 0 4 ≠ fieldLE b (size - 4) 4 then eFault (mkTrap ccStaleBlock 0 lt.obj lt.cur)
      else if h % 16 ≠ 0 || h < 16 || h > 16384 || fieldLE b 6 1 ≠ p.nl || fieldLE b 7 1 ≠ p.fin || fieldLE b 8 56 ≠ 0
          || fieldLE b (size - 64) 60 ≠ 0 then eFault (engTrap 0x8E lt.obj lt.cur)
      else pure (h, secs)

/-- Entries for the skipped layers, found or allocated, each with one more position pending. -/
def enqGo (p : Pool) (s j pol : Nat) : List Nat → Eng (Option Unit)
  | [] => pure (some ())
  | l :: ls => do
    let got ← do
      match ← look p s j l with
      | some b => pure (some b)
      | none => kAlloc p s j l pol
    match got with
    | none => pure none
    | some b =>
      kAdd p.psc p.tab.obj (p.entOff b + 16) 1 false
      enqGo p s j pol ls

def enqBody (r : Req) : Eng ElemRes := do
  let p ← eBindPool (r.cap 32)
  let s ← kNamed p (r.cap 48)
  let (d, lt) ← kDesc p s
  let e := r.b 4 1
  let pos := r.b 8 4
  if r.b 5 1 ≠ p.nl then eFault (engTrap 0x8B 0 5)
  else
    let (h, _) ← kLayers p lt
    let w ← get
    let hid := r.cap 64
    match checkRange (w.s.ownObj w.r.fld) hid (pR + pE) hid.cur (fmtBytes p.fin h) with
    | some k => eFault (capTrap k hid hid.cur)
    | none =>
      let k := p.nl - 1 - e
      let mount := if (r.cap 32).obj ≥ localObj then r.fld / 16 else (r.cap 32).obj % 8
      if (w.s.backfills.filter fun b => b.mount = mount).length + k > backfillCap then eStop (.wait none)
      else if pos ≠ fieldLE d 12 4 || pos / 16 ≥ 65536 then pure (stopRes (engTrap 0x94 p.seqs.obj (p.descOff s)) 0)
      else
        let ls := (List.range k).map (e + 1 + ·)
        match ← eTry (enqGo p s (pos / 16) (bits (fieldLE d 16 1) 0 2) ls) with
        | none => pure (stopRes freeEmpty 0)
        | some () =>
          kDescAdd p s 20 k false
          kDescPut p s 12 (pos + 1)
          modify fun w => { w with s := { w.s with backfills := w.s.backfills ++ ls.map fun l =>
            { mount := mount, req := r, pool := p.raw, poolCaps := [p.tab, p.data, p.seqs], seqId := s, pos := pos, layer := l
              h := hid, moved := false } } }
          pure { res := 0 }
def execBfenqPerform (st : Nat) (s : State) : Out := engStep s (s.engRun st [0x34] enqBody)

/-- The next record of a mount's backfill engine: one that a reader waits for, else the oldest of the lowest layer. -/
def State.nextBackfill (s : State) (mount : Nat) : Option Backfill :=
  let l := s.backfills.filter fun b => b.mount = mount
  (l.find? (·.moved)).or (l.foldl (fun a b => match a with
    | none => some b
    | some c => if b.layer < c.layer then some b else a) none)

/-- A matrix row times the hidden state in binary32, rounded to the pool's format (R380). -/
def projRow (fin : Nat) (w h : List Nat) : Nat :=
  let k := (w.zip h).foldl (fun a q => (fmtS.fmaV .rne (codeVal fin q.1) (codeVal fin q.2) a).1) 0
  ((target fin).of .rne (fmtS.val k)).1

/-- The rows of one record computed and written, its presence bit set, the counts lowered. -/
def backfillBody (b : Backfill) : Eng Unit := do
  let p : Pool := { raw := b.pool, tab := b.poolCaps.getD 0 Cap.null, data := b.poolCaps.getD 1 Cap.null
                    seqs := b.poolCaps.getD 2 Cap.null }
  let (_, lt) ← kDesc p b.seqId
  let (h, secs) ← kLayers p lt
  let hb ← eBytes b.h.obj b.h.cur (fmtBytes p.fin h)
  let hv := unpackCodes p.fin h hb
  let proj (c : Cap) : Eng (List Nat) := do
    let w ← get
    match checkRange (w.s.ownObj w.r.fld) c (pR + pE) c.cur (fmtBytes p.fin (p.d * h)) with
    | some k => eFault (capTrap k c c.cur)
    | none => (List.range p.d).mapM fun d => do
        let row ← eBytes c.obj (c.cur + fmtBytes p.fin (d * h)) (fmtBytes p.fin h)
        pure (projRow p.fin (unpackCodes p.fin h row) hv)
  let ks ← proj (secCap (secs.getD (4 + 2 * b.layer) (0, false)))
  let vs ← proj (secCap (secs.getD (5 + 2 * b.layer) (0, false)))
  match ← look p b.seqId (b.pos / 16) b.layer with
  | none => eFault (engTrap 0x9A p.seqs.obj (p.descOff b.seqId))
  | some e =>
    let at_ := p.data.cur + e * p.bb + b.pos % 16 * p.rowB
    kPut p.psc p.data.obj at_ (packCodes p.fin ks)
    kPut p.psc p.data.obj (at_ + 16 * p.rowB) (packCodes p.fin vs)
    kEntPut p e 8 (toBytes 2 (Ent.pres (← kEnt p e) ||| 2 ^ (b.pos % 16))) true
    kAdd p.psc p.tab.obj (p.entOff e + 16) (-1) true
    kDescAdd p b.seqId 20 (-1) true

/-- A record leaves the queue. -/
def dropBackfill (b : Backfill) (l : List Backfill) : List Backfill := l.erase b

/-- BACKFILL_RECORD (R380). -/
def execBackfillRecord (mount : Nat) (s : State) : Out :=
  match s.nextBackfill mount with
  | none => .next s
  | some b =>
    match (backfillBody b).run { s := s, r := b.req, fl := 0, wq := [] } with
    | .ok (_, w) => .next { w.s with backfills := dropBackfill b w.s.backfills }
    | .error (.wait (some (a, cause, why))) => .next (s.holdAccOnce a cause why b.req.source)
    | .error (.wait none) => .next s
    | .error (.fault k _ at_) =>
      let s := match at_ with
        | some a => s.keepPoison a k
        | none => s
      let s := s.postReq { b.req with next := 1 } (engId s.pkg 5 mount) 4 k
      .next { s with backfills := dropBackfill b s.backfills }

/-! ### `bfsync` (R361) -/

def execBfsync (w : LF) (s : State) : Out :=
  runL w .other {} (fun s =>
    let c := s.creg5 w.a
    let o := dispAddr c w
    let x := w.x.toNat
    match checkRange (s.ownObj s.me.fld) c pR o 64 with
    | some k => .raise (capTrap k c o) s
    | none =>
      if o % 64 ≠ 0 then .raise (capTrap ccAlign c o) s
      else
        match s.scopeFault c.obj x with
        | some k => .raise k s
        | none =>
          match s.bindSecs (s.bindAccess c.obj o.toNat) 4 with
          | .wait s => .wait s
          | .raise k s => .raise k s
          | .ok s secs =>
            let b := secBytes secs
            if !descOk b then .raise (engTrap 0x8E c.obj o.toNat) s
            else if fieldLE b 20 4 ≠ 0 then .wait s
            else
              match s.performSync (s.strandAccess c.obj (o.toNat + 20) 4 .read 1 x) with
              | (s, .hold y r, _) => .wait (s.holdOnce s.me.ctx c.obj o.toNat y r s.myParty)
              | (s, .busy, _) => .wait s
              | (s, .raise k, _) => .raise k s
              | (s, .val _ _ _, _) => .done s) s

end Sys2Proof.Machine
end

