-- ==== Sys2Proof/Machine/Attention.lean ====
section
/-!
DEFINITION. The attention engine (R325 to R328, R349, R350, R360, R381): `attn` over rings and pools, the output port `atp`
(R181), and `xtest`.
-/
namespace Sys2Proof.Machine

/-! ### The block of `attn` (R349) -/

structure AttnOp where
  nq : Nat
  d : Nat
  fin : Nat
  fout : Nat
  apx : Bool
  ms : Bool
  pool : Bool
  q : SpOp
  /-- The K ring and the V ring: base, M, S. -/
  kr : Nat × Nat × Nat
  vr : Nat × Nat × Nat
  obase : Nat
  opitch : Nat
  fab : Bool
  pt : Nat
  p0 : Nat
  nk : Nat
  wlo : Nat
  qpos : Nat
  c : Nat
  t : Nat

def attnOp (b : List Byte) : AttnOp :=
  let f := fieldLE b
  let ring (i : Nat) : Nat × Nat × Nat := (f i 4, f (i + 4) 2, f (i + 6) 2)
  let o := f 64 8
  { nq := f 4 1, d := 16 * f 5 1, fin := f 6 1, fout := f 7 1, apx := bits (f 8 1) 0 1 = 1, ms := bits (f 8 1) 1 1 = 1
    pool := bits (f 8 1) 2 1 = 1, q := spOp (f 32 8) (f 40 8), kr := ring 48, vr := ring 56, obase := bits o 0 32
    opitch := bits o 32 16, fab := bits o 48 1 = 1, pt := bits o 49 1, p0 := f 72 4, nk := f 76 4, wlo := f 80 4
    qpos := f 84 4, c := f 88 4, t := f 92 4 }

/-- Key blocks that the keys touch. -/
def AttnOp.blocks (o : AttnOp) : Nat := (o.p0 + o.nk - 1) / 16 - o.p0 / 16 + 1
/-- T is a binary32 number of at least 0. -/
def nonNeg32 (t : Nat) : Bool := match fmtS.val t with
  | .nan _ => false
  | .zero _ => true
  | v => !v.sign

def AttnOp.bad (o : AttnOp) (b : List Byte) : List Nat :=
  let ring (at_ : Nat) (r : Nat × Nat × Nat) : List Nat :=
    if o.pool then [] else badAt (1 ≤ r.2.1) (at_ + 4) ++ badAt (fmtBytes o.fin o.d ≤ r.2.2) (at_ + 6)
  badAt (1 ≤ o.nq && o.nq ≤ 64) 4 ++ badAt (16 ≤ o.d && o.d ≤ 256) 5 ++ badAt (1 ≤ o.fin && o.fin ≤ 3) 6 ++
    badAt (1 ≤ o.fout && o.fout ≤ 3) 7 ++ badAt (fieldLE b 8 1 < 8) 8 ++ nonZero b 9 7 ++
    badAt (o.q.rows = o.nq && o.q.rest = 0 && codeWidth o.fin * o.d ≤ 128 * o.q.n16) 40 ++ ring 48 o.kr ++ ring 56 o.vr ++
    (if o.fab then nonZero b 64 6 else badAt (o.pt = 0) 70) ++ badAt (bits (fieldLE b 64 8) 50 14 = 0) 70 ++
    badAt (1 ≤ o.nk && o.nk ≤ 2 ^ 20) 76 ++ badAt (if o.apx then nonNeg32 o.t else o.t = 0) 92 ++
    (if o.ms && !o.pool then [] else nonZero b 96 32)

/-- Base and pitch of a ring's word are multiples of 16 (R347, R348, R349). -/
def ringAligned (r : Nat × Nat × Nat) : Bool := r.1 % 16 = 0 && r.2.2 % 16 = 0

/-- The scratchpad bytes that the block names lie in [0, max), aligned as R347 has it. -/
def AttnOp.own (o : AttnOp) (s : State) (f : Nat) : Option TrapInfo :=
  let obj := if s.ownObj f = 0 then localObj else s.ownObj f
  let mx := (s.fieldOf f).nmax * step512
  let ringTop (r : Nat × Nat × Nat) : Nat :=
    let last := if o.p0 % r.2.1 + o.nk ≤ r.2.1 then o.p0 % r.2.1 + o.nk - 1 else r.2.1 - 1
    r.1 + last * r.2.2 + fmtBytes o.fin o.d
  let outTop := o.obase + (o.nq - 1) * o.opitch + fmtBytes o.fout o.d
  if !o.q.aligned then some (mkTrap ccAlign 0 obj o.q.base)
  else if !o.pool && !ringAligned o.kr then some (mkTrap ccAlign 0 obj o.kr.1)
  else if !o.pool && !ringAligned o.vr then some (mkTrap ccAlign 0 obj o.vr.1)
  else if !o.fab && (o.obase % 16 ≠ 0 || o.opitch % 16 ≠ 0) then some (mkTrap ccAlign 0 obj o.obase)
  else
    match (o.q.offs o.nq o.fin o.d).find? fun a => a + 16 > mx with
    | some a => some (mkTrap ccCapBounds 0 obj a)
    | none =>
      if !o.pool && ringTop o.kr > mx then some (mkTrap ccCapBounds 0 obj o.kr.1)
      else if !o.pool && ringTop o.vr > mx then some (mkTrap ccCapBounds 0 obj o.vr.1)
      else if !o.fab && outTop > mx then some (mkTrap ccCapBounds 0 obj o.obase) else none

def attnPlan (s : State) (i : Issuer) (blk : List Byte) : Plan :=
  let o := attnOp blk
  { total := 1, bad := o.bad blk
    uses := (if o.pool then [{ at_ := 48, rights := pR, n := 64 }] else []) ++
      (if o.ms && !o.pool then [{ at_ := 96, rights := pR, n := 4 * o.blocks }, { at_ := 112, rights := pR + pW + pA }] else [])
    eng := engId s.pkg 9 i.fld, own := o.own s i.fld }

def execAttn (w : LF) (s : State) : Out := engBlock w 0x28 128 [] attnPlan (s := s)

/-! ### Keys (R350, R381) -/

/-- A key: its position, its K and V codes unless it is masked for every row, and the number of its block. -/
structure Key where
  p : Nat
  rows : Option (List Nat × List Nat)

/-- The keys in ring mode. -/
def ringKeys (own : Nat) (o : AttnOp) : Eng (List Key) :=
  (List.range o.nk).mapM fun i => do
    let p := o.p0 + i
    if p < o.wlo then pure { p := p, rows := none }
    else
      let row (r : Nat × Nat × Nat) : Eng (List Nat) := do
        let b ← eBytes own (r.1 + p % r.2.1 * r.2.2) (fmtBytes o.fin o.d)
        pure (unpackCodes o.fin o.d b)
      pure { p := p, rows := some (← row o.kr, ← row o.vr) }

/-- An entry found and sampled once: index, presence, policy (R381). -/
structure Sample where
  b : Nat
  pres : Nat
  pol : Nat

def kSample (p : Pool) (s j l : Nat) : Eng (Option Sample) := do
  match ← look p s j l with
  | none => pure none
  | some b =>
    let e ← kEnt p b
    if Ent.pol e = 3 then eFault (malformed p (p.entOff b))
    else
      -- the sample is an acquire at the request's scope
      let w ← get
      let r := w.r
      match w.s.acquireFrom r.ctx r.party (w.s.memberSet r.ctx r.fld r.x) (w.s.relsAt r.ctx p.tab.obj (p.entOff b + 7) 3) (r.eng + 1) r.fld with
      | some s =>
        set { w with s := s }
        pure (some { b := b, pres := Ent.pres e, pol := Ent.pol e })
      | none => eFault (mkTrap ccSync 0 p.tab.obj (p.entOff b + 7))

/-- The highest layer below l whose sampled entry has a position's bit set. -/
def kProxy (p : Pool) (s j t : Nat) : Nat → Eng (Option Sample)
  | 0 => pure none
  | l + 1 => do
    match ← kSample p s j l with
    | some e => if e.pres.testBit t then pure (some e) else kProxy p s j t l
    | none => kProxy p s j t l

def poolRows (p : Pool) (b t : Nat) : Eng (List Nat × List Nat) := do
  let at_ := p.data.cur + b * p.bb + t * p.rowB
  let k ← eBytes p.data.obj at_ p.rowB true true
  let v ← eBytes p.data.obj (at_ + 16 * p.rowB) p.rowB true true
  pure (unpackCodes p.fin p.d k, unpackCodes p.fin p.d v)

/-- The keys of one block in pool mode, with its entry; none where a position must be waited for. -/
def blockKeys (p : Pool) (o : AttnOp) (lo len j : Nat) : Eng (Option (List Key × Option Nat)) := do
  let ps := ((List.range 16).map (16 * j + ·)).filter fun q => o.p0 ≤ q && q < o.p0 + o.nk
  match ← kSample p p.vseq j p.vlay with
  | none => pure (some (ps.map fun q => { p := q, rows := none }, none))
  | some e =>
    let live (q : Nat) : Bool := q < len && lo ≤ q
    if e.pol = 0 && ps.any fun q => live q && !e.pres.testBit (q % 16) then pure none
    else
      let ks ← ps.mapM fun q => do
        if !live q then pure ({ p := q, rows := none } : Key)
        else if e.pres.testBit (q % 16) then pure { p := q, rows := some (← poolRows p e.b (q % 16)) }
        else if e.pol = 2 then
          match ← kProxy p p.vseq j (q % 16) p.vlay with
          | some x => pure { p := q, rows := some (← poolRows p x.b (q % 16)) }
          | none => pure { p := q, rows := none }
        else pure { p := q, rows := none }
      pure (some (ks, some e.b))

/-- The record waits for this block at this mount: by the same pool, for some sequence. -/
def Backfill.waits (b : Backfill) (p : Pool) (mount blk layer : Nat) : Bool :=
  b.mount = mount && b.pos / 16 = blk && b.layer = layer && b.poolCaps.head? = some p.tab

/-- The block's records moved to the head of their mount's backfill queue (R380): those of every sequence in the list. -/
def State.promote (s : State) (p : Pool) (mount : Nat) (seqs : List Nat) (blk layer : Nat) : State :=
  let hit (b : Backfill) : Bool := b.waits p mount blk layer && seqs.contains b.seqId && !b.moved
  { s with backfills := (s.backfills.filter hit).map (fun b => { b with moved := true }) ++ s.backfills.filter fun b => !hit b }

/-- The sequences whose deferred records of a block and layer are for the entry that a reader has found: a block may be reached by
parent hops (R367, R380). -/
def recordSeqs (p : Pool) (mount s blk layer : Nat) : Eng (List Nat) := do
  let w ← get
  let b ← look p s blk layer
  let ss := ((w.s.backfills.filter fun q => q.waits p mount blk layer).map (·.seqId)).eraseDups
  ss.filterM fun q => do pure (decide ((← look p q blk layer) = b))

/-- All blocks of a pool one after another: their keys with their entries, or the block to wait for. -/
def poolKeys (p : Pool) (o : AttnOp) (lo len : Nat) : List Nat → Eng (Except Nat (List Key × List (Option Nat)))
  | [] => pure (.ok ([], []))
  | j :: js => do
    match ← blockKeys p o lo len j with
    | none => pure (.error j)
    | some (ks, e) =>
      match ← poolKeys p o lo len js with
      | .ok (l, es) => pure (.ok (ks ++ l, e :: es))
      | .error j => pure (.error j)

/-! ### The softmax (R325 to R328) -/

/-- A lane result cut after n digits. -/
def LaneRes.cut (r : LaneRes) (n : Nat) : LaneIn :=
  match r with
  | .wait => { cls := clNan, e := 0, ds := [], tail := true }
  | .res c e codes _ =>
    let l := codes n
    if l.getLast? = some 3 then { cls := c, e := e.getD 0, ds := l.dropLast.map digitOf, tail := true }
    else { cls := c, e := e.getD 0, ds := l.map digitOf, tail := false }

/-- A weight: the exp2 stream of an exact difference settled to binary32 (R82, R89, R90): code, flags, undecided. -/
def weight (x : FVal) : Nat × Nat × Bool :=
  match (lanesOf [x]).2 with
  | a :: _ => (settleLane (.flt fmtS) .rne ((laneExp2 a).cut 600)).getD (0, 0, true)
  | [] => (0, 0, true)

/-- ceil of a value. -/
def ceilV (v : FVal) : Int :=
  match v with
  | .fin neg m e => let (n, d) := scaleFrac m 1 e; if neg then -((n / d : Nat) : Int) else (((n + d - 1) / d : Nat) : Int)
  | _ => 0

/-- The exact difference of a finite value and an integer. -/
def FVal.subInt (v : FVal) (i : Int) : FVal :=
  let e := min v.exp 0
  let x := v.scaled e - i * 2 ^ (-e).toNat
  if x = 0 then .zero false else .fin (x < 0) x.natAbs e

/-- A quotient of binary32 values rounded to a format (R91, R325). -/
def divTo (f : Fmt) (x y : FVal) : Nat :=
  let s := x.sign != y.sign
  match x, y with
  | .fin _ m e, .fin _ n g => let (p, q) := scaleFrac m n (e - g); (f.round .rne s p q false).1
  | .inf _, .fin _ _ _ => f.inf s
  | .zero _, .fin _ _ _ | .fin _ _ _, .inf _ | .zero _, .inf _ => f.pack s 0
  | _, _ => f.nan

/-- A query row as it stands after some blocks. -/
structure Row where
  m : Option Int
  l : Nat
  o : List Nat
  fl : Nat
  nan : Bool
  /-- By block: mb, and the weights of its keys. -/
  ws : List (Option Int × List Nat)

def f32 (n : Nat) : FVal := fmtS.val n
/-- s_j of the keys of a block; none for a masked one. -/
def scores (o : AttnOp) (i : Nat) (q : List FVal) (ks : List Key) : List (Option Nat × List Nat) :=
  ks.map fun k =>
    match k.rows with
    | some (kr, vr) =>
      if k.p < o.wlo || (o.qpos ≠ 2 ^ 32 - 1 && k.p > o.qpos + i) then (none, vr)
      else
        let dot := (q.zip (kr.map (codeVal o.fin))).foldl (fun a x => (fmtS.fmaV .rne x.1 x.2 a).1) 0
        (some (fmtS.mul .rne o.c dot).1, vr)
    | none => (none, [])

def attnBlock (o : AttnOp) (i : Nat) (q : List FVal) (r : Row) (ks : List Key) : Row :=
  let ss := scores o i q ks
  let live := ss.filterMap (·.1)
  if r.nan || live.any fun x => (f32 x).isNan || (f32 x).isInf then { r with nan := true, ws := r.ws ++ [(r.m, [])] }
  else
    let top := live.foldl (fun a x => match a with
      | none => some x
      | some y => if (f32 y).lt (f32 x) then some x else some y) none
    let mb : Option Int := match r.m, top.map fun x => ceilV (f32 x) with
      | some a, some b => some (max a b)
      | a, none => a
      | none, b => b
    -- s_j < m − T with m as it stood at the start of the block
    let cut (x : Nat) : Bool := o.apx && (match r.m, f32 o.t with
      | some m, .inf _ => false && m = 0
      | some m, t => (f32 x).lt ((t.subInt m).neg)
      | none, _ => false)
    let ws := ss.map fun p => match p.1, mb with
      | some x, some b => if cut x then (0, 0, false) else weight ((f32 x).subInt b)
      | _, _ => (0, 0, false)
    let fl := ws.foldl (fun a w => a ||| w.2.1 ||| (if w.2.2 then flSU else 0)) r.fl
    let (l0, o0) := match r.m, mb with
      | some a, some b => if a = b then (r.l, r.o) else ((fmtS.scale .rne r.l (a - b)).1, r.o.map fun x => (fmtS.scale .rne x (a - b)).1)
      | _, _ => (r.l, r.o)
    let add (acc : Nat × List Nat) (p : (Option Nat × List Nat) × Nat × Nat × Bool) : Nat × List Nat :=
      if p.1.1.isNone then acc
      else
        let w := p.2.1
        ((fmtS.add .rne acc.1 w).1,
          (acc.2.zip p.1.2).map fun z => (fmtS.fmaV .rne (f32 w) (codeVal o.fin z.2) z.1).1)
    let (l, out) := (ss.zip ws).foldl add (l0, o0)
    { r with m := mb, l := l, o := out, fl := fl, ws := r.ws ++ [(mb, ws.map (·.1))] }

def attnRow (o : AttnOp) (i : Nat) (q : List FVal) (blocks : List (List Key)) : Row :=
  blocks.foldl (attnBlock o i q) { m := none, l := 0, o := List.replicate o.d 0, fl := 0, nan := false, ws := [] }

/-- The output codes of a row. -/
def Row.out (r : Row) (o : AttnOp) : List Nat :=
  let f := ieeeFmt o.fout
  if r.nan then List.replicate o.d f.nan
  else if (f32 r.l).isZero then List.replicate o.d 0
  else r.o.map fun x => divTo f (f32 x) (f32 r.l)

/-- 256 × mass of a block, and the row's l: the exact sum and what it is divided by; none where the row has no mass (R328). -/
def Row.share (r : Row) (b : Option Int × List Nat) : Option (FVal × FVal) :=
  match b.1, r.m, f32 r.l with
  | some mb, some m, .fin _ n e =>
    let lo := (b.2.map fun w => (f32 w).exp).foldl min (0 : Int)
    let s := b.2.foldl (fun a w => a + ((f32 w).scaled lo).toNat) 0
    if r.nan || s = 0 then none else some (.fin false s (lo + mb - m + 8), .fin false n e)
  | _, _, _ => none

/-- The mass of a block in 1/256 (R328): the quotient's digits settled to u8 under RDN, and whether that lane was undecided (R89,
log 63). -/
def Row.mass (r : Row) (b : Option Int × List Nat) : Nat × Bool :=
  match r.share b with
  | none => (0, false)
  | some (x, l) =>
    match (lanesOf [x]).2, (lanesOf [l]).2 with
    | u :: _, v :: _ =>
      match settleLane (.int 8 false) .rdn ((laneDiv u v).cut 600) with
      | some (a, _, und) => (a, und)
      | none => (0, false)
    | _, _ => (0, false)

/-- The mass of a block added to its entry's counter. -/
def eMass (x : Nat) (tab : Cap) (b a : Nat) : Eng Unit := do
  if a ≠ 0 then
    let w ← get
    let off := tab.cur + 64 + 32 * b + 11
    match checkRange (w.s.ownObj w.r.fld) tab (pR + pW + pA) off 1 with
    | some k => eFault (capTrap k tab off)
    | none =>
      let c ← kAccess x tab.obj off 1 .read false
      let _ ← kAccess x tab.obj off 1 (.write (min 255 (c.1 + a))) false
      pure ()

/-- An `atp` of a running slot at a site. -/
def State.atpAt (s : State) (f site : Nat) : Bool :=
  (s.fxAt f site false fun e => e.isM && e.col = 0 && e.op = 0x08).isSome

/-- Keys in their blocks of sixteen positions. -/
def keyBlocks (o : AttnOp) (ks : List Key) : List (List Key) :=
  (List.range o.blocks).map fun j => ks.filter fun k => k.p / 16 = o.p0 / 16 + j

/-- The work once the keys are there. -/
def attnFinish (r : Req) (o : AttnOp) (ks : List Key) (tab : Cap) (ents : List (Option Nat)) : Eng ElemRes := do
  let own := (← get).s.ownObj r.fld
  let qs ← eRows own o.q o.nq o.fin o.d
  let blocks := keyBlocks o ks
  let rows := qs.zipIdx.map fun q => attnRow o q.2 (q.1.map (codeVal o.fin)) blocks
  eFlags (rows.foldl (fun a x => a ||| x.fl ||| (if x.nan then flNV else 0)) 0)
  if o.ms then
    let _ ← rows.mapM fun x => (x.ws.zip ents).mapM fun b =>
      match b.2 with
      | some e => do
        let a := x.mass b.1
        if a.2 then eFlags flSU
        eMass r.x tab e a.1
      | none => pure ()
  if o.fab then
    modify fun w => { w with r := { w.r with data := rows.flatMap fun x => packCodes o.fout (x.out o) } }
  else
    let _ ← rows.zipIdx.mapM fun x => eWrite own (o.obase + x.2 * o.opitch) (packCodes o.fout (x.1.out o))
  pure {}

def attnBody (r : Req) : Eng ElemRes := do
  let o := attnOp r.blk
  let s := (← get).s
  -- the arrays serve one `attn` at a time (R325)
  if s.streams.any fun st => st.reqs.any (·.id = r.id) && s.arrayBusy r.fld st.id then eStop (.wait none)
  else if o.fab && !s.atpAt r.fld (16 * (6 + o.pt)) then eFault (engTrap 0x96 0 (6 + o.pt))
  else if !o.pool then
    let ks ← ringKeys (s.ownObj r.fld) o
    let ents ← if !o.ms then pure [] else (List.range o.blocks).mapM fun k => do
      pure (some (← eNum (r.cap 96).obj ((r.cap 96).cur + 4 * k) 4))
    attnFinish r o ks (r.cap 112) ents
  else
    let p ← eBindPool (r.cap 48)
    if p.d ≠ o.d || p.fin ≠ o.fin then eFault (engTrap 0x8B 0 (if p.d ≠ o.d then 5 else 6))
    else
      let d := (← kDesc p p.vseq).1
      match ← poolKeys p o (max o.wlo (fieldLE d 24 4)) (fieldLE d 12 4) ((List.range o.blocks).map (o.p0 / 16 + ·)) with
      | .ok (ks, es) => attnFinish r o ks p.tab es
      | .error j =>
        let c := r.cap 48
        let mount := if c.obj ≥ localObj then r.fld / 16 else c.obj % 8
        let seqs ← recordSeqs p mount p.vseq j p.vlay
        modify fun w => { w with s := w.s.promote p mount seqs j p.vlay }
        pure { more := true }

def execAttnPerform (st : Nat) (s : State) : Out := engStep s (s.engRun st [0x28] attnBody arrayHolds)

/-! ### The output port (R181) -/

/-- ATP: the next sixteen elements of the field's output rows leave as one value. -/
def fireAtp (f site : Nat) (s : State) : Option State :=
  (s.fxAt f site false fun e => e.isM && e.col = 0 && e.op = 0x08).bind fun x =>
    x.fire [0] true fun x =>
      if x.closes then (x.closeRound).fired
      else if !x.sends then none
      else
        let mine (r : Req) : Bool := r.major = 0x28 && !r.data.isEmpty && 16 * (6 + (attnOp r.blk).pt) = site
        match x.s.streams.findSome? fun t => if t.eng = engId x.s.pkg 9 f then (t.reqs.find? mine).map fun r => (t, r) else none with
        | none => none
        | some (t, r) =>
          let fo := (attnOp r.blk).fout
          let n := fmtBytes fo 16
          let vs := (unpackCodes fo 16 (r.data.take n)).map (codeVal fo)
          let x : Fx := { x with s := x.s.setStream (t.setReq { r with data := r.data.drop n }) }
          ((x.queue ((valueBeats vs x.e.round).map fun b => (0, b))).token).fired
def execAtp (fld site : Nat) (s : State) : Out := stepOf s (fireAtp fld site s)

/-! ### `xtest` (R175, R360) -/

def testPlan (s : State) (i : Issuer) (blk : List Byte) : Plan :=
  let fmt := fieldLE blk 4 1
  let n := fieldLE blk 8 2
  { total := 1
    bad := badAt (1 ≤ fmt && fmt ≤ 3) 4 ++ nonZero blk 5 3 ++ badAt (1 ≤ n) 8 ++ nonZero blk 10 6 ++ nonZero blk 56 8
    uses := [{ at_ := 32, rights := pR, n := fmtBytes fmt n }]
    eng := engId s.pkg 9 i.fld }
def execXtest (w : LF) (s : State) : Out := engBlock w 0x33 64 [] testPlan (s := s)

/-- A logit after k digits: its bounds in units of 2^(E − k), and whether it is known exactly. -/
structure Lg where
  i : Nat
  lo : Int
  hi : Int
  ex : Bool

def lgAt (k : Nat) (p : Nat × LaneIn) : Lg :=
  if p.2.cls = clZero then { i := p.1, lo := 0, hi := 0, ex := true }
  else
    let v : Int := (List.range k).foldl (fun a i => 2 * a + p.2.ds.getD i 0) 0
    let ex := p.2.ds.length < k
    { i := p.1, lo := if ex then v else v - 1, hi := if ex then v else v + 1, ex := ex }

/-- What is known of two logits. -/
def Lg.le (a b : Lg) : Bool := a.hi ≤ b.lo
def Lg.lt (a b : Lg) : Bool := a.hi < b.lo || (a.hi = b.lo && !(a.ex && b.ex))
/-- a is known to be the largest, the lowest index among equals. -/
def Lg.best (ls : List Lg) (a : Lg) : Bool := ls.all fun b => b.i = a.i || (if b.i < a.i then b.lt a else b.le a)

/-- The margin's bounds after k digits: the lower one, and the upper one with whether it is attained. -/
def marginLo (ls : List Lg) (a : Option Lg) : Int :=
  match a with
  | none => 0
  | some a => a.lo - (ls.filter (·.i ≠ a.i)).foldl (fun m b => max m b.hi) (a.lo - 2 ^ 4000)
def marginHis (ls : List Lg) : List (Int × Bool) :=
  ls.map fun a =>
    let r := ls.filter (·.i ≠ a.i)
    let m := r.foldl (fun m b => max m b.lo) (a.hi - 2 ^ 4000)
    (a.hi - m, a.ex && r.any fun b => b.lo = m && b.ex)

/-- Whether the margin of at least two finite logits reaches a finite T, as far as it is known after k digits. -/
def marginKnown (E : Int) (k : Nat) (ls : List Lg) (t : Dy) : Option Bool :=
  let best := ls.find? (Lg.best ls)
  let d (i : Int) : Dy := ⟨i, E - k⟩
  if t.le (d (marginLo ls best)) || t.le .zero then some true
  else if (marginHis ls).all fun h => (d h.1).lt t || ((d h.1).le t && !h.2) then some false else none

/-- Digit by digit from k on: the margin's answer (already given by `known` where it does not rest on digits), the largest
logit, and the digit at which both are known. -/
def testGo (E : Int) (fin : List (Nat × LaneIn)) (t : Dy) (known : Option Bool) : Nat → Nat → Option (Bool × Nat × Nat)
  | 0, _ => none
  | n + 1, k =>
    let ls := fin.map (lgAt k)
    match (match known with
      | some b => some b
      | none => marginKnown E k ls t), ls.find? (Lg.best ls) with
    | some b, some a => some (b, a.i, k)
    | _, _ => testGo E fin t known n (k + 1)

/-- The result of a test: the margin bit (none for a single logit, where no second largest exists), the index, the digit. -/
def testLogits (ls : List FVal) (t : FVal) : Option Bool × Nat × Nat × Bool :=
  let nan := ls.any FVal.isNan
  let ix := (ls.zipIdx.map fun p => (p.2, p.1)).filter fun p => !p.2.isNan
  let pos := ix.filter fun p => p.2 = .inf false
  let fin := ix.filter fun p => !p.2.isInf
  let reaches (inf : Bool) : Bool := match t with
    | .nan _ => false
    | .inf neg => neg || inf
    | .zero _ => true
    | .fin neg _ _ => inf || neg
  let single := ix.length = 1
  let ans (b : Bool) : Option Bool := if nan then some false else if single then none else some b
  if !pos.isEmpty || fin.isEmpty then
    let idx := ((if pos.isEmpty then ix else pos).head?.map (·.1)).getD 0
    (ans (reaches (pos.length = 1)), idx, 1, nan)
  else
    let e := vecExpo (fin.map (·.2))
    let lanes := fin.map fun p => (p.1, p.2.lane e)
    -- one finite logit above infinities: its margin is infinite
    let known := if nan || single then some false else if fin.length = 1 then some (reaches true) else match t with
      | .nan _ => some false
      | .inf neg => some neg
      | _ => none
    let td : Dy := match t with
      | .fin neg m x => ⟨if neg then -(m : Int) else m, x⟩
      | _ => .zero
    match testGo e lanes td known (lanes.foldl (fun a p => max a (p.2.ds.length + 2)) 2) 1 with
    | some (b, i, k) => (ans b, i, k, nan)
    | none => (ans false, 0, 0, nan)

def testBody (r : Req) : Eng ElemRes := do
  let fmt := r.b 4 1
  let n := r.b 8 2
  let b ← eBytes (r.cap 32).obj (r.cap 32).cur (fmtBytes fmt n)
  let (m, i, k, nan) := testLogits ((unpackCodes fmt n b).map (codeVal fmt)) (fmtD.val (r.b 48 8))
  if nan then eFlags flNV
  let w ← get
  let (v, s) := w.s.freeVal
  let bit ← match m with
    | some b => pure b.toNat
    | none => do
      set { w with s := s }
      pure (v.toNat % 2)
  pure { res := bit + min 255 k * 2 ^ 8 + i * 2 ^ 16 }

def execXtestPerform (st : Nat) (s : State) : Out := engStep s (s.engRun st [0x33] testBody)

end Sys2Proof.Machine
end

