-- ==== Sys2Proof/Machine/Storage.lean ====
section
/-!
DEFINITION. Collectives (R92, R94, R329, R353) and storage: `nvsub`, `nvcmp`, completions and the DMA of controllers (R332,
R354 to R356, R461).
-/
namespace Sys2Proof.Machine

/-! ### Collectives: 0 the request's own data is still to be read, 1 it waits for the other ranks, 2 its result is ready,
3 the group disagrees. -/

def collPlan (s : State) (i : Issuer) (blk : List Byte) : Plan :=
  let op := fieldLE blk 4 1
  let red := fieldLE blk 5 1
  let fmt := fieldLE blk 6 1
  let ft := fieldLE blk 7 1
  let n := fieldLE blk 8 2
  let cnt := fieldLE blk 64 8
  let nar := isNarrow fmt
  { total := 1
    bad := badAt (op ≤ 3) 4 ++ badAt (if op ≤ 1 then red ≤ 2 else red = 0) 5 ++ badAt (fmtOk fmt) 6 ++
      badAt (if nar then ft ≤ 3 else ft = fmt) 7 ++ badAt (1 ≤ n && n ≤ 4096) 8 ++ badAt (fieldLE blk 10 2 < n) 10 ++
      badAt (1 ≤ cnt && cnt < 2 ^ 32 && (!nar || cnt % 8 = 0)) 64 ++ (if nar then [] else nonZero blk 72 4) ++ nonZero blk 76 20
    uses := { at_ := 32, rights := pR, n := fmtBytes fmt cnt } ::
      (if nar then [{ at_ := 32, rights := pR, lo := (fieldLE blk 72 4 : Nat), n := cnt / 8 }] else []) ++
      [{ at_ := 48, rights := pW, n := fmtBytes ft cnt * (if op = 3 then n else 1) }]
    eng := engId s.pkg 2 (engIdx 2 i.fld) }

def execColl (w : LF) (s : State) : Out := engBlock w 0x2B 96 [] collPlan (s := s)

/-- What must agree within a group: n, format, operation and size. -/
def Req.collShape (r : Req) : List Nat := [r.b 8 2, r.b 6 1, r.b 7 1, r.b 4 1, r.b 5 1, r.b 64 8, r.fn / 2 % 8]

/-- The requests of a group that have read their data (R329). -/
def State.collGroup (s : State) (r : Req) : List Req :=
  s.streams.filterMap fun st => st.cur.bind fun q =>
    if q.major = 0x2B && q.ctx = r.ctx && q.x = r.x && q.b 12 4 = r.b 12 4 && q.prog = 1 then some q else none

/-- Neighbours combined; the last of an odd list with the identity. -/
def pairUp {α : Type} (node : α → α → α) (ident : α) : List α → List α
  | a :: b :: l => node a b :: pairUp node ident l
  | [a] => [node a ident]
  | [] => []
/-- The pairwise tree of R92 over a list padded to 2^depth leaves with the identity. -/
def pairTree {α : Type} (node : α → α → α) (ident : α) : Nat → List α → α
  | 0, l => l.headD ident
  | k + 1, l => pairTree node ident k (pairUp node ident l)

/-- The sign of a zero sum in fixed point (R93). -/
def zeroSum (md : RMode) (vs : List FVal) : FVal :=
  if vs.all fun v => v.isZero && v.sign then .zero true
  else if vs.all fun v => v.isZero && !v.sign then .zero false
  else .zero (md = .rdn)

/-- One element combined over the ranks: its code in the result's format, and its flags. With one rank no node combines, and
an IEEE code leaves as it came, a NaN with its payload (R57 speaks of operations that produce a NaN; log 87, DESIGN CHOICE). -/
def combine (red fmt ft : Nat) (md : RMode) (cs : List Nat) (vs : List FVal) : Nat × Nat :=
  let d := treeDepth cs.length
  if isNarrow fmt then
    if vs.any FVal.isNan then (target ft).of md (.nan false)
    else if red = 0 then
      let e := vs.foldl (fun a v => min a v.exp) 0
      let t : Int := vs.foldl (fun a v => a + v.scaled e) 0
      let v : FVal := if t = 0 then zeroSum md vs else .fin (t < 0) t.natAbs e
      (target ft).of md v
    else
      let pick (a b : FVal) : FVal := if a.lt b = (red = 1) then b else a
      (target ft).of md ((vs.tail).foldl pick (vs.headD (.zero false)))
  else if fmt < 4 then
    let f := ieeeFmt fmt
    let ident := if red = 0 then f.pack true 0 else f.inf (red = 1)
    let node (a b : Nat × Nat) : Nat × Nat :=
      let r := if red = 0 then f.add md a.1 b.1 else f.minMax (red = 1) a.1 b.1
      (r.1, a.2 ||| b.2 ||| r.2)
    pairTree node (ident, 0) d (cs.map fun c => (c, 0))
  else
    let w := codeWidth fmt
    let sg := fmt % 2 = 0
    let v (c : Nat) : Int := if sg then toSigned w c else (c : Nat)
    if red = 0 then ((cs.foldl (· + ·) 0) % 2 ^ w, 0)
    else ((cs.tail).foldl (fun a b => if (if red = 1 then v a < v b else v b < v a) then b else a) (cs.headD 0), 0)

/-- The result bytes of a group for each rank, with the flags (R329). Data that is only moved is converted to the result's
format alone (log 40). -/
def collResult (r : Req) (parts : List (List Byte)) : List Byte × Nat :=
  let fmt := r.b 6 1
  let ft := r.b 7 1
  let cnt := r.b 64 8
  let md := rmode (r.fn / 2 % 8)
  let m := fmtBytes fmt cnt
  let cols := parts.map fun b => (unpackCodes fmt cnt (b.take m), (b.drop m).map fun y => y.toNat)
  let join (cs : List (List Nat × List Nat)) : List Byte × Nat :=
    let vs := cs.map fun c => valuesOf fmt c.1 c.2
    let es := (List.range cnt).map fun e =>
      combine (r.b 5 1) fmt ft md (cs.map fun c => c.1.getD e 0) (vs.map fun v => v.getD e (.zero false))
    (packCodes ft (es.map (·.1)), es.foldl (fun a x => a ||| x.2) 0)
  match r.b 4 1 with
  | 0 => join cols
  | 1 => join cols
  | 2 => join (cols.take 1)
  | _ =>
    let rs := cols.map fun c => join [c]
    (rs.flatMap (·.1), rs.foldl (fun a x => a ||| x.2) 0)

/-- The disagreement that a request of a late rank finds: its group has failed, and this rank had not come yet. -/
def State.collLate (s : State) (r : Req) : Option CollFail :=
  s.colls.find? fun c => c.ctx = r.ctx && c.x = r.x && c.tag = r.b 12 4 && !c.seen.contains (r.b 10 2)

/-- The failed groups once ranks l of one have failed too: it is over when all its ranks have, or when one comes again. -/
def State.collNote (s : State) (r : Req) (size : Nat) (l : List Nat) : State :=
  let same (c : CollFail) : Bool := c.ctx = r.ctx && c.x = r.x && c.tag = r.b 12 4
  if (List.range size).all l.contains then { s with colls := s.colls.filter fun c => !same c }
  else { s with colls := s.colls.filter (fun c => !same c) ++ [{ ctx := r.ctx, x := r.x, tag := r.b 12 4, size := size, seen := l }] }

def collBody (r : Req) : Eng ElemRes := do
  let c := r.cap 32
  let d := r.cap 48
  if r.prog = 0 then
    let m := fmtBytes (r.b 6 1) (r.b 64 8)
    if r.b 4 1 = 2 && r.b 10 2 ≠ 0 then modify fun w => { w with r := { w.r with prog := 1 } }
    else
      let b ← eBytes c.obj c.cur m
      let sc ← if isNarrow (r.b 6 1) then eBytes c.obj (c.cur + r.b 72 4) (r.b 64 8 / 8) else pure []
      modify fun w => { w with r := { w.r with prog := 1, buf := b ++ sc } }
    pure { more := true }
  else if r.prog = 1 then
    let s := (← get).s
    let g := s.collGroup r
    let mark (f : Req → Req) : Eng Unit := modify fun w =>
      { w with s := { w.s with streams := w.s.streams.map fun st =>
                        { st with reqs := st.reqs.map fun q => if g.any (·.id = q.id) then f q else q } }, r := f w.r }
    if let some c := s.collLate r then
      modify fun w => { w with s := w.s.collNote r c.size (c.seen ++ [r.b 10 2]) }
      mark fun q => if q.id = r.id then { q with prog := 3 } else q
      pure { more := true }
    else if g.any fun q => q.collShape ≠ r.collShape then
      modify fun w => { w with s := w.s.collNote r (g.foldl (fun a q => max a (q.b 8 2)) 0) (g.map (·.b 10 2)) }
      mark fun q => { q with prog := 3 }
      pure { more := true }
    else
      match (List.range (r.b 8 2)).mapM fun k => g.find? fun q => q.b 10 2 = k with
      | none => eStop (.wait none)
      | some qs =>
        let (b, fl) := collResult r (qs.map (·.buf))
        mark fun q => { q with prog := 2, buf := BitVec.ofNat 8 fl :: b }
        pure { more := true }
  else if r.prog = 2 then
    if r.b 4 1 ≠ 0 || r.b 10 2 = 0 then eWrite d.obj d.cur (r.buf.drop 1)
    eFlags (fieldLE r.buf 0 1)
    pure {}
  else eFault (engTrap 0x93 0 0)

def execCollectivePerform (st : Nat) (s : State) : Out := engStep s (s.engRun st [0x2B] collBody)

/-! ### `nvsub` (R332, R354, R355) -/

/-- The pair is bound to a context (R354, R462). -/
def State.pairOf (s : State) (n ctx : Nat) : Bool :=
  s.host.nvqb.any fun p => p.1 = n && bits p.2.toNat 0 1 = 1 && bits p.2.toNat 35 16 = ctx
/-- Opcodes that `nvsub` takes. -/
def nvOpcodes : List Nat := [0, 1, 2, 4, 5, 8, 9]
/-- Bytes of data that a command moves: whole logical blocks, or ranges of 16 bytes. -/
def nvBytes (b : List Byte) : Nat :=
  let opc := fieldLE b 4 1
  if opc = 1 || opc = 2 || opc = 5 then (fieldLE b 12 2 + 1) * Config.lbaSize (fieldLE b 8 4)
  else if opc = 9 then (fieldLE b 48 1 + 1) * 16 else 0
/-- Bytes of its protection information. -/
def nvMeta (b : List Byte) : Nat :=
  let opc := fieldLE b 4 1
  if opc = 1 || opc = 2 || opc = 5 then (fieldLE b 12 2 + 1) * piBytes (Config.protection (fieldLE b 8 4) % 2) else 0

def nvPlan (pair : Nat) (s : State) (i : Issuer) (blk : List Byte) : Plan :=
  let opc := fieldLE blk 4 1
  let pim := fieldLE blk 5 1
  let data := i.cap 32
  let known := nvOpcodes.contains opc
  let moves := opc = 1 || opc = 2 || opc = 5 || opc = 9
  let rd := if opc = 2 then pW else pR
  let n := nvBytes blk
  let short (c : Cap) (n : Nat) : Bool := c.cur < c.base || c.cur + n > c.top
  { total := 1
    bad := badAt (pim ≤ 1) 5 ++ badAt (!known || n ≤ 2 ^ 20) 12 ++
      badAt (!known || (if moves then !(data.tag && short data n) else data = Cap.null)) 32 ++
      (if pim = 1 then [] else badAt (i.cap 64 = Cap.null) 64) ++ nonZero blk 84 44
    uses := (if known && moves then [{ at_ := 32, rights := rd, n := n }] else []) ++
      (if pim = 1 then [{ at_ := 64, rights := pR + pW, n := nvMeta blk }] else [])
    pins := (if known && moves then [(32, 0, n, opc == 2)] else []) ++ (if pim = 1 then [(64, 0, nvMeta blk, true)] else [])
    eng := engId s.pkg 4 (s.pairPort pair)
    own := if !known then some (engTrap 0x89 i.obj 4) else if !s.pairOf pair i.ctx then some (engTrap 0x8F i.obj pair) else none }

def execNvsub (w : LF) (s : State) : Out :=
  engBlock w 0x2C 128 [w.b] (fun s i blk => nvPlan (s.readReg w.b).toNat s i blk) (s := s)

/-- The protection information of a Write, block after block. -/
def nvProtect (r : Req) (gt : Nat) : Eng Unit := do
  let lb := Config.lbaSize (r.b 8 4)
  let c := r.cap 32
  let ps ← (List.range (r.b 12 2 + 1)).mapM fun k => do
    let b ← eBytes c.obj (c.cur + lb * k) lb
    pure (protInfo gt (r.b 60 2) (r.b 80 4 + k) b)
  ePut (r.cap 64).obj (r.cap 64).cur ps.flatten

/-- The strand that a party is. -/
def strandOf (party : Nat) : Option (Nat × Nat) := if party / 2 ^ 15 = 1 then some (bits party 3 7, bits party 0 3) else none

/-- The protection type and format of a request's namespace, as its controller reports them (log 8). -/
def Req.protGt (r : Req) : Nat := Config.protection (r.b 8 4) % 2
def Req.protType (r : Req) : Nat := Config.protection (r.b 8 4) / 2 % 4

/-- The submission (R355): the entry is built, written and announced. -/
def nvSend (r : Req) (pair : Nat) : Eng Unit := do
  let opc := r.b 4 1
  let c := r.cap 32
  let m := r.cap 64
  let pim := r.b 5 1 = 1
  let q := (← get).s.nvq pair
  let cmd : NvCmd := NvCmd.filled
    { pair := pair, cid := r.b 6 2, opc := opc, nsid := r.b 8 4, who := strandOf r.party, ctx := r.ctx, flush := false, swap := none
      sqe := sqeBytes opc (r.b 6 2) (r.b 8 4) (r.b 48 8) (r.b 12 4) (r.b 56 4) (r.b 80 4) (r.b 60 4)
      pins := r.pinned
      data := if opc = 2 then (c.obj, c.cur, nvBytes r.blk) :: (if pim then [(m.obj, m.cur, nvMeta r.blk)] else []) else []
      fld := r.fld, party := r.party, round := r.round, status := 0, done := false
      req := if pim && opc = 2 then some r.id else none }
    q.sqTail (c.obj, c.cur, nvBytes r.blk) (if pim then some (m.obj, m.cur) else none)
  modify fun w =>
    let s := ({ w.s with nvcmds := w.s.nvcmds ++ [cmd] } : State).ringDoor cmd
    let s := match strandOf r.party with
      | some (f, i) =>
        if mediaWrite opc then
          s.updStrand f i fun t =>
            if t.stWrites.contains (pair, r.b 8 4) then t else { t with stWrites := t.stWrites ++ [(pair, r.b 8 4)] }
        else s
      | none => s
    { w with s := s, r := { w.r with pinned := [] } }

/-- `nvsub`: 0 the command is still to be submitted; 1 a Read whose protection information is checked waits for its
completion; 2 its data has come; 3 its controller reports an error, and there is nothing to check. -/
def nvsubBody (r : Req) : Eng ElemRes := do
  let pair := (r.ops.getD 0 0).toNat
  let opc := r.b 4 1
  if r.prog = 1 then eStop (.wait none)
  else if r.prog = 2 then
    match ← protCheck (r.cap 64) r r.protGt r.protType (Config.lbaSize (r.b 8 4)) (r.b 60 2) (r.b 80 4) (r.b 12 2 + 1) 0 with
    | none => pure { res := r.b 6 2 }
    | some k => pure { st := 4, res := k }
  else if r.prog = 3 then pure { res := r.b 6 2 }
  else if ((← get).s.nvq pair).sqFull then eStop (.wait none)
  else
    if r.b 5 1 = 1 && opc = 1 then nvProtect r r.protGt
    nvSend r pair
    if r.b 5 1 = 1 && opc = 2 then
      modify fun w => { w with r := { w.r with prog := 1 } }
      pure { more := true }
    else pure { res := r.b 6 2 }
def execNvmeSubmitPerform (st : Nat) (s : State) : Out := engStep s (s.engRun st [0x2C] nvsubBody)

/-! ### Completions (R355, R356) -/

/-- A command as the request that its DMA is made for. -/
def NvCmd.asReq (c : NvCmd) : Req :=
  { id := 0, major := 0x2C, fn := 0, x := 4, gen := 0, imm := 0, blk := [], caps := [], ops := [], sink := .none, toElem := false
    fld := c.fld, eng := 0, ctx := c.ctx, party := c.party, round := c.round, total := 1, next := 0, bad := false, started := true
    toPin := [], pinned := c.pins, buf := [], pend := [], out := none, rdr := 0, data := [], resps := [], follow := none, prog := 0 }

/-- One write of a controller's transfer; a watchpoint that it strikes is recorded (R423, R424). -/
def State.dmaWrite (s : State) (c : NvCmd) (obj off : Nat) (b : List Byte) : State :=
  let t := (s.engWrite c.asReq obj off b).1
  match (if obj ≥ localObj then [] else s.struck c.ctx obj off b.length) with
  | [] => t
  | k :: l => (t.setHits c.ctx (k :: l)).postReq c.asReq (engId s.pkg 4 (s.pairPort c.pair)) 6 (mkTrap ccWatch k obj off)

/-- Bytes that a controller writes for a command, sector after sector, as writes of the command's issuer. -/
def State.dmaPut (s : State) (c : NvCmd) (obj off : Nat) (b : List Byte) : State :=
  (pieces off b.length).foldl (fun s p => s.dmaWrite c obj p.1 ((b.drop (p.1 - off)).take p.2)) s

/-- The data of a Read over its extents, as much as the controller has sent. -/
def State.dmaData (s : State) (c : NvCmd) : List (Nat × Nat × Nat) → List Byte → State
  | [], _ => s
  | (obj, off, n) :: l, b => (s.dmaPut c obj off (b.take n)).dmaData c l (b.drop n)

/-- A request that waits for its command's completion goes on. -/
def State.nvWake (s : State) (id st : Nat) : State :=
  { s with streams := s.streams.map fun t =>
      { t with reqs := t.reqs.map fun q => if q.id = id then { q with prog := if st = 0 then 2 else 3 } else q } }

/-- NVME_COMPLETION_POSTED: a Read's data has arrived, the pins are released and the completion can be taken; the device's
own commands only note their status. The completion queue takes it where it has room. -/
def execNvmeCompletionPosted (pair cid : Nat) (lo hi : W64) (data : List Byte) (s : State) : Out :=
  match s.nvcmds.find? fun c => c.pair = pair && c.cid = cid && c.sent && !c.done with
  | none => .next s
  | some c =>
    let st := hi.toNat / 2 ^ 49
    let noted : NvCmd := { c with done := true, status := st, pins := [] }
    if c.flush then .next { s with nvcmds := s.nvcmds.map fun d => if d = c then noted else d }
    else if (s.nvq pair).cqFull then .next s
    else
      let raw : W128 := hi.extractLsb' 48 16 ++ BitVec.ofNat 16 cid ++ hi.extractLsb' 0 32 ++ lo
      if c.swap.isSome then
        .next (({ s with nvcmds := s.nvcmds.map fun d => if d = c then noted else d } : State).cqPut pair raw |>.cqTake pair)
      else
        let s := (s.dmaData c c.data data).cqPut pair raw
        let s := c.req.elim s fun id => s.nvWake id st
        let e : W128 := hi.extractLsb' 49 15 ++ (1#1) ++ BitVec.ofNat 16 cid ++ hi.extractLsb' 0 32 ++ lo
        let rels : List Rel := c.data.map fun d =>
          { ctx := c.ctx, obj := d.1, off := d.2.1, n := d.2.2, party := c.party, set := arraySet, table := [] }
        .next { s with nvcmds := s.nvcmds.erase c, nvcomps := s.nvcomps ++ [(pair, e, rels)] }

def execNvcmp (w : LF) (s : State) : Out :=
  runL w .other { reads := [w.b] } (fun s =>
    match s.pairBound w.d with
    | some q => .raise (unbound q) s
    | none =>
      let n := (s.readReg w.b).toNat
      match s.scopeFault 0 w.x.toNat with
      | some k => .raise k s
      | none =>
        if !s.pairOf n s.me.ctx then .raise (engTrap 0x8F 0 n) s
        else
          match s.nvcomps.find? (·.1 = n) with
          | none => if w.fn.toNat % 2 = 1 then .done (s.setPair w.d 0 0) else .wait s
          | some (_, e, rels) =>
            let put (s : State) : Act :=
              .done ((({ s with nvcomps := s.nvcomps.erase (n, e, rels) } : State).cqTake n).setPair w.d (e.setWidth 64) (e.extractLsb' 64 64))
            if rels.isEmpty then put s
            else
              match s.acquireFrom s.me.ctx s.myParty (s.setOf w.x.toNat) rels with
              | some t => put (t.invalidate s.me.ctx s.me.fld (s.setOf w.x.toNat))
              | none => .raise (mkTrap ccSync 0 0 0) s) s

/-! ### DMA of controllers (R461) -/

/-- CONTROLLER_DMA: a write of a controller at an address of HBM. It lands where the page is pinned for one of the
controller's commands, or within one of its queues, and is an Unsupported Request anywhere else. -/
def execControllerDma (port rid key : Nat) (data : List Byte) (s : State) : Out :=
  let its (n : Nat) : Bool := s.host.nvqb.any fun p =>
    p.1 = n && bits p.2.toNat 0 1 = 1 && bits p.2.toNat 1 2 = port && bits p.2.toNat 3 16 = rid
  let at_ (c : NvCmd) : Option (NvCmd × Nat × Nat) :=
    if c.done || !its c.pair then none
    else (c.pins.find? fun p => p.frame = key % 2 ^ 48 / 65536 && p.obj % 8 = key / 2 ^ 48).bind fun p =>
      if key % 65536 + data.length ≤ 65536 then some (c, p.obj, p.page * 65536 + key % 65536) else none
  match s.nvcmds.findSome? at_ with
  | some (c, obj, off) => .next (s.dmaPut c obj off data)
  | none => if s.host.nvqb.any fun p => its p.1 && inQueue p.1 key data.length then .next (s.queueWrite key data) else .next s

end Sys2Proof.Machine
end

