-- ==== Sys2Proof/Machine/Ports.lean ====
section
/-!
DEFINITION. The engine port of the fabric (R176, R180, R310 to R312, R342): requests sent as words.
-/
namespace Sys2Proof.Machine

/-- The engine code, the block size and the capability fields of a request that has a word form. -/
def wordForm (major : Nat) : Option (Nat × Nat × List Nat) :=
  if major = 0x20 then some (0, 64, [32, 48])
  else if major = 0x21 then some (0, 96, [32, 48])
  else if major = 0x22 || major = 0x23 then some (1, 96, [32, 48, 64])
  else if major = 0x29 then some (3, 96, [32, 48, 64])
  else if major = 0x2A then some (7, 96, [32, 48])
  else if major = 0x2B then some (2, 96, [32, 48])
  else if major = 0x2C then some (4, 128, [32, 64])
  else if major = 0x34 then some (5, 96, [32, 48, 64])
  else if major = 0x30 then some (6, 96, [32, 48, 64])
  else if major = 0x36 then some (6, 64, [32])
  else if major = 0x2E || major = 0x2F || major = 0x31 || major = 0x32 || major = 0x37 then some (6, 64, [32, 48])
  else none

/-- The codes of fn that a word form may carry (R335). -/
def wordFnOk (major fn : Nat) : Bool :=
  if major = 0x20 || major = 0x21 || major = 0x2B then fn < 16 && fn / 2 ≤ 4 else if major = 0x2F then fn < 4 else fn < 2

/-- The block offsets that the words after word 0 stand for, and whether each is a capability. -/
def wordOffs (size : Nat) (caps : List Nat) : List (Nat × Bool) :=
  (List.range (size / 4)).filterMap fun k =>
    let o := 4 * k
    if (16 ≤ o && o < 32) || caps.any (fun c => c < o && o < c + 16) then none else some (o, caps.contains o)

/-- The plan of a word form's request; the queue pair of a storage command is not part of it. -/
def wordPlan (major fn pair : Nat) : State → Issuer → List Byte → Plan :=
  if major = 0x20 then copyPlan false (bits fn 1 3)
  else if major = 0x21 then copyPlan true (bits fn 1 3)
  else if major = 0x22 then gatherPlan false
  else if major = 0x23 then gatherPlan true
  else if major = 0x29 then codecPlan
  else if major = 0x2A then cksumPlan
  else if major = 0x2B then collPlan
  else if major = 0x2C then nvPlan pair
  else if major = 0x2E then lookPlan
  else if major = 0x2F then appPlan
  else if major = 0x30 then forkPlan
  else if major = 0x31 then freePlan
  else if major = 0x32 then polPlan
  else if major = 0x34 then enqPlan
  else if major = 0x36 then scorePlan
  else evictPlan

/-- A malformed word form, at a block offset. -/
def Fx.badWord (x : Fx) (off : Nat) : State := x.stallTrap (engTrap 0x8B 0 off) noInput

/-- A capability word: null, the element's own output, or an entry of the region's table; none where it is malformed. -/
def capWord (x : Fx) (major off : Nat) (w : W32) : Option (Option Cap) :=
  if w = BitVec.allOnes 32 then some (some Cap.null)
  else if w = 8 then (if off = 48 && (major = 0x20 || major = 0x21 || major = 0x22) then some none else none)
  else if w.toNat < 8 then some (some (x.sl.capTab.getD w.toNat Cap.null))
  else none

/-- The write-backs of a scope on some fields of a region, one field after another; the field where they stop, with the rest. -/
def State.regionWrites (s : State) (ctx scope : Nat) : List Nat → State × Nat × WbRes
  | [] => (s, 0, .ok)
  | f :: r => match s.relWrites ctx f [s.memberSet ctx f scope] with
    | (s, .ok) => s.regionWrites ctx scope r
    | (s, z) => (s, f, z)

/-- What precedes the sending (R312): the write-backs of the scope on every field of the region, whose elements are one party.
What a port holds of them has its record; what is done stays done. -/
def Fx.before (x : Fx) (scope : Nat) : Option (Sum State Fx) :=
  match x.s.regionWrites x.sl.ctx scope ((x.s.region x.sl).map (·.fld)) with
  | (s, _, .ok) =>
    let sl := s.slotOf x.sl.f0 x.sl.idx
    match sl.lateRace with
    | some k => some (.inl (({ x with s := s.setSlot { sl with lateRace := none } } : Fx).stallTrap k noInput))
    | none => some (.inr { x with s := s })
  | (s, f, .hold c w) =>
    match s.l1.find? fun e => e.fld = f && e.ctx = x.sl.ctx && e.dirty ≠ 0 &&
        s.translate e.ctx e.obj (e.sec * 16) true = .held c w with
    | some e => if x.s.recorded e.ctx e.obj (e.sec * 16) c x.source then none else some (.inl (s.holdOnce e.ctx e.obj (e.sec * 16) c w x.source))
    | none => none
  | _ => none

/-- The words make a request: its checks, then its place in the stream. -/
def Fx.sendWordsReq (x : Fx) (major fn size : Nat) (offs : List (Nat × Bool)) (ws : List W32) : Option State :=
  let ps := offs.zip ws
  let cs := ps.filter (·.1.2)
  match cs.find? fun p => (capWord x major p.1.1 p.2).isNone with
  | some p => some (x.badWord p.1.1)
  | none =>
    let out := cs.any fun p => capWord x major p.1.1 p.2 = some none
    let caps := cs.filterMap fun p => match capWord x major p.1.1 p.2 with
      | some (some c) => some (p.1.1, c)
      | _ => none
    let blk := ((List.range (size / 4)).map fun k => toBytes 4 (match ps.find? fun p => p.1 = (4 * k, false) with
      | some p => p.2.toNat
      | none => 0)).flatten
    let scope := x.e.p 4 5
    let (v, s) := if major = 0x2C then x.s.freeVal else ((0 : W64), x.s)
    let pair := v.toNat % 1024
    let x := { x with s := s }
    let i := { x.issuer scope caps out with waive := x.e.waive }
    let p := wordPlan major fn pair x.s i blk
    match x.s.checkReq i blk true p with
    | .inl k => some (x.stallTrap k noInput)
    | .inr t =>
      if !x.s.tileTurn i p t then
        if (x.s.fieldOf i.fld).waits.any (·.1 = x.s.waiter i) then none else some (x.s.tileQueue i p)
      else if x.s.streamFull i.src p.eng || !x.s.roundOpen x.sl.ctx (x.e.rinAt 0) then none
      else
        match x.before scope with
        | none => none
        | some (.inl s) => some s
        | some (.inr x) =>
          let r := x.s.mkReq i major fn 0 blk [BitVec.ofNat 64 pair] .elem out p
          some (({ x with s := x.s.enqueue i p r, e := { x.e with words := [], waive := 0 } } : Fx).done)

/-- The word at i0 taken. -/
def Fx.takeReqWord (x : Fx) (ok : W32 → Bool) : Option State :=
  match x.wordAt 0 with
  | none => none
  | some (.inl s) => some s
  | some (.inr w) =>
    if !ok w then some (x.badWord 0) else (x.gateIn 0).map fun x => ((x.drop 0).setWords (x.e.words ++ [w])).done

/-- The engine code that word 0 fits, with its block. -/
def wordZero (eng : Nat) (w : W32) : Option (Nat × List Nat) :=
  match wordForm (bits w.toNat 0 6) with
  | some (e, size, caps) =>
    if e = eng && bits w.toNat 15 17 = 0 && wordFnOk (bits w.toNat 0 6) (bits w.toNat 6 9) then some (size, caps) else none
  | none => none

/-- ENGP: takes words until a request is whole, then sends it. Markers pass once its requests have completed; a round
source closes its own rounds and takes those of its input. -/
def fireEngp (f site : Nat) (s : State) : Option State :=
  (s.fxAt f site false fun e => e.isM && e.col = 0 && e.op = 0x05).bind fun x =>
    x.fire [0] true fun x =>
      if x.e.rs && x.closes then (x.closeRound).fired
      else if (x.head 0).any (·.isMark false) then
        if !x.e.words.isEmpty then some (x.stallAt ccRoundTag 0x32 0 (((x.head 0).map (·.word)).getD 0))
        else if x.pendingReq then none
        else (x.passMark [0] (if x.e.rs then [] else x.outPorts))
      else
        match x.e.words with
        | [] => x.takeReqWord fun w => (wordZero (x.e.p 0 4) w).isSome
        | w0 :: ws =>
          match wordZero (x.e.p 0 4) w0 with
          | none => some (x.badWord 0)
          | some (size, caps) =>
            let offs := wordOffs size caps
            if ws.length < offs.length then x.takeReqWord fun _ => true
            else x.sendWordsReq (bits w0.toNat 0 6) (bits w0.toNat 6 9) size offs ws
def execEngp (fld site : Nat) (s : State) : Out := stepOf s (fireEngp fld site s)

end Sys2Proof.Machine
end

