-- ==== Sys2Proof/Machine/Debug.lean ====
section
/-!
DEFINITION. Resume tokens (R404, R408), the region watchdog and remote timeouts (R419, R420), timing errors and fenced units
(R156, R157, R426), management messages (R466).
-/
namespace Sys2Proof.Machine

/-! ### Management messages (R465, R466); the codes and layouts are the model's own (log 21) -/

def mgIdentity : Nat := 1
def mgStatus : Nat := 2
/-- A request refused before bring-up has ended. -/
def mgBringup : Nat := 3
/-- REPLACE_REQUESTED: kind of unit (1 field, 2 link lane, 3 HBM frame), unit, cause, package. -/
def mgReplace : Nat := 4
/-- The cause of a shutdown (R467). -/
def mgShutdown : Nat := 5
/-- A field's timing-replay counter: the field, the counter from bit 32 (R156). -/
def mgReplays : Nat := 6
/-- A link's replay counter: the link, the counter from bit 32 (R443). -/
def mgLinkReplays : Nat := 7
/-- Answers to attestation requests carry this much more than the request's number. -/
def mgSpdm : Nat := 16

def State.message (s : State) (code : Nat) (body : BitVec 256) : State := { s with mgmt := s.mgmt ++ [{ code := code, body := body }] }
def State.replaceMsg (s : State) (kind unit cause : Nat) : State :=
  s.message mgReplace (BitVec.ofNat 256 (kind + cause * 2 ^ 8 + s.pkg * 2 ^ 16 + unit * 2 ^ 32))

/-! ### What a resume token does to the units of a task, live or saved -/

/-- Causes whose check a resumed access leaves out (R408). -/
def waived (cause : Nat) : Bool := (0x04 ≤ cause && cause ≤ 0x07) || cause = 0x0A || cause = 0x0B || cause = 0x0C || cause = 0x14

/-- The element fires again from its held state (R155). -/
def Elem.resumed (e : Elem) : Elem :=
  match e.stall with
  | some t => { e with stall := none, status := e.status &&& ~~~(BitVec.ofNat 32 (2 ^ 22)), waive := if waived t.cause then t.cause else 0 }
  | none => e

/-- A region stopped with no drain: nothing of its values is left; tiles, status words and what a generator has counted stay. -/
def Elem.wiped (e : Elem) : Elem :=
  { e with got := Vector.replicate 4 [], live := Vector.replicate 4 false, sent := 0, busy := false, stop := false, outq := []
           vals := Vector.replicate 4 [], words := [], buf := [], nval := 0, tok := 0, closing := false, hold := false, cnt := 0
           lastIn := 0, iq := Vector.replicate 4 0, oq := Vector.replicate 2 0, stall := none, waive := 0
           captured := none, passed := false, part := []
           status := e.status &&& ~~~(BitVec.ofNat 32 (2 ^ 22)) }

/-- The slot at a place is stalled at a site, or as a whole. -/
def stalledAt (slots : List Slot) (f i site : Nat) : Bool :=
  slots.any fun q => q.fld = f && q.idx = i && (q.dead || q.elems.any fun e => e.site = site && e.stall.isSome)

/-- `resume` of a site, act 0. -/
def resumeSlots (f i site : Nat) (slots : List Slot) : List Slot :=
  let dead := slots.find? fun q => q.fld = f && q.idx = i && q.dead
  slots.map fun q =>
    let q := match dead with
      | some d => if q.f0 = d.f0 && q.idx = d.idx then { q with dead := false } else q
      | none => q
    if q.fld = f && q.idx = i then { q with elems := q.elems.map fun e => if e.site = site then e.resumed else e } else q

/-- `resume` of a site, act 1, for the slots and the channels of the region. -/
def abandonSlots (sl : Slot) (slots : List Slot) : List Slot :=
  slots.map fun q => if q.f0 = sl.f0 && q.idx = sl.idx then
    { q with st := .installed, pend := .none, owner := none, dead := false, elems := q.elems.map Elem.wiped } else q
def emptyChans (sl : Slot) (chans : List Chan) : List Chan :=
  chans.map fun c => if sl.owns c then { c with q := [], openv := false, kill := false, stopped := false, began := false, discard := 0 } else c

/-- A strand stopped by a double fault restarts at ECAP in handler mode. -/
def Strand.restarted (t : Strand) : Strand :=
  if t.stat = .stopped && !t.finder then { t with dflt := false, mode := true, pcc := t.ecap, stat := .running } else t

/-- The operation that a stream's array holds is replayed, or abandoned with status 0x01. -/
def Stream.resumed (st : Stream) : Stream := { st with stall := none }
def Stream.abandoned (st : Stream) : Stream :=
  match st.stall, st.cur with
  | some k, some r =>
    { (st.setReq { r.answer (respWord 1 k.code k.sub r.next st.eng 0 0 r.rtag 0) with bad := true, pend := [] }) with
        stall := none, skip := true, port := none }
  | _, _ => { st with stall := none }
/-- A stream goes on after a watchpoint. -/
def Stream.goesOn (st : Stream) : Stream := { st with heldWp := false }

/-- The matrix operation that a stream holds (R324). -/
def Stream.heldOp (st : Stream) : Option Req :=
  match st.stall, st.cur with
  | some _, some r => if r.mat.isSome then some r else none
  | _, _ => none

/-! ### The location word (R404) -/

structure Loc where
  tgt : Nat
  pkg : Nat
  fld : Nat
  unit : Nat
  cslot : Nat
  id : Nat
  act : Nat

def locOf (v : Nat) : Loc :=
  { tgt := bits v 0 3, pkg := bits v 3 5, fld := bits v 8 7, unit := bits v 15 8, cslot := bits v 23 2, id := bits v 32 24
    act := bits v 60 4 }

/-- The word names a unit and an act that it supports (R404, R406, R408). -/
def locOk (v : Nat) : Bool :=
  let l := locOf v
  bits v 25 7 = 0 && bits v 56 4 = 0 && l.tgt ≤ 4 && l.act ≤ 1 && (l.act = 0 || l.tgt = 0 || l.tgt = 2 || l.tgt = 3) &&
  (match l.tgt with
   | 0 => l.unit < 192 && l.id = 0
   | 1 => l.fld < 8 && l.unit = 0 && l.cslot = 0 && l.id < 2 ^ 17
   | 2 => l.unit ≤ 1 && l.cslot = 0 && l.id = 0
   | 3 => l.unit < 8 && l.cslot = 0 && l.id = 0
   | _ => l.fld = 0 && l.unit = 0 && l.cslot = 0)

/-! ### `resume` (R408) -/

/-- The saved task of a context whose units a location on this field may name, with the number of the field in it. -/
def State.savedOn (s : State) (ctx f : Nat) (p : Nat → Saved → Bool) : Option (Saved × Nat) :=
  s.saved.findSome? fun v =>
    if v.home.contains f && (s.taskOf v.tno).any (fun k => k.ctx = ctx) && p (v.home.idxOf f) v then some (v, v.home.idxOf f) else none
def State.setSaved (s : State) (v : Saved) : State := { s with saved := s.saved.map fun w => if w.tno = v.tno then v else w }

/-- Streams of a matrix array, or of the attention engine that its fields drive. -/
def State.arrayEng (s : State) (l : Loc) (e : Nat) : Bool := e = engId s.pkg 8 (2 * l.fld + l.unit) || e = engId s.pkg 9 l.fld

/-- The region at a site is stopped with no drain (R194 step 3), and its port records close. -/
def State.abandonRegion (s : State) (sl : Slot) : State :=
  let objs := sl.capTab.map (·.obj)
  let used (p : PortRec) : Bool := s.flights.any fun f => f.pending && f.acc.ctx = p.ctx && f.acc.obj = p.obj && f.acc.off / 65536 = p.page
  let owner := (s.slotOf sl.f0 sl.idx).owner
  let src (st : Stream) : Bool := match st.src with
    | .elem f i _ => sl.fieldsOf.contains f && i = sl.idx
    | _ => false
  (({ s with slots := abandonSlots sl s.slots, chans := emptyChans sl s.chans
             streams := s.streams.map fun st => if src st then { st with dead := true } else st
             ports := s.ports.filter fun p => !(p.ctx = sl.ctx && objs.contains p.obj && !used p) } : State).xpDown owner).syncRounds

/-- Open records of a context at a mount that a token names, oldest first (R408); one that is still to be posted stays (R401). -/
def State.named (s : State) (ctx : Nat) (l : Loc) : List PortRec :=
  let mine := s.ports.filter fun p => p.ctx = ctx && p.mount = l.fld % 8 && p.seq.isSome
  if l.id / 2 ^ 16 = 1 then mine
  else (mine.filter fun p => p.seq.any fun q => q.toNat % 2 ^ 16 = l.id % 2 ^ 16).take 1

/-- Records closed; the requests held under them are to be translated again, in their order of arrival (R249). -/
def State.closeRecords (s : State) (ps : List PortRec) : State :=
  let hit (f : Flight) : Bool :=
    let b := s.portAccess f.acc
    ps.any fun p => b.ctx = p.ctx && b.obj = p.obj && b.off / 65536 = p.page && f.cause = p.cause
  { s with ports := s.ports.filter fun p => !ps.contains p
           flights := s.flights.map fun f => match f.phase with
             | .held _ => if hit f then { f with phase := .retry } else f
             | _ => f }

/-- The tiles of held operations equal their shadow copies (R324). -/
def State.restoreHeld (s : State) (f : Nat) (st : Stream) : State :=
  match st.heldOp with
  | some r => s.restoreShadow f r.id
  | none => s
/-- The same in a saved task, for a stream of its field j. -/
def Saved.restoreHeld (v : Saved) (j : Nat) (st : Stream) : Saved :=
  match st.heldOp.bind fun r => (v.fields.find? (·.no = j)).bind fun f => (f.shadow.find? (·.req = r.id)).map fun p => (f, p) with
  | some (f, p) =>
    let k0 := accKey 0 p.arr p.tile 0 0 - accKey 0 0 0 0 0
    let inTile (c : Nat × Host.Cell) : Bool := c.1 = 2 * j + 1 && k0 ≤ c.2.1 && c.2.1 < accKey 0 p.arr p.tile 64 0 - accKey 0 0 0 0 0
    { v with cells := v.cells.filter (fun c => !inTile c) ++ p.cells.map fun c => (2 * j + 1, (k0 + c.1, c.2))
             fields := v.fields.map fun g => if g.no = f.no then f.setScale p.arr p.tile p.scale else g }
  | none => v

/-- A strand of a slot ends as `halt` does, once it has come to rest. -/
def State.endStopped (s : State) (f i : Nat) : State :=
  match s.strandAt f i with
  | some t => if t.stat = .stopped then (if t.idle && t.drained then s.endStrand f i else s.updStrand f i fun t => { t with ending := true }) else s
  | none => s

/-- A strand that a token has ended and that has come to rest. -/
def State.ended (s : State) : Option (Nat × Nat) :=
  (s.strands.find? fun t => t.ending && t.stat = .stopped && t.idle && t.drained).map fun t => (t.fld, t.slot)

/-- The token at its unit: of a saved task of the context, of a live one, or nothing where no unit is stalled. -/
def State.resumeAt (s : State) (ctx : Nat) (l : Loc) : State :=
  let f := l.fld
  match l.tgt with
  | 0 =>
    match s.savedOn ctx f fun j v => stalledAt v.slots j l.cslot l.unit with
    | some (v, j) =>
      if l.act = 0 then s.setSaved ({ v with slots := resumeSlots j l.cslot l.unit v.slots } : Saved)
      else
        match (v.slots.find? fun q => q.fld = j && q.idx = l.cslot) with
        | some sl => s.setSaved { v with slots := abandonSlots sl v.slots, chans := emptyChans sl v.chans }
        | none => s
    | none =>
      if !stalledAt s.slots f l.cslot l.unit then s
      else if l.act = 0 then { s with slots := resumeSlots f l.cslot l.unit s.slots }
      else s.abandonRegion (s.slotOf f l.cslot)
  | 1 => s.closeRecords (s.named ctx l)
  | 2 =>
    let mine (st : Stream) : Bool := s.arrayEng l st.eng && st.stall.isSome
    let go (st : Stream) : Stream := if !mine st then st else if l.act = 0 then st.resumed else st.abandoned
    match s.savedOn ctx f fun j v => v.streams.any fun st => st.src.fld = j && mine st with
    | some (v, j) =>
      let held := v.streams.filter fun st => st.src.fld = j && mine st
      let v := if l.act = 1 then held.foldl (fun v st => v.restoreHeld j st) v else v
      s.setSaved { v with streams := v.streams.map fun st => if st.src.fld = j then go st else st }
    | none =>
      let held := s.streams.filter mine
      let s := if l.act = 1 then held.foldl (fun s st => s.restoreHeld f st) s else s
      { s with streams := s.streams.map go }
  | 3 =>
    match s.savedOn ctx f fun j v => v.strands.any fun t => t.fld = j && t.slot = l.unit && t.stat = .stopped with
    | some (v, j) =>
      if l.act = 0 then
        s.setSaved { v with strands := v.strands.map fun t => if t.fld = j && t.slot = l.unit then t.restarted else t }
      else s.setSaved { v with strands := v.strands.map fun t => if t.fld = j && t.slot = l.unit then { t with ending := true } else t }
    | none => if l.act = 0 then s.updStrand f l.unit Strand.restarted else s.endStopped f l.unit
  | _ =>
    let mine (st : Stream) : Bool := st.eng = l.id && st.reqs.any fun r => r.ctx = ctx
    { s with streams := s.streams.map fun st => if mine st then st.goesOn else st
             saved := s.saved.map fun v => if (s.taskOf v.tno).any (fun k => k.ctx = ctx) then
               { v with streams := v.streams.map fun st => if mine st then st.goesOn else st } else v }

/-- A unit on a field whose task belongs to another context. -/
def State.foreign (s : State) (ctx : Nat) (l : Loc) : Bool :=
  (l.tgt = 0 || l.tgt = 2 || l.tgt = 3) && (s.taskAt l.fld).any (·.ctx ≠ ctx) &&
    !(s.saved.any fun v => v.home.contains l.fld && (s.taskOf v.tno).any fun k => k.ctx = ctx)

/-- `resume b`: the checks of R406 and R408, then the token. -/
def State.resume (b : RegF) (s : State) : Out :=
  runPriv 4 { reads := [b] } (fun s =>
    let v := s.readReg b
    let l := locOf v.toNat
    if !locOk v.toNat then .raise (cfgInv 0x0B) s
    else if l.pkg ≠ s.pkg then .raise (mkTrap ccRemote 0 0 v.toNat) s
    else if s.foreign s.me.ctx l then .raise (mkTrap ccCapPerm 0 0 v.toNat) s
    else .done (s.resumeAt s.me.ctx l)) s

def execResumeSite (b : RegF) (s : State) : Out := State.resume b s
def execAbandonRegion (b : RegF) (s : State) : Out := State.resume b s
def execResumePort (b : RegF) (s : State) : Out := State.resume b s
def execResumeArray (b : RegF) (s : State) : Out := State.resume b s
def execAbandonArray (b : RegF) (s : State) : Out := State.resume b s
def execResumeStrand (b : RegF) (s : State) : Out := State.resume b s
def execEndStrand (b : RegF) (s : State) : Out := State.resume b s
def execResumeEngine (b : RegF) (s : State) : Out := State.resume b s

/-! ### The region watchdog (R419) -/

/-- The firing of a switch operation, of a memory element or of a generator by its code. -/
def fireSwitch (f site op : Nat) (s : State) : Option State :=
  match op with
  | 1 => fireSteer f site s
  | 2 => (fireMerge f site s).or (fireJoin f site s)
  | 3 => fireCarry f site s
  | 4 => fireFwd f site s
  | _ => fireVcfilt f site s
def fireMem (f site op : Nat) (s : State) : Option State :=
  match op with
  | 1 => fireMld f site s
  | 2 => fireMst f site s
  | 3 => fireMlink f site s
  | 4 => fireMring f site s
  | 5 => fireEngp f site s
  | 6 => fireSqp f site s
  | 7 => fireMxp f site s
  | _ => fireAtp f site s
def fireAg (f site op : Nat) (s : State) : Option State :=
  match op with
  | 1 => fireAgaff f site s
  | 2 => fireAgmod f site s
  | _ => fireAgidx f site s
/-- The firing of an element of the running slot of a field. -/
def fireElem (f : Nat) (e : Elem) (s : State) : Option State :=
  if e.sw then fireSwitch f e.site e.op s
  else if e.isC then fireCompute f e.site e.op s
  else if e.isM then fireMem f e.site e.op s
  else fireAg f e.site e.op s

/-- The watchdog counts: nothing of the region fires, no request of it is outstanding, nothing is stalled, and the slot is
not pending. The drain before a save is not counted (R416); an access that has issued and waits, for its round too, is a request
that is outstanding (R260). -/
def State.regionIdle (s : State) (sl : Slot) : Bool :=
  let qs := s.region sl
  let waits (q : Slot) (e : Elem) : Bool := e.isCircuit && !e.isRecv && (({ s := s, sl := q, e := e } : Fx).peer).isNone && (s.chans.any fun c =>
    c.slot = sl.idx && c.dst.site = e.site && c.dst.sw && sl.fieldsOf.contains c.dst.fld && !c.q.isEmpty)
  let saving := (s.taskAt sl.fld).any fun k => match k.phase with
    | .saving _ => true
    | _ => false
  sl.st = .running && !sl.pending && !sl.dead && !saving
    && (qs.all fun q => q.elems.all fun e => e.stall.isNone && e.captured.isNone && !waits q e && !({ s := s, sl := q, e := e } : Fx).unposted)
    && !(s.streams.any fun st => !st.reqs.isEmpty && (match st.src with
      | .elem f i _ => sl.fieldsOf.contains f && i = sl.idx
      | _ => false))
    && !(s.ports.any fun p => p.ctx = sl.ctx && (sl.capTab.map (·.obj)).contains p.obj)
    && (qs.all fun q => q.elems.all fun e => (fireElem q.fld e s).isNone)

/-- DEADLOCK_WATCHDOG: every element and router of the region stalls, with one record. -/
def execDeadlockWatchdog (fld slot : Nat) (s : State) : Out :=
  let sl := s.slotOf fld slot
  if sl.sidx = 0 && s.regionIdle sl then
    let sites := (sl.elems.filter fun e => !e.sw).map (·.site)
    let site := sites.foldl min (sites.headD 0)
    .next ((s.mapRegion sl fun q => { q with dead := true }).post { Record.blank sl.ctx 8 with
      cause := ccDeadlock, party := s.slotParty sl, loc := locSite s.pkg sl.fld site sl.idx
      tno := match s.taskAt sl.fld with
        | some k => k.tno
        | none => 0 })
  else .next s

/-! ### Remote timeouts (R420) -/

/-- A request of a field's unit for this object goes to another die. -/
def offDie (fld obj : Nat) : Bool := obj < localObj && obj % 8 / 2 ≠ fld / 32

/-- A strand's request: not one that a port holds, whose timer is paused. -/
def timeoutStrand (id : Nat) (s : State) : State :=
  match s.flights.find? fun f => f.id = id && f.ofStrand && f.acc.offDie with
  | some f =>
    match f.phase with
    | .held _ => s
    | _ => s.lateTrap { f with snap := if f.unchecked then f.snap else none } (mkTrap ccRemote 0 f.acc.obj f.acc.off)
  | none => s

/-- An element's request: the element stalls, whether the request has performed or not, and a resume lets it go on. The
offset that the record names is a free value (log 42). -/
def timeoutElem (fld site : Nat) (s : State) : State :=
  match s.fxAt fld site false fun e => e.isM && e.col = 15 with
  | some x =>
    let c := x.sl.capTab.getD (x.e.p 0 3) Cap.null
    if x.e.stall.isSome || x.sl.dead || !offDie fld c.obj || s.ports.any (fun p => p.ctx = x.sl.ctx && p.obj = c.obj) then s
    else
      let (v, t) := s.freeVal
      ({ x with s := t } : Fx).stallTrap (mkTrap ccRemote 0 c.obj (v.toNat % 2 ^ 48)) noInput
  | none => s

/-- A circuit's sender that waits for a receiver: its beat counts as a request that is out (R448). -/
def timeoutCircuit (fld id : Nat) (s : State) : State :=
  match s.fxAt fld (id % 256) true fun e => e.isCircuit && !e.isRecv && e.swVec = decide (256 ≤ id) with
  | some x =>
    if x.e.stall.isSome || x.sl.dead || x.peer.isSome || (x.head 0).isNone then s
    else x.stallTrap (mkTrap ccRemote 0 0 0) noInput
  | none => s

/-- The response of the last element that a request has performed, reported as a fault instead. -/
def Req.unanswered (r : Req) (w : W128) : Req := { r with bad := true, resps := r.resps.dropLast ++ [w] }

/-- An engine's request: the element that is performed now ends with a fault, whether some of its writes have landed or none;
or the last one, where its response has not left. -/
def timeoutEngine (sid : Nat) (s : State) : State :=
  match s.streamAt sid with
  | none => s
  | some st =>
    let away (r : Req) : Option Nat := (r.caps.find? fun c => offDie r.fld c.2.obj).map fun c => c.2.obj
    let held (r : Req) (o : Nat) : Bool := s.ports.any fun p => p.ctx = r.ctx && p.obj = o
    if st.heldWp || st.stall.isSome then s
    else
      match st.reqs.find? fun r => r.resps.length = 1 && r.resps.all fun w => w.toNat % 256 = 0 with
      | some r =>
        match away r with
        | some o =>
          if held r o then s
          else
            let (v, t) := s.freeVal
            let k := mkTrap ccRemote 0 o (v.toNat % 2 ^ 48)
            let w := respWord 1 k.code k.sub (r.next - 1) st.eng 0 0 r.rtag 0
            (t.postReq { r with next := r.next - 1 } st.eng 4 k).setStream { (st.setReq (r.unanswered w)) with skip := true }
        | none => s
      | none =>
        match st.cur with
        | some r =>
          match away r with
          | some o =>
            if r.bad || held r o then s
            else
              let (v, t) := s.freeVal
              t.engFault st r (mkTrap ccRemote 0 o (v.toNat % 2 ^ 48))
          | none => s
        | none => s

/-- REMOTE_TIMEOUT (R420): a request to another die is abandoned, of a strand (3), an
element (0), a waiting sender of a circuit (1) or an engine (4) (log 42). -/
def execRemoteTimeout (tgt fld id : Nat) (s : State) : Out :=
  match tgt with
  | 3 => .next (timeoutStrand id s)
  | 0 => .next (timeoutElem fld id s)
  | 1 => .next (timeoutCircuit fld id s)
  | 4 => .next (timeoutEngine id s)
  | _ => .next s

/-! ### Timing errors (R156, R157, R426) -/

/-- A 32-bit counter that saturates. -/
def satInc (w : W32) : W32 := if w = BitVec.allOnes 32 then w else w + 1

/-- The firings of the units at a site of a field's running slot: while there are no more, a stage there holds the same beat. -/
def State.firings (s : State) (fld site : Nat) : Nat :=
  match s.runningAt fld with
  | some sl => (sl.elems.filter (·.site = site)).foldl (fun a e => a + e.nfire) 0
  | none => 0
/-- Replays of one beat in a row that a stage has made. -/
def State.replayRun (s : State) (fld site stage : Nat) : Nat :=
  match (s.fieldOf fld).runs.find? (·.1 = (site, stage)) with
  | some (_, m, k) => if m = s.firings fld site then k else 0
  | none => 0

/-- The place of a register stage, as its event names it: the field in bits 6:0, the site in bits 14:7, the stage above. -/
def stagePlace (fld site stage : Nat) : Nat := fld + site * 2 ^ 7 + stage * 2 ^ 15

/-- TIMING_REPLAY: the field's counter changes, and the stage has replayed the beat once more. -/
def execTimingReplay (place : Nat) (s : State) : Out :=
  let fld := place % 128
  let site := place / 128 % 256
  let stage := place / 32768
  let f := s.fieldOf fld
  .next (s.setField { f with
    replays := satInc f.replays
    runs := upsert (fun r => r.1 = (site, stage)) ((site, stage), s.firings fld site, s.replayRun fld site stage + 1) f.runs })

/-- A stage of a fenced field replays elsewhere: the stall of a persistent timing error ends. -/
def Elem.noWaive (e : Elem) : Elem := { e with waive := 0 }
def Elem.cured (e : Elem) : Elem :=
  if e.stall.any (fun t => t.cause = ccPoison && t.why = 0x41) then e.resumed.noWaive else e

/-- A task is moved off a fenced field: its full save, its records, and its place at the head of its queue. The stalled
stage replays elsewhere. -/
def State.moveOff (s : State) (k : Task) : State :=
  match s.poolFrame k.ctx k.fields.length with
  | none => s
  | some c =>
    match s.flushTask k with
    | (s, .ok) =>
      let s := s.saveTask k true c .queued
      let s := match s.saved.find? (·.tno = k.tno) with
        | some v => s.setSaved { v with slots := v.slots.map fun (sl : Slot) => ({ sl with elems := sl.elems.map Elem.cured } : Slot) }
        | none => s
      let s := s.postSave k 3 c
      let s := s.post { Record.blank k.ctx 9 with why := 1, tno := k.tno }
      (s.requeue k k.die k.q).syncRounds
    | (s, _) => s

/-- The unit at a site: its element, its router's switch operation, or the router alone, which holds no operation. -/
def State.unitAt (s : State) (fld site : Nat) : Option Fx :=
  ((s.fxAt fld site false fun _ => true).or (s.fxAt fld site true fun _ => true)).or
    ((s.runningAt fld).map fun sl => { s := s, sl := sl, e := Elem.fresh site true 0 0 0 })

/-- PERSISTENT_TIMING_ERROR: a stage has replayed one beat 16 times in a row. The element or router stalls, its field is
fenced, and its task moves. -/
def execPersistentTimingError (fld site stage : Nat) (s : State) : Out :=
  match s.unitAt fld site with
  | none => .next s
  | some x =>
    if s.replayRun fld site stage < 16 then .next s
    else
      let s := if x.e.stall.isSome then s else
        x.stallWith { cause := ccPoison, why := 0x41, inp := noInput, stage := stage % 2 ^ 8, rcv := 0, obj := 0, off := 0 }
      let f := s.fieldOf fld
      let g := { f with runs := f.runs.filter (·.1 ≠ (site, stage)), fenced := true }
      let s := if f.fenced then s.setField g else (s.setField g).replaceMsg 1 fld ccPoison
      match s.taskAt fld with
      | some k => match k.phase with
        | .running => .next (s.moveOff k)
        | _ => .next s
      | none => .next s

/-! ### HBM frames (R243, R245, R426) -/

/-- Contexts that have a descriptor array at a mount, and the object rows and pages that its listed bytes show. -/
def State.pagesIn (s : State) (mount frame : Nat) : List (Nat × Nat × Nat) :=
  let cells := (s.mem.filter fun c => c.1 / 2 ^ 48 = mount).map (·.1 % 2 ^ 48)
  let base := if h : mount < 8 then s.host.adir[mount].toNat % 2 ^ 48 else 0
  let ctxs := ((cells.filter fun a => base ≤ a && a < base + 8 * 2 ^ 16).map fun a => (a - base) / 8).eraseDups
  ctxs.flatMap fun c =>
    let al := s.almanac mount c
    if al = 0 then []
    else
      let rows := ((cells.filter fun a => al ≤ a && a < al + 64 * 2 ^ 24).map fun a => (a - al) / 64).eraseDups
      rows.flatMap fun r =>
        let obj := readLE s.mem (hbmKey mount (al + 64 * r)) 4
        let d := s.descAt mount c obj
        if obj / 256 ≠ r || obj % 8 ≠ mount || !d.ok obj then []
        else
          let pages := ((cells.filter fun a => d.ptab ≤ a && a < d.ptab + 8 * d.npg).map fun a => (a - d.ptab) / 8).eraseDups
          (pages.filter fun p =>
            let e := readLE s.mem (d.entryKey mount p) 8
            (e % 4 = 1 || e % 4 = 2) && bits e 16 24 = frame).map fun p => (c, obj, p)

/-- A page's entry with its state, and its frame where one is given (R247). -/
def State.setEntry (s : State) (mount : Nat) (g : Nat × Nat × Nat) (st : Nat) (frame : Option Nat) : State :=
  let k := (s.descAt mount g.1 g.2.1).entryKey mount g.2.2
  let e := readLE s.mem k 8
  let e := e - e % 4 + st
  let e := match frame with
    | some f => e - bits e 16 24 * 2 ^ 16 + f * 2 ^ 16
    | none => e
  { s with mem := writeLE s.mem k 8 e }

/-- The next usable frame of a mount's reserve, if any, and the entries that are then left: one that the mount does not have is
discarded (R245). -/
def State.reserveGo (s : State) (mount addr : Nat) : Nat → Option Nat × Nat
  | 0 => (none, 0)
  | n + 1 =>
    let f := readLE s.mem (hbmKey mount (addr + 4 * n)) 4
    if f < Config.frames then (some f, n) else s.reserveGo mount addr n
def State.reserveNext (s : State) (mount : Nat) : Option Nat × Nat :=
  if h : mount < 8 then
    let r := s.host.rrsv[mount].toNat
    s.reserveGo mount (bits r 0 48) (bits r 48 10)
  else (none, 0)
/-- A mount's reserve with n entries left. -/
def State.setReserve (s : State) (mount n : Nat) : State :=
  if h : mount < 8 then
    let r := s.host.rrsv[mount]
    { s with host := { s.host with rrsv := s.host.rrsv.set mount (r.extractLsb' 58 6 ++ BitVec.ofNat 10 n ++ r.extractLsb' 0 48) } }
  else s

/-- A page of the frame is pinned: the migration waits (R250). -/
def State.framePinned (s : State) (gs : List (Nat × Nat × Nat)) : Bool :=
  gs.any fun g => (s.pinOf g.1 g.2.1 g.2.2).isSome

/-- Errors counted in a frame since reset. -/
def State.frameErr (s : State) (mount frame : Nat) : Nat :=
  ((s.frameErrs.find? fun p => p.1 = mount && p.2.1 = frame).map (·.2.2)).getD 0
/-- Errors that fence a frame. -/
def frameLimit : Nat := 8

/-- HBM_FRAME_FENCE: an error in a frame, corrected or not; the eighth corrected one, or one that is not, fences the frame
and starts the migration of its pages. -/
def execHbmFrameFence (mount frame : Nat) (bad : Bool) (s : State) : Out :=
  if h : mount < 8 then
    if frame ≥ Config.frames then .next s
    else
      let n := s.frameErr mount frame
      let m := if bad then frameLimit else min (n + 1) frameLimit
      let s := { s with frameErrs := upsert (fun p => p.1 = mount && p.2.1 = frame) (mount, frame, m) s.frameErrs
                        corrected := if bad then s.corrected else s.corrected.set mount (satInc s.corrected[mount]) }
      -- the line whose error could not be corrected, sector by sector
      let (v, s) := if bad then s.freeVal else ((0 : W64), s)
      let sec := hbmKey mount (frame * 65536 + v.toNat % 1024 * 64) / 16
      let s := if bad then { s with poison := (List.range 4).foldl (fun p i => setIn p (sec + i)) s.poison } else s
      if m < frameLimit || n ≥ frameLimit then .next s
      else
        let gs := s.pagesIn mount frame
        let s := (s.replaceMsg 3 (mount * 2 ^ 24 + frame) (if bad then ccPoison else 0))
        let s := { s with host := { s.host with fencedMounts := s.host.fencedMounts ||| BitVec.ofNat 8 (2 ^ mount) } }
        let s := (gs.map (·.1)).eraseDups.foldl (fun s c => s.post { Record.blank c 9 with why := 3, loc := locPort s.pkg mount }) s
        -- a migration begins where there is a page to move, and takes its frame from the reserve at once
        if gs.isEmpty then .next s
        else
          let r := s.reserveNext mount
          let s := s.setReserve mount r.2
          match r.1 with
          | none => .next s
          | some d =>
            let s := { s with migs := s.migs ++ [(mount, frame, d)] }
            .next (if s.framePinned gs then s else gs.foldl (fun s g => s.setEntry mount g 2 none) s)
  else .next s

/-- Lines of a frame copied to another, with tags and poison. -/
def State.copyFrame (s : State) (mount from_ dest : Nat) : State :=
  let a := hbmKey mount (from_ * 65536)
  let b := hbmKey mount (dest * 65536)
  let inA (k n : Nat) : Bool := a / n ≤ k && k < (a + 65536) / n
  let inB (k n : Nat) : Bool := b / n ≤ k && k < (b + 65536) / n
  let secs (l : List Nat) : List Nat := (l.filter fun k => inA k 16).foldl (fun m k => setIn m (k - a / 16 + b / 16)) (l.filter fun k => !inB k 16)
  { s with mem := (s.mem.filter fun c => inA c.1 1).foldl (fun m c => writeByte m (c.1 - a + b) c.2) (zeroRange s.mem b 65536)
           tags := secs s.tags, poison := secs s.poison }

/-- MIGRATION_COMPLETE: the pages of a fenced frame lie in the frame that the migration took from the reserve. It waits while
one of them is pinned (R250). -/
def execMigrationComplete (mount frame : Nat) (s : State) : Out :=
  match s.migs.find? fun m => m.1 = mount && m.2.1 = frame with
  | none => .next s
  | some m =>
    let gs := s.pagesIn mount frame
    if s.framePinned gs then .next s
    else
      let t : State := { s with migs := s.migs.erase m }
      .next (gs.foldl (fun s g => s.setEntry mount g 1 (some m.2.2)) (t.copyFrame mount frame m.2.2))

end Sys2Proof.Machine
end

