-- ==== Sys2Proof/Machine/HostLinks.lean ====
section
/-!
DEFINITION. The package's links (R443, R444), the host complex's windows and apertures (R454 to R462), the management port
and bring-up (R463 to R467).
-/
namespace Sys2Proof.Machine

/-! ### Links (R443, R444, R426) -/

def State.linkOf (s : State) (port : Nat) : Option Link := s.links.find? (·.port = port)
def State.setLink (s : State) (l : Link) : State := { s with links := s.links.map fun m => if m.port = l.port then l else m }

/-- Flits over which a lane's replays are counted, and the replays that one lane may have in them (R426). -/
def laneWindow : Nat := 2 ^ 30
def laneLimit : Nat := 16

/-- FLIT_RECEIVE: a flit that passes its CRC in sequence is taken and acknowledged; any other is discarded. -/
def execFlitReceive (port seq : Nat) (crc : Bool) (s : State) : Out :=
  match s.linkOf port with
  | some l =>
    if l.lanes = 0 || l.narrowing then .next s
    else
      let l := if l.flits + 1 ≥ laneWindow then { l with flits := 0, laneReplays := 0 } else { l with flits := l.flits + 1 }
      .next (s.setLink (if crc && l.expect = BitVec.ofNat 16 seq then { l with expect := l.expect + 1 } else l))
  | none => .next s

/-- LINK_REPLAY: a recovered event; only the link's counters change. -/
def execLinkReplay (port _seq : Nat) (s : State) : Out :=
  match s.linkOf port with
  | some l =>
    .next (if l.lanes = 0 then s else s.setLink { l with replays := satInc l.replays, laneReplays := l.laneReplays + 1 })
  | none => .next s

/-- The width after a lane is fenced. -/
def narrower (lanes : Nat) : Nat := if lanes = 4 then 2 else if lanes = 2 then 1 else 0

/-- LANE_FENCE: a lane with more than 16 replays is fenced, and its link narrows. -/
def execLaneFence (port : Nat) (s : State) : Out :=
  match s.linkOf port with
  | some l =>
    if l.lanes = 0 || l.narrowing || l.laneReplays ≤ laneLimit then .next s
    else .next ((s.setLink { l with lanes := narrower l.lanes, laneReplays := 0, flits := 0, narrowing := true }).replaceMsg 2 port 0)
  | none => .next s

/-- LINK_NARROW_COMPLETE: traffic goes on. -/
def execLinkNarrowComplete (port : Nat) (s : State) : Out :=
  match s.linkOf port with
  | some l => .next (s.setLink { l with narrowing := false })
  | none => .next s

/-! ### The registers of the host windows (R457) -/

/-- A register of a window. -/
inductive HReg where
  | pkgid | bstate | ctxt | caplo | caphi | captgt | capst
  | aper (i : Nat)
  | nvqb (n : Nat)
  | mqcfg (die q : Nat)
  | mqsub (die q : Nat)
  | mqst (die q : Nat)
  | adir (mount : Nat)
  | rrsv (mount : Nat)
  | diestat (die : Nat)
  deriving DecidableEq, Repr

def aelricReg (o : Nat) : Option HReg :=
  if o = 0 then some .pkgid
  else if o = 8 then some .bstate
  else if o = 0x10 then some .ctxt
  else if o = 0x800 then some .caplo
  else if o = 0x808 then some .caphi
  else if o = 0x810 then some .captgt
  else if o = 0x818 then some .capst
  else if 0x1000 ≤ o && o < 0x2000 then some (.aper ((o - 0x1000) / 8))
  else if 0x2000 ≤ o && o < 0x6000 && o % 16 = 0 then some (.nvqb ((o - 0x2000) / 16))
  else none

def dieReg (d o : Nat) : Option HReg :=
  if o < 0x200 then some (.mqcfg d (o / 8))
  else if o < 0x400 then some (.mqsub d ((o - 0x200) / 8))
  else if o = 0x400 || o = 0x408 then some (.adir (2 * d + (o - 0x400) / 8))
  else if o = 0x410 then some (.diestat d)
  else if o = 0x418 || o = 0x420 then some (.rrsv (2 * d + (o - 0x418) / 8))
  else if 0x600 ≤ o && o < 0x800 then some (.mqst d ((o - 0x600) / 8))
  else none

/-- The register at a host physical address, an aligned doubleword; none raises an access fault. -/
def hregOf (addr : Nat) : Option HReg :=
  if addr % 8 ≠ 0 then none
  else if 0x3F_0000_0000 ≤ addr && addr < 0x3F_0001_0000 then aelricReg (addr - 0x3F_0000_0000)
  else if 0x3F_0001_0000 ≤ addr && addr < 0x3F_0005_0000 then dieReg ((addr - 0x3F_0001_0000) / 0x1_0000) ((addr - 0x3F_0001_0000) % 0x1_0000)
  else none

/-- The register responds: until bring-up has ended only PKGID and BSTATE do (R465). -/
def State.responds (s : State) (r : HReg) : Bool := s.host.st = 6 || r = .pkgid || r = .bstate

/-- BSTATE (R465). -/
def HostRegs.bstate (h : HostRegs) : W64 := BitVec.ofNat 64 (h.st + h.why * 2 ^ 4)
/-- MQCFG (R216). -/
def MQ.cfg (m : MQ) : W64 :=
  BitVec.ofNat 64 (m.en.toNat + m.hq.toNat * 2 + m.wbase % 8 * 2 ^ 2 + m.lvl % 8 * 2 ^ 5 + m.age % 2 ^ 16 * 2 ^ 8
    + m.ctx % 2 ^ 16 * 2 ^ 24 + m.recs.length * 2 ^ 40 + (!m.rsv.isEmpty).toNat * 2 ^ 49)
/-- MQST (R458). -/
def MQ.mqst (m : MQ) : W64 := BitVec.ofNat 64 (m.st % 2 ^ 8 + m.dn.toNat * 2 ^ 8)
/-- DIESTAT (R457). -/
def State.diestat (s : State) (d : Nat) : W64 :=
  let fs := (List.range 32).foldl (fun a i => a + (s.fieldOf (32 * d + i)).fenced.toNat * 2 ^ i) 0
  BitVec.ofNat 64 (fs + bits s.host.fencedMounts.toNat (2 * d) 2 * 2 ^ 32)

/-- An entry of a sparse list of registers; one that nothing has written is 0. -/
def regIn (l : List (Nat × W64)) (i : Nat) : W64 := ((l.find? (·.1 = i)).map (·.2)).getD 0
def putHreg (l : List (Nat × W64)) (i : Nat) (v : W64) : List (Nat × W64) := upsert (·.1 = i) (i, v) l

def State.hregRead (s : State) (r : HReg) : W64 :=
  match r with
  | .pkgid => s.host.pkgid.setWidth 64
  | .bstate => s.host.bstate
  | .ctxt => s.host.ctxt
  | .caplo => s.host.caplo
  | .caphi => s.host.caphi
  | .captgt => 0
  | .capst => BitVec.ofNat 64 s.host.capst
  | .aper i => regIn s.host.aper i
  | .nvqb n => regIn s.host.nvqb n
  | .mqcfg d q => (s.mqOf d q).cfg
  | .mqsub _ _ => 0
  | .mqst d q => (s.mqOf d q).mqst
  | .adir m => if h : m < 8 then s.host.adir[m] else 0
  | .rrsv m => if h : m < 8 then s.host.rrsv[m] else 0
  | .diestat d => s.diestat d

/-! ### Apertures (R455, R456) -/

/-- The object, context, offset and rights that a host physical address reaches through its aperture. -/
structure Aper where
  obj : Nat
  ctx : Nat
  off : Nat
  r : Bool
  w : Bool

def State.aperture (s : State) (addr : Nat) : Option Aper :=
  if 0x40_0000_0000 ≤ addr && addr < 0x40_0000_0000 + 256 * 2 ^ 30 then
    let i := (addr - 0x40_0000_0000) / 2 ^ 30
    let a := (regIn s.host.aper (2 * i)).toNat
    if bits a 48 1 = 1 then
      some { obj := bits a 0 32, ctx := bits a 32 16, off := (regIn s.host.aper (2 * i + 1)).toNat + addr % 2 ^ 30
             r := bits a 49 1 = 1, w := bits a 50 1 = 1 }
    else none
  else none

/-- An access of the host complex: synchronising at scope 4, a load an acquire, a store a release (R455), in the context's
open round (R260). -/
def State.hostAccess (s : State) (p : Aper) (n : Nat) (op : AccOp) : Access :=
  { ctx := p.ctx, obj := p.obj, off := p.off, n := n, op := op, party := hostParty, round := s.openRound p.ctx, sync := true
    rel := if op.writes then [arraySet] else [], acq := if op.reads then [arraySet] else [], scope := 4, gen := 0, fld := 128
    exempt := false }

/-- The access performs, or a port holds it and the hart with it; one that nothing answers is an access fault. -/
def State.hostIssue (s : State) (a : Access) : State :=
  let park (s : State) (ph : Phase) (ex : Bool) (cause : Nat) : State :=
    { s with ids := s.ids + 1
             flights := s.flights ++ [{ id := s.ids, who := .host, acc := { a with exempt := ex }, dst := .drop, sext := false, phase := ph
                                        num := 0, cause := cause, arrival := if cause = 0 then 0 else s.ids + 1 }] }
  if a.obj ≥ localObj then s.hartGets none
  else
    match s.performSync a with
    | (s, .val v _ _, _) =>
      let s := s.hartGets (some (BitVec.ofNat 64 v))
      match a.op with
      | .capWrite c => { s with host := { s.host with capst := if c.tag then 0 else 1 } }
      | _ => s
    | (s, .hold c w, _) => park (s.holdAcc a c w a.party) (.held (a.obj % 8)) (!a.op.compares) c
    | (s, .busy, _) => park s .retry false 0
    | (s, .raise _, _) =>
      match a.op with
      | .capWrite _ => ({ s with host := { s.host with capst := 2 } } : State).hartGets none
      | _ => s.hartGets none

/-- The operation of a host access: 0 a load, 1 a store, 2 + op an atomic of R286. -/
def hostOp (kind : Nat) (v : W64) : AccOp := if kind = 0 then .read else if kind = 1 then .write v.toNat else .atomic (kind - 2) v.toNat

/-! ### Writes of registers (R457 to R462, R245) -/

/-- The bits of NVQB n that hold something (R462). -/
def nvqbMask : W64 := BitVec.ofNat 64 (2 ^ 51 - 1)
/-- The bits of an aperture's two words that hold something (R456). -/
def aperMask (i : Nat) : W64 := if i % 2 = 0 then BitVec.ofNat 64 (2 ^ 51 - 1) else BitVec.ofNat 64 (2 ^ 48 - 2 ^ 16)

/-- A command of the pair is outstanding, or a request that will submit one. -/
def State.pairBusy (s : State) (n : Nat) : Bool :=
  (s.nvcmds.any fun c => c.pair = n && !c.done) ||
    s.streams.any fun st => st.reqs.any fun r => r.major = 0x2C && (r.ops.getD 0 0).toNat = n

/-- A write to CAPTGT: the store of R460; CAPST is set when it has performed, or where nothing is stored. -/
def State.captgt (s : State) (v : W64) : State :=
  let c : Cap := { bits := s.host.caphi ++ s.host.caplo, tag := true }
  match s.aperture v.toNat with
  | some p =>
    if p.w && v.toNat % 16 = 0 && p.obj < localObj then s.hostIssue (s.hostAccess p 16 (.capWrite { c with tag := c.ok }))
    else ({ s with host := { s.host with capst := 2 } } : State).hartGets (some 0)
  | none => ({ s with host := { s.host with capst := 2 } } : State).hartGets (some 0)

/-- A write to NVQB n. -/
def State.writeNvqb (s : State) (n : Nat) (v : W64) : State :=
  let s := s.hartGets (some 0)
  if bits (regIn s.host.nvqb n).toNat 0 1 = 1 && s.pairBusy n then s
  else { s with host := { s.host with nvqb := putHreg s.host.nvqb n (v &&& nvqbMask) } }

/-- A write to RRSV of a mount. -/
def State.writeRrsv (s : State) (m : Nat) (v : W64) : State :=
  let s := s.hartGets (some 0)
  if h : m < 8 then { s with host := { s.host with rrsv := s.host.rrsv.set m (v &&& BitVec.ofNat 64 (2 ^ 58 - 1)) } } else s

/-- CAPTGT_WRITE. -/
def execCaptgtWrite (v : W64) (s : State) : Out := .next (if s.host.st = 6 then s.captgt v else s.hartGets none)
/-- NVQB_WRITE. -/
def execNvqbWrite (n : Nat) (v : W64) (s : State) : Out :=
  .next (if s.host.st = 6 && n < 1024 then s.writeNvqb n v else s.hartGets none)
/-- RRSV_WRITE. -/
def execRrsvWrite (mount : Nat) (v : W64) (s : State) : Out :=
  .next (if s.host.st = 6 && mount < 8 then s.writeRrsv mount v else s.hartGets none)

/-- A write to a register that responds. Read-only fields and reserved ones keep their value (R9, R10). -/
def State.hregWrite (s : State) (r : HReg) (v : W64) : Out :=
  let ok (h : HostRegs) : Out := .next (({ s with host := h } : State).hartGets (some 0))
  match r with
  | .pkgid => ok (if s.host.st = 6 then s.host else { s.host with pkgid := v.setWidth 5 })
  | .ctxt => ok { s.host with ctxt := v }
  | .caplo => ok { s.host with caplo := v }
  | .caphi => ok { s.host with caphi := v }
  | .captgt => .next (s.captgt v)
  | .aper i => ok { s.host with aper := putHreg s.host.aper i (v &&& aperMask i) }
  | .nvqb n => .next (s.writeNvqb n v)
  | .mqcfg d q => execMqcfgWrite d q v s
  | .mqsub d q => execMqsubWrite d q v s
  | .adir m => ok (if h : m < 8 then { s.host with adir := s.host.adir.set m (v &&& BitVec.ofNat 64 (2 ^ 48 - 64)) } else s.host)
  | .rrsv m => .next (s.writeRrsv m v)
  | .bstate | .capst | .mqst _ _ | .diestat _ => ok s.host

/-- HOST_REGISTER_WRITE. -/
def execHostRegisterWrite (addr : Nat) (v : W64) (s : State) : Out :=
  match hregOf addr with
  | some r => if s.responds r then s.hregWrite r v else .next (s.hartGets none)
  | none => .next (s.hartGets none)

/-- HOST_APERTURE_ACCESS: an access through an aperture, or a doubleword of a window. -/
def execHostApertureAccess (addr size kind : Nat) (v : W64) (s : State) : Out :=
  match hregOf addr with
  | some r =>
    if size ≠ 8 || kind ≥ 2 || !s.responds r then .next (s.hartGets none)
    else if kind = 0 then .next (s.hartGets (some (s.hregRead r)))
    else s.hregWrite r v
  | none =>
    let op := hostOp kind v
    match s.aperture addr with
    | some p =>
      if s.host.st = 6 && (size = 1 || size = 2 || size = 4 || size = 8) && p.off % 16 + size ≤ 16
          && (!op.reads || p.r) && (!op.writes || p.w) && (!op.isAtomic || (kind ≤ 10 && 4 ≤ size && p.off % size = 0)) then
        .next (s.hostIssue (s.hostAccess p size op))
      else .next (s.hartGets none)
    | none => .next (s.hartGets none)

/-! ### The management port (R464, R465) -/

/-- IDENTITY_REQUEST: IDENT and the serial number. -/
def execIdentityRequest (s : State) : Out :=
  .next (s.message mgIdentity (BitVec.ofNat 256 (identVal.toNat + Config.serial.toNat * 2 ^ 64)))
/-- STATUS_REQUEST: BSTATE, and DIESTAT of each compute die; once bring-up has ended, the counters that are not 0 follow:
of timing replays, field by field (R156), and of link replays, link by link (R443, log 21). -/
def execStatusRequest (s : State) : Out :=
  let t := s.message mgStatus (BitVec.ofNat 256 (s.host.bstate.toNat +
    (List.range 4).foldl (fun a d => a + (s.diestat d).toNat * 2 ^ (64 + 36 * d)) 0))
  let fields := (if s.host.st = 6 then s.fields else []).filter (·.replays ≠ 0)
  let links := (if s.host.st = 6 then s.links else []).filter (·.replays ≠ 0)
  let counted (f : Field) : Mgmt := { code := mgReplays, body := BitVec.ofNat 256 (f.no + f.replays.toNat * 2 ^ 32) }
  let linked (l : Link) : Mgmt := { code := mgLinkReplays, body := BitVec.ofNat 256 (l.port + l.replays.toNat * 2 ^ 32) }
  .next { t with mgmt := t.mgmt ++ fields.map counted ++ links.map linked }

/-- An SPDM request: answered once bring-up has ended, refused with BRINGUP before. -/
def State.spdm (s : State) (code : Nat) : Out :=
  .next (if s.host.st = 6 then s.message (mgSpdm + code) (Config.attestation code) else s.message mgBringup (BitVec.ofNat 256 code))
def execGetVersion (s : State) : Out := s.spdm 0
def execGetCapabilities (s : State) : Out := s.spdm 1
def execNegotiateAlgorithms (s : State) : Out := s.spdm 2
def execGetDigests (s : State) : Out := s.spdm 3
def execGetCertificate (s : State) : Out := s.spdm 4
def execChallenge (s : State) : Out := s.spdm 5
def execGetMeasurements (s : State) : Out := s.spdm 6

/-! ### Bring-up (R463, R465) -/

/-- DEVICE_RESET: the state after reset; the model's own counters, and what the outside has still to do, stay. -/
def execDeviceReset (s : State) : Out :=
  .next { State.reset with turn := s.turn, free := s.free, ids := s.ids, inputs := s.inputs, mgmt := s.mgmt }

def State.bringup (s : State) (st why : Nat) : State := { s with host := { s.host with st := st, why := why } }

/-- FIRMWARE_VERIFY: the boot ROM runs an image whose signature verifies, and stops at any other. -/
def execFirmwareVerify (s : State) : Out :=
  if s.host.st ≤ 1 then
    let good := Config.firmwareGood s.free
    let s := { s with free := s.free + 1 }
    .next (if good then s.bringup 2 0 else s.bringup 15 1)
  else .next s
/-- HBM_TRAINING. -/
def execHbmTraining (good : Bool) (s : State) : Out :=
  .next (if s.host.st = 2 then (if good then s.bringup 3 0 else s.bringup 15 2) else s)
/-- A link as it has trained. -/
def trained (port lanes : Nat) : Link :=
  { port := port, lanes := lanes, expect := 0, replays := 0, laneReplays := 0, flits := 0, narrowing := false }
/-- The die edges (R442): links 16 to 19 are the mesh edges 0–1, 1–3, 3–2 and 2–0, and 20 + d the I/O edge of die d (log 21). -/
def dieEdges : List Link := (List.range 8).map fun i => trained (16 + i) 4
/-- DIE_LINK_TRAINING. -/
def execDieLinkTraining (good : Bool) (s : State) : Out :=
  .next (if s.host.st = 3 then (if good then { s.bringup 4 0 with links := dieEdges } else s.bringup 15 3) else s)
/-- PACKAGE_PORT_TRAINING: a port that does not train carries nothing; the device is ready. -/
def execPackagePortTraining (up : BitVec 16) (pkg : BitVec 5) (s : State) : Out :=
  if s.host.st = 4 then
    let link (i : Nat) : Link := trained i (if up.getLsbD i then 4 else 0)
    .next { s with host := { s.host with st := 6, why := 0, pkgid := pkg }, links := (List.range 16).map link ++ s.links.filter (16 ≤ ·.port) }
  else .next s

/-! ### Heat (R467) -/

/-- THERMAL_THROTTLE: only timing changes. -/
def execThermalThrottle (_die : Nat) (s : State) : Out := .next { s with clockStep := s.clockStep + 1 }
/-- THERMAL_SHUTDOWN: the device posts the cause and stops. -/
def execThermalShutdown (die : Nat) (s : State) : Out :=
  .next { s.message mgShutdown (BitVec.ofNat 256 (die + s.pkg * 2 ^ 8)) with shutdown := true }

end Sys2Proof.Machine
end

