-- ==== Sys2Proof/Machine/Fetch.lean ====
section
/-!
DEFINITION. What may happen next: whose turn it is (R222, R154), the instruction at its pcc (R24, R37 to R39), and the steps
of the device's units that are open. No rule orders steps of different units, so one of them is a free choice (log 3).
-/
namespace Sys2Proof.Machine

/-! ### Fetching -/

/-- What a fetch of an instruction answers. -/
inductive Fetched where
  | instr (i : Instr)
  | wait (s : State)
  | raise (k : TrapInfo) (s : State)

/-- The instruction of its words; words that are none raise ILLEGAL_OP (R37, R39). -/
def instrOf (w0 w1 : W32) : Instr :=
  match decodeWords w0 w1 with
  | .ok i => i
  | .error _ => .illegalOp w0 w1

/-- One word of the code: the fetch checks of R24, then the word. -/
def State.fetchOne (s : State) (off : Nat) : Fetch :=
  match checkCap (s.ownObj s.me.fld) s.me.pcc pX off 4 with
  | some k => .raise (capTrap k s.me.pcc off)
  | none => s.fetchWord s.me.fld s.me.ctx s.me.pcc off

/-- A fetch that a port holds waits; a Finder's ends it (R154). -/
def State.fetchHeld (s : State) (off cause why : Nat) : Fetched :=
  if s.me.finder then .wait s.freeMe
  else let p := s.fetchAt s.me.fld s.me.pcc off; .wait (s.holdOnce s.me.ctx p.1 p.2 cause why s.myParty)

/-- A fetch that faults; a Finder's ends it (R154). -/
def State.fetchFault (s : State) (off : Nat) (k : TrapInfo) : Fetched :=
  let s := s.fetchFailed s.me.fld s.me.ctx s.me.pcc off k
  if s.me.finder then .wait s.freeMe else .raise k s

/-- The head word's instruction only changes registers, or loads (R43 to R47): the majors of a class that do. -/
def staysInside (w0 : W32) : Bool :=
  let m := (w0.extractLsb' 24 6).toNat
  let fn := (w0.extractLsb' 0 11).toNat
  match (w0.extractLsb' 30 2).toNat with
  | 0 => m < 0x18 || m = 0x20 || m = 0x21 || m = 0x22 || (0x28 ≤ m && m ≤ 0x30) || (m = 0x32 && (fn = 1 || fn = 6))
  | 1 => (m = 0 && fn ≠ 0x19) || m = 3
  | 2 => m ≤ 2
  | _ => true

/-- Until the check of an earlier access has returned, and until an earlier acquire has performed, nothing that leaves the
sequencer goes on; a queue may be pushed or popped by any instruction of a strand that has bound one (R261, R275). -/
def State.mayLeave (s : State) (w0 : W32) : Bool :=
  s.me.finder || (!s.unchecked && !s.acquiring) || (staysInside w0 && s.me.binds.isEmpty)

/-- The instruction of its words, or a wait before it. -/
def State.gate (s : State) (w0 w1 : W32) : Fetched := if s.mayLeave w0 then .instr (instrOf w0 w1) else .wait s

/-- The instruction at pcc: its head word, and for a long one its tail word, before anything is decoded (R38). -/
def State.fetch (s : State) : Fetched :=
  match s.fetchOne s.pc with
  | .raise k => s.fetchFault s.pc k
  | .busy => .wait s
  | .hold c w => s.fetchHeld s.pc c w
  | .word w0 =>
    if isHead w0 then
      match s.fetchOne (s.pc + 4) with
      | .raise k => s.fetchFault (s.pc + 4) k
      | .busy => .wait s
      | .hold c w => s.fetchHeld (s.pc + 4) c w
      | .word w1 => s.gate w0 w1
    else s.gate w0 0

/-! ### Whose turn it is -/

/-- The strand, or the Finder, may issue: it is running with no trap to take, no record of it waits to be posted (R401), its
task runs, and bring-up has ended (R465). -/
def State.ready (s : State) (t : Strand) : Bool :=
  t.stat = .running && t.trap.isNone && s.host.st = 6 && !s.unposted 1 (locStrand s.pkg t.fld t.slot) && (match s.taskOf t.task with
    | some k => k.phase = .running
    | none => false)

/-- How far a slot lies after the one that issued last, 1 to 8. -/
def slotGap (last slot : Nat) : Nat := (slot + 15 - last % 8) % 8 + 1

/-- The strand of a list whose slot comes first after the one that issued last (R222). -/
def firstAfter (last : Nat) : List Strand → Option Strand
  | [] => none
  | t :: r =>
    match firstAfter last r with
    | some u => if slotGap last u.slot < slotGap last t.slot then some u else some t
    | none => some t

def Strand.same (t u : Strand) : Bool := t.finder == u.finder && t.fld = u.fld && t.slot = u.slot

/-- The turn passes to a strand, or to a Finder. -/
def State.turnTo (s : State) (t : Strand) : State :=
  if s.me.stat ≠ .free && t.same s.me then s
  else { s with me := t
                others := (if s.me.stat = .free then [] else [s.me]) ++ s.others.filter fun u => !u.same t }

/-- The slot that issued last on the strand's field (R222). -/
def State.noteIssue (s : State) : State :=
  let f := s.fieldOf s.me.fld
  if s.me.finder || f.lastSlot = s.me.slot then s else s.setField { f with lastSlot := s.me.slot }

/-- A branch or a return, which has issued although pcc may be where it was. -/
def branches : Instr → Bool
  | .bp _ _ _ | .call _ | .loop _ _ | .jr _ _ | .callr _ _ | .ret _ | .eret => true
  | _ => false

/-- What the strand whose turn it is does next: its instruction, a wait for its words, or a fault of the fetch. -/
def State.attempt (s : State) (run : Instr → State → Out) : Out :=
  match s.fetch with
  | .instr i => run i s
  | .wait u => .next u
  | .raise k u => u.raise k

/-- The strand whose turn it is would only wait: it is not ready in the sense of R222. -/
def State.waits (s : State) (run : Instr → State → Out) : Bool :=
  (match s.fetch with
   | .instr i => !branches i
   | _ => true) &&
  (match s.attempt run with
   | .next u => u.me.pcc = s.me.pcc && u.me.stat = s.me.stat && u.me.mode = s.me.mode && u.me.trap = s.me.trap && u.me.same s.me
   | _ => false)

/-- The next free choice among n. -/
def State.choose (s : State) (n : Nat) : Nat × State :=
  if n ≤ 1 then (0, s) else (Config.pick s.turn % n, { s with turn := s.turn + 1 })

/-- The strands and Finders that may go on. -/
def State.turns (s : State) : List Strand := (s.me :: s.others).filter s.ready

/-- The sequencer that goes on next is a free choice. On it issues the first strand, after the slot that issued last, that does
not wait, and the Finder only where no strand issues (R154, R222); what a waiting strand has under way, such as a request that
a port holds, goes on too, at a free choice (log 3). None: nothing can go on. -/
def State.takeTurn (s : State) (run : Instr → State → Out) : Option State :=
  let rs := s.turns
  let fs := (rs.map (·.fld)).eraseDups
  let (i, s) := s.choose fs.length
  let here := rs.filter (·.fld = fs.getD i 0)
  let waiting (t : Strand) : Bool := t.finder || (s.turnTo t).waits run
  let stay := here.filter waiting
  match firstAfter (s.fieldOf (fs.getD i 0)).lastSlot (here.filter fun t => !waiting t) with
  | some t =>
    let qs := stay.filter (!·.finder)
    let (j, s) := s.choose (qs.length + 1)
    match qs[j]? with
    | some u => some (s.turnTo u)
    | none => some (s.turnTo t).noteIssue
  | none =>
    let (j, s) := s.choose stay.length
    stay[j]?.map s.turnTo

/-! ### Steps of the device's units -/

/-- A step of a unit: the meaning of one of the events. -/
abbrev Move := State → Out

/-- The step of an access in flight. -/
def State.flightMoves (s : State) (f : Flight) : List Move :=
  match f.phase with
  | .done _ _ => if f.ofStrand then [if f.acc.op.reads then execLoadComplete f.id else execStoreComplete f.id] else []
  | .arriving => if s.waitsBehind f then [] else [if f.acc.op.isAtomic then execAtomicPerform f.id else execHomeAccess f.id]
  | .retry => if s.waitsBehind f then [] else [execPortTranslate f.id]
  | .held _ => []

/-- The step of an element of column 2 to 13 by its operation. -/
def computeMove (f site op : Nat) : List Move :=
  match op with
  | 0x01 => [execOadd f site]
  | 0x02 => [execOsub f site]
  | 0x03 => [execOmul f site]
  | 0x04 => [execOdiv f site]
  | 0x05 => [execOsqrt f site]
  | 0x06 => [execOexp2 f site]
  | 0x07 => [execOlog2 f site]
  | 0x08 => [execOneg f site]
  | 0x09 => [execOabs f site]
  | 0x0A => [execOscl f site]
  | 0x0B => [execOmax f site]
  | 0x0C => [execOmin f site]
  | 0x0D => [execOcmp f site]
  | 0x0E => [execOsgn f site]
  | 0x0F => [execOsel f site]
  | 0x10 => [execOconst f site]
  | 0x11 => [execSplit f site]
  | 0x12 => [execSettle f site]
  | 0x13 => [execRacc f site]
  | 0x14 => [execRsum f site]
  | 0x15 => [execRmax f site]
  | 0x16 => [execThresh f site]
  | 0x17 => [execConf f site]
  | 0x18 => [execOfan f site]
  | _ => []

/-- The step of a switch operation, of a memory element or of a generator. -/
def switchMove (f site op ord : Nat) : List Move :=
  match op with
  | 1 => [execSteer f site]
  | 2 => if ord = 1 then [execJoinNode f site] else [execMerge f site]
  | 3 => [execCarry f site]
  | 4 => [execFwd f site]
  | 5 => [execVcfilt f site]
  | _ => []
def memMove (f site op : Nat) : List Move :=
  match op with
  | 1 => [execMld f site]
  | 2 => [execMst f site]
  | 3 => [execMlink f site]
  | 4 => [execMring f site]
  | 5 => [execEngp f site]
  | 6 => if site % 16 = 0 then [execSqp f site, execRecordAtExit f (site / 16)] else [execSqp f site]
  | 7 => [execMxp f site]
  | 8 => [execAtp f site]
  | _ => []
def agMove (f site op : Nat) : List Move :=
  match op with
  | 1 => [execAgaff f site]
  | 2 => [execAgmod f site]
  | 3 => [execAgidx f site]
  | _ => []

/-- The steps of an element of a running slot. -/
def Elem.moves (f : Nat) (e : Elem) : List Move :=
  if e.sw then switchMove f e.site e.op (e.p 204 1)
  else (if e.ramped then [] else [execRampRelease f e.site]) ++
    (if e.isC then computeMove f e.site e.op ++ (if e.hasSt then [execTileSwap f e.site] else [])
     else if e.isM then memMove f e.site e.op else agMove f e.site e.op)

/-- The steps of a context slot. -/
def Slot.moves (q : Slot) : List Move :=
  (match q.pend with
   | .none => []
   | .read => [execCfgldInstall q.fld q.idx]
   | .install => [execInstallComplete q.fld q.idx]
   | .part => [execCfgpartApply q.fld q.idx]
   | .partDrain => q.fresh.map (fun fr => execPartialFrameTake q.fld q.idx (fSite fr)) ++ [execPartialDrainComplete q.fld q.idx]
   | .stop => [execStopComplete q.fld q.idx]
   | .switch => [execSwitchComplete q.fld q.idx]) ++
  (if q.st = .running then
    q.elems.flatMap (Elem.moves q.fld) ++ (if q.sidx = 0 then [execDeadlockWatchdog q.fld q.idx] else []) else [])

/-- The step that performs a request of a major opcode. -/
def performMove (major st : Nat) : List Move :=
  match major with
  | 0x20 | 0x21 => [execCopyElementPerform st]
  | 0x22 | 0x23 => [execGatherElementPerform st]
  | 0x24 => [execMmaPerform st]
  | 0x25 => [execMmxPerform st]
  | 0x26 => [execAccrdPerform st]
  | 0x27 => [execAccwrPerform st]
  | 0x28 => [execAttnPerform st]
  | 0x29 => [execCodecChunkPerform st]
  | 0x2A => [execChecksumPerform st]
  | 0x2B => [execCollectivePerform st]
  | 0x2C => [execNvmeSubmitPerform st]
  | 0x2E => [execKvlookPerform st]
  | 0x2F => [execKvappPerform st]
  | 0x30 => [execKvforkPerform st]
  | 0x31 => [execKvfreePerform st]
  | 0x32 => [execKvpolPerform st]
  | 0x33 => [execXtestPerform st]
  | 0x34 => [execBfenqPerform st]
  | 0x36 => [execEvscorePerform st]
  | 0x37 => [execSqevictPerform st]
  | _ => []

/-- The steps of a stream. -/
def Stream.moves (st : Stream) : List Move :=
  (match st.cur with
   | some r => if r.toPin.isEmpty then performMove r.major st.id else [execPagePin st.id]
   | none => []) ++
  (if st.reqs.any fun r => !r.resps.isEmpty || !r.data.isEmpty then [execResponseDelivery st.id] else []) ++
  (if st.reqs.any fun r => r.follow.isSome then [execFollowOnIssue st.id] else []) ++
  (if st.reqs.any fun r => r.next ≥ r.total then [execRequestComplete st.id] else [])

/-- The steps of a tile, of a boundary and of L1. -/
def Field.moves (f : Field) : List Move :=
  f.tiles.flatMap (fun t => match t.st with
    | .filling => [execTileFillComplete f.no t.ix]
    | .draining => [execTileDrainComplete f.no t.ix]
    | _ => []) ++
  (if f.moving.isSome then [execBoundaryMoveComplete f.no] else []) ++
  (if f.nmin < f.nmax then [execElasticInterval f.no] else []) ++
  (f.runs.filter fun r => 16 ≤ r.2.2).map fun r => execPersistentTimingError f.no r.1.1 r.1.2
def L1Sec.moves (e : L1Sec) : List Move := [execEvictionWriteBack e.fld e.ctx e.obj e.sec, execL1Probe e.fld e.ctx e.obj e.sec]

/-- The steps of Meridian (R216 to R221, R410 to R416). -/
def State.mqMoves (s : State) (m : MQ) : List Move :=
  (if m.recs.isEmpty && m.subs.isEmpty then [] else [execMeridianSelect m.die]) ++
  (if m.ages then [execQueueAgeing m.die m.q] else []) ++ (if (s.reserves m).isSome then [execReservationTake m.die m.q] else [])
def State.taskMoves (s : State) (k : Task) : List Move :=
  match k.phase with
  | .installing => [execEntryStrandStart k.tno]
  | .running =>
    (if k.yielded || s.contended k then [execQuantumExpiry k.tno] else []) ++
    (if (s.ctxOf k.ctx).sth ≠ 0 then [execStallEscalation k.tno] else [])
  | .finishing _ | .posting _ _ _ => [execTaskCompletion k.tno]
  | .saving w => [if w = 0 then execPreemptionSave k.tno else execCtxsaveComplete k.tno]
  | .escalated => [execStallEscalation k.tno]
  | .parked | .queued => []

/-- The steps of a strand that no instruction of it makes. -/
def Strand.moves (t : Strand) : List Move :=
  if t.finder then (if t.stat = .stopped then [execFinderLimit t.fld] else [])
  else (if t.trap.isSome && t.ldc = 0 then [execTrapEntry t.fld t.slot] else []) ++
    (if t.waiting then [execMonwaitTimeout t.fld t.slot] else [])

def Link.moves (l : Link) : List Move :=
  (if l.laneReplays > laneLimit then [execLaneFence l.port] else []) ++ (if l.narrowing then [execLinkNarrowComplete l.port] else [])

/-- Every step of the device that is open: some of them may find that they still have to wait. -/
def State.moves (s : State) : List Move :=
  s.flights.flatMap s.flightMoves ++ (s.me :: s.others).flatMap Strand.moves ++ s.slots.flatMap Slot.moves ++
  (s.chans.filter (·.kill)).map (fun c => execKill c.src.fld c.id) ++ s.fills.map (fun p => execStldFillComplete p.fld p.site) ++
  s.streams.flatMap Stream.moves ++ s.fields.flatMap Field.moves ++ s.l1.flatMap L1Sec.moves ++
  (s.ctxs.filter fun c => roundAfter c.round c.openRound).map (fun c => execRoundComplete c.no) ++
  s.mqs.flatMap s.mqMoves ++ s.tasks.flatMap s.taskMoves ++
  ((s.backfills.map (·.mount)).eraseDups).map execBackfillRecord ++ ((s.posts.map (·.ctx)).eraseDups).map execFaultRecordPost ++
  s.migs.map (fun p => execMigrationComplete p.1 p.2.1) ++ s.links.flatMap Link.moves

/-! ### An instruction placed where the next step fetches it (for State.withFetchWord; log 22) -/

/-- The two words at pcc can be fetched and lie in an object that is stored as it is; their keys. -/
def State.codeKeys (s : State) : Option (Nat × Nat) :=
  match s.fetchOne s.pc, s.fetchOne (s.pc + 4), s.translate s.me.ctx s.me.pcc.obj s.pc false,
      s.translate s.me.ctx s.me.pcc.obj (s.pc + 4) false with
  | .word _, .word _, .ok k 0 _, .ok l 0 _ => some (k, l)
  | _, _, _, _ => none

/-- A code object of the strand's context at mount 0: its directory entry, its descriptor, its page and its frame. -/
def State.mapCode (s : State) : State :=
  let obj := 256 + 8 * s.pkg
  let k (a : Nat) : Nat := hbmKey 0 a
  let m := writeLE s.mem (k (s.host.adir[0].toNat + 8 * s.me.ctx)) 8 0x100000
  let m := writeLE m (k 0x100040) 64 (obj + 2 ^ 32 + 2 ^ 64 + 0x200000 * 2 ^ 128)
  let m := writeLE m (k 0x200000) 8 (1 + 0x30 * 2 ^ 16)
  { s with mem := m, me := { s.me with pcc := Cap.make obj 0 0 0 16383 (pR + pX) } }

/-- A task record that names nothing. -/
def TaskRec.blank : TaskRec :=
  { entry := Cap.null, args := Cap.null, image := Cap.null, nf := 1, prio := 0, quantum := 0, cmp := 0, start := [], saved := none }

/-- The strand whose turn it is made a running strand of a running task, and bring-up ended. -/
def State.makeReady (s : State) : State :=
  let t := { s.me with stat := .running, trap := none, finder := false, ending := false }
  let k : Task := { tno := t.task, die := t.fld / 32, q := 0, ctx := t.ctx, body := TaskRec.blank, fields := [t.fld]
                    phase := .running, yielded := false, owner := none, frame := Cap.null }
  let s := { s with me := t, host := { s.host with st := 6 }, shutdown := false, inputs := [] }
  let s := s.setField { s.fieldOf t.fld with lastSlot := t.slot }
  match s.taskOf t.task with
  | some j => s.setTask { j with phase := .running }
  | none => s.setTask k

/-- Two words stored where the strand whose turn it is fetches next. -/
def State.placeCode (s : State) (w0 w1 : Nat) : State :=
  let s := if s.ready s.me && !s.me.finder && s.inputs.isEmpty && !s.shutdown then s else s.makeReady
  let s := if s.codeKeys.isSome then s else s.mapCode
  match s.codeKeys with
  | some (k, l) => { s with mem := writeLE (writeLE s.mem k 4 w0) l 4 w1 }
  | none => s

end Sys2Proof.Machine
end

