-- ==== Sys2Proof/Machine/Float.lean ====
section
/-!
DEFINITION. The floating-point instructions (R116 to R124). The arithmetic itself is Machine/Num.lean's.
-/
namespace Sys2Proof.Machine

/-- The format of a major (R45, R116). -/
def fOf (f : BitVec 2) : Fmt := ieeeFmt f.toNat

/-- A scalar source as a number. -/
def State.rnat (s : State) (r : RegF) : Nat := (s.readReg r).toNat

/-- A result written with its flags. -/
def State.putF (s : State) (d : RegF) (r : FRes) : State := (s.putReg d (BitVec.ofNat 64 r.1)).orFlags r.2

def fp2 (f : BitVec 2) (d a b : RegF) (rm : BitVec 3) (op : Fmt → RMode → Nat → Nat → FRes) (s : State) : Out :=
  run .plain 4 { reads := [a, b], writes := [d] }
    (fun s => .done (s.putF d (op (fOf f) (s.rmode rm) (s.rnat a) (s.rnat b)))) s
def fp1 (d a : RegF) (rm : BitVec 3) (op : RMode → Nat → FRes) (s : State) : Out :=
  run .plain 4 { reads := [a], writes := [d] } (fun s => .done (s.putF d (op (s.rmode rm) (s.rnat a)))) s
def fcmp (op : Nat) (f : BitVec 2) (p : PredF) (a b : RegF) (s : State) : Out :=
  run .plain 4 { reads := [a, b] } (fun s =>
    let r := (fOf f).cmp op (s.rnat a) (s.rnat b)
    .done ((s.setPred p r.1).orFlags r.2)) s

def execFadd (f : BitVec 2) (d a b : RegF) (rm : BitVec 3) (s : State) : Out := fp2 f d a b rm Fmt.add s
def execFsub (f : BitVec 2) (d a b : RegF) (rm : BitVec 3) (s : State) : Out := fp2 f d a b rm Fmt.sub s
def execFmul (f : BitVec 2) (d a b : RegF) (rm : BitVec 3) (s : State) : Out := fp2 f d a b rm Fmt.mul s
def execFdiv (f : BitVec 2) (d a b : RegF) (rm : BitVec 3) (s : State) : Out := fp2 f d a b rm Fmt.div s
/-- `ffma` reads and writes d (R42, R117). -/
def execFfma (f : BitVec 2) (d a b : RegF) (rm : BitVec 3) (s : State) : Out :=
  run .plain 4 { reads := [a, b, d], writes := [d] }
    (fun s => .done (s.putF d ((fOf f).fma (s.rmode rm) (s.rnat a) (s.rnat b) (s.rnat d)))) s
def execFsqrt (f : BitVec 2) (d a : RegF) (rm : BitVec 3) (s : State) : Out := fp1 d a rm (fOf f).sqrt s
def execFrsqrt (f : BitVec 2) (d a : RegF) (rm : BitVec 3) (s : State) : Out := fp1 d a rm (fOf f).rsqrt s
def execFexp2 (f : BitVec 2) (d a : RegF) (rm : BitVec 3) (s : State) : Out := fp1 d a rm (fOf f).exp2 s
def execFlog2 (f : BitVec 2) (d a : RegF) (rm : BitVec 3) (s : State) : Out := fp1 d a rm (fOf f).log2 s
def execFmin (f : BitVec 2) (d a b : RegF) (s : State) : Out := fp2 f d a b 0 (fun k _ => k.minMax false) s
def execFmax (f : BitVec 2) (d a b : RegF) (s : State) : Out := fp2 f d a b 0 (fun k _ => k.minMax true) s

/-- The sign bit of a format's value (R120). -/
def signBit (f : Fmt) : Nat := 2 ^ (f.width - 1)

def execFabs (f : BitVec 2) (d a : RegF) (s : State) : Out :=
  fp1 d a 0 (fun _ x => (x % signBit (fOf f), 0)) s
def execFneg (f : BitVec 2) (d a : RegF) (s : State) : Out :=
  fp1 d a 0 (fun _ x => ((x % 2 ^ (fOf f).width) ^^^ signBit (fOf f), 0)) s
def execFclass (f : BitVec 2) (d a : RegF) (s : State) : Out := fp1 d a 0 (fun _ x => ((fOf f).classOf x, 0)) s
def execFround (f : BitVec 2) (d a : RegF) (rm : BitVec 3) (s : State) : Out := fp1 d a rm (fOf f).roundTo s
/-- `fscale`: the second operand is a signed integer (R122). -/
def execFscale (f : BitVec 2) (d a b : RegF) (rm : BitVec 3) (s : State) : Out :=
  run .plain 4 { reads := [a, b], writes := [d] }
    (fun s => .done (s.putF d ((fOf f).scale (s.rmode rm) (s.rnat a) (s.readReg b).toInt))) s

def execFcmpEq (f : BitVec 2) (p : PredF) (a b : RegF) (s : State) : Out := fcmp 16 f p a b s
def execFcmpNe (f : BitVec 2) (p : PredF) (a b : RegF) (s : State) : Out := fcmp 17 f p a b s
def execFcmpLt (f : BitVec 2) (p : PredF) (a b : RegF) (s : State) : Out := fcmp 18 f p a b s
def execFcmpLe (f : BitVec 2) (p : PredF) (a b : RegF) (s : State) : Out := fcmp 19 f p a b s
def execFcmpUn (f : BitVec 2) (p : PredF) (a b : RegF) (s : State) : Out := fcmp 20 f p a b s

/-! ### Conversions (R67, R68, R124) -/

def execFcvtFromIeee (f : BitVec 2) (d a : RegF) (k : BitVec 2) (rm : BitVec 3) (s : State) : Out :=
  fp1 d a rm (convFmt (fOf f) (ieeeFmt k.toNat)) s
def execFcvtFromNarrow (f : BitVec 2) (d a : RegF) (k : BitVec 2) (rm : BitVec 3) (s : State) : Out :=
  fp1 d a rm (convFmt (fOf f) (narrowFmt k.toNat)) s
def execFcvtFromI64 (f : BitVec 2) (d a : RegF) (rm : BitVec 3) (s : State) : Out :=
  fp1 d a rm (fun md x => (fOf f).ofInt md (toSigned 64 x)) s
def execFcvtFromU64 (f : BitVec 2) (d a : RegF) (rm : BitVec 3) (s : State) : Out :=
  fp1 d a rm (fun md x => (fOf f).ofInt md (x % 2 ^ 64 : Nat)) s
def execFcvtFromI32 (f : BitVec 2) (d a : RegF) (rm : BitVec 3) (s : State) : Out :=
  fp1 d a rm (fun md x => (fOf f).ofInt md (toSigned 32 x)) s
def execFcvtFromU32 (f : BitVec 2) (d a : RegF) (rm : BitVec 3) (s : State) : Out :=
  fp1 d a rm (fun md x => (fOf f).ofInt md (x % 2 ^ 32 : Nat)) s

/-- Bits of an integer target, by code: i64, u64, i32, u32, i16, u16, i8, u8 (R124). -/
def intBits (k : Nat) : Nat := if k ≤ 1 then 64 else if k ≤ 3 then 32 else if k ≤ 5 then 16 else 8
/-- A value into an integer register (R54, R67). -/
def toIntReg (f : Fmt) (k : Nat) (md : RMode) (x : Nat) : FRes :=
  let sgn := k % 2 = 0
  let r := toIntV (f.val x) md (intBits k) sgn
  ((r.1 % 2 ^ 64).toNat, r.2)
def execFcvtToInt (f : BitVec 2) (d a : RegF) (k : BitVec 3) (rm : BitVec 3) (s : State) : Out :=
  fp1 d a rm (toIntReg (fOf f) k.toNat) s
def execFcvtToNarrow (f : BitVec 2) (d a : RegF) (k : BitVec 2) (rm : BitVec 3) (s : State) : Out :=
  fp1 d a rm (convFmt (narrowFmt k.toNat) (fOf f)) s

end Sys2Proof.Machine
end

