-- ==== Sys2Proof/Machine/Integer.lean ====
section
/-!
DEFINITION. Integer, comparison and predicate instructions, immediates and constants (R97 to R101).
-/
namespace Sys2Proof.Machine

/-! ### R97, R98 -/

/-- The high half of a signed product. -/
def mulHigh (a b : W64) : W64 := BitVec.ofInt 64 (a.toInt * b.toInt / 2 ^ 64)
/-- The high half of an unsigned product. -/
def mulHighU (a b : W64) : W64 := BitVec.ofNat 64 (a.toNat * b.toNat / 2 ^ 64)
/-- Signed division (R98). -/
def divS (a b : W64) : W64 := if b = 0 then BitVec.allOnes 64 else a.sdiv b
/-- Unsigned division (R98). -/
def divU (a b : W64) : W64 := if b = 0 then BitVec.allOnes 64 else a / b
/-- Signed remainder (R98). -/
def remS (a b : W64) : W64 := if b = 0 then a else a.srem b
/-- Unsigned remainder (R98). -/
def remU (a b : W64) : W64 := if b = 0 then a else a % b
/-- The shift amount: sb[5:0]. -/
def shamt (b : W64) : Nat := b.toNat % 64
def minS (a b : W64) : W64 := if a.toInt ≤ b.toInt then a else b
def maxS (a b : W64) : W64 := if a.toInt ≤ b.toInt then b else a
def minU (a b : W64) : W64 := if a.toNat ≤ b.toNat then a else b
def maxU (a b : W64) : W64 := if a.toNat ≤ b.toNat then b else a
/-- Leading zero bits, 64 for zero. -/
def leadZeros (a : W64) : W64 := if a = 0 then 64 else BitVec.ofNat 64 (63 - a.toNat.log2)
/-- Trailing zero bits, 64 for zero. -/
def trailZeros (a : W64) : W64 := BitVec.ofNat 64 (((List.range 64).find? fun i => a.getLsbD i).getD 64)
/-- One bits. -/
def oneBits (a : W64) : W64 := BitVec.ofNat 64 ((List.range 64).countP fun i => a.getLsbD i)

def execAdd (d a b : RegF) (s : State) : Out := alu2 d a b (· + ·) s
def execSub (d a b : RegF) (s : State) : Out := alu2 d a b (· - ·) s
def execMul (d a b : RegF) (s : State) : Out := alu2 d a b (· * ·) s
def execMulh (d a b : RegF) (s : State) : Out := alu2 d a b mulHigh s
def execMulhu (d a b : RegF) (s : State) : Out := alu2 d a b mulHighU s
def execDiv (d a b : RegF) (s : State) : Out := alu2 d a b divS s
def execDivu (d a b : RegF) (s : State) : Out := alu2 d a b divU s
def execRem (d a b : RegF) (s : State) : Out := alu2 d a b remS s
def execRemu (d a b : RegF) (s : State) : Out := alu2 d a b remU s
def execAnd (d a b : RegF) (s : State) : Out := alu2 d a b (· &&& ·) s
def execOr (d a b : RegF) (s : State) : Out := alu2 d a b (· ||| ·) s
def execXor (d a b : RegF) (s : State) : Out := alu2 d a b (· ^^^ ·) s
def execAndn (d a b : RegF) (s : State) : Out := alu2 d a b (fun x y => x &&& ~~~y) s
def execShl (d a b : RegF) (s : State) : Out := alu2 d a b (fun x y => x <<< shamt y) s
def execShr (d a b : RegF) (s : State) : Out := alu2 d a b (fun x y => x >>> shamt y) s
def execSar (d a b : RegF) (s : State) : Out := alu2 d a b (fun x y => x.sshiftRight (shamt y)) s
def execRot (d a b : RegF) (s : State) : Out := alu2 d a b (fun x y => x.rotateLeft (shamt y)) s
def execMin (d a b : RegF) (s : State) : Out := alu2 d a b minS s
def execMax (d a b : RegF) (s : State) : Out := alu2 d a b maxS s
def execMinu (d a b : RegF) (s : State) : Out := alu2 d a b minU s
def execMaxu (d a b : RegF) (s : State) : Out := alu2 d a b maxU s
def execClz (d a : RegF) (s : State) : Out := alu1 d a leadZeros s
def execCtz (d a : RegF) (s : State) : Out := alu1 d a trailZeros s
def execPopc (d a : RegF) (s : State) : Out := alu1 d a oneBits s
def execSextB (d a : RegF) (s : State) : Out := alu1 d a (fun x => extend 8 true x.toNat) s
def execSextH (d a : RegF) (s : State) : Out := alu1 d a (fun x => extend 16 true x.toNat) s
def execSextW (d a : RegF) (s : State) : Out := alu1 d a (fun x => extend 32 true x.toNat) s
def execZextB (d a : RegF) (s : State) : Out := alu1 d a (fun x => extend 8 false x.toNat) s
def execZextH (d a : RegF) (s : State) : Out := alu1 d a (fun x => extend 16 false x.toNat) s
def execZextW (d a : RegF) (s : State) : Out := alu1 d a (fun x => extend 32 false x.toNat) s

/-! ### R99 -/

def execSel (d : RegF) (p : PredF) (a b : RegF) (s : State) : Out :=
  run .plain 4 { reads := [a, b], writes := [d] }
    (fun s => .done (s.putReg d (if s.pred p then s.readReg a else s.readReg b))) s
def execCmpEq (p : PredF) (a b : RegF) (s : State) : Out := cmp2 p a b (fun x y => x = y) s
def execCmpNe (p : PredF) (a b : RegF) (s : State) : Out := cmp2 p a b (fun x y => x ≠ y) s
def execCmpLt (p : PredF) (a b : RegF) (s : State) : Out := cmp2 p a b (fun x y => x.toInt < y.toInt) s
def execCmpGe (p : PredF) (a b : RegF) (s : State) : Out := cmp2 p a b (fun x y => x.toInt ≥ y.toInt) s
def execCmpLtu (p : PredF) (a b : RegF) (s : State) : Out := cmp2 p a b (fun x y => x.toNat < y.toNat) s
def execCmpGeu (p : PredF) (a b : RegF) (s : State) : Out := cmp2 p a b (fun x y => x.toNat ≥ y.toNat) s
def execPand (d a b : PredF) (s : State) : Out := predOp d (fun s => s.pred a && s.pred b) s
def execPor (d a b : PredF) (s : State) : Out := predOp d (fun s => s.pred a || s.pred b) s
def execPnot (d a : PredF) (s : State) : Out := predOp d (fun s => !s.pred a) s

/-! ### R100 -/

def execAddi (d a : RegF) (imm : BitVec 14) (s : State) : Out := alu1 d a (· + sext imm) s
def execAndi (d a : RegF) (imm : BitVec 14) (s : State) : Out := alu1 d a (· &&& sext imm) s
def execOri (d a : RegF) (imm : BitVec 14) (s : State) : Out := alu1 d a (· ||| sext imm) s
def execXori (d a : RegF) (imm : BitVec 14) (s : State) : Out := alu1 d a (· ^^^ sext imm) s
def execShli (d a : RegF) (sh : BitVec 6) (s : State) : Out := alu1 d a (· <<< sh.toNat) s
def execShri (d a : RegF) (sh : BitVec 6) (s : State) : Out := alu1 d a (· >>> sh.toNat) s
def execSari (d a : RegF) (sh : BitVec 6) (s : State) : Out := alu1 d a (fun x => x.sshiftRight sh.toNat) s

/-! ### R101, R35 -/

def execMovi (d : RegF) (imm : BitVec 19) (s : State) : Out :=
  run .plain 4 { writes := [d] } (fun s => .done (s.putReg d (sext imm))) s
/-- `movi.l`: the constant sign-extended (R35). -/
def execMoviL (d : RegF) (k : W32) (g : PredF) (s : State) : Out :=
  if s.pred g then run .plain 8 { writes := [d] } (fun s => .done (s.putReg d (sext k))) s else .next (s.retire 8 [])
/-- `movhi`: k above the low half of sa (R35). -/
def execMovhi (d a : RegF) (k : W32) (g : PredF) (s : State) : Out :=
  if s.pred g then
    run .plain 8 { reads := [a], writes := [d] } (fun s => .done (s.putReg d (k ++ (s.readReg a).extractLsb' 0 32))) s
  else .next (s.retire 8 [])

end Sys2Proof.Machine
end

