-- ==== Sys2Proof/Machine/Dispatch.lean ====
section
/-!
DEFINITION. The meaning of every row of the opcode table: one arm per constructor of Instr.
-/
namespace Sys2Proof.Machine

/-- What an instruction of a strand, or a step of another unit, does. -/
def exec (i : Instr) (s : State) : Host.Outcome State Fault Refusal :=
  match i with
  | .illegalOp w0 w1 => Sys2Proof.Machine.execIllegalOp w0 w1 s
  | .add d a b => Sys2Proof.Machine.execAdd d a b s
  | .sub d a b => Sys2Proof.Machine.execSub d a b s
  | .mul d a b => Sys2Proof.Machine.execMul d a b s
  | .mulh d a b => Sys2Proof.Machine.execMulh d a b s
  | .mulhu d a b => Sys2Proof.Machine.execMulhu d a b s
  | .div d a b => Sys2Proof.Machine.execDiv d a b s
  | .divu d a b => Sys2Proof.Machine.execDivu d a b s
  | .rem d a b => Sys2Proof.Machine.execRem d a b s
  | .remu d a b => Sys2Proof.Machine.execRemu d a b s
  | .and d a b => Sys2Proof.Machine.execAnd d a b s
  | .or d a b => Sys2Proof.Machine.execOr d a b s
  | .xor d a b => Sys2Proof.Machine.execXor d a b s
  | .andn d a b => Sys2Proof.Machine.execAndn d a b s
  | .shl d a b => Sys2Proof.Machine.execShl d a b s
  | .shr d a b => Sys2Proof.Machine.execShr d a b s
  | .sar d a b => Sys2Proof.Machine.execSar d a b s
  | .rot d a b => Sys2Proof.Machine.execRot d a b s
  | .min d a b => Sys2Proof.Machine.execMin d a b s
  | .max d a b => Sys2Proof.Machine.execMax d a b s
  | .minu d a b => Sys2Proof.Machine.execMinu d a b s
  | .maxu d a b => Sys2Proof.Machine.execMaxu d a b s
  | .clz d a => Sys2Proof.Machine.execClz d a s
  | .ctz d a => Sys2Proof.Machine.execCtz d a s
  | .popc d a => Sys2Proof.Machine.execPopc d a s
  | .sextB d a => Sys2Proof.Machine.execSextB d a s
  | .sextH d a => Sys2Proof.Machine.execSextH d a s
  | .sextW d a => Sys2Proof.Machine.execSextW d a s
  | .zextB d a => Sys2Proof.Machine.execZextB d a s
  | .zextH d a => Sys2Proof.Machine.execZextH d a s
  | .zextW d a => Sys2Proof.Machine.execZextW d a s
  | .sel d p a b => Sys2Proof.Machine.execSel d p a b s
  | .cmpEq p a b => Sys2Proof.Machine.execCmpEq p a b s
  | .cmpNe p a b => Sys2Proof.Machine.execCmpNe p a b s
  | .cmpLt p a b => Sys2Proof.Machine.execCmpLt p a b s
  | .cmpGe p a b => Sys2Proof.Machine.execCmpGe p a b s
  | .cmpLtu p a b => Sys2Proof.Machine.execCmpLtu p a b s
  | .cmpGeu p a b => Sys2Proof.Machine.execCmpGeu p a b s
  | .pand d a b => Sys2Proof.Machine.execPand d a b s
  | .por d a b => Sys2Proof.Machine.execPor d a b s
  | .pnot d a => Sys2Proof.Machine.execPnot d a s
  | .addi d a imm => Sys2Proof.Machine.execAddi d a imm s
  | .andi d a imm => Sys2Proof.Machine.execAndi d a imm s
  | .ori d a imm => Sys2Proof.Machine.execOri d a imm s
  | .xori d a imm => Sys2Proof.Machine.execXori d a imm s
  | .shli d a sh => Sys2Proof.Machine.execShli d a sh s
  | .shri d a sh => Sys2Proof.Machine.execShri d a sh s
  | .sari d a sh => Sys2Proof.Machine.execSari d a sh s
  | .movi d imm => Sys2Proof.Machine.execMovi d imm s
  | .moviL d k g => Sys2Proof.Machine.execMoviL d k g s
  | .movhi d a k g => Sys2Proof.Machine.execMovhi d a k g s
  | .loop d off => Sys2Proof.Machine.execLoop d off s
  | .ldB d h c imm => Sys2Proof.Machine.execLdB d h c imm s
  | .ldBu d h c imm => Sys2Proof.Machine.execLdBu d h c imm s
  | .ldH d h c imm => Sys2Proof.Machine.execLdH d h c imm s
  | .ldHu d h c imm => Sys2Proof.Machine.execLdHu d h c imm s
  | .ldW d h c imm => Sys2Proof.Machine.execLdW d h c imm s
  | .ldWu d h c imm => Sys2Proof.Machine.execLdWu d h c imm s
  | .ldD d h c imm => Sys2Proof.Machine.execLdD d h c imm s
  | .stB d h c imm => Sys2Proof.Machine.execStB d h c imm s
  | .stH d h c imm => Sys2Proof.Machine.execStH d h c imm s
  | .stW d h c imm => Sys2Proof.Machine.execStW d h c imm s
  | .stD d h c imm => Sys2Proof.Machine.execStD d h c imm s
  | .ldx w => Sys2Proof.Machine.execLdx w s
  | .stx w => Sys2Proof.Machine.execStx w s
  | .loadComplete id => Sys2Proof.Machine.execLoadComplete id s
  | .storeComplete id => Sys2Proof.Machine.execStoreComplete id s
  | .bp p n off => Sys2Proof.Machine.execBp p n off s
  | .call off => Sys2Proof.Machine.execCall off s
  | .jr c b => Sys2Proof.Machine.execJr c b s
  | .callr c b => Sys2Proof.Machine.execCallr c b s
  | .ret c => Sys2Proof.Machine.execRet c s
  | .fadd f d a b rm => Sys2Proof.Machine.execFadd f d a b rm s
  | .fsub f d a b rm => Sys2Proof.Machine.execFsub f d a b rm s
  | .fmul f d a b rm => Sys2Proof.Machine.execFmul f d a b rm s
  | .ffma f d a b rm => Sys2Proof.Machine.execFfma f d a b rm s
  | .fdiv f d a b rm => Sys2Proof.Machine.execFdiv f d a b rm s
  | .fsqrt f d a rm => Sys2Proof.Machine.execFsqrt f d a rm s
  | .frsqrt f d a rm => Sys2Proof.Machine.execFrsqrt f d a rm s
  | .fexp2 f d a rm => Sys2Proof.Machine.execFexp2 f d a rm s
  | .flog2 f d a rm => Sys2Proof.Machine.execFlog2 f d a rm s
  | .fmin f d a b => Sys2Proof.Machine.execFmin f d a b s
  | .fmax f d a b => Sys2Proof.Machine.execFmax f d a b s
  | .fabs f d a => Sys2Proof.Machine.execFabs f d a s
  | .fneg f d a => Sys2Proof.Machine.execFneg f d a s
  | .fclass f d a => Sys2Proof.Machine.execFclass f d a s
  | .fround f d a rm => Sys2Proof.Machine.execFround f d a rm s
  | .fscale f d a b rm => Sys2Proof.Machine.execFscale f d a b rm s
  | .fcmpEq f p a b => Sys2Proof.Machine.execFcmpEq f p a b s
  | .fcmpNe f p a b => Sys2Proof.Machine.execFcmpNe f p a b s
  | .fcmpLt f p a b => Sys2Proof.Machine.execFcmpLt f p a b s
  | .fcmpLe f p a b => Sys2Proof.Machine.execFcmpLe f p a b s
  | .fcmpUn f p a b => Sys2Proof.Machine.execFcmpUn f p a b s
  | .fcvtFromIeee f d a k rm => Sys2Proof.Machine.execFcvtFromIeee f d a k rm s
  | .fcvtFromNarrow f d a k rm => Sys2Proof.Machine.execFcvtFromNarrow f d a k rm s
  | .fcvtFromI64 f d a rm => Sys2Proof.Machine.execFcvtFromI64 f d a rm s
  | .fcvtFromU64 f d a rm => Sys2Proof.Machine.execFcvtFromU64 f d a rm s
  | .fcvtFromI32 f d a rm => Sys2Proof.Machine.execFcvtFromI32 f d a rm s
  | .fcvtFromU32 f d a rm => Sys2Proof.Machine.execFcvtFromU32 f d a rm s
  | .fcvtToInt f d a k rm => Sys2Proof.Machine.execFcvtToInt f d a k rm s
  | .fcvtToNarrow f d a k rm => Sys2Proof.Machine.execFcvtToNarrow f d a k rm s
  | .sysr d n => Sys2Proof.Machine.execSysr d n s
  | .sysrC c n => Sys2Proof.Machine.execSysrC c n s
  | .sysw a n => Sys2Proof.Machine.execSysw a n s
  | .syswC c n => Sys2Proof.Machine.execSyswC c n s
  | .nop => Sys2Proof.Machine.execNop s
  | .halt => Sys2Proof.Machine.execHalt s
  | .trap => Sys2Proof.Machine.execTrap s
  | .brk => Sys2Proof.Machine.execBrk s
  | .eret => Sys2Proof.Machine.execEret s
  | .ident d => Sys2Proof.Machine.execIdent d s
  | .trapEntry fld slot => Sys2Proof.Machine.execTrapEntry fld slot s
  | .cgetObj b c => Sys2Proof.Machine.execCgetObj b c s
  | .cgetCur b c => Sys2Proof.Machine.execCgetCur b c s
  | .cgetBase b c => Sys2Proof.Machine.execCgetBase b c s
  | .cgetTop b c => Sys2Proof.Machine.execCgetTop b c s
  | .cgetPerm b c => Sys2Proof.Machine.execCgetPerm b c s
  | .cgetTag b c => Sys2Proof.Machine.execCgetTag b c s
  | .cgetG b c => Sys2Proof.Machine.execCgetG b c s
  | .csetc d c b => Sys2Proof.Machine.execCsetc d c b s
  | .cadd d c b => Sys2Proof.Machine.execCadd d c b s
  | .cbound d c b => Sys2Proof.Machine.execCbound d c b s
  | .cperm d c b => Sys2Proof.Machine.execCperm d c b s
  | .cnull d => Sys2Proof.Machine.execCnull d s
  | .cmov d c => Sys2Proof.Machine.execCmov d c s
  | .csub b c e => Sys2Proof.Machine.execCsub b c e s
  | .ctest p c => Sys2Proof.Machine.execCtest p c s
  | .cld d c b => Sys2Proof.Machine.execCld d c b s
  | .cst d c b => Sys2Proof.Machine.execCst d c b s
  | .cmake d b => Sys2Proof.Machine.execCmake d b s
  | .cfgsw a => Sys2Proof.Machine.execCfgsw a s
  | .cfgdrop a => Sys2Proof.Machine.execCfgdrop a s
  | .rgrun a => Sys2Proof.Machine.execRgrun a s
  | .rgstop a => Sys2Proof.Machine.execRgstop a s
  | .rgstat d a => Sys2Proof.Machine.execRgstat d a s
  | .qbindIn q a => Sys2Proof.Machine.execQbindIn q a s
  | .qbindOut q a => Sys2Proof.Machine.execQbindOut q a s
  | .qunbind q => Sys2Proof.Machine.execQunbind q s
  | .qpeek d q => Sys2Proof.Machine.execQpeek d q s
  | .enter a => Sys2Proof.Machine.execEnter a s
  | .await a => Sys2Proof.Machine.execAwait a s
  | .mark a => Sys2Proof.Machine.execMark a s
  | .rwait a => Sys2Proof.Machine.execRwait a s
  | .tdone => Sys2Proof.Machine.execTdone s
  | .yield => Sys2Proof.Machine.execYield s
  | .stswap a => Sys2Proof.Machine.execStswap a s
  | .cfgld c b => Sys2Proof.Machine.execCfgld c b s
  | .cfgpart c b => Sys2Proof.Machine.execCfgpart c b s
  | .spawnStrand c b => Sys2Proof.Machine.execSpawnStrand c b s
  | .spawnTask c b => Sys2Proof.Machine.execSpawnTask c b s
  | .finder c b => Sys2Proof.Machine.execFinder c b s
  | .stld c b => Sys2Proof.Machine.execStld c b s
  | .wait ld st cp tl => Sys2Proof.Machine.execWait ld st cp tl s
  | .wpset c b => Sys2Proof.Machine.execWpset c b s
  | .wpclr b => Sys2Proof.Machine.execWpclr b s
  | .ctxsave c b => Sys2Proof.Machine.execCtxsave c b s
  | .ctxload c b => Sys2Proof.Machine.execCtxload c b s
  | .resumeSite b => Sys2Proof.Machine.execResumeSite b s
  | .abandonRegion b => Sys2Proof.Machine.execAbandonRegion b s
  | .resumePort b => Sys2Proof.Machine.execResumePort b s
  | .resumeArray b => Sys2Proof.Machine.execResumeArray b s
  | .abandonArray b => Sys2Proof.Machine.execAbandonArray b s
  | .resumeStrand b => Sys2Proof.Machine.execResumeStrand b s
  | .endStrand b => Sys2Proof.Machine.execEndStrand b s
  | .resumeEngine b => Sys2Proof.Machine.execResumeEngine b s
  | .fltq b => Sys2Proof.Machine.execFltq b s
  | .atomAdd w => Sys2Proof.Machine.execAtomAdd w s
  | .atomMin w => Sys2Proof.Machine.execAtomMin w s
  | .atomMax w => Sys2Proof.Machine.execAtomMax w s
  | .atomMinu w => Sys2Proof.Machine.execAtomMinu w s
  | .atomMaxu w => Sys2Proof.Machine.execAtomMaxu w s
  | .atomAnd w => Sys2Proof.Machine.execAtomAnd w s
  | .atomOr w => Sys2Proof.Machine.execAtomOr w s
  | .atomXor w => Sys2Proof.Machine.execAtomXor w s
  | .atomSwp w => Sys2Proof.Machine.execAtomSwp w s
  | .atomFadd w => Sys2Proof.Machine.execAtomFadd w s
  | .atomInc w => Sys2Proof.Machine.execAtomInc w s
  | .atomcas w => Sys2Proof.Machine.execAtomcas w s
  | .vatom w => Sys2Proof.Machine.execVatom w s
  | .vatomcas w => Sys2Proof.Machine.execVatomcas w s
  | .atomicPerform id => Sys2Proof.Machine.execAtomicPerform id s
  | .fence w => Sys2Proof.Machine.execFence w s
  | .fenceSt w => Sys2Proof.Machine.execFenceSt w s
  | .scset w => Sys2Proof.Machine.execScset w s
  | .scget w => Sys2Proof.Machine.execScget w s
  | .scinv w => Sys2Proof.Machine.execScinv w s
  | .cbsync w => Sys2Proof.Machine.execCbsync w s
  | .barinit w => Sys2Proof.Machine.execBarinit w s
  | .bararr w => Sys2Proof.Machine.execBararr w s
  | .barwait w => Sys2Proof.Machine.execBarwait w s
  | .monarm w => Sys2Proof.Machine.execMonarm w s
  | .monwait w => Sys2Proof.Machine.execMonwait w s
  | .monwaitTimeout fld slot => Sys2Proof.Machine.execMonwaitTimeout fld slot s
  | .monsig w => Sys2Proof.Machine.execMonsig w s
  | .tcfg w => Sys2Proof.Machine.execTcfg w s
  | .trel w => Sys2Proof.Machine.execTrel w s
  | .tstate w => Sys2Proof.Machine.execTstate w s
  | .twait w => Sys2Proof.Machine.execTwait w s
  | .cwb w => Sys2Proof.Machine.execCwb w s
  | .cinv w => Sys2Proof.Machine.execCinv w s
  | .cpf w => Sys2Proof.Machine.execCpf w s
  | .objq w => Sys2Proof.Machine.execObjq w s
  | .carve w => Sys2Proof.Machine.execCarve w s
  | .xcopy w => Sys2Proof.Machine.execXcopy w s
  | .xcopy2 w => Sys2Proof.Machine.execXcopy2 w s
  | .xgather w => Sys2Proof.Machine.execXgather w s
  | .xscatter w => Sys2Proof.Machine.execXscatter w s
  | .mma w => Sys2Proof.Machine.execMma w s
  | .mmx w => Sys2Proof.Machine.execMmx w s
  | .accrd w => Sys2Proof.Machine.execAccrd w s
  | .accwr w => Sys2Proof.Machine.execAccwr w s
  | .attn w => Sys2Proof.Machine.execAttn w s
  | .xcodec w => Sys2Proof.Machine.execXcodec w s
  | .xcksum w => Sys2Proof.Machine.execXcksum w s
  | .coll w => Sys2Proof.Machine.execColl w s
  | .nvsub w => Sys2Proof.Machine.execNvsub w s
  | .nvcmp w => Sys2Proof.Machine.execNvcmp w s
  | .kvlook w => Sys2Proof.Machine.execKvlook w s
  | .kvapp w => Sys2Proof.Machine.execKvapp w s
  | .kvfork w => Sys2Proof.Machine.execKvfork w s
  | .kvfree w => Sys2Proof.Machine.execKvfree w s
  | .kvpol w => Sys2Proof.Machine.execKvpol w s
  | .xtest w => Sys2Proof.Machine.execXtest w s
  | .bfenq w => Sys2Proof.Machine.execBfenq w s
  | .bfsync w => Sys2Proof.Machine.execBfsync w s
  | .evscore w => Sys2Proof.Machine.execEvscore w s
  | .sqevict w => Sys2Proof.Machine.execSqevict w s
  | .eresp w => Sys2Proof.Machine.execEresp w s
  | .responseDelivery st => Sys2Proof.Machine.execResponseDelivery st s
  | .requestComplete st => Sys2Proof.Machine.execRequestComplete st s
  | .copyElementPerform st => Sys2Proof.Machine.execCopyElementPerform st s
  | .gatherElementPerform st => Sys2Proof.Machine.execGatherElementPerform st s
  | .tileFillComplete fld tile => Sys2Proof.Machine.execTileFillComplete fld tile s
  | .tileDrainComplete fld tile => Sys2Proof.Machine.execTileDrainComplete fld tile s
  | .followOnIssue st => Sys2Proof.Machine.execFollowOnIssue st s
  | .mmaPerform st => Sys2Proof.Machine.execMmaPerform st s
  | .mmxPerform st => Sys2Proof.Machine.execMmxPerform st s
  | .accrdPerform st => Sys2Proof.Machine.execAccrdPerform st s
  | .accwrPerform st => Sys2Proof.Machine.execAccwrPerform st s
  | .attnPerform st => Sys2Proof.Machine.execAttnPerform st s
  | .xtestPerform st => Sys2Proof.Machine.execXtestPerform st s
  | .collectivePerform st => Sys2Proof.Machine.execCollectivePerform st s
  | .codecChunkPerform st => Sys2Proof.Machine.execCodecChunkPerform st s
  | .checksumPerform st => Sys2Proof.Machine.execChecksumPerform st s
  | .nvmeSubmitPerform st => Sys2Proof.Machine.execNvmeSubmitPerform st s
  | .nvmeCompletionPosted pair cid lo hi data => Sys2Proof.Machine.execNvmeCompletionPosted pair cid lo hi data s
  | .controllerDma port rid key data => Sys2Proof.Machine.execControllerDma port rid key data s
  | .kvlookPerform st => Sys2Proof.Machine.execKvlookPerform st s
  | .kvappPerform st => Sys2Proof.Machine.execKvappPerform st s
  | .kvforkPerform st => Sys2Proof.Machine.execKvforkPerform st s
  | .kvfreePerform st => Sys2Proof.Machine.execKvfreePerform st s
  | .kvpolPerform st => Sys2Proof.Machine.execKvpolPerform st s
  | .evscorePerform st => Sys2Proof.Machine.execEvscorePerform st s
  | .sqevictPerform st => Sys2Proof.Machine.execSqevictPerform st s
  | .bfenqPerform st => Sys2Proof.Machine.execBfenqPerform st s
  | .backfillRecord mount => Sys2Proof.Machine.execBackfillRecord mount s
  | .cfgldInstall fld slot => Sys2Proof.Machine.execCfgldInstall fld slot s
  | .installComplete fld slot => Sys2Proof.Machine.execInstallComplete fld slot s
  | .cfgpartApply fld slot => Sys2Proof.Machine.execCfgpartApply fld slot s
  | .partialFrameTake fld slot site => Sys2Proof.Machine.execPartialFrameTake fld slot site s
  | .partialDrainComplete fld slot => Sys2Proof.Machine.execPartialDrainComplete fld slot s
  | .stopComplete fld slot => Sys2Proof.Machine.execStopComplete fld slot s
  | .switchComplete fld slot => Sys2Proof.Machine.execSwitchComplete fld slot s
  | .stldFillComplete fld site => Sys2Proof.Machine.execStldFillComplete fld site s
  | .recordAtExit fld row => Sys2Proof.Machine.execRecordAtExit fld row s
  | .rampRelease fld site => Sys2Proof.Machine.execRampRelease fld site s
  | .oadd fld site => Sys2Proof.Machine.execOadd fld site s
  | .osub fld site => Sys2Proof.Machine.execOsub fld site s
  | .omul fld site => Sys2Proof.Machine.execOmul fld site s
  | .odiv fld site => Sys2Proof.Machine.execOdiv fld site s
  | .osqrt fld site => Sys2Proof.Machine.execOsqrt fld site s
  | .oexp2 fld site => Sys2Proof.Machine.execOexp2 fld site s
  | .olog2 fld site => Sys2Proof.Machine.execOlog2 fld site s
  | .oneg fld site => Sys2Proof.Machine.execOneg fld site s
  | .oabs fld site => Sys2Proof.Machine.execOabs fld site s
  | .oscl fld site => Sys2Proof.Machine.execOscl fld site s
  | .omax fld site => Sys2Proof.Machine.execOmax fld site s
  | .omin fld site => Sys2Proof.Machine.execOmin fld site s
  | .ocmp fld site => Sys2Proof.Machine.execOcmp fld site s
  | .osgn fld site => Sys2Proof.Machine.execOsgn fld site s
  | .osel fld site => Sys2Proof.Machine.execOsel fld site s
  | .oconst fld site => Sys2Proof.Machine.execOconst fld site s
  | .split fld site => Sys2Proof.Machine.execSplit fld site s
  | .settle fld site => Sys2Proof.Machine.execSettle fld site s
  | .racc fld site => Sys2Proof.Machine.execRacc fld site s
  | .rsum fld site => Sys2Proof.Machine.execRsum fld site s
  | .rmax fld site => Sys2Proof.Machine.execRmax fld site s
  | .thresh fld site => Sys2Proof.Machine.execThresh fld site s
  | .conf fld site => Sys2Proof.Machine.execConf fld site s
  | .ofan fld site => Sys2Proof.Machine.execOfan fld site s
  | .mld fld site => Sys2Proof.Machine.execMld fld site s
  | .mst fld site => Sys2Proof.Machine.execMst fld site s
  | .mlink fld site => Sys2Proof.Machine.execMlink fld site s
  | .mring fld site => Sys2Proof.Machine.execMring fld site s
  | .engp fld site => Sys2Proof.Machine.execEngp fld site s
  | .sqp fld site => Sys2Proof.Machine.execSqp fld site s
  | .mxp fld site => Sys2Proof.Machine.execMxp fld site s
  | .atp fld site => Sys2Proof.Machine.execAtp fld site s
  | .agaff fld site => Sys2Proof.Machine.execAgaff fld site s
  | .agmod fld site => Sys2Proof.Machine.execAgmod fld site s
  | .agidx fld site => Sys2Proof.Machine.execAgidx fld site s
  | .steer fld site => Sys2Proof.Machine.execSteer fld site s
  | .merge fld site => Sys2Proof.Machine.execMerge fld site s
  | .joinNode fld site => Sys2Proof.Machine.execJoinNode fld site s
  | .carry fld site => Sys2Proof.Machine.execCarry fld site s
  | .fwd fld site => Sys2Proof.Machine.execFwd fld site s
  | .vcfilt fld site => Sys2Proof.Machine.execVcfilt fld site s
  | .tileSwap fld site => Sys2Proof.Machine.execTileSwap fld site s
  | .kill fld chan => Sys2Proof.Machine.execKill fld chan s
  | .timingReplay place => Sys2Proof.Machine.execTimingReplay place s
  | .persistentTimingError fld site stage => Sys2Proof.Machine.execPersistentTimingError fld site stage s
  | .faultRecordPost ctx => Sys2Proof.Machine.execFaultRecordPost ctx s
  | .deadlockWatchdog fld slot => Sys2Proof.Machine.execDeadlockWatchdog fld slot s
  | .remoteTimeout tgt fld id => Sys2Proof.Machine.execRemoteTimeout tgt fld id s
  | .roundComplete ctx => Sys2Proof.Machine.execRoundComplete ctx s
  | .homeAccess id => Sys2Proof.Machine.execHomeAccess id s
  | .l1Probe fld ctx obj sec => Sys2Proof.Machine.execL1Probe fld ctx obj sec s
  | .evictionWriteBack fld ctx obj sec => Sys2Proof.Machine.execEvictionWriteBack fld ctx obj sec s
  | .portTranslate id => Sys2Proof.Machine.execPortTranslate id s
  | .pagePin st => Sys2Proof.Machine.execPagePin st s
  | .hbmFrameFence mount frame bad => Sys2Proof.Machine.execHbmFrameFence mount frame bad s
  | .migrationComplete mount frame => Sys2Proof.Machine.execMigrationComplete mount frame s
  | .elasticInterval fld => Sys2Proof.Machine.execElasticInterval fld s
  | .boundaryMoveComplete fld => Sys2Proof.Machine.execBoundaryMoveComplete fld s
  | .meridianSelect die => Sys2Proof.Machine.execMeridianSelect die s
  | .entryStrandStart tno => Sys2Proof.Machine.execEntryStrandStart tno s
  | .queueAgeing die q => Sys2Proof.Machine.execQueueAgeing die q s
  | .reservationTake die q => Sys2Proof.Machine.execReservationTake die q s
  | .quantumExpiry tno => Sys2Proof.Machine.execQuantumExpiry tno s
  | .preemptionSave tno => Sys2Proof.Machine.execPreemptionSave tno s
  | .taskCompletion tno => Sys2Proof.Machine.execTaskCompletion tno s
  | .stallEscalation tno => Sys2Proof.Machine.execStallEscalation tno s
  | .finderLimit fld => Sys2Proof.Machine.execFinderLimit fld s
  | .flitReceive port seq crc => Sys2Proof.Machine.execFlitReceive port seq crc s
  | .linkReplay port seq => Sys2Proof.Machine.execLinkReplay port seq s
  | .laneFence port => Sys2Proof.Machine.execLaneFence port s
  | .linkNarrowComplete port => Sys2Proof.Machine.execLinkNarrowComplete port s
  | .mqsubWrite die q v => Sys2Proof.Machine.execMqsubWrite die q v s
  | .mqcfgWrite die q v => Sys2Proof.Machine.execMqcfgWrite die q v s
  | .captgtWrite v => Sys2Proof.Machine.execCaptgtWrite v s
  | .nvqbWrite n v => Sys2Proof.Machine.execNvqbWrite n v s
  | .rrsvWrite mount v => Sys2Proof.Machine.execRrsvWrite mount v s
  | .hostRegisterWrite addr v => Sys2Proof.Machine.execHostRegisterWrite addr v s
  | .hostApertureAccess addr size kind v => Sys2Proof.Machine.execHostApertureAccess addr size kind v s
  | .identityRequest => Sys2Proof.Machine.execIdentityRequest s
  | .statusRequest => Sys2Proof.Machine.execStatusRequest s
  | .getVersion => Sys2Proof.Machine.execGetVersion s
  | .getCapabilities => Sys2Proof.Machine.execGetCapabilities s
  | .negotiateAlgorithms => Sys2Proof.Machine.execNegotiateAlgorithms s
  | .getDigests => Sys2Proof.Machine.execGetDigests s
  | .getCertificate => Sys2Proof.Machine.execGetCertificate s
  | .challenge => Sys2Proof.Machine.execChallenge s
  | .getMeasurements => Sys2Proof.Machine.execGetMeasurements s
  | .deviceReset => Sys2Proof.Machine.execDeviceReset s
  | .firmwareVerify => Sys2Proof.Machine.execFirmwareVerify s
  | .hbmTraining good => Sys2Proof.Machine.execHbmTraining good s
  | .dieLinkTraining good => Sys2Proof.Machine.execDieLinkTraining good s
  | .packagePortTraining up pkg => Sys2Proof.Machine.execPackagePortTraining up pkg s
  | .thermalThrottle die => Sys2Proof.Machine.execThermalThrottle die s
  | .thermalShutdown die => Sys2Proof.Machine.execThermalShutdown die s
  | .ctxsaveComplete tno => Sys2Proof.Machine.execCtxsaveComplete tno s

end Sys2Proof.Machine
end

