-- ==== Sys2Proof/Machine/Step.lean ====
section
/-!
DEFINITION. One step of the package: what the outside does comes first, in its order; then a strand that a token has ended;
then one of the open steps of the device's units, or the next instruction of a strand.
-/
namespace Sys2Proof.Machine

/-- The next instruction: of the strand whose turn it is, fetched at its pcc. -/
def issueNext (s : State) : Host.Outcome State Fault Refusal :=
  match s.takeTurn exec with
  | none => .next s
  | some t => t.attempt exec

/-- One step. -/
def step (s : State) : Host.Outcome State Fault Refusal :=
  if s.shutdown then .fault .shutdown
  else
    match s.inputs with
    | i :: r => exec i { s with inputs := r }
    | [] =>
      match s.ended with
      | some (f, i) => .next (s.endStrand f i)
      | none =>
        let ms := s.moves
        let (k, t) := s.choose (ms.length + (if s.turns.isEmpty then 0 else 1))
        match ms[k]? with
        | some m => m t
        | none => issueNext t

/-- The state with an instruction of nbits bits w, numbered as the opcode table numbers them, where step fetches next. -/
def State.withFetchWord (s : State) (nbits w : Nat) : State :=
  s.placeCode (w % 2 ^ nbits % 2 ^ 32) (w % 2 ^ nbits / 2 ^ 32 % 2 ^ 32)

end Sys2Proof.Machine
end

