-- ==== Sys2Proof/Safety.lean ====
section
/-!
DEFINITION. What counts as a safe run: the package goes on from step to step, and its memory stays in its one canonical
form. The one fault is the shutdown of R467; no instruction stops the machine.
-/
namespace Sys2Proof.Machine

/-- An outcome is a next state that has a property. -/
def Goes (o : Host.Outcome State Fault Refusal) (P : State → Prop) : Prop := ∃ t, o = .next t ∧ P t

/-- Memory is in its canonical form (Machine/Mem.lean). -/
def State.Canonical (s : State) : Prop := Memory.wf s.mem = true

/-- n steps from a state neither fault nor refuse. -/
def SafeFor : Nat → State → Prop
  | 0, _ => True
  | n + 1, s => Goes (step s) (SafeFor n)

end Sys2Proof.Machine
end

