-- ==== Sys2Proof/Certificates/Slice0/Obligations.lean ====
section
/-!
DEFINITION. The statements for the provers. Each says what the rules named in its docstring say of the model, for every state
and every operand that meets its hypotheses. Names shared by several statements stand before the first that uses them.
-/
namespace Sys2Proof.Machine

/-! ### Encodings and steps -/

/-- The words of an encoding decode to the instruction without what its words do not hold. -/
def DecodesBack (i : Instr) : Prop :=
  match encode i with
  | [] => True
  | [w0] => ∀ w1, decodeWords w0 w1 = .ok i.core
  | w0 :: w1 :: _ => decodeWords w0 w1 = .ok i.core

end Sys2Proof.Machine

open Sys2Proof Sys2Proof.Machine

/-- Decoding undoes encoding (R32 to R47): the words of every well-formed instruction decode to it, whatever the operands.
The rows of `spawn` and `resume` share one word each, which decodes to the first of them (R212, R408). -/
def Obligations.DecodeOfEncode : Prop := ∀ i : Instr, i.wf = true → DecodesBack i

/-- Encoding undoes decoding (R37): words decode to a well-formed instruction only, and the encoder gives back those words, so
no bit of a word that decodes is ignored. -/
def Obligations.EncodeOfDecode : Prop :=
  ∀ (w0 w1 : W32) (i : Instr), decodeWords w0 w1 = .ok i →
    i.wf = true ∧ (isHead w0 = false → encode i = [w0]) ∧ (isHead w0 = true → encode i = [w0, w1])

/-- Words written out from the spec's own examples and maps decode to the instructions they stand for (R43 to R47, R99, R101).
-/
def Obligations.WordsDecode : Prop :=
  decodeWords 0x00190A52 0 = .ok (.cmpLt 3 4 5) ∧
  decodeWords 0x80300048 0xC0345678 = .ok (.moviL 6 0x12345678 0) ∧
  decodeWords 0x01114FFF 0 = .ok (.addi 2 5 0x0FFF) ∧
  decodeWords 0x40332811 0 = .ok (.cadd 3 3 5) ∧
  decodeWords 0x88000028 0xC6000000 = .ok (.fence { d := 0, a := 0, b := 0, fn := 0x028, x := 3, g := 0, imm := 0 }) ∧
  decodeWords 0x32000001 0 = .ok .nop ∧
  decodeWords 0xC0000000 0 = .error .tailFirst ∧
  decodeWords 0x80300048 0x00000000 = .error .noTail ∧
  decodeWords 0x00000000 0 = .error .unassigned

/-- No step breaks the canonical form of memory, whatever the state. -/
def Obligations.StepKeepsCanonical : Prop := ∀ s t : State, s.Canonical → step s = .next t → t.Canonical

/-- A device reset (R31) leaves every strand slot and every Finder slot empty, CYCLE at 0 and no task, and memory in its
canonical form. The reset event leaves the same. -/
def Obligations.ResetState : Prop :=
  (∀ f i, State.reset.strandAt f i = none) ∧ (∀ t ∈ State.reset.me :: State.reset.others, t.stat = .free ∧ t.finder = false) ∧
  (∀ f, (State.reset.fieldOf f).cycle = 0) ∧ State.reset.tasks = [] ∧ State.reset.Canonical ∧
  (∀ s : State, ∃ t, exec .deviceReset s = .next t ∧ (∀ f i, t.strandAt f i = none) ∧ (∀ f, (t.fieldOf f).cycle = 0) ∧
    t.tasks = [] ∧ t.Canonical)

/-- A step runs the instruction at pcc (R38, R222): when nothing from outside is waiting, no strand has been ended, and the
choice among the open steps falls on a sequencer, the words at the pcc of the strand whose turn it is decide what happens:
the instruction they decode to, or ILLEGAL_OP where they decode to none. -/
def Obligations.StepRunsDecoded : Prop :=
  ∀ (s u t : State) (w0 w1 : W32), s.shutdown = false → s.inputs = [] → s.ended = none → s.turns.isEmpty = false →
    s.choose (s.moves.length + 1) = (s.moves.length, u) → u.takeTurn exec = some t → t.fetchOne t.pc = .word w0 →
    (isHead w0 = true → t.fetchOne (t.pc + 4) = .word w1) →
    (t.mayLeave w0 = false → step s = .next t) ∧
    (t.mayLeave w0 = true →
      (∀ i, decodeWords w0 w1 = .ok i → (isHead w0 = false → decodeWords w0 0 = .ok i) → step s = exec i t) ∧
      (∀ e, decodeWords w0 (if isHead w0 then w1 else 0) = .error e →
        step s = exec (.illegalOp w0 (if isHead w0 then w1 else 0)) t))

/-- No instruction and no step of a unit stops the machine: each has a next state. The one stop is the shutdown of R467, which
no later step leaves. -/
def Sys2Proof.Claim.NothingStops : Prop :=
  (∀ (i : Instr) (s : State), ∃ t, exec i s = .next t) ∧
  (∀ s : State, s.shutdown = true → step s = .fault .shutdown) ∧
  (∀ s : State, s.shutdown = false → ∃ t, step s = .next t)

/-- What comes from outside acts before the device goes on, in its order. -/
def Sys2Proof.Claim.InputsActFirst : Prop :=
  ∀ (s : State) (i : Instr) (r : List Instr), s.shutdown = false → s.inputs = i :: r → step s = exec i { s with inputs := r }

/-- No instruction and no step stops the machine but the shutdown of R467, and what comes from outside acts first, in its order. -/
def Obligations.EveryStepGoesOn : Prop := Claim.NothingStops ∧ Claim.InputsActFirst

namespace Sys2Proof.Machine

/-! ### Operands of strands (R14, R17) -/

/-- R17 lets an instruction go: no field names a bound queue register the wrong way, no source queue is empty, no destination
queue is full. -/
def Admits (s : State) (o : Opnds) : Prop := s.badQueue o = none ∧ s.queueWaits o = false

/-- An instruction of n bytes has completed with result v for d: the result is put there, queues are popped, pcc moves on. -/
def Writes (s : State) (i : Instr) (d : RegF) (v : W64) (n : Nat) (reads : List RegF) : Prop :=
  exec i s = .next ((s.putReg d v).retire n reads)

/-- The forms of R97 with two sources, and their results from sa = x and sb = y: products from the product in 128 bits,
quotients truncated towards zero, with the fixed results of R98. -/
def twoSource (d a b : RegF) (x y : W64) : List (Instr × W64) :=
  [(.add d a b, x + y), (.sub d a b, x - y), (.mul d a b, (x.zeroExtend 128 * y.zeroExtend 128).extractLsb' 0 64),
   (.mulh d a b, (x.signExtend 128 * y.signExtend 128).extractLsb' 64 64),
   (.mulhu d a b, (x.zeroExtend 128 * y.zeroExtend 128).extractLsb' 64 64),
   (.div d a b, if y = 0 then -1 else BitVec.ofInt 64 (x.toInt.tdiv y.toInt)),
   (.divu d a b, if y = 0 then 0xFFFFFFFFFFFFFFFF else BitVec.ofNat 64 (x.toNat / y.toNat)),
   (.rem d a b, if y = 0 then x else BitVec.ofInt 64 (x.toInt - y.toInt * x.toInt.tdiv y.toInt)),
   (.remu d a b, if y = 0 then x else BitVec.ofNat 64 (x.toNat - y.toNat * (x.toNat / y.toNat))),
   (.and d a b, x &&& y), (.or d a b, x ||| y), (.xor d a b, x ^^^ y), (.andn d a b, x &&& ~~~y),
   (.shl d a b, x <<< (y.extractLsb' 0 6).toNat), (.shr d a b, x >>> (y.extractLsb' 0 6).toNat),
   (.sar d a b, x.sshiftRight (y.extractLsb' 0 6).toNat), (.rot d a b, x.rotateLeft (y.extractLsb' 0 6).toNat),
   (.min d a b, if x.slt y then x else y), (.max d a b, if x.slt y then y else x),
   (.minu d a b, if x.ult y then x else y), (.maxu d a b, if x.ult y then y else x)]

/-- Bits of x from i up are clear. -/
def highClear (x : W64) (i : Nat) : Prop := ∀ j, i ≤ j → x.getLsbD j = false
/-- Bits of x below i are clear. -/
def lowClear (x : W64) (i : Nat) : Prop := ∀ j, j < i → x.getLsbD j = false

/-- The forms of R97 with one source that pick bits of it. -/
def oneSource (d a : RegF) (x : W64) : List (Instr × W64) :=
  [(.sextB d a, (x.extractLsb' 0 8).signExtend 64), (.sextH d a, (x.extractLsb' 0 16).signExtend 64),
   (.sextW d a, (x.extractLsb' 0 32).signExtend 64), (.zextB d a, (x.extractLsb' 0 8).zeroExtend 64),
   (.zextH d a, (x.extractLsb' 0 16).zeroExtend 64), (.zextW d a, (x.extractLsb' 0 32).zeroExtend 64)]

/-- The comparisons and the predicate logic of R99, with what each writes to its predicate. -/
def comparisons (p : PredF) (a b : RegF) (x y : W64) : List (Instr × Bool) :=
  [(.cmpEq p a b, x == y), (.cmpNe p a b, x != y), (.cmpLt p a b, x.slt y), (.cmpGe p a b, !x.slt y),
   (.cmpLtu p a b, x.ult y), (.cmpGeu p a b, !x.ult y)]

/-- The immediate forms of R100 on sa = x. -/
def immediates (d a : RegF) (imm : BitVec 14) (x : W64) : List (Instr × W64) :=
  [(.addi d a imm, x + imm.signExtend 64), (.andi d a imm, x &&& imm.signExtend 64), (.ori d a imm, x ||| imm.signExtend 64),
   (.xori d a imm, x ^^^ imm.signExtend 64)]
def shiftImmediates (d a : RegF) (sh : BitVec 6) (x : W64) : List (Instr × W64) :=
  [(.shli d a sh, x <<< sh.toNat), (.shri d a sh, x >>> sh.toNat), (.sari d a sh, x.sshiftRight sh.toNat)]

/-- The instructions that write one scalar register and read only scalar registers, with their operands. -/
def scalarForms (d a b : RegF) (imm : BitVec 14) (sh : BitVec 6) (k : BitVec 19) (p : PredF) : List (Instr × Opnds) :=
  (twoSource d a b 0 0).map (fun q => (q.1, { reads := [a, b], writes := [d] })) ++
  [(.clz d a, { reads := [a], writes := [d] }), (.ctz d a, { reads := [a], writes := [d] }),
   (.popc d a, { reads := [a], writes := [d] })] ++
  ((oneSource d a 0).map Prod.fst ++ (immediates d a imm 0).map Prod.fst ++ (shiftImmediates d a sh 0).map Prod.fst).map
    (fun i => (i, { reads := [a], writes := [d] })) ++
  [(.sel d p a b, { reads := [a, b], writes := [d] }), (.movi d k, { writes := [d] })]

/-- Every part of a strand but its scalar registers, its queues' entries, its loads' destinations, pcc and the exemption of
R425 is as it was. -/
def SameButScalars (t u : Strand) : Prop :=
  u = { t with regs := u.regs, binds := u.binds, dests := u.dests, pcc := u.pcc, unwatched := u.unwatched }

end Sys2Proof.Machine

open Sys2Proof Sys2Proof.Machine

/-- How operands behave (R14, R17). s0 reads as zero and keeps nothing; an unbound register reads back what was put there; a
bound source reads the head of its queue; a bound destination takes one entry at its end; other registers stay. A field that
names a bound queue register the wrong way raises QUEUE_UNBOUND, whatever the rest of the instruction; an instruction that
finds a queue empty or full waits and changes nothing. -/
def Obligations.OperandRegisters : Prop :=
  (∀ s : State, s.sreg 0 = 0) ∧ (∀ (s : State) v, s.setSreg 0 v = s) ∧
  (∀ (s : State) (r : RegF) v, r ≠ 0 → (s.setSreg r v).sreg r = v) ∧
  (∀ (s : State) (r q : RegF) v, r ≠ q → (s.setSreg r v).sreg q = s.sreg q) ∧
  (∀ (s : State) (r : RegF) v, s.bindOf r = none → s.readReg r = s.sreg r ∧ s.putReg r v = s.setSreg r v) ∧
  (∀ (s : State) (r : RegF) (b : Bind) e l, s.bindOf r = some b → b.ents = e :: l → s.readReg r = e) ∧
  (∀ (s : State) (r : RegF) (b : Bind) v, s.bindOf r = some b →
    (s.putReg r v).bindOf r = some { b with ents := b.ents ++ [v] } ∧ (s.putReg r v).me.regs = s.me.regs) ∧
  (∀ (s : State) (d a b r : RegF), s.me.finder = false → s.badQueue { reads := [a, b], writes := [d] } = some r →
    ∀ p ∈ twoSource d a b 0 0, exec p.1 s = s.raise (mkTrap ccQueue 0 0 r.toNat)) ∧
  (∀ (s : State) (d a b : RegF), s.badQueue { reads := [a, b], writes := [d] } = none →
    s.queueWaits { reads := [a, b], writes := [d] } = true → ∀ p ∈ twoSource d a b 0 0, exec p.1 s = .next s)

/-- The integer forms with two sources (R97, R98) write the results that the tables give, and pcc moves on by 4. -/
def Sys2Proof.Claim.IntegerTwoSource : Prop :=
  ∀ (s : State) (d a b : RegF), Admits s { reads := [a, b], writes := [d] } →
    ∀ p ∈ twoSource d a b (s.readReg a) (s.readReg b), Writes s p.1 d p.2 4 [a, b]

/-- The integer forms with one source (R97): extensions, and counts of leading zeros, trailing zeros and ones. A count of
leading or trailing zeros is 64 for zero; else the bit that ends the run is set and those it counts are clear. -/
def Sys2Proof.Claim.IntegerOneSource : Prop :=
  ∀ (s : State) (d a : RegF), Admits s { reads := [a], writes := [d] } →
    (∀ p ∈ oneSource d a (s.readReg a), Writes s p.1 d p.2 4 [a]) ∧
    (s.readReg a = 0 → Writes s (.clz d a) d 64 4 [a] ∧ Writes s (.ctz d a) d 64 4 [a]) ∧
    (∀ i, i < 64 → (s.readReg a).getLsbD i = true → highClear (s.readReg a) (i + 1) →
      Writes s (.clz d a) d (BitVec.ofNat 64 (63 - i)) 4 [a]) ∧
    (∀ i, i < 64 → (s.readReg a).getLsbD i = true → lowClear (s.readReg a) i →
      Writes s (.ctz d a) d (BitVec.ofNat 64 i) 4 [a]) ∧
    Writes s (.popc d a) d (BitVec.ofNat 64 (((List.finRange 64).map fun i => ((s.readReg a).getLsbD i.val).toNat).sum)) 4 [a]

/-- Comparison, selection and predicate logic (R99): a write to p0 is discarded and p0 reads as true. -/
def Sys2Proof.Claim.SelectAndCompare : Prop :=
  (∀ (s : State) (p : PredF) (a b : RegF), Admits s { reads := [a, b] } →
    ∀ q ∈ comparisons p a b (s.readReg a) (s.readReg b), exec q.1 s = .next ((s.setPred p q.2).retire 4 [a, b])) ∧
  (∀ (s : State) (p : PredF) (d a b : RegF), Admits s { reads := [a, b], writes := [d] } →
    Writes s (.sel d p a b) d (if s.pred p then s.readReg a else s.readReg b) 4 [a, b]) ∧
  (∀ (s : State) (d a b : PredF),
    exec (.pand d a b) s = .next ((s.setPred d (s.pred a && s.pred b)).retire 4 []) ∧
    exec (.por d a b) s = .next ((s.setPred d (s.pred a || s.pred b)).retire 4 []) ∧
    exec (.pnot d a) s = .next ((s.setPred d (!s.pred a)).retire 4 [])) ∧
  (∀ (s : State) v, s.pred 0 = true ∧ s.setPred 0 v = s) ∧
  (∀ (s : State) (p : PredF) v, p ≠ 0 → (s.setPred p v).pred p = v) ∧
  (∀ (s : State) (p q : PredF) v, p ≠ q → (s.setPred p v).pred q = s.pred q)

/-- The immediate forms and the constants (R100, R101). A long form whose guard is false does nothing but move on by 8 (R41). -/
def Sys2Proof.Claim.ImmediatesAndConstants : Prop :=
  (∀ (s : State) (d a : RegF) (imm : BitVec 14) (sh : BitVec 6), Admits s { reads := [a], writes := [d] } →
    (∀ p ∈ immediates d a imm (s.readReg a), Writes s p.1 d p.2 4 [a]) ∧
    (∀ p ∈ shiftImmediates d a sh (s.readReg a), Writes s p.1 d p.2 4 [a])) ∧
  (∀ (s : State) (d : RegF) (k : BitVec 19) (c : W32) (g : PredF), Admits s { writes := [d] } →
    Writes s (.movi d k) d (k.signExtend 64) 4 [] ∧ (s.pred g = true → Writes s (.moviL d c g) d (c.signExtend 64) 8 [])) ∧
  (∀ (s : State) (d a : RegF) (k : W32) (g : PredF), Admits s { reads := [a], writes := [d] } → s.pred g = true →
    Writes s (.movhi d a k g) d (k ++ (s.readReg a).extractLsb' 0 32) 8 [a]) ∧
  (∀ (s : State) (d a : RegF) (k : W32) (g : PredF), s.pred g = false →
    exec (.moviL d k g) s = .next (s.retire 8 []) ∧ exec (.movhi d a k g) s = .next (s.retire 8 []))

/-- The frame of the scalar forms of R97 to R101 with no bound queue among their registers: every scalar register but the
destination, every predicate, capability and system register, the counters and flags, every other strand and all of memory
stay; pcc moves on by 4. A destination s0 leaves every register as it was. -/
def Obligations.ScalarFrame : Prop :=
  ∀ (s t : State) (d a b : RegF) (imm : BitVec 14) (sh : BitVec 6) (k : BitVec 19) (p : PredF),
    s.me.finder = false → s.me.binds = [] → ∀ q ∈ scalarForms d a b imm sh k p, exec q.1 s = .next t →
      SameButScalars s.me t.me ∧ (∀ r : RegF, r ≠ d → t.sreg r = s.sreg r) ∧ (d = 0 → t.me.regs = s.me.regs) ∧
      t.me.pcc = s.me.pcc.setCur (s.pc + 4) ∧ t.me.binds = s.me.binds ∧ t = { s with me := t.me } ∧
      (∀ x, readByte t.mem x = readByte s.mem x)

/-- The integer instructions of R97 with one source or two, with the fixed results of R98: each completes with its result. -/
def Obligations.IntegerForms : Prop := Claim.IntegerTwoSource ∧ Claim.IntegerOneSource

/-- Selection, comparison, predicates and constants (R99 to R101): each completes with its result. -/
def Obligations.SelectCompareConstants : Prop := Claim.SelectAndCompare ∧ Claim.ImmediatesAndConstants

namespace Sys2Proof.Machine

/-! ### Floating point (R55 to R68, R116 to R124) -/

/-- A value as a rational number; infinities and NaNs count as 0 and are told apart by FVal.isFin. -/
def FVal.rat : FVal → ℚ
  | .fin neg m e => (if neg then -1 else 1) * (m : ℚ) * (2 : ℚ) ^ e
  | _ => 0
/-- The value is a real number. -/
def FVal.isFin (v : FVal) : Bool := !v.isNan && !v.isInf

/-- The one rounding of a non-zero rational (R64 to R66). -/
def Fmt.roundRat (f : Fmt) (md : RMode) (v : ℚ) : FRes := f.round md (v < 0) v.num.natAbs v.den false

/-- The formats of the device (R55, R59). -/
def allFmts : List Fmt := [fmtD, fmtS, fmtH, fmtB, fmtN4, fmtN5, fmtF4]

/-- A floating-point instruction has completed with a result and its flags. -/
def WritesF (s : State) (i : Instr) (d : RegF) (r : FRes) (reads : List RegF) : Prop :=
  exec i s = .next (((s.putReg d (BitVec.ofNat 64 r.1)).orFlags r.2).retire 4 reads)

/-- The operations of R117, R119 and R122 with two scalar sources x and y. -/
def floatTwo (f : BitVec 2) (d a b : RegF) (rm : BitVec 3) (md : RMode) (x y : W64) : List (Instr × FRes) :=
  [(.fadd f d a b rm, (fOf f).add md x.toNat y.toNat), (.fsub f d a b rm, (fOf f).sub md x.toNat y.toNat),
   (.fmul f d a b rm, (fOf f).mul md x.toNat y.toNat), (.fdiv f d a b rm, (fOf f).div md x.toNat y.toNat),
   (.fmin f d a b, (fOf f).minMax false x.toNat y.toNat), (.fmax f d a b, (fOf f).minMax true x.toNat y.toNat),
   (.fscale f d a b rm, (fOf f).scale md x.toNat y.toInt)]

/-- The operations of R117 and R122 with one scalar source x. -/
def floatOne (f : BitVec 2) (d a : RegF) (rm : BitVec 3) (md : RMode) (x : W64) : List (Instr × FRes) :=
  [(.fsqrt f d a rm, (fOf f).sqrt md x.toNat), (.frsqrt f d a rm, (fOf f).rsqrt md x.toNat),
   (.fexp2 f d a rm, (fOf f).exp2 md x.toNat), (.flog2 f d a rm, (fOf f).log2 md x.toNat),
   (.fround f d a rm, (fOf f).roundTo md x.toNat)]

/-- The comparisons of R123 of two values: what each writes, and the flags. -/
def floatComparisons (f : BitVec 2) (p : PredF) (a b : RegF) (u v : FVal) : List (Instr × Bool × Nat) :=
  let un := u.isNan || v.isNan
  let nv (any : Bool) : Nat := if (if any then un else u.isSnan || v.isSnan) then flNV else 0
  [(.fcmpEq f p a b, !un && u.eq v, nv false), (.fcmpNe f p a b, un || !u.eq v, nv false),
   (.fcmpLt f p a b, !un && u.lt v && !u.eq v, nv true), (.fcmpLe f p a b, !un && (u.lt v || u.eq v), nv true),
   (.fcmpUn f p a b, un, nv false)]

/-- The conversions of R124 between floating and narrow formats, and from integers, of the source word x. -/
def conversions (f k : BitVec 2) (d a : RegF) (rm : BitVec 3) (md : RMode) (x : W64) : List (Instr × FRes) :=
  [(.fcvtFromIeee f d a k rm, (fOf f).ofVal md ((fOf k).val x.toNat)),
   (.fcvtFromNarrow f d a k rm, (fOf f).ofVal md ((narrowFmt k.toNat).val x.toNat)),
   (.fcvtToNarrow f d a k rm, (narrowFmt k.toNat).ofVal md ((fOf f).val x.toNat)),
   (.fcvtFromI64 f d a rm, (fOf f).ofInt md x.toInt), (.fcvtFromU64 f d a rm, (fOf f).ofInt md x.toNat),
   (.fcvtFromI32 f d a rm, (fOf f).ofInt md (x.extractLsb' 0 32).toInt),
   (.fcvtFromU32 f d a rm, (fOf f).ofInt md (x.extractLsb' 0 32).toNat)]

/-- The integer target of code k (R124): its bits and whether it is signed. -/
def intTarget (k : BitVec 3) : Nat × Bool :=
  ([64, 64, 32, 32, 16, 16, 8, 8].getD k.toNat 64, k.toNat % 2 = 0)

end Sys2Proof.Machine

open Sys2Proof Sys2Proof.Machine

/-- The one rounding (R64): where it does not overflow, the result is the representable value that the mode names. Toward
zero, up and down it is the largest or smallest such value on its side; to nearest no representable value lies closer. -/
def Sys2Proof.Claim.RoundingModes : Prop :=
  ∀ f ∈ allFmts, ∀ (md : RMode) (v : ℚ), v ≠ 0 → (f.roundRat md v).2 &&& flOF = 0 →
    let r := (f.val (f.roundRat md v).1).rat
    (f.val (f.roundRat md v).1).isFin = true ∧
    (∀ c, (f.val c).isFin = true →
      (md = .rdn → r ≤ v ∧ ((f.val c).rat ≤ v → (f.val c).rat ≤ r)) ∧
      (md = .rup → v ≤ r ∧ (v ≤ (f.val c).rat → r ≤ (f.val c).rat)) ∧
      (md = .rtz → |r| ≤ |v| ∧ (|(f.val c).rat| ≤ |v| → |(f.val c).rat| ≤ |r|)) ∧
      (md = .rne ∨ md = .rna → |r - v| ≤ |(f.val c).rat - v|))

/-- Sums, differences, products, quotients and fused sums of finite operands are the exact result, rounded once (R117). -/
def Sys2Proof.Claim.ExactThenRounded : Prop :=
  ∀ (k : Nat) (md : RMode) (x y z : Nat), let f := ieeeFmt k
    (f.val x).isFin = true → (f.val y).isFin = true → (f.val z).isFin = true →
    let u := (f.val x).rat; let v := (f.val y).rat; let w := (f.val z).rat
    (u + v ≠ 0 → f.add md x y = f.roundRat md (u + v)) ∧ (u - v ≠ 0 → f.sub md x y = f.roundRat md (u - v)) ∧
    (u * v ≠ 0 → f.mul md x y = f.roundRat md (u * v)) ∧ (u ≠ 0 → v ≠ 0 → f.div md x y = f.roundRat md (u / v)) ∧
    (u * v + w ≠ 0 → f.fma md x y z = f.roundRat md (u * v + w))

/-- The special operands of R118 and the canonical NaNs of R57. -/
def Sys2Proof.Claim.FloatSpecials : Prop :=
  (fmtD.nan = 0x7FF8000000000000 ∧ fmtS.nan = 0x7FC00000 ∧ fmtH.nan = 0x7E00 ∧ fmtB.nan = 0x7FC0) ∧
  ∀ (k : Nat) (md : RMode) (x y : Nat), let f := ieeeFmt k; let u := f.val x; let v := f.val y
    (u.isSnan = true ∨ v.isSnan = true →
      f.add md x y = (f.nan, flNV) ∧ f.sub md x y = (f.nan, flNV) ∧ f.mul md x y = (f.nan, flNV) ∧ f.div md x y = (f.nan, flNV)) ∧
    ((u.isNan = true ∨ v.isNan = true) → u.isSnan = false → v.isSnan = false →
      f.add md x y = (f.nan, 0) ∧ f.sub md x y = (f.nan, 0) ∧ f.mul md x y = (f.nan, 0) ∧ f.div md x y = (f.nan, 0)) ∧
    (∀ a b, u = .inf a → v = .inf b → f.div md x y = (f.nan, flNV) ∧
      (a ≠ b → f.add md x y = (f.nan, flNV)) ∧ (a = b → f.sub md x y = (f.nan, flNV))) ∧
    (∀ a b, u = .zero a → v = .inf b → f.mul md x y = (f.nan, flNV) ∧ ∀ z, (f.val z).isSnan = false → f.fma md x y z = (f.nan, flNV)) ∧
    (∀ a b, u = .zero a → v = .zero b → f.div md x y = (f.nan, flNV)) ∧
    (∀ a b m e, u = .fin a m e → v = .zero b → f.div md x y = (f.inf (a != b), flDZ)) ∧
    (∀ a, u = .zero a → f.sqrt md x = (f.pack a 0, 0) ∧ f.rsqrt md x = (f.inf a, flDZ) ∧ f.exp2 md x = (f.one, 0) ∧
      f.log2 md x = (f.inf true, flDZ)) ∧
    (u = .inf false → f.sqrt md x = (f.inf false, 0) ∧ f.rsqrt md x = (f.pack false 0, 0) ∧ f.exp2 md x = (f.inf false, 0) ∧
      f.log2 md x = (f.inf false, 0)) ∧
    (u = .inf true → f.sqrt md x = (f.nan, flNV) ∧ f.rsqrt md x = (f.nan, flNV) ∧ f.exp2 md x = (f.pack false 0, 0) ∧
      f.log2 md x = (f.nan, flNV)) ∧
    (∀ m e, u = .fin true m e → f.sqrt md x = (f.nan, flNV) ∧ f.rsqrt md x = (f.nan, flNV) ∧ f.log2 md x = (f.nan, flNV))

/-- The floating-point instructions complete with the result and the flags of their operation, in the mode of rm or, for
0b111, of FRM; flags are sticky (R20, R45, R116, R117, R119, R122). -/
def Sys2Proof.Claim.FloatArithmetic : Prop :=
  (∀ (s : State) (f : BitVec 2) (d a b : RegF) (rm : BitVec 3), Admits s { reads := [a, b], writes := [d] } →
    ∀ p ∈ floatTwo f d a b rm (s.rmode rm) (s.readReg a) (s.readReg b), WritesF s p.1 d p.2 [a, b]) ∧
  (∀ (s : State) (f : BitVec 2) (d a : RegF) (rm : BitVec 3), Admits s { reads := [a], writes := [d] } →
    ∀ p ∈ floatOne f d a rm (s.rmode rm) (s.readReg a), WritesF s p.1 d p.2 [a]) ∧
  (∀ (s : State) (f : BitVec 2) (d a b : RegF) (rm : BitVec 3), Admits s { reads := [a, b, d], writes := [d] } →
    WritesF s (.ffma f d a b rm) d ((fOf f).fma (s.rmode rm) (s.readReg a).toNat (s.readReg b).toNat (s.readReg d).toNat)
      [a, b, d]) ∧
  (∀ (s : State) (rm : BitVec 3), s.rmode rm = Machine.rmode (if rm = 7 then s.me.frm.toNat else rm.toNat)) ∧
  (∀ (s : State) (n : Nat), s.me.finder = false → (s.orFlags n).me.fflags = s.me.fflags ||| BitVec.ofNat 6 n)

/-- Sign changes pass every other bit on, the bits of a NaN too, and the class has exactly the one bit of R121 set; none sets
a flag (R54, R120, R121). -/
def Sys2Proof.Claim.FloatSignAndClass : Prop :=
  ∀ (s : State) (f : BitVec 2) (d a : RegF), Admits s { reads := [a], writes := [d] } →
    let n := [64, 32, 16, 16].getD f.toNat 64
    let x := (s.readReg a).toNat
    WritesF s (.fabs f d a) d (x % 2 ^ (n - 1), 0) [a] ∧
    WritesF s (.fneg f d a) d (if x / 2 ^ (n - 1) % 2 = 1 then x % 2 ^ (n - 1) else 2 ^ (n - 1) + x % 2 ^ (n - 1), 0) [a] ∧
    ∃ i, i ≤ 9 ∧ WritesF s (.fclass f d a) d (2 ^ i, 0) [a] ∧
      (i = 9 ↔ (fOf f).val x = .nan false) ∧ (i = 8 ↔ (fOf f).val x = .nan true) ∧ (i = 7 ↔ (fOf f).val x = .inf false) ∧
      (i = 0 ↔ (fOf f).val x = .inf true) ∧ (i = 4 ↔ (fOf f).val x = .zero false) ∧ (i = 3 ↔ (fOf f).val x = .zero true) ∧
      (i = 6 ↔ ∃ m e, (fOf f).val x = .fin false m e ∧ 2 ^ (fOf f).mb ≤ m) ∧
      (i = 1 ↔ ∃ m e, (fOf f).val x = .fin true m e ∧ 2 ^ (fOf f).mb ≤ m)

/-- The comparisons (R123), the order being that of the values with zeros equal, and the conversions (R67, R68, R124): finite
values round once, NaNs become the target's, an integer target saturates with nv. -/
def Obligations.FloatCompareAndConvert : Prop :=
  (∀ (s : State) (f : BitVec 2) (p : PredF) (a b : RegF), Admits s { reads := [a, b] } →
    ∀ q ∈ floatComparisons f p a b ((fOf f).val (s.readReg a).toNat) ((fOf f).val (s.readReg b).toNat),
      exec q.1 s = .next (((s.setPred p q.2.1).orFlags q.2.2).retire 4 [a, b])) ∧
  (∀ u v : FVal, u.isFin = true → v.isFin = true → (u.eq v = true ↔ u.rat = v.rat) ∧ (u.eq v = false → (u.lt v = true ↔ u.rat < v.rat))) ∧
  (∀ (s : State) (f k : BitVec 2) (d a : RegF) (rm : BitVec 3), Admits s { reads := [a], writes := [d] } →
    ∀ p ∈ conversions f k d a rm (s.rmode rm) (s.readReg a), WritesF s p.1 d p.2 [a]) ∧
  (∀ (s : State) (f : BitVec 2) (d a : RegF) (k : BitVec 3) (rm : BitVec 3), Admits s { reads := [a], writes := [d] } →
    let r := toIntV ((fOf f).val (s.readReg a).toNat) (s.rmode rm) (intTarget k).1 (intTarget k).2
    WritesF s (.fcvtToInt f d a k rm) d ((BitVec.ofInt 64 r.1).toNat, r.2) [a]) ∧
  (∀ f ∈ allFmts, ∀ md s, f.ofVal md (.nan s) = (f.nan, if s then flNV else 0)) ∧
  (∀ f ∈ allFmts, ∀ md neg, f.ieee = false → f.ofVal md (.inf neg) = (f.pack neg f.maxCode, flOF + flNX)) ∧
  (∀ md n sgn, 1 ≤ n → let r v := toIntV v md n sgn
    (∀ q, r (.nan q) = (0, flNV)) ∧ (r (.inf false)).2 = flNV ∧ (r (.inf true)).2 = flNV ∧
    (∀ v, (r v).2 &&& flNV = 0 → v.isFin = true) ∧
    (∀ v, (if sgn then -(2 ^ (n - 1) : Int) else 0) ≤ (r v).1 ∧ (r v).1 < (if sgn then 2 ^ (n - 1) else 2 ^ n)))

/-- Rounding (R66, R117, R118): the mode an instruction takes, and results that are the exact ones rounded once. -/
def Obligations.FloatRounding : Prop := Claim.RoundingModes ∧ Claim.ExactThenRounded

/-- Floating-point instructions (R116 to R123): special operands, signs and classes, arithmetic; each completes with its result and flags. -/
def Obligations.FloatResults : Prop := Claim.FloatSpecials ∧ Claim.FloatSignAndClass ∧ Claim.FloatArithmetic

namespace Sys2Proof.Machine

/-! ### Branches, capabilities, traps and system registers -/

/-- A branch to offset t of c passes the checks of R40: the capability is tagged, has x and contains the word, t is a multiple
of 4, and the word there can be fetched and is no tail word. -/
def Reachable (s : State) (c : Cap) (t : Int) : Prop :=
  checkRange (s.ownObj s.me.fld) c pX t 4 = none ∧ t % 4 = 0 ∧
    ∃ w, s.fetchWord s.me.fld s.me.ctx c t.toNat = .word w ∧ fCls w ≠ 3

/-- The instruction has left state u with pcc at offset t of c; its queues are popped. -/
def Jumps (s : State) (i : Instr) (u : State) (c : Cap) (t : Int) (reads : List RegF) : Prop :=
  let u := u.jump (c.setCur t.toNat)
  exec i s = .next (if s.me.finder then u.finderTick else u.popAll reads)

/-- A capability instruction has written cd. -/
def WritesC (s : State) (i : Instr) (d : CapF) (v : Cap) (reads : List RegF) : Prop :=
  exec i s = .next ((s.setCreg d v).retire 4 reads)

/-- The readings of R110. -/
def capReadings (b : RegF) (c : CapF) (x : Cap) : List (Instr × W64) :=
  [(.cgetObj b c, (x.bits.extractLsb' 96 32).zeroExtend 64), (.cgetCur b c, (x.bits.extractLsb' 48 48).zeroExtend 64),
   (.cgetBase b c, BitVec.ofNat 64 (x.lo * 2 ^ x.g)), (.cgetTop b c, BitVec.ofNat 64 (x.hi * 2 ^ x.g)),
   (.cgetPerm b c, (x.bits.extractLsb' 6 8).zeroExtend 64), (.cgetTag b c, if x.tag then 1 else 0),
   (.cgetG b c, (x.bits.extractLsb' 42 6).zeroExtend 64)]

/-- Two capabilities differ at most in their cursors. -/
def SameButCursor (x y : Cap) : Prop :=
  x.tag = y.tag ∧ x.obj = y.obj ∧ x.g = y.g ∧ x.lo = y.lo ∧ x.hi = y.hi ∧ x.perm = y.perm ∧
    x.bits.extractLsb' 0 6 = y.bits.extractLsb' 0 6

end Sys2Proof.Machine

open Sys2Proof Sys2Proof.Machine

/-- Branches and calls (R40, R106 to R109): a target that passes its checks becomes pcc, the link is the next instruction, a
loop counts down and falls through at zero, and a branch whose condition is false checks nothing. -/
def Sys2Proof.Claim.BranchesTaken : Prop :=
  ∀ (s : State),
    (∀ p n off, let t : Int := (s.pc : Int) + 4 * (off : BitVec 20).toInt
      ((s.pred p != (n = 1#1)) = true → Reachable s s.me.pcc t → Jumps s (.bp p n off) s s.me.pcc t []) ∧
      ((s.pred p != (n = 1#1)) = false → exec (.bp p n off) s = .next (s.retire 4 []))) ∧
    (∀ off, let t : Int := (s.pc : Int) + 4 * (off : BitVec 20).toInt
      Reachable s s.me.pcc t → Jumps s (.call off) (s.setCreg 15 (s.me.pcc.setCur (s.pc + 4))) s.me.pcc t []) ∧
    (∀ d off, d ≠ 0 → s.bindOf d = none → let t : Int := (s.pc : Int) + 4 * (off : BitVec 14).toInt; let v := s.sreg d - 1
      (v ≠ 0 → Reachable s s.me.pcc t → Jumps s (.loop d off) (s.setSreg d v) s.me.pcc t [d]) ∧
      (v = 0 → exec (.loop d off) s = .next ((s.setSreg d 0).retire 4 [d]))) ∧
    (∀ c b, Admits s { reads := [b] } → let t : Int := ((s.creg c).cur : Int) + (s.readReg b).toInt
      Reachable s (s.creg c) t → Jumps s (.jr c b) s (s.creg c) t [b] ∧
        Jumps s (.callr c b) (s.setCreg 15 (s.me.pcc.setCur (s.pc + 4))) (s.creg c) t [b]) ∧
    (∀ c, Reachable s (s.creg c) (s.creg c).cur → Jumps s (.ret c) s (s.creg c) (s.creg c).cur [])

/-- A branch whose target fails a check raises at itself, with the target as FADDR, and changes no register (R40). -/
def Sys2Proof.Claim.BranchTargetFaults : Prop :=
  ∀ (s : State) (c : CapF) (b : RegF), Admits s { reads := [b] } → s.me.finder = false → s.me.ldc = 0 →
    let x := s.creg c; let t : Int := (x.cur : Int) + (s.readReg b).toInt
    let faults (code : Nat) : Prop := ∀ i ∈ [Instr.jr c b, .callr c b],
      exec i s = .next (s.takeTrap (mkTrap code 0 x.obj (t % 2 ^ 64).toNat))
    (x.tag = false → faults 0x04) ∧
    (x.tag = true → x.has pX = false → faults 0x06) ∧
    (x.tag = true → x.has pX = true → x.obj < localObj → (t < x.base ∨ x.top < t + 4) → faults 0x05) ∧
    (checkRange (s.ownObj s.me.fld) x pX t 4 = none → t % 4 ≠ 0 → faults 0x02) ∧
    (∀ w, checkRange (s.ownObj s.me.fld) x pX t 4 = none → t % 4 = 0 →
      s.fetchWord s.me.fld s.me.ctx x t.toNat = .word w → fCls w = 3 → faults 0x02)

/-- The capability instructions of R110, R111, R113 and R115. Moving a cursor keeps everything else, the tag too. -/
def Obligations.CapabilityForms : Prop :=
  (∀ (s : State) (b : RegF) (c e : CapF), Admits s { writes := [b] } →
    (∀ p ∈ capReadings b c (s.creg c), Writes s p.1 b p.2 4 []) ∧
    Writes s (.csub b c e) b (BitVec.ofInt 64 ((s.creg c).cur - (s.creg e).cur)) 4 []) ∧
  (∀ (s : State) (d c : CapF) (b : RegF), Admits s { reads := [b] } → ∃ x y : Cap,
    WritesC s (.csetc d c b) d x [b] ∧ x.cur = (s.readReg b).toNat % 2 ^ 48 ∧ SameButCursor x (s.creg c) ∧
    WritesC s (.cadd d c b) d y [b] ∧ y.cur = ((s.creg c).cur + (s.readReg b).toNat) % 2 ^ 48 ∧ SameButCursor y (s.creg c)) ∧
  (∀ (s : State) (d c : CapF) (p : PredF), WritesC s (.cnull d) d Cap.null [] ∧ WritesC s (.cmov d c) d (s.creg c) [] ∧
    exec (.ctest p c) s = .next ((s.setPred p ((s.creg c).tag && decide ((s.creg c).base ≤ (s.creg c).cur) &&
      decide ((s.creg c).cur < (s.creg c).top))).retire 4 [])) ∧
  (∀ s : State, s.creg 0 = Cap.null ∧ ∀ v, s.setCreg 0 v = s) ∧
  (∀ (s : State) (d : CapF) (b : RegF), s.me.finder = false → s.me.mode = true → Admits s { reads := [b, b + 1] } →
    let c : Cap := { bits := s.readReg b ++ s.readReg (b + 1), tag := true }
    (c.ok = true → WritesC s (.cmake d b) d c [b, b + 1]) ∧ (c.ok = false → exec (.cmake d b) s = s.raise (mkTrap 0x05 0 0 0)))

/-- Derivation (R25, R112): a source must be tagged and have d; `cperm` keeps the rights that are in both the source and the mask;
`cbound` takes the first granule in which the top fits, and the bounds rounded outwards to it, unless they leave the source. No
result has a right or a byte that its source has not. -/
def Obligations.DerivationNarrows : Prop :=
  ∀ (s : State) (d c : CapF) (b : RegF), Admits s { reads := [b] } → let x := s.creg c
    (x.tag = false → exec (.cbound d c b) s = s.raise (mkTrap 0x04 0 x.obj x.cur) ∧
      exec (.cperm d c b) s = s.raise (mkTrap 0x04 0 x.obj x.cur)) ∧
    (x.tag = true → x.has pD = false → exec (.cbound d c b) s = s.raise (mkTrap 0x06 0 x.obj x.cur) ∧
      exec (.cperm d c b) s = s.raise (mkTrap 0x06 0 x.obj x.cur)) ∧
    (x.tag = true → x.has pD = true →
      (∃ y : Cap, WritesC s (.cperm d c b) d y [b] ∧ y.perm = x.perm &&& ((s.readReg b).toNat % 256) ∧ y.tag = true ∧
        y.obj = x.obj ∧ y.cur = x.cur ∧ y.base = x.base ∧ y.top = x.top) ∧
      (∀ t : Int, t = (x.cur : Int) + (s.readReg b).toInt → (x.cur : Int) ≤ t → t ≤ 2 ^ 48 →
        (x.base ≤ x.cur → t ≤ x.top → x.cur % 2 ^ 35 = 0 → t % 2 ^ 35 = 0 →
          ∃ y : Cap, WritesC s (.cbound d c b) d y [b] ∧ (y.base : Int) = x.cur ∧ (y.top : Int) = t) ∧
        (∀ y : Cap, boundCap x x.cur t = some y → WritesC s (.cbound d c b) d y [b] ∧ y.cur = x.cur ∧ y.perm = x.perm ∧
          y.obj = x.obj ∧ x.base ≤ y.base ∧ y.base ≤ x.cur ∧ t ≤ y.top ∧ y.top ≤ x.top)) ∧
      (∀ t : Int, t = (x.cur : Int) + (s.readReg b).toInt → (t < x.cur ∨ 2 ^ 48 < t ∨ x.cur < x.base ∨ x.top < t) →
        exec (.cbound d c b) s = s.raise (mkTrap 0x05 0 x.obj x.cur)) ∧
      (∀ (t g : Nat), (t : Int) = (x.cur : Int) + (s.readReg b).toInt → x.cur ≤ t → t ≤ 2 ^ 48 →
        (t + 2 ^ g - 1) / 2 ^ g ≤ 16383 → (∀ k, k < g → 16383 < (t + 2 ^ k - 1) / 2 ^ k) →
        let lo := x.cur / 2 ^ g; let hi := (t + 2 ^ g - 1) / 2 ^ g
        ((lo * 2 ^ g < x.base ∨ x.top < hi * 2 ^ g) → exec (.cbound d c b) s = s.raise (mkTrap 0x05 0 x.obj x.cur)) ∧
        (x.base ≤ lo * 2 ^ g → hi * 2 ^ g ≤ x.top → ∃ y : Cap, WritesC s (.cbound d c b) d y [b] ∧ y.tag = true ∧ y.obj = x.obj ∧
          y.cur = x.cur ∧ y.perm = x.perm ∧ y.g = g ∧ y.lo = lo ∧ y.hi = hi)))

/-- Taking a trap (R27): EPC, CAUSE, FOBJ and FADDR are written; the strand goes on in handler mode at ECAP, unless it was in
handler mode or ECAP fails its checks, when it is stopped with STATUS.dflt set. Entry saves no other register and stores
nothing. A cause raised while loads are outstanding waits for them; a Finder raises none and ends (R154). -/
def Obligations.TrapEntry : Prop :=
  ∀ (s : State) (k : TrapInfo), let t := s.takeTrap k; let m := t.me
    (s.me.finder = false → s.me.ldc = 0 → s.raise k = .next t) ∧
    (s.me.finder = false → s.me.ldc ≠ 0 → s.raise k = .next { s with me := { s.me with trap := some k } }) ∧
    (s.me.finder = true → s.raise k = .next { s.finderCount with me := Strand.empty }) ∧
    m.epc = s.me.pcc ∧ m.code.toNat = k.code % 256 ∧ m.sub.toNat = k.sub % 256 ∧ m.fobj = k.fobj ∧ m.faddr = k.faddr ∧
    (s.me.vmask = none → m.regs = s.me.regs) ∧ m.preds = s.me.preds ∧ m.caps = s.me.caps ∧ m.ecap = s.me.ecap ∧ m.frm = s.me.frm ∧
    m.fflags = s.me.fflags ∧ m.binds = s.me.binds ∧ m.ldc = s.me.ldc ∧ m.stc = s.me.stc ∧ m.xpc = s.me.xpc ∧ m.tlc = s.me.tlc ∧
    t.mem = s.mem ∧
    ((s.me.mode = true ∨ s.entryOk s.me.fld s.me.ecap = false) →
      m.dflt = true ∧ m.stat = .stopped ∧ m.mode = s.me.mode ∧ m.pmode = s.me.pmode ∧ m.pcc = s.me.pcc) ∧
    (s.me.mode = false → s.entryOk s.me.fld s.me.ecap = true → s.me.stat = .running →
      m.pmode = false ∧ m.mode = true ∧ m.pcc = s.me.ecap ∧ m.stat = .running ∧ m.dflt = s.me.dflt ∧ t.posts = s.posts)

/-- `trap`, `brk` and words that are no instruction take their cause; a privileged instruction in task mode takes PRIV (R26,
R28, R37, R96). TRAP_ENTRY takes the cause of a strand whose loads have landed. -/
def Sys2Proof.Claim.TrapInstructions : Prop :=
  (∀ s : State, s.me.finder = false → s.me.ldc = 0 →
    exec .trap s = .next (s.takeTrap (mkTrap 0x18 0 0 0)) ∧ exec .brk s = .next (s.takeTrap (mkTrap 0x17 0 0 0)) ∧
    (∀ w0 w1, isHead w0 = true → exec (.illegalOp w0 w1) s = .next (s.takeTrap (mkTrap 0x01 0 0 (w0.toNat + w1.toNat * 2 ^ 32)))) ∧
    (∀ w0 w1, isHead w0 = false → exec (.illegalOp w0 w1) s = .next (s.takeTrap (mkTrap 0x01 0 0 w0.toNat))) ∧
    (s.me.mode = false → ∀ d b c, ∀ i ∈ [Instr.eret, .cmake d b, .ctxsave c b, .ctxload c b, .resumeSite b, .abandonRegion b,
      .resumePort b, .resumeArray b, .abandonArray b, .resumeStrand b, .endStrand b, .resumeEngine b],
      exec i s = .next (s.takeTrap (mkTrap 0x03 0 0 0)))) ∧
  (∀ (s : State) (k : TrapInfo), s.me.finder = false → s.me.stat = .running → s.me.ldc = 0 → s.me.trap = some k →
    exec (.trapEntry s.me.fld s.me.slot) s = .next (s.takeTrap k))

/-- `eret` (R29, R425): pcc and the mode come from EPC and STATUS.pmode; nothing else of the strand changes, but that after a
WATCH its first instruction is not checked. `nop`, `ident` (R126) and the frame they share. -/
def Sys2Proof.Claim.ReturnAndPlainSystem : Prop :=
  (∀ s : State, s.me.finder = false → s.me.mode = true → exec .eret s = .next
    (({ s with me := { s.me with pcc := s.me.epc, mode := s.me.pmode, unwatched := decide (s.me.code = 0x14#8) } } : State).popAll [])) ∧
  (∀ s : State, exec .nop s = .next (s.retire 4 [])) ∧
  (∀ (s : State) (d : RegF), Admits s { writes := [d] } → Writes s (.ident d) d identVal 4 []) ∧
  (identVal.extractLsb' 0 32 = 0x0007B140#32 ∧ identVal.extractLsb' 44 20 = 0#20 ∧ identVal.extractLsb' 36 8 = Config.step) ∧
  (∀ s : State, s.me.finder = false → s.me.binds = [] →
    s.retire 4 [] = { s with me := { s.me with pcc := s.me.pcc.setCur (s.pc + 4), unwatched := false } })

/-- `halt` (R126, R300): it waits for the class counters and for what its queues have pushed; then the slot is empty, with the
strand's Finder and its arm gone. -/
def Sys2Proof.Claim.HaltEndsStrand : Prop :=
  ∀ s : State, s.me.finder = false → s.me.stat ≠ .free →
    ((s.me.ldc ≠ 0 ∨ s.me.stc ≠ 0 ∨ s.me.xpc ≠ 0 ∨ s.me.tlc ≠ 0) → exec .halt s = .next s) ∧
    (s.me.ldc = 0 → s.me.stc = 0 → s.me.xpc = 0 → s.me.tlc = 0 → s.me.binds = [] → ∃ t, exec .halt s = .next t ∧
      t.me = Strand.empty ∧ (∀ a ∈ t.arms, ¬(a.fld = s.me.fld ∧ a.slot = s.me.slot)) ∧
      (∀ u ∈ t.others, ¬(u.finder = true ∧ u.fld = s.me.fld ∧ u.slot = s.me.slot)) ∧ t.mem = s.mem)

/-- System registers (R18 to R20, R125): a read answers the register and `sysr.c` its capability; FRM, FFLAGS, SETTLE_U and the
exception registers take what is written by their Access codes; the registers of R18 that a number does not name raise
ILLEGAL_OP, and those with a field marked H raise PRIV in task mode. -/
def Obligations.SystemRegisters : Prop :=
  ∀ (s : State), s.me.finder = false →
    (∀ (d : RegF) (n : BitVec 12), n.toNat ≤ 0x10 → (sysIsH n.toNat = true → s.me.mode = true) → Admits s { writes := [d] } →
      Writes s (.sysr d n) d (s.sysVal n.toNat) 4 []) ∧
    (∀ (d : RegF) (n : BitVec 12), 0x11 < n.toNat → exec (.sysr d n) s = s.raise (illegalOf (.sysr d n))) ∧
    (∀ (a : RegF) (n : BitVec 12), sysIsH n.toNat = true → sysIsCap n.toNat = false → s.me.mode = false →
      exec (.sysw a n) s = s.raise (mkTrap 0x03 0 0 0)) ∧
    (∀ (c : CapF), s.me.mode = true → WritesC s (.sysrC c 4) c s.me.epc [] ∧ WritesC s (.sysrC c 5) c s.me.ecap [] ∧
      WritesC s (.sysrC c 0xA) c s.me.sdef []) ∧
    (∀ (a : RegF), Admits s { reads := [a] } → let v := s.readReg a
      let writes (n : BitVec 12) (m : Strand) : Prop := exec (.sysw a n) s = .next (({ s with me := m } : State).retire 4 [a])
      writes 0xB (if (v.extractLsb' 0 3).toNat ≤ 4 then { s.me with frm := v.extractLsb' 0 3 } else s.me) ∧
      writes 0xC { s.me with fflags := v.extractLsb' 0 6 } ∧
      writes 0xD { s.me with settleU := s.me.settleU &&& ~~~(v.extractLsb' 0 16) } ∧
      (∀ n ∈ [0x6#12, 0x7, 0x8, 0x9, 0xF, 0x10, 0x11], writes n s.me) ∧
      (s.me.mode = true → writes 0x0 { s.me with pmode := v.getLsbD 1 } ∧
        writes 0x1 { s.me with code := v.extractLsb' 0 8, sub := v.extractLsb' 8 8 } ∧
        writes 0x2 { s.me with faddr := v } ∧ writes 0x3 { s.me with fobj := v })) ∧
    (∀ c : CapF, s.me.mode = true → exec (.syswC c 4) s = .next (({ s with me := { s.me with epc := s.creg c } } : State).retire 4 []) ∧
      (s.host.ctxt = 0 ∨ (∃ k kind side, s.translate 0 (s.ctxRec s.me.ctx).1 ((s.ctxRec s.me.ctx).2 + 16) true = .ok k kind side) →
        ∃ t, exec (.syswC c 5) s = .next t ∧ t.me.ecap = s.creg c ∧ (t.ctxOf s.me.ctx).ecap = s.creg c)) ∧
    (s.sysVal 0x0 = BitVec.ofNat 64 (s.me.mode.toNat + 2 * s.me.pmode.toNat + 4 * s.me.dflt.toNat)) ∧
    (s.sysVal 0x1).extractLsb' 0 16 = s.me.sub ++ s.me.code ∧ (s.sysVal 0xB).extractLsb' 0 3 = s.me.frm ∧
    (s.sysVal 0xC).extractLsb' 0 6 = s.me.fflags ∧ (s.sysVal 0xD).extractLsb' 0 16 = s.me.settleU

/-- Branches and calls (R40, R106 to R109): where they go, and what a target that fails a check raises. -/
def Obligations.Branches : Prop := Claim.BranchesTaken ∧ Claim.BranchTargetFaults

/-- The system group (R26, R28, R29, R37, R126): traps, return, `nop`, `ident`, `halt`, and words that are no instruction. -/
def Obligations.TrapsAndSystem : Prop := Claim.TrapInstructions ∧ Claim.ReturnAndPlainSystem ∧ Claim.HaltEndsStrand

namespace Sys2Proof.Machine

/-! ### Loads, stores and accesses in flight -/

/-- The short loads of n bytes (R102), and whether they sign-extend. -/
def shortLoads (d : RegF) (h : BitVec 1) (c : CapF) (imm : BitVec 14) : List (Instr × Nat × Bool) :=
  [(.ldB d h c imm, 1, true), (.ldBu d h c imm, 1, false), (.ldH d h c imm, 2, true), (.ldHu d h c imm, 2, false),
   (.ldW d h c imm, 4, true), (.ldWu d h c imm, 4, false), (.ldD d h c imm, 8, false)]
/-- The short stores of n bytes (R102). -/
def shortStores (d : RegF) (h : BitVec 1) (c : CapF) (imm : BitVec 14) : List (Instr × Nat) :=
  [(.stB d h c imm, 1), (.stH d h c imm, 2), (.stW d h c imm, 4), (.stD d h c imm, 8)]

/-- Nothing of the strand's is waiting that a release would have to see performed (R240, R261, R273). -/
def Quiet (s : State) : Prop :=
  s.unperformed = false ∧ s.me.relFence = [] ∧ s.me.lateRace = none ∧ ∀ e ∈ s.l1, e.dirty = 0

/-- A flight but for what its strand would go back to. -/
def settledSnap (f : Flight) : Flight := { f with snap := none }

/-- A load has left its sequencer with its data at hand (R15, R16, R102): LDC counts it, pcc has moved on, no register holds
the data yet, and a flight delivers it. -/
def LoadLeft (s : State) (i : Instr) (len : Nat) (u : State) (a : Access) (dst : Dst) (sx : Bool) (v : Nat) (tag : Bool) : Prop :=
  ∃ t, exec i s = .next t ∧ t.me.ldc = u.me.ldc + 1 ∧ t.me.regs = u.me.regs ∧ t.me.caps = u.me.caps ∧ t.me.preds = u.me.preds ∧
    t.me.pcc = u.me.pcc.setCur (u.pc + len) ∧ t.mem = u.mem ∧
    (∃ f, t.flights = u.flights ++ [f] ∧ f.who = s.meWho ∧ f.acc = a ∧ f.dst = dst ∧ f.sext = sx ∧ f.phase = .done v tag) ∧
    (dst ≠ .drop → (u.ids, dst) ∈ t.me.dests ∧ ((∀ q, dst ≠ .queue q) → ∀ d ∈ t.me.dests, d.2 = dst → d.1 = u.ids) ∧
      ∀ d ∈ u.me.dests, d.2 ≠ dst → d ∈ t.me.dests)

/-- n bytes at offset o of the strand's own scratchpad lie in its SRAM, and no boundary move holds them (R231 to R233). -/
def InScratchpad (s : State) (c : Cap) (o : Int) (n : Nat) : Prop :=
  c.obj = s.ownObj s.me.fld ∧ localObj ≤ c.obj ∧ 0 ≤ o ∧ o + n ≤ ((s.fieldOf s.me.fld).n * step512 : Nat) ∧
    (s.fieldOf s.me.fld).n ≤ (s.fieldOf s.me.fld).nmax ∧ (s.fieldOf s.me.fld).moving = none

/-- An access has left its sequencer and performs later (R95, R261): a flight on its way, nothing of memory changed, pcc moved
on, and LDC or STC counts it. -/
def Leaves (s : State) (i : Instr) (len : Nat) (a : Access) (dst : Dst) : Prop :=
  ∃ t f, exec i s = .next t ∧ t.flights = s.flights ++ [f] ∧ f.who = s.meWho ∧ f.acc.op = a.op ∧ f.acc.obj = a.obj ∧
    f.acc.off = a.off ∧ f.acc.n = a.n ∧ f.dst = dst ∧ f.phase = .arriving ∧ t.mem = s.mem ∧ t.l1 = s.l1 ∧ t.me.regs = s.me.regs ∧
    t.me.caps = s.me.caps ∧ t.me.preds = s.me.preds ∧ t.me.pcc = s.me.pcc.setCur (s.pc + len) ∧
    (if a.op.reads then t.me.ldc = s.me.ldc + 1 else t.me.stc = s.me.stc + 1)

/-- Every byte outside n bytes from key k reads as before. -/
def KeepsBytesBut (s t : State) (k n : Nat) : Prop := ∀ x, x < k ∨ k + n ≤ x → readByte t.mem x = readByte s.mem x

end Sys2Proof.Machine

open Sys2Proof Sys2Proof.Machine

/-- A short load (R102) and `cld` (R114) leave their sequencer when the checks of R24 pass, LDC is below 63, no earlier access
stands in the way and the access performs; memory stays as it is. With LDC at 63 the load waits (R15), and so it does while an
earlier acquire of its strand has not performed (R261). -/
def Sys2Proof.Claim.LoadsLeave : Prop :=
  ∀ (s : State), s.me.finder = false →
    (∀ (d : RegF) h c imm, Admits s { loads := [d] } → let x := s.creg c; let o := (x.cur : Int) + (imm : BitVec 14).toInt
      let sc : Nat := if h = 1#1 then 2 else 1
      ∀ p ∈ shortLoads d h c imm, s.checkAccess x pR o p.2.1 sc = none →
        let a := s.strandAccess x.obj o.toNat p.2.1 .read 0 sc
        (s.me.ldc < 63 → s.acquiring = false → s.behind s.meWho a = false → ∀ u v tag fl rs, s.performSync a = (u, .val v tag fl, rs) →
          LoadLeft s p.1 4 u a (s.loadDst d) p.2.2 v tag ∧ ∀ k, readByte u.mem k = readByte s.mem k) ∧
        (63 ≤ s.me.ldc ∨ s.acquiring = true → exec p.1 s = .next s)) ∧
    (∀ (d c : CapF) b, Admits s { reads := [b] } → s.bindOf b = none → let x := s.creg c
      let o := (x.cur : Int) + (s.sreg b).toInt
      s.checkAccess x pR o 16 1 = none → let a := s.strandAccess x.obj o.toNat 16 .capRead 0 1
      s.me.ldc < 63 → s.acquiring = false → s.behind s.meWho a = false → ∀ u v tag fl rs, s.performSync a = (u, .val v tag fl, rs) →
        LoadLeft s (.cld d c b) 4 u a (if d = 0 then .drop else .cap d) false v tag)

/-- An indexed load (R104): its address is the cursor, plus the displacement, plus the index times the size; a false guard skips
it. -/
def Sys2Proof.Claim.IndexedLoads : Prop :=
  ∀ (s : State) (w : LF), s.me.finder = false → (Instr.ldx w).wf = true → s.bindOf w.b = none → Admits s { reads := [w.b], loads := [w.d] } →
    let k := w.fn.toNat % 8; let n : Nat := [1, 1, 2, 2, 4, 4, 8].getD k 8; let x := s.creg (w.a.extractLsb' 0 4)
    let o := (x.cur : Int) + w.imm.toInt + (s.sreg w.b).toInt * n
    let a := s.strandAccess x.obj o.toNat n .read (w.fn.toNat / 8 % 8) w.x.toNat
    (s.pred w.g = false → exec (.ldx w) s = .next (s.retire 8 [])) ∧
    (s.pred w.g = true → s.checkAccess x pR o n w.x.toNat = none → s.me.ldc < 63 → s.acquiring = false → s.behind s.meWho a = false →
      ∀ u v tag fl rs, s.performSync a = (u, .val v tag fl, rs) →
        LoadLeft s (.ldx w) 8 u a (s.loadDst w.d) (k % 2 = 0) v tag)

/-- The scratchpad port (R231, R238): a load of n bytes that its SRAM holds reads them little-endian, and nothing but counters
of the field changes. -/
def Sys2Proof.Claim.ScratchpadReads : Prop :=
  ∀ (s : State) (c : Cap) (o : Int) (n : Nat), InScratchpad s c o n → o % n = 0 → n ∈ [1, 2, 4, 8, 16] →
    ∃ u tag, s.performSync (s.strandAccess c.obj o.toNat n .read 0 1) =
        (u, .val (readLE s.mem (spKey s.me.fld o.toNat) n) tag 0, s.relsAt s.me.ctx (2 ^ 32 + s.me.fld) o.toNat n) ∧
      u.mem = s.mem ∧ u.flights = s.flights ∧ u.l1 = s.l1 ∧ u.race = s.race

/-- A failed check of R24 raises its cause at the load or store, with the object and the offset, and nothing else happens: tag,
then rights, then bounds, then alignment. -/
def Sys2Proof.Claim.AccessChecks : Prop :=
  ∀ (s : State) (d : RegF) (h : BitVec 1) (c : CapF) (imm : BitVec 14), s.me.finder = false → Admits s { loads := [d] } →
    let x := s.creg c; let o := (x.cur : Int) + imm.toInt
    ∀ p ∈ shortLoads d h c imm,
      let faults (code : Nat) : Prop := exec p.1 s = s.raise (mkTrap code 0 x.obj (o % 2 ^ 64).toNat)
      (x.tag = false → faults 0x04) ∧
      (x.tag = true → x.perm % 2 = 0 → faults 0x06) ∧
      (x.tag = true → x.perm % 2 = 1 → localObj ≤ x.obj → x.obj ≠ s.ownObj s.me.fld → faults 0x06) ∧
      (x.tag = true → x.perm % 2 = 1 → (x.obj < localObj ∨ x.obj = s.ownObj s.me.fld) → (o < x.base ∨ x.top < o + p.2.1) →
        faults 0x05) ∧
      (x.tag = true → x.perm % 2 = 1 → (x.obj < localObj ∨ x.obj = s.ownObj s.me.fld) → x.base ≤ o → o + p.2.1 ≤ x.top →
        o % p.2.1 ≠ 0 → faults 0x07)

/-- A short store to the strand's own scratchpad (R102, R231): its bytes are the low bytes of the register, little-endian, at
the offset it names; every other byte of memory, every register and every flag stays; STC counts it. -/
def Sys2Proof.Claim.ScratchpadStores : Prop :=
  ∀ (s : State) (d : RegF) (h : BitVec 1) (c : CapF) (imm : BitVec 14), s.me.finder = false → s.me.binds = [] → s.Canonical →
    let x := s.creg c; let o := (x.cur : Int) + imm.toInt; let k := spKey s.me.fld o.toNat
    ∀ p ∈ shortStores d h c imm, s.checkAccess x pW o p.2 (if h = 1#1 then 2 else 1) = none → InScratchpad s x o p.2 →
      s.me.stc < 63 → s.unperformed = false → s.me.relFence = [] → s.poison.contains (k / 16) = false →
      ∃ t, exec p.1 s = .next t ∧ readLE t.mem k p.2 = (s.sreg d).toNat % 256 ^ p.2 ∧ KeepsBytesBut s t k p.2 ∧
        t.me = { s.me with stc := s.me.stc + 1, pcc := s.me.pcc.setCur (s.pc + 4), unwatched := false } ∧
        t.others = s.others ∧ t.l1 = s.l1

/-- A short store to homed memory (R102, R238, R243). At scope 2 it performs at its home slice: the bytes at the key that the
port translates to change and no others. At scope 1 it stays in the field's L1 as dirty bytes and memory is as before. -/
def Sys2Proof.Claim.HomedStores : Prop :=
  ∀ (s : State) (d : RegF) (h : BitVec 1) (c : CapF) (imm : BitVec 14), s.me.finder = false → s.me.binds = [] → s.Canonical →
    let x := s.creg c; let o := (x.cur : Int) + imm.toInt
    ∀ p ∈ shortStores d h c imm, let a := s.strandAccess x.obj o.toNat p.2 (.write (s.sreg d).toNat) 0 (if h = 1#1 then 2 else 1)
      s.checkAccess x pW o p.2 a.scope = none → x.obj < localObj → x.obj / 8 % 32 = s.pkg → s.me.stc < 63 →
      s.unperformed = false → s.me.relFence = [] → s.struck s.me.ctx x.obj o.toNat p.2 = [] →
      s.l1At s.me.fld s.me.ctx x.obj (o.toNat / 16) = none →
      (h = 1#1 → ∀ k side u, s.translate s.me.ctx x.obj o.toNat true = .ok k 0 side → k % 16 = o.toNat % 16 →
        s.poison.contains (k / 16) = false → s.checkRace a true = .ok u →
        ∃ t, exec p.1 s = .next t ∧ readLE t.mem k p.2 = (s.sreg d).toNat % 256 ^ p.2 ∧ KeepsBytesBut s t k p.2 ∧
          t.me.stc = s.me.stc + 1 ∧ t.me.regs = s.me.regs ∧ t.me.pcc = s.me.pcc.setCur (s.pc + 4)) ∧
      (h = 0#1 → s.l1Room s.me.fld s.me.ctx x.obj (o.toNat / 16) = true → ∃ t e, exec p.1 s = .next t ∧ t.mem = s.mem ∧ t.l1At s.me.fld s.me.ctx x.obj (o.toNat / 16) = some e ∧
          e.dirty.toNat = (2 ^ p.2 - 1) * 2 ^ (o.toNat % 16) ∧ bits e.data.toNat (8 * (o.toNat % 16)) (8 * p.2) = (s.sreg d).toNat % 256 ^ p.2 ∧
          e.wparty = s.myParty ∧ t.me.stc = s.me.stc + 1 ∧ t.me.regs = s.me.regs ∧ t.me.pcc = s.me.pcc.setCur (s.pc + 4))

/-- An indexed store of any ordering (R104, R261): with nothing of the strand's outstanding it leaves, STC counts it, and it has
performed, or, where it is let to take its time (log 26), performs later. -/
def Sys2Proof.Claim.ReleasingStores : Prop :=
  ∀ (s : State) (w : LF), s.me.finder = false → s.me.binds = [] → s.pred w.g = true → Quiet s → (Instr.stx w).wf = true →
    let n : Nat := [1, 1, 2, 2, 4, 4, 8].getD (w.fn.toNat % 8) 8; let x := s.creg (w.a.extractLsb' 0 4)
    let o := (x.cur : Int) + w.imm.toInt + (s.sreg w.b).toInt * n
    let a := s.strandAccess x.obj o.toNat n (.write (s.sreg w.d).toNat) (w.fn.toNat / 8 % 8) w.x.toNat
    s.checkAccess x pW o n w.x.toNat = none → s.struck s.me.ctx x.obj o.toNat n = [] → s.me.stc < 63 →
    ∀ u v tag fl rs, s.performSync a = (u, .val v tag fl, rs) →
      if a.late then Leaves s (.stx w) 8 a .drop
      else ∃ t f, exec (.stx w) s = .next t ∧ t.mem = u.mem ∧ t.l1 = u.l1 ∧ t.flights = u.flights ++ [f] ∧ f.phase = .done v tag ∧
        t.me.stc = u.me.stc + 1 ∧ t.me.regs = u.me.regs ∧ t.me.pcc = u.me.pcc.setCur (u.pc + 8)

/-- `stx` and `cst` (R104, R114) into the strand's own scratchpad: the bytes stored and the address they go to; `cst` stores
the whole register and its tag. -/
def Sys2Proof.Claim.IndexedAndCapabilityStores : Prop :=
  (∀ (s : State) (w : LF), s.me.finder = false → s.me.binds = [] → s.Canonical → (Instr.stx w).wf = true → w.fn.toNat / 8 % 8 = 0 →
    let n : Nat := [1, 1, 2, 2, 4, 4, 8].getD (w.fn.toNat % 8) 8; let x := s.creg (w.a.extractLsb' 0 4)
    let o := (x.cur : Int) + w.imm.toInt + (s.sreg w.b).toInt * n; let k := spKey s.me.fld o.toNat
    (s.pred w.g = false → exec (.stx w) s = .next (s.retire 8 [])) ∧
    (s.pred w.g = true → s.checkAccess x pW o n w.x.toNat = none → InScratchpad s x o n → s.me.stc < 63 → s.unperformed = false →
      s.me.relFence = [] → s.poison.contains (k / 16) = false →
      ∃ t, exec (.stx w) s = .next t ∧ readLE t.mem k n = (s.sreg w.d).toNat % 256 ^ n ∧ KeepsBytesBut s t k n ∧
        t.me = { s.me with stc := s.me.stc + 1, pcc := s.me.pcc.setCur (s.pc + 8), unwatched := false })) ∧
  (∀ (s : State) (d c : CapF) (b : RegF), s.me.finder = false → s.me.binds = [] → s.Canonical →
    let x := s.creg c; let o := (x.cur : Int) + (s.sreg b).toInt; let k := spKey s.me.fld o.toNat
    s.checkAccess x pW o 16 1 = none → InScratchpad s x o 16 → s.me.stc < 63 → s.unperformed = false → s.me.relFence = [] →
      ∃ t, exec (.cst d c b) s = .next t ∧ readLE t.mem k 16 = (s.creg d).bits.toNat ∧ KeepsBytesBut s t k 16 ∧
        t.tags.contains (k / 16) = (s.creg d).tag ∧
        t.me = { s.me with stc := s.me.stc + 1, pcc := s.me.pcc.setCur (s.pc + 4), unwatched := false })

/-- Accesses in flight. A load's reply (R16, R102) gives its register the data, extended, if no instruction has written the
register since, and LDC goes down; a store's takes STC down (R15). An access that waited performs at its home (R95, R286) or
its port translates it again (R249), and its reply is then at hand. -/
def Obligations.FlightsComplete : Prop :=
  (∀ (s : State) (id : Nat) (f : Flight) v tag, s.flights.find? (fun g => g.id = id && (g.isDone && g.ofStrand && g.acc.op.reads)) = some f →
    f.who = .strand s.me.fld s.me.slot → s.me.at s.me.fld s.me.slot = true → f.phase = .done v tag → f.acc.op = .read →
    ∀ r : RegF, f.dst = .reg r → ∃ t, exec (.loadComplete id) s = .next t ∧ t.me.ldc = s.me.ldc - 1 ∧
      t.flights.map settledSnap = (s.flights.filter (·.id ≠ id)).map settledSnap ∧ t.mem = s.mem ∧
      (s.me.dests.contains (id, .reg r) = true → t.me.regs = s.me.regs.set r.toNat (extend (8 * f.acc.n) f.sext v)) ∧
      (s.me.dests.contains (id, .reg r) = false → t.me.regs = s.me.regs)) ∧
  (∀ (s : State) (id : Nat) (f : Flight) v tag, s.flights.find? (fun g => g.id = id && (g.isDone && g.ofStrand && !g.acc.op.reads)) = some f →
    f.who = .strand s.me.fld s.me.slot → s.me.at s.me.fld s.me.slot = true → f.phase = .done v tag → f.dst = .drop →
    ∃ t, exec (.storeComplete id) s = .next t ∧ t.me.stc = s.me.stc - 1 ∧ t.me.regs = s.me.regs ∧
      t.flights.map settledSnap = (s.flights.filter (·.id ≠ id)).map settledSnap ∧ t.mem = s.mem) ∧
  (∀ (s u : State) (i : Instr) (id : Nat) (f : Flight) v tag fl rs,
    (i = .homeAccess id ∧ f.phase = .arriving ∧ f.acc.op.isAtomic = false ∨ i = .atomicPerform id ∧ f.phase = .arriving ∧ f.acc.op.isAtomic = true ∨
      i = .portTranslate id ∧ f.phase = .retry) →
    s.flights.find? (fun g => g.id = id) = some f → s.flights.countP (fun g => g.id = id) = 1 → s.waitsBehind f = false →
    s.replyOf id f.acc = none → f.who ≠ .host → s.performSync f.acc = (u, .val v tag fl, rs) →
    ∃ t, exec i s = .next t ∧ t.mem = u.mem ∧ t.flights = u.flights.map fun g => if g.id = id then { g with phase := .done v tag, num := fl, snap := none } else g)

/-- Loads (R41, R102 to R104): each leaves with its checks passed, its destination to come and LDC up. -/
def Obligations.Loads : Prop := Claim.LoadsLeave ∧ Claim.IndexedLoads

/-- Accesses to the scratchpad and the checks of R24 that come before any access leaves. -/
def Obligations.ScratchpadAccesses : Prop := Claim.ScratchpadReads ∧ Claim.AccessChecks

/-- Stores (R23, R102, R104): each leaves with its checks passed, changes the bytes it stores and no other. -/
def Obligations.Stores : Prop := Claim.ScratchpadStores ∧ Claim.HomedStores ∧ Claim.ReleasingStores ∧ Claim.IndexedAndCapabilityStores

namespace Sys2Proof.Machine

/-! ### Atomics, fences, scopes, barriers and monitors -/

/-- The instruction has done its work, which leaves t, and the next one follows. -/
def Done (s : State) (i : Instr) (len : Nat) (reads : List RegF) (t : State) : Prop := exec i s = .next (t.retire len reads)

/-- A long instruction that runs: of a strand, with its guard true and no queue among its scalar operands. -/
def Runs (s : State) (w : LF) : Prop :=
  s.me.finder = false ∧ s.pred w.g = true ∧ s.bindOf w.b = none ∧ s.bindOf w.d = none

/-- The atomics of R286 with their codes. -/
def atomForms (w : LF) : List (Instr × Nat) :=
  [(.atomAdd w, 0), (.atomMin w, 1), (.atomMax w, 2), (.atomMinu w, 3), (.atomMaxu w, 4), (.atomAnd w, 5), (.atomOr w, 6),
   (.atomXor w, 7), (.atomSwp w, 8), (.atomFadd w, 9), (.atomInc w, 10)]

/-- f(old, v) of R286 on n-bit values; `fadd` apart. -/
def atomResults {n : Nat} (old v : BitVec n) : List (Nat × BitVec n) :=
  [(0, old + v), (1, if old.slt v then old else v), (2, if old.slt v then v else old), (3, if old.ult v then old else v),
   (4, if old.ult v then v else old), (5, old &&& v), (6, old ||| v), (7, old ^^^ v), (8, v), (10, old + 1)]

/-- Bytes of the descriptor of scope entry x written through SCOPE_DEF, which leaves u (R295): the capability grants the write,
and each piece of 16 bytes or fewer is written at its home slice. -/
def ScopeWritten (s : State) (x : Nat) (b : List Byte) (u : State) : Prop :=
  let o := s.me.sdef.cur + 64 * x
  checkRange (s.ownObj s.me.fld) s.me.sdef 2 o b.length = none ∧
    s.putPieces { s.strandAccess s.me.sdef.obj o 16 (.write 0) 0 4 with sync := true, rel := [] }
      ((List.range ((b.length + 15) / 16)).map fun i => (o + 16 * i, (b.drop (16 * i)).take 16)) = .ok u

/-- The offset of a long instruction that takes a displacement (R284). -/
def dispOf (s : State) (w : LF) : Int := ((s.creg (w.a.extractLsb' 0 4)).cur : Int) + w.imm.toInt

end Sys2Proof.Machine

open Sys2Proof Sys2Proof.Machine

/-- Atomics leave (R286 to R288): LDC counts them, the old value is delivered as a load's is, extended with its sign but for
minu, maxu and fadd, and a release before them has acted. One that is let to take its time (log 26) has left and performs later. -/
def Sys2Proof.Claim.AtomicsLeave : Prop :=
  ∀ (s : State) (w : LF), Runs s w → let x := s.creg (w.a.extractLsb' 0 4); let o := dispOf s w
    let n : Nat := if w.fn.toNat % 4 = 0 then 4 else 8; let ord := w.fn.toNat / 4 % 8
    s.checkAccess x 19 o n w.x.toNat = none → s.me.ldc < 63 → Quiet s →
    (∀ p ∈ atomForms w, p.1.wf = true → let a := s.strandAccess x.obj o.toNat n (.atomic p.2 (s.sreg w.b).toNat) ord w.x.toNat
      ∀ u old tag fl rs, s.performSync a = (u, .val old tag fl, rs) →
        if a.late then Leaves s p.1 8 a (if w.d = 0 then .drop else .reg w.d)
        else LoadLeft s p.1 8 u a (if w.d = 0 then .drop else .reg w.d) (decide (p.2 ∉ [3, 4, 9])) old tag) ∧
    ((Instr.atomcas w).wf = true →
      let a := s.strandAccess x.obj o.toNat n (.cas (s.sreg w.d).toNat (s.sreg w.b).toNat) ord w.x.toNat
      ∀ u old tag fl rs, s.performSync a = (u, .val old tag fl, rs) →
        LoadLeft s (.atomcas w) 8 u a (if w.d = 0 then .drop else .reg w.d) true old tag)

/-- What an atomic does at the scratchpad port (R286, R288): it answers the old value and leaves f(old, v) there; a compare
that fails writes nothing. No other byte changes. -/
def Sys2Proof.Claim.AtomicResults : Prop :=
  ∀ (s : State) (a : Access) (n : Nat), n = 4 ∨ n = 8 → a.n = n → localObj ≤ a.obj → a.off % n = 0 → s.Canonical →
    a.off + n ≤ (s.fieldOf a.fld).n * step512 → (s.fieldOf a.fld).n ≤ (s.fieldOf a.fld).nmax → (s.fieldOf a.fld).moving = none →
    let k := spKey a.fld a.off; let old := readLE s.mem k n; s.poison.contains (k / 16) = false →
    (∀ v op r, (op, r) ∈ atomResults (BitVec.ofNat (8 * n) old) (BitVec.ofNat (8 * n) v) → a.op = .atomic op v →
      ∃ u tag, s.spPerform a = (u, .val old tag 0) ∧ readLE u.mem k n = r.toNat ∧ KeepsBytesBut s u k n) ∧
    (∀ v, a.op = .atomic 9 v → let r := (if n = 4 then fmtS else fmtD).add .rne old (v % 2 ^ (8 * n))
      ∃ u tag, s.spPerform a = (u, .val old tag r.2) ∧ readLE u.mem k n = r.1 % 2 ^ (8 * n) ∧ KeepsBytesBut s u k n) ∧
    (∀ e v, a.op = .cas e v → ∃ u tag, s.spPerform a = (u, .val old tag 0) ∧ KeepsBytesBut s u k n ∧
      readLE u.mem k n = if old = e % 2 ^ (8 * n) then v % 2 ^ (8 * n) else old)

/-- Vector atomics (R289 to R291): when every unskipped element applies, the masks are delivered as a load's data is, and LDC
has counted the instruction; a fault delivers the masks of the runs that applied and the offset at fault (R292), and one at
the operand block is raised as it is; elements skipped by the mask do nothing. -/
def Sys2Proof.Claim.VectorAtomics : Prop :=
  ∀ (s : State) (w : LF) (cas : Bool), Runs s w → let i := if cas then Instr.vatomcas w else .vatom w
    i.wf = true → let ca := s.creg (w.a.extractLsb' 0 4); let cb := s.creg (w.b.extractLsb' 0 4)
    let cnt := w.imm.toNat % 16 + 1; let n : Nat := if w.fn.toNat % 4 = 0 then 4 else 8
    let skip := (s.sreg w.d).toNat % 2 ^ 16; let suc := (s.sreg w.d).toNat / 2 ^ 16 % 2 ^ 16
    let was := if skip % 2 ^ cnt = 0 then [] else s.me.vrels
    checkRange (s.ownObj s.me.fld) cb 3 cb.cur ((if cas then 32 else 16) * cnt) = none → cb.cur % 16 = 0 → s.me.ldc < 63 → Quiet s →
    s.me.vmask = none →
    let block := vatomBlock ca cb w.x.toNat cas skip s (List.range cnt)
    (∀ k u, block = .raise k u → exec i s = u.raise k) ∧
    (∀ b l, block = .ok b l → let loop := vatomLoop ca cb w cas n b skip suc was (pageRuns l)
      (∀ u k c rs v, loop = .ok u k c rs → u.vatomAcquire w rs = some v → v.me.finder = false →
        ∃ t, exec i s = .next t ∧ t.me.ldc = v.me.ldc + 1 ∧ t.mem = v.mem ∧
          ∃ f, t.flights = v.flights ++ [f] ∧ f.phase = .done (k % 2 ^ cnt + c % 2 ^ cnt * 2 ^ 16) false ∧ f.dst = if w.d = 0 then .drop else .reg w.d) ∧
      (∀ u k c t off rs, loop = .fault t off u k c rs → u.me.finder = false → let v := u.setSreg w.d (BitVec.ofNat 64 (k + c * 2 ^ 16))
        exec i s = ({ v with me := { v.me with vrels := rs, vmask := none } } : State).raise
          { t with fobj := BitVec.ofNat 64 ca.obj, faddr := BitVec.ofNat 64 (k + (off % 2 ^ 48).toNat * 2 ^ 16) })) ∧
    (skip % 2 ^ cnt = 2 ^ cnt - 1 → block = .ok s [])

/-- Fences (R261, R293, R294). A release fence marks the next store or atomic; an acquire fence enters the parties of the last
load's releases. The storage fence waits for media writes, flushes, and reports a Flush that failed. -/
def Sys2Proof.Claim.Fences : Prop :=
  ∀ (s : State) (w : LF), s.me.finder = false → s.pred w.g = true → Quiet s → let x := w.x.toNat
    let c := s.ctxOf s.me.ctx; let ord := w.fn.toNat / 4 % 8; let set := s.memberSet s.me.ctx s.me.fld x
    c.scopeOk x = true →
    let rel : State := { s with me := { s.me with relFence := [(x, c.gen x)] } }
    (ord = 2 → Done s (.fence w) 8 [] rel) ∧
    (∀ u, ord = 1 → s.acquireFrom s.me.ctx s.myParty set s.me.lastRels = some u → u.me.finder = false →
      Done s (.fence w) 8 [] (u.invalidate s.me.ctx s.me.fld set)) ∧
    (∀ u, ord = 3 ∨ ord = 4 → rel.acquireFrom s.me.ctx s.myParty set s.me.lastRels = some u → u.me.finder = false →
      Done s (.fence w) 8 [] (u.invalidate s.me.ctx s.me.fld set)) ∧
    (ord = 2 → (∀ st ∈ s.streams, st.src ≠ .strand s.me.fld s.me.slot) → (∀ q ∈ s.nvcmds, q.who ≠ some (s.me.fld, s.me.slot)) →
      s.me.stWrites = [] → Done s (.fenceSt w) 8 [] rel) ∧
    (ord = 2 → (∀ st ∈ s.streams, st.src ≠ .strand s.me.fld s.me.slot) →
      (∀ q ∈ s.nvcmds, q.who = some (s.me.fld, s.me.slot) → q.flush = true ∧ q.done = true) →
      ∀ q ∈ s.nvcmds, q.who = some (s.me.fld, s.me.slot) →
        let u := { rel with nvcmds := s.nvcmds.filter fun q => q.who ≠ some (s.me.fld, s.me.slot) }
        ((∀ p ∈ s.nvcmds, p.who = some (s.me.fld, s.me.slot) → p.status = 0) → Done s (.fenceSt w) 8 [] u) ∧
        ((∀ p ∈ s.nvcmds, p.who = some (s.me.fld, s.me.slot) → p = q) → q.status ≠ 0 → exec (.fenceSt w) s =
          u.raise (mkTrap 0x12 0x88 0 (q.status % 2 ^ 16 + (q.pair - 1024) % 4 * 2 ^ 16))))

/-- Scope entries and control blocks (R265, R295 to R297). `scset` makes the descriptor that it binds current with the next
generation, `scinv` makes the entry invalid with the next generation, `scget` tells kind and generation, `cbsync` completes once
its checks pass. -/
def Sys2Proof.Claim.ScopeEntries : Prop :=
  ∀ (s : State) (w : LF), Runs s w → let x := w.x.toNat; let c := s.ctxOf s.me.ctx; let o := dispOf s w
    let cap := s.creg (w.a.extractLsb' 0 4)
    (x ≤ 4 → Writes s (.scget w) w.d 3 8 []) ∧
    (∀ e, 5 ≤ x → c.scope x = some e → Writes s (.scget w) w.d (BitVec.ofNat 64 (e.kind + e.gen * 2 ^ 8)) 8 []) ∧
    (5 ≤ x → c.scope x = none → Writes s (.scget w) w.d 0 8 []) ∧
    ((w.a = 0 ∧ w.imm = 0 ∨ checkCap (s.ownObj s.me.fld) cap 1 o 64 = none) → Done s (.cbsync w) 8 [] s) ∧
    (∀ u, 5 ≤ x → s.captured s.me.ctx x ((c.gen x + 1) % 64) = false → ScopeWritten s x [0, BitVec.ofNat 8 ((c.gen x + 1) % 64)] u →
      u.me.finder = false → ∃ t, exec (.scinv w) s = .next t ∧ (t.ctxOf u.me.ctx).scopeOk x = false ∧
        (t.ctxOf u.me.ctx).gen x = (c.gen x + 1) % 64 ∧ t.mem = u.mem ∧ t.me.regs = u.me.regs ∧ t.me.pcc = u.me.pcc.setCur (u.pc + 8)) ∧
    (∀ u v l e, 5 ≤ x → checkCap (s.ownObj s.me.fld) cap 65 o 64 = none → s.bindSecs (s.bindAccess cap.obj o.toNat) 4 = .ok u l →
      parseScope x (secBytes l) = some e → let g := ((u.ctxOf u.me.ctx).gen x + 1) % 64
      u.captured u.me.ctx x g = false → ScopeWritten u x ((secBytes l).take 1 ++ [BitVec.ofNat 8 g] ++ (secBytes l).drop 2) v →
      v.me.finder = false → ∃ t, exec (.scset w) s = .next t ∧ (t.ctxOf v.me.ctx).scope x = some { e with gen := g } ∧
        t.mem = v.mem ∧ t.me.regs = v.me.regs ∧ t.me.pcc = v.me.pcc.setCur (v.pc + 8))

/-- Barriers (R298, R299): creation, a new count, removal, arrivals that complete a phase, and the wait for one. -/
def Sys2Proof.Claim.Barriers : Prop :=
  ∀ (s : State) (w : LF), Runs s w → Quiet s → let x := s.creg (w.a.extractLsb' 0 4); let o := (dispOf s w).toNat
    let sec := o / 16; let n := (s.sreg w.b).toNat
    s.checkSync x (dispOf s w) w.x.toNat = none → s.isMonitor x.obj o = false →
    (n = 0 → Done s (.barinit w) 8 [w.b] { s with bars := s.bars.filter fun b => !b.is s.me.ctx x.obj sec }) ∧
    (0 < n → n < 2 ^ 32 → s.barAt x.obj o = none → s.tableFull x.obj o s.me.ctx = false → Done s (.barinit w) 8 [w.b]
      (s.setBar { ctx := s.me.ctx, obj := x.obj, sec := sec, n := n, a := 0, p := 0, arrivals := [] })) ∧
    (∀ b, 0 < n → n < 2 ^ 32 → s.barAt x.obj o = some b → ∃ c, Done s (.barinit w) 8 [w.b] (s.setBar c) ∧
      c.n = n ∧ c.a = 0 ∧ c.p = b.p + 1) ∧
    (2 ^ 32 ≤ n → exec (.barinit w) s = s.raise (mkTrap 0x12 0x83 x.obj o)) ∧
    (∀ b, s.barAt x.obj o = some b → ∃ c, Done s (.bararr w) 8 [] ((s.setBar c).setSreg w.d (b.p.zeroExtend 64)) ∧ c.n = b.n ∧
      (b.a + 1 = b.n → c.a = 0 ∧ c.p = b.p + 1) ∧ (b.a + 1 ≠ b.n → c.a = b.a + 1 ∧ c.p = b.p) ∧
      ∃ r, c.arrivals = b.arrivals ++ [(b.p, r)] ∧ r.party = s.myParty) ∧
    (∀ b u, s.barAt x.obj o = some b → let k := (s.sreg w.b).extractLsb' 0 32; let d := (b.p - k).toNat
      let set := s.memberSet s.me.ctx s.me.fld w.x.toNat
      (d = 0 ∨ 2 ^ 31 < d → exec (.barwait w) s = .next s) ∧
      (1 ≤ d → d ≤ 2 ^ 31 → s.acquireFrom s.me.ctx s.myParty set ((b.arrivals.filter (·.1 = k)).map (·.2)) = some u →
        u.me.finder = false → Done s (.barwait w) 8 [w.b] (u.invalidate s.me.ctx s.me.fld set))) ∧
    (s.barAt x.obj o = none → exec (.bararr w) s = s.raise (mkTrap 0x12 0x81 x.obj o) ∧
      exec (.barwait w) s = s.raise (mkTrap 0x12 0x81 x.obj o))

/-- Monitors (R298, R300): a strand holds one arm; a signal wakes the earliest arm or all and counts them; `monwait` answers
1, 2, 0 or 3 and removes the arm; the limit makes it answer 0. -/
def Sys2Proof.Claim.Monitors : Prop :=
  ∀ (s : State) (w : LF), Runs s w → Quiet s → let x := s.creg (w.a.extractLsb' 0 4); let o := (dispOf s w).toNat
    let mine (a : Arm) : Bool := a.fld = s.me.fld && a.slot = s.me.slot
    (s.checkSync x (dispOf s w) w.x.toNat = none → s.barAt x.obj o = none →
      (s.disarm.tableFull x.obj o s.me.ctx = false → Done s (.monarm w) 8 [] { s with arms := (s.arms.filter fun a => !mine a) ++
        [{ ctx := s.me.ctx, obj := x.obj, sec := o / 16, fld := s.me.fld, slot := s.me.slot, woken := 0, rel := none }] }) ∧
      ((s.sreg w.b).toNat ≤ 1 → ∃ arms n, Done s (.monsig w) 8 [w.b] ({ s with arms := arms }.setSreg w.d (BitVec.ofNat 64 n)) ∧
        let hit (a : Arm) : Bool := a.is s.me.ctx x.obj (o / 16) && a.woken = 0
        arms.length = s.arms.length ∧ (s.sreg w.b = 1 → n = s.arms.countP hit ∧ ∀ a ∈ arms, hit a = false) ∧
        (s.sreg w.b = 0 → n = min 1 (s.arms.countP hit)) ∧ arms.countP (·.woken = 1) = s.arms.countP (·.woken = 1) + n)) ∧
    ((s.ctxOf s.me.ctx).scopeOk w.x.toNat = true →
      let gone : State := { s with arms := s.arms.filter fun a => !mine a, me := { s.me with waiting := false, timedOut := false } }
      (s.arms.find? mine = none → Writes s (.monwait w) w.d 3 8 [w.b]) ∧
      (∀ a, s.arms.find? mine = some a → (a.woken = 2 → Done s (.monwait w) 8 [w.b] (gone.setSreg w.d 2)) ∧
        (a.woken = 0 → s.me.timedOut = true → Done s (.monwait w) 8 [w.b] (gone.setSreg w.d 0)) ∧
        (a.woken = 0 → s.me.timedOut = false → exec (.monwait w) s = .next { s with me := { s.me with waiting := decide (s.sreg w.b ≠ 0) } }) ∧
        (a.woken = 1 → ∀ u, s.acquireFrom s.me.ctx s.myParty (s.memberSet s.me.ctx s.me.fld w.x.toNat) a.rel.toList = some u →
          u.me.finder = false → ∃ t, exec (.monwait w) s = .next t ∧ (w.d ≠ 0 → t.sreg w.d = 1) ∧ t.arms = u.arms.filter fun a => !(a.fld = u.me.fld && a.slot = u.me.slot)))) ∧
    (s.me.stat ≠ .free → s.me.waiting = true →
      exec (.monwaitTimeout s.me.fld s.me.slot) s = .next { s with me := { s.me with timedOut := true } })

/-- Atomics (R286 to R292): how they leave, what they store and answer, and the vector forms lane by lane. -/
def Obligations.Atomics : Prop := Claim.AtomicsLeave ∧ Claim.AtomicResults ∧ Claim.VectorAtomics

/-- Fences and scope-table entries (R293 to R297). -/
def Obligations.FencesAndScopes : Prop := Claim.Fences ∧ Claim.ScopeEntries

/-- Barriers and monitors (R298 to R300). -/
def Obligations.BarriersAndMonitors : Prop := Claim.Barriers ∧ Claim.Monitors

namespace Sys2Proof.Machine

/-! ### Tiles, caches, object queries and the scratchpad -/

/-- The strand has gone on by n bytes; its registers, predicates and capabilities are as they were, and so is memory. -/
def WentOn (s t : State) (n : Nat) : Prop :=
  t.me.pcc = s.me.pcc.setCur (s.pc + n) ∧ t.me.regs = s.me.regs ∧ t.me.preds = s.me.preds ∧ t.me.caps = s.me.caps ∧ t.mem = s.mem

/-- The tile descriptor of R236 that defines base and len, in 64-byte units. -/
def tileDesc (base len : Nat) : Nat := 1 + base * 2 + len * 2 ^ 18

end Sys2Proof.Machine

open Sys2Proof Sys2Proof.Machine

/-- The tile table (R236, R302): the entries in force after the checks are those with def set, each Empty, inside [0, min) and
with no byte in common; reserved bits, a length out of range and an overlap raise TILE_STATE for the lowest such entry. -/
def Sys2Proof.Claim.TileTableChecks : Prop :=
  ∀ (limit : Nat) (vs : List Nat), vs.length = 64 →
    (∀ ts, buildTiles limit [] vs.zipIdx = .ok ts →
      (∀ k, k < 64 → ((∃ t ∈ ts, t.ix = k) ↔ vs.getD k 0 % 2 = 1)) ∧
      (∀ t ∈ ts, t.st = .empty ∧ 1 ≤ t.len ∧ (t.base + t.len) * 64 ≤ limit ∧ vs.getD t.ix 0 = tileDesc t.base t.len) ∧
      ts.Pairwise (fun a b => a.ix < b.ix ∧ a.meets b = false)) ∧
    (∀ k, buildTiles limit [] vs.zipIdx = .error k → k.code = 0x0F ∧ k.fobj = 0 ∧
      ∃ i why, i < 64 ∧ vs.getD i 0 % 2 = 1 ∧ why ∈ [0, 2, 3] ∧ k.faddr = BitVec.ofNat 64 (i + why * 2 ^ 8) ∧
        (why = 2 ↔ vs.getD i 0 / 2 ^ 35 ≠ 0))

/-- The tile instructions (R302 to R304). `tcfg` installs its table with every tile Empty and zeroes the tiles' bytes; `trel`
leaves every entry undefined once none is Filling or Draining; `tstate` is the mask of tiles in a state; `twait` goes on when
every named tile is in it, waits else, and faults on an undefined one. -/
def Sys2Proof.Claim.TileInstructions : Prop :=
  ∀ (s : State) (w : LF), Runs s w → let f := s.fieldOf s.me.fld
    (∀ u vs ts,
      checkRange (s.ownObj s.me.fld) (s.creg (w.a.extractLsb' 0 4)) 1 (dispOf s w) 512 = none → dispOf s w % 8 = 0 →
      (∀ t ∈ f.tiles, t.st = .empty) → s.readMany (s.creg (w.a.extractLsb' 0 4)).obj (dispOf s w).toNat 8 1 64 = .ok u vs →
      u.me = s.me → (u.fieldOf s.me.fld).nmin = f.nmin → buildTiles (f.nmin * step512) [] vs.zipIdx = .ok ts →
      ∃ t, exec (.tcfg w) s = .next t ∧ (t.fieldOf s.me.fld).tiles = ts ∧ t.me.regs = s.me.regs ∧
        t.me.pcc = s.me.pcc.setCur (s.pc + 8) ∧
        (∀ q ∈ ts, ∀ k, spKey s.me.fld (q.base * 64) ≤ k → k < spKey s.me.fld ((q.base + q.len) * 64) → readByte t.mem k = 0) ∧
        (∀ k, (∀ q ∈ ts, k < spKey s.me.fld (q.base * 64) ∨ spKey s.me.fld ((q.base + q.len) * 64) ≤ k) →
          readByte t.mem k = readByte u.mem k)) ∧
    (∀ t ∈ f.tiles, t.st ≠ .empty → t.ix < 64 → f.tile t.ix = some t →
      checkRange (s.ownObj s.me.fld) (s.creg (w.a.extractLsb' 0 4)) 1 (dispOf s w) 512 = none → dispOf s w % 8 = 0 →
      ∃ k, k ≤ t.ix ∧ exec (.tcfg w) s = s.raise (mkTrap 0x0E 0 0 k)) ∧
    ((∀ t ∈ f.tiles, t.st = .empty ∨ t.st = .ready) → Done s (.trel w) 8 [] (s.setField { f with tiles := [] })) ∧
    ((∃ t ∈ f.tiles, t.st = .filling ∨ t.st = .draining) → exec (.trel w) s = .next s) ∧
    (∃ v : W64, Writes s (.tstate w) w.d v 8 [] ∧ ∀ k, k < 64 → v.getLsbD k = decide (f.tileCode k = w.imm.toNat % 8)) ∧
    (let named (k : Nat) : Prop := k < 64 ∧ (s.sreg w.b).getLsbD k = true; let st := w.imm.toNat % 4
      ((∀ k, named k → f.tileCode k = st) → Done s (.twait w) 8 [w.b] s) ∧
      ((∀ k, named k → f.tileCode k ≠ 4) → (∃ k, named k ∧ f.tileCode k ≠ st) → exec (.twait w) s = .next s) ∧
      (∀ k, named k → f.tileCode k = 4 → (∀ j, j < k → named j → f.tileCode j ≠ 4) →
        exec (.twait w) s = s.raise (mkTrap 0x0F 0 0 (k + 256))))

/-- Cache control (R305): `cwb` leaves no dirty sector of the range in the L1s of the scope, `cinv` no copy of it at all and, with
md, no race metadata; nothing is done for an empty range or a task-local object. -/
def Sys2Proof.Claim.CacheControl : Prop :=
  ∀ (s : State) (w : LF), Runs s w → let c := s.creg (w.a.extractLsb' 0 4); let o := dispOf s w
    let l := (s.sreg w.b).toNat % 2 ^ 48; let md := (s.sreg w.b).getLsbD 48
    let within (e : L1Sec) : Bool := (s.fieldsOf w.x.toNat).contains e.fld && e.within s.me.ctx c.obj o.toNat l
    (s.ctxOf s.me.ctx).scopeOk w.x.toNat = true →
    (checkRange (s.ownObj s.me.fld) c 1 o l = none → (l = 0 ∨ localObj ≤ c.obj) → Done s (.cwb w) 8 [w.b] s) ∧
    (checkRange (s.ownObj s.me.fld) c (if md then 3 else 1) o l = none → (l = 0 ∨ localObj ≤ c.obj) → Done s (.cinv w) 8 [w.b] s) ∧
    (checkRange (s.ownObj s.me.fld) c 1 o l = none → 0 < l → c.obj < localObj → (∀ e ∈ s.l1, within e = true → e.dirty = 0) →
      Done s (.cwb w) 8 [w.b] s) ∧
    (checkRange (s.ownObj s.me.fld) c (if md then 3 else 1) o l = none → 0 < l → c.obj < localObj →
      (∀ e ∈ s.l1, within e = true → e.dirty = 0) →
      let t := { s with l1 := s.l1.filter fun e => !within e }
      (md = false → Done s (.cinv w) 8 [w.b] t) ∧
      (md = true → Done s (.cinv w) 8 [w.b] { t with race := s.race.filter fun r =>
        !(r.ctx = s.me.ctx && r.obj = c.obj && r.sec * 16 < o.toNat + l && o.toNat < r.sec * 16 + 16) })) ∧
    (∀ u, s.writeBacks (s.l1.filter fun e => (s.fieldsOf w.x.toNat).contains e.fld && e.dirty ≠ 0 && e.within s.me.ctx c.obj o.toNat l) = (u, .ok) →
      checkRange (s.ownObj s.me.fld) c 1 o l = none → 0 < l → c.obj < localObj → Done s (.cwb w) 8 [w.b] u)

/-- A prefetch (R305) always completes, whatever its operands: it counts in no class, writes no register and changes no memory.
A range that fails its checks, an invalid scope, an empty range and a task-local object prefetch nothing; else the lines that the
range overlaps, 4,096 bytes of it at most, are fetched without a race check. A false guard skips it. -/
def Sys2Proof.Claim.Prefetches : Prop :=
  (∀ (s : State) (w : LF), Runs s w → let c := s.creg (w.a.extractLsb' 0 4); let o := dispOf s w
    let l := min ((s.sreg w.b).toNat % 2 ^ 48) 4096
    let ok := checkRange (s.ownObj s.me.fld) c 1 o l = none ∧
      (s.ctxOf s.me.ctx).scopeOk w.x.toNat = true ∧ 0 < l ∧ c.obj < localObj
    let a := { s.strandAccess c.obj (o.toNat / 64 * 64) 16 .capRead 0 w.x.toNat with party := 0x4001, exempt := true }
    (¬ok → Done s (.cpf w) 8 [w.b] s) ∧
    (ok → Done s (.cpf w) 8 [w.b] (s.prefetch a (4 * ((o.toNat + l + 63) / 64 - o.toNat / 64)))) ∧
    ∃ t, exec (.cpf w) s = .next t ∧ WentOn s t 8 ∧ t.me.ldc = s.me.ldc ∧ t.flights = s.flights ∧ t.race = s.race) ∧
  (∀ (s : State) (w : LF), s.pred w.g = false → exec (.cpf w) s = .next (s.retire 8 []))

/-- `objq` (R306): it needs a tag and no right, LDC counts it, and its answers are those of the table. `carve` with max = min
(R307): the new sizes, bytes below both mins kept, the rest zero, and a capability to the scratchpad. -/
def Obligations.QueryAndCarve : Prop :=
  (∀ (s : State) (w : LF), Runs s w → let c := s.creg (w.a.extractLsb' 0 4); let o := dispOf s w; let sel := (s.sreg w.b).toNat
    (c.tag = false → exec (.objq w) s = s.raise (mkTrap 0x04 0 c.obj (o % 2 ^ 64).toNat)) ∧
    (c.tag = true → ((sel = 3 ∨ sel = 4) → c.base ≤ o ∧ o < c.top) → s.me.ldc < 63 → (c.obj < localObj → c.obj / 8 % 32 = s.pkg) →
      LoadLeft s (.objq w) 8 s (s.strandAccess c.obj o.toNat 8 .read 0 1) (if w.d = 0 then .drop else .reg w.d) false
        (s.objInfo c.obj sel o.toNat).toNat false)) ∧
  (∀ (s : State) obj sel o, s.objInfo obj 0 o = BitVec.ofNat 64 (obj % 256) ∧ (4 < sel → s.objInfo obj sel o = BitVec.allOnes 64) ∧
    (1 ≤ sel → localObj ≤ obj → s.objInfo obj sel o = BitVec.allOnes 64) ∧
    (let d := s.descAt (obj % 8) s.me.ctx obj; obj < localObj → s.almanac (obj % 8) s.me.ctx ≠ 0 → d.ok obj = true →
      s.objInfo obj 1 o = BitVec.ofNat 64 d.npg ∧ s.objInfo obj 2 o = BitVec.ofNat 64 d.flags ∧
      (d.npg ≤ o / 65536 → s.objInfo obj 3 o = BitVec.allOnes 64 ∧ s.objInfo obj 4 o = BitVec.allOnes 64) ∧
      (o / 65536 < d.npg → d.kind = 0 → s.objInfo obj 4 o = 0))) ∧
  (∀ (s : State) (w : LF), Runs s w → let f := s.fieldOf s.me.fld; let n := (s.sreg w.b).toNat % 16
    (s.sreg w.b).toNat = n * 17 → (∀ t ∈ f.tiles, (t.base + t.len) * 64 ≤ n * step512) → f.n = f.nmin → f.moving = none →
    s.scratchBusy s.me.fld = false →
    ∃ t, exec (.carve w) s = .next t ∧ (t.fieldOf s.me.fld).nmin = n ∧ (t.fieldOf s.me.fld).nmax = n ∧ (t.fieldOf s.me.fld).n = n ∧
      (∀ k, k < spKey s.me.fld (min f.nmin n * step512) ∨ spKey s.me.fld (15 * step512) ≤ k → readByte t.mem k = readByte s.mem k) ∧
      (∀ k, spKey s.me.fld (min f.nmin n * step512) ≤ k → k < spKey s.me.fld (15 * step512) → readByte t.mem k = 0) ∧
      (w.d.extractLsb' 0 4 ≠ 0 → let c := t.creg (w.d.extractLsb' 0 4)
        c.tag = true ∧ c.cur = 0 ∧ c.base = 0 ∧ c.top = n * step512 ∧ c.perm = 1 + 2 + 16 + 32 + 128 ∧
        c.obj = (if s.ownObj s.me.fld = 0 then localObj else s.ownObj s.me.fld) % 2 ^ 32) ∧
      t.me.pcc = s.me.pcc.setCur (s.pc + 8)) ∧
  (∀ (s : State) (w : LF), Runs s w → let v := (s.sreg w.b).toNat; (v / 16 % 16 < v % 16 ∨ 256 ≤ v) →
    exec (.carve w) s = s.raise (mkTrap 0x05 0 (s.creg (w.a.extractLsb' 0 4)).obj v))

/-- The steps of tiles, of the elastic boundary and of L1 (R233, R234, R237 to R240, R272, R273). -/
def Sys2Proof.Claim.ScratchpadAndCacheSteps : Prop :=
  ∀ (s : State) (fld : Nat), let f := s.fieldOf fld
    (∃ t, exec (.elasticInterval fld) s = .next t ∧ (t.fieldOf fld).n = f.n ∧ (t.fieldOf fld).gs = 0 ∧ (t.fieldOf fld).ls = 0 ∧ t.mem = s.mem ∧
      (f.nmax ≤ f.n → (t.fieldOf fld).moving ≠ some true ∨ f.moving = some true) ∧
      (f.n ≤ f.nmin → (t.fieldOf fld).moving ≠ some false ∨ f.moving = some false)) ∧
    (let ctx := ((s.taskAt fld).map (·.ctx)).getD 0; let base := f.nmin * step512
      (∀ v u, f.moving = some true → s.giveWays fld = .ok v →
        v.elasticCopy ctx fld f.backing base (f.n * step512) false stepSecs = some u → (∀ e ∈ v.l1, e.fld ≠ fld) ∧
        ∃ t, exec (.boundaryMoveComplete fld) s = .next t ∧ (t.fieldOf fld).n = f.n + 1 ∧ (t.fieldOf fld).moving = none ∧ t.mem = u.mem) ∧
      (∀ u, f.moving = some false → s.elasticCopy ctx fld f.backing base ((f.n - 1) * step512) true stepSecs = some u →
        ∃ t, exec (.boundaryMoveComplete fld) s = .next t ∧ (t.fieldOf fld).n = f.n - 1 ∧ (t.fieldOf fld).moving = none ∧
          t.mem = u.mem)) ∧
    (∀ ctx obj sec e, s.l1At fld ctx obj sec = some e →
      (e.dirty = 0 → ∃ t, exec (.evictionWriteBack fld ctx obj sec) s = .next t ∧ t.l1At fld ctx obj sec = none ∧ t.mem = s.mem) ∧
      (∀ u, e.dirty ≠ 0 → s.writeBack e = (u, .ok) → exec (.evictionWriteBack fld ctx obj sec) s = .next (u.l1Drop fld ctx obj sec)) ∧
      (∀ k kind side v, e.dirty = 0 → s.translate ctx obj (sec * 16) false = .ok k kind side →
        s.portRead k kind side (sec * 16) = some v → ∃ t d, exec (.l1Probe fld ctx obj sec) s = .next t ∧
          t.l1At fld ctx obj sec = some d ∧ d.data.toNat = v % 2 ^ 128 ∧ d.valid = true ∧ d.dirty = 0 ∧ t.mem = s.mem))

/-- The tile table (R236, R302 to R304). -/
def Obligations.Tiles : Prop := Claim.TileTableChecks ∧ Claim.TileInstructions

/-- Cache control (R305), prefetches among it, and the steps of caches and scratchpads. -/
def Obligations.CachesAndScratchpads : Prop := Claim.CacheControl ∧ Claim.Prefetches ∧ Claim.ScratchpadAndCacheSteps

namespace Sys2Proof.Machine

/-! ### Regions, queues and strands -/

/-- A one-word instruction of a strand whose scalar source a is no bound queue. -/
def Takes (s : State) (a : RegF) : Prop := s.me.finder = false ∧ s.bindOf a = none

/-- What a hand-off needs (R469): nothing of the strand's is outstanding, and the start record holds at most 64 parties. -/
def MayStart (s : State) : Prop :=
  Quiet s ∧ (addParties [s.myParty] ((s.tables s.me.ctx s.myParty).1 ++ (s.tables s.me.ctx s.myParty).2)).length ≤ 64

end Sys2Proof.Machine

open Sys2Proof Sys2Proof.Machine

/-- Starting and stopping a region (R201, R202, R203). `rgrun` starts an installed region with c8 to c15 as its capability
table, `cfgsw` stops the running ones and starts it once they have drained, `rgstop` stops one, `cfgdrop` empties its slots. -/
def Sys2Proof.Claim.RegionControl : Prop :=
  ∀ (s : State) (a : RegF), Takes s a → let v := s.sreg a
    (∀ sl, s.readySlot v = .ok sl → MayStart s →
      ((∀ q ∈ s.rivals sl, q.st ≠ .running) → ∃ t, exec (.rgrun a) s = .next t ∧ WentOn s t 4 ∧ (t.slotOf sl.fld sl.idx).st = .running ∧
        (t.slotOf sl.fld sl.idx).capTab = (List.range 8).map (fun i => s.creg (BitVec.ofNat 4 (8 + i))) ∧
        (t.slotOf sl.fld sl.idx).pend = .none) ∧
      (s.me.xpc < 63 → ∃ t, exec (.cfgsw a) s = .next t ∧ WentOn s t 4 ∧ t.me.xpc = s.me.xpc + 1 ∧
        (t.slotOf sl.fld sl.idx).pend = .switch ∧ (t.slotOf sl.fld sl.idx).owner = some (s.me.fld, s.me.slot))) ∧
    (∀ f i, s.regionWord v = some (f, i) → let sl := s.slotOf f i
      (sl.pend = .none → sl.st = .running → s.me.xpc < 63 → ∃ t, exec (.rgstop a) s = .next t ∧ WentOn s t 4 ∧
        t.me.xpc = s.me.xpc + 1 ∧ (t.slotOf f i).pend = .stop ∧
        (t.slotOf f i).elems = sl.elems.map fun e => if e.isSource then { e with closing := !e.ended, hold := true } else e) ∧
      (sl.pend = .none → sl.st = .installed → ∃ t, exec (.cfgdrop a) s = .next t ∧ WentOn s t 4 ∧ (t.slotOf f i).st = .empty ∧
        (t.slotOf f i).elems = [] ∧ (∀ c ∈ t.chans, sl.owns c = false)) ∧
      (sl.pend = .none → sl.st = .running → exec (.cfgdrop a) s = s.raise (cfgInv 0x0A)) ∧
      (sl.pend = .none → sl.st ≠ .running → exec (.rgstop a) s = s.raise (cfgInv 0x0A)) ∧
      (sl.pend ≠ .none → exec (.rgstop a) s = .next s ∧ exec (.cfgdrop a) s = .next s ∧ exec (.mark a) s = .next s) ∧
      (sl.pend = .none → sl.st = .running → ∃ t, exec (.mark a) s = .next t ∧ WentOn s t 4 ∧
        (t.slotOf f i).elems = sl.elems.map fun e => if e.isSource && !e.ended then { e with closing := true } else e)) ∧
    (s.regionWord v = none → ∀ i ∈ [Instr.rgrun a, .cfgsw a, .rgstop a, .cfgdrop a, .mark a], exec i s = s.raise (cfgInv 0x0B))

/-- Installs and status (R195 to R197, R200, R204, R205). `cfgld` and `cfgpart` reserve the slot and count in XPC, `rgstat` reads
one item, `rwait` goes on once the round is complete. -/
def Sys2Proof.Claim.InstallsAndStatus : Prop :=
  (∀ (s : State) (c : CapF) (b : RegF) sl, Takes s b → s.cfgArgs (s.creg c) (s.sreg b) = .inr sl →
    sl.pend = .none → s.me.xpc < 63 →
    (sl.st = .empty → ∃ t, exec (.cfgld c b) s = .next t ∧ WentOn s t 4 ∧ t.me.xpc = s.me.xpc + 1 ∧
      (t.slotOf sl.fld sl.idx).st = .installing ∧ (t.slotOf sl.fld sl.idx).pend = .read ∧ (t.slotOf sl.fld sl.idx).img = s.creg c ∧
      (t.slotOf sl.fld sl.idx).owner = some (s.me.fld, s.me.slot)) ∧
    (sl.st ≠ .empty → exec (.cfgld c b) s = s.raise (cfgTrap 0x0A 0 (s.creg c).obj)) ∧
    ((sl.st = .installed ∨ sl.st = .running) → sl.why = 0 → ∃ t, exec (.cfgpart c b) s = .next t ∧ WentOn s t 4 ∧
      t.me.xpc = s.me.xpc + 1 ∧ (t.slotOf sl.fld sl.idx).pend = .part ∧ (t.slotOf sl.fld sl.idx).img = s.creg c)) ∧
  (∀ (s : State) (d a : RegF) f, Takes s a → s.bindOf d = none → let v := (s.sreg a).toNat; v / 2 ^ 12 = 0 →
    s.taskField (v % 64) = some f → let sl := s.slotOf f (v / 64 % 4); let sel := v / 256 % 16
    (sel = 0 → Writes s (.rgstat d a) d (BitVec.ofNat 64 (s.slotWord sl)) 4 [a]) ∧
    (sel = 1 → Writes s (.rgstat d a) d (BitVec.ofNat 64 sl.whyOff) 4 [a]) ∧
    (sel = 4 → Writes s (.rgstat d a) d ((s.fieldOf f).replays.zeroExtend 64) 4 [a]) ∧
    (7 ≤ sel → exec (.rgstat d a) s = s.raise (cfgInv 0x0B))) ∧
  (∀ (s : State) (a : RegF), Takes s a → let r := (s.sreg a).extractLsb' 0 32; let c := s.ctxOf s.me.ctx
    ((s.sreg a).toNat < 2 ^ 32 → 1 ≤ (c.round - r).toNat → (c.round - r).toNat ≤ 2 ^ 31 → 1 ≤ (c.openRound - r).toNat →
      (c.openRound - r).toNat ≤ 2 ^ 31 → Done s (.rwait a) 4 [a] s) ∧
    ((s.sreg a).toNat < 2 ^ 32 → (c.round = r ∨ c.openRound = r) → exec (.rwait a) s = .next s) ∧
    (2 ^ 32 ≤ (s.sreg a).toNat → exec (.rwait a) s = s.raise (cfgInv 0x0B)))

/-- The steps of slots (R152, R153, R162, R163, R200 to R202): an install, a stop, a switch and a partial drain complete; a bad
image leaves its reason and offset. -/
def Sys2Proof.Claim.SlotSteps : Prop :=
  ∀ (s : State) (f i : Nat), let sl := s.slotOf f i
    (sl.pend = .stop → sl.sidx = 0 → s.quiet sl = true → ∃ t, exec (.stopComplete f i) s = .next t ∧
      (t.slotOf f i).st = .installed ∧ (t.slotOf f i).pend = .none ∧ t.mem = s.mem) ∧
    (sl.pend = .switch → sl.sidx = 0 → (∀ q ∈ s.rivals sl, q.st ≠ .running) → ∃ t, exec (.switchComplete f i) s = .next t ∧
      (t.slotOf f i).st = .running ∧ (t.slotOf f i).capTab = sl.capTab ∧ t.mem = s.mem) ∧
    (sl.pend = .install → sl.sidx = 0 → ∃ t, exec (.installComplete f i) s = .next t ∧ (t.slotOf f i).st = .installed ∧
      (t.slotOf f i).pend = .none ∧ t.mem = s.mem) ∧
    (sl.pend = .partDrain → sl.sidx = 0 → (∀ q ∈ s.region sl, q.fresh = []) → ∃ t, exec (.partialDrainComplete f i) s = .next t ∧
      (t.slotOf f i).pend = .none ∧ (t.slotOf f i).kp = sl.drainK ∧ t.mem = s.mem) ∧
    (∀ site e, sl.pend = .partDrain → sl.elems.find? (fun e => e.at site false) = some e → (∃ fr ∈ sl.fresh, fSite fr = site) →
      ({ s := s, sl := sl, e := e } : Fx).passed sl.drainK = true → ∃ t, exec (.partialFrameTake f i site) s = .next t ∧
      ∀ fr ∈ (t.slotOf f i).fresh, fSite fr ≠ site) ∧
    (∀ site x, s.fxAt f site false (fun e => !e.ramped) = some x →
      exec (.rampRelease f site) s = .next (s.setElem x.sl.fld x.sl.idx { x.e with ramped := true })) ∧
    (∀ u why k, sl.pend = .read → s.readImage sl = .fail u why k → ∃ t, exec (.cfgldInstall f i) s = .next t ∧
      (t.slotOf f i).st = .empty ∧ (t.slotOf f i).why = why ∧ (t.slotOf f i).pend = .none ∧
      (t.slotOf f i).whyOff = if why ≤ 0x0A ∨ 0x10 ≤ why then sl.img.cur + 32 * k else 0) ∧
    (∀ u q, sl.pend = .read → s.readImage sl = .ok u [q] → u.slotOf f i = sl → u.sectionsOk f 1 = true →
      firstBad [checkImage i [q], u.circuitTaken sl.ctx [q]] = none → ∃ t, exec (.cfgldInstall f i) s = .next t ∧
      (t.slotOf f i).st = .installing ∧ (t.slotOf f i).pend = .install ∧ (t.slotOf f i).frames = q.hdr.2 :: q.body.map (·.2)) ∧
    (∀ u why k, sl.pend = .part → s.readImage sl = .fail u why k → ∃ t, exec (.cfgpartApply f i) s = .next t ∧
      (t.slotOf f i).st = sl.st ∧ (t.slotOf f i).elems = sl.elems ∧ (t.slotOf f i).why = why ∧ (t.slotOf f i).pend = .none) ∧
    (∀ u q, sl.pend = .part → sl.st = .installed → sl.nsec = 1 → sl.sidx = 0 → s.readImage sl = .ok u [q] → u.slots = s.slots → u.sectionsOk f 1 = true →
      checkPartial i [q] [sl.frames] (u.chans.filter (·.slot = i)) f = none → ∃ t, exec (.cfgpartApply f i) s = .next t ∧ (t.slotOf f i).st = .installed ∧
      (t.slotOf f i).pend = .none ∧ (t.slotOf f i).frames = replaceFrames sl.frames (q.body.map (·.2)))

/-- Stationary tiles (R211): `stld` queues a fill that TLC counts, the fill writes L once it is free, `stswap` asks for a swap. -/
def Sys2Proof.Claim.StationaryTiles : Prop :=
  (∀ (s : State) (c : CapF) (b : RegF) sl e, Takes s b → let v := (s.sreg b).toNat; let n := v / 2 ^ 10 % 2 ^ 10; let x := s.creg c
    checkRange (s.ownObj s.me.fld) x 1 x.cur (4 * n) = none → x.cur % 4 = 0 →
    (tileWordOk v = false → exec (.stld c b) s = s.raise (cfgInv 0x0B)) ∧
    (tileWordOk v = true → (s.slotOf s.me.fld (v / 2 ^ 8 % 4)).loading = true → exec (.stld c b) s = .next s) ∧
    (tileWordOk v = true → (s.slotOf s.me.fld (v / 2 ^ 8 % 4)).loading = false → s.tileElem v = .inr (sl, e) →
    (n = e.fillCount → s.me.tlc < 63 → ∃ t, exec (.stld c b) s = .next t ∧ WentOn s t 4 ∧ t.me.tlc = s.me.tlc + 1 ∧
      t.fills = s.fills ++ [{ fld := s.me.fld, slot := sl.idx, site := e.site, owner := s.me.slot, cap := x, n := n }]) ∧
    (n ≠ e.fillCount → exec (.stld c b) s = s.raise (cfgInv 0x0D)))) ∧
  (∀ (s : State) (a : RegF) sl e, Takes s a → let v := (s.sreg a).toNat; v / 2 ^ 10 % 2 ^ 10 = 0 → tileWordOk v = true →
    (s.slotOf s.me.fld (v / 2 ^ 8 % 4)).loading = false → s.tileElem v = .inr (sl, e) →
    Done s (.stswap a) 4 [a] (s.setElem sl.fld sl.idx { e with swapNext := e.swapNext + 1 })) ∧
  (∀ (s : State) fld site, (∀ p ∈ s.fills, p.fld = fld → p.site = site → s.fillWaits p = true) →
    exec (.stldFillComplete fld site) s = .next s) ∧
  (∀ (s u : State) fld site p e vs, s.fills.find? (fun p => p.fld = fld && p.site = site && !s.fillWaits p) = some p →
    let sl := s.slotOf fld p.slot
    sl.elems.find? (fun e => e.at site false) = some e →
    (s.readRun fld p.owner (((s.strandAt fld p.owner).map (·.ctx)).getD sl.ctx) p.cap 4 p.n p.cap.cur = .ok u vs →
      ∃ t, exec (.stldFillComplete fld site) s = .next t ∧ t.fills = u.fills.erase p ∧ t.mem = u.mem))

/-- Queue bindings (R206 to R208): `qbind` binds an unbound register to a port or to engine responses, `qunbind` removes it once
its entries have entered the port, `qpeek` counts entries or room. -/
def Sys2Proof.Claim.QueueBindings : Prop :=
  ∀ (s : State) (q : PredF) (a d : RegF), Takes s a → let v := (s.sreg a).toNat
    let bind (push : Bool) : Bind := { q := q.toNat, kind1 := v / 8 % 2 = 1, push := push, row := v % 4, slot := v / 16 % 4, w64 := v / 4 % 2 = 1, ents := [], removed := false }
    (∀ push, let i := if push then Instr.qbindOut q a else .qbindIn q a
      (v / 8 % 2 = 0 → v < 64 → s.queueAt q = none → (s.slotOf s.me.fld (v / 16)).loading = false →
        (s.slotOf s.me.fld (v / 16)).hasPort (v % 4) (if push then 0 else 1) = true → (s.portBind s.me.fld (v % 4) (v / 16)).isSome = false →
        Done s i 4 [a] { s with me := { s.me with binds := s.me.binds ++ [bind push] } }) ∧
      (s.queueAt q ≠ none → v < 64 → v / 8 % 2 = 0 → (s.slotOf s.me.fld (v / 16)).loading = false → exec i s = s.raise (cfgInv 0x0C))) ∧
    (v = 12 → s.queueAt q = none → Done s (.qbindIn q a) 4 [a] { s with me := { s.me with binds := s.me.binds ++ [bind false] } }) ∧
    (s.queueAt q = none → Done s (.qunbind q) 4 [] s) ∧
    (∀ b, s.queueAt q = some b → (b.push = true → b.removed = false → b.ents = [] ∧ ∀ x ∈ s.me.dests, x.2 ≠ .queue b.q) → ∃ t, exec (.qunbind q) s = .next t ∧
      WentOn s t 4 ∧ (∀ c ∈ t.me.binds, c.q ≠ q.toNat)) ∧
    (∀ b, s.queueAt q = some b → b.push = true → b.removed = false → (b.ents ≠ [] ∨ ∃ x ∈ s.me.dests, x.2 = .queue b.q) →
      exec (.qunbind q) s = .next s) ∧
    (∀ b, s.queueAt q = some b → s.bindOf d = none → b.removed = false → (∀ x ∈ s.me.dests, x.2 ≠ .queue b.q) →
      Writes s (.qpeek d q) d (BitVec.ofNat 64 (if b.push then 16 - b.ents.length else b.ents.length)) 4 []) ∧
    (s.bindOf d = none → s.queueAt q = none → exec (.qpeek d q) s = s.raise (mkTrap 0x11 0 0 (q.toNat + 24)))

/-- Strands into the fabric and back (R209, R210), and the record's arrival at an exit. -/
def Sys2Proof.Claim.StrandsThroughFabric : Prop :=
  ∀ (s : State) (a : RegF), Takes s a → let v := (s.sreg a).toNat; let rs := maskRegs v
    maskBad v 2 = false → (∀ r ∈ rs, s.bindOf r = none) →
    (∀ x, maskBad v 10 = false → s.settling s.me.fld = false → s.fxAt s.me.fld (16 * (v % 4)) false (fun e => e.op = 0x06 && e.p 0 2 = 2) = some x → s.me.exitRec = none →
      x.e.outq = [] → x.sends = true → x.closes = false → ∃ t, exec (.enter a) s = .next t ∧ t.me.stat = .fabric ∧ t.me.regs = s.me.regs ∧
        t.me.pcc = s.me.pcc.setCur (s.pc + 4) ∧ t.mem = s.mem) ∧
    (s.me.exitRec = none → exec (.await a) s = .next s) ∧
    (∀ ws, s.me.exitRec = some (v % 4, ws) → ws.length = 2 * rs.length → ∃ t, exec (.await a) s = .next t ∧
      t.me.exitRec = none ∧ t.me.pcc = s.me.pcc.setCur (s.pc + 4) ∧ (∀ r : RegF, r ∉ rs → t.sreg r = s.sreg r) ∧
      ∀ k, k < rs.length → rs.getD k 0 ≠ 0 → t.sreg (rs.getD k 0) = ws.getD (2 * k + 1) 0 ++ ws.getD (2 * k) 0) ∧
    (∀ ws, s.me.exitRec = some (v % 4, ws) → ws.length ≠ 2 * rs.length → exec (.await a) s =
      State.raise { s with me := { s.me with exitRec := none } } (cfgInv 0x0E))

/-- New strands and tasks (R30, R190, R191, R212): sb[0] chooses. A new strand starts in the lowest free slot of the field that
the word names, with c1 and the other registers as R30 says; a task record that R191 admits joins its Meridian queue. -/
def Sys2Proof.Claim.Spawning : Prop :=
  ∀ (s : State) (c : CapF) (b : RegF), Takes s b → MayStart s → let v := (s.sreg b).toNat; let x := s.creg c
    ∀ i ∈ [Instr.spawnStrand c b, .spawnTask c b],
      (∀ f k, v % 2 = 0 → v < 2 ^ 7 → Reachable s x x.cur → s.taskField (v / 2) = some f → s.freeSlot f = some k →
        ∃ t n, exec i s = .next t ∧ WentOn s t 4 ∧ t.others = s.others ++ [n] ∧ n.stat = .running ∧ n.fld = f ∧ n.slot = k ∧
          n.pcc = x ∧ n.mode = false ∧ n.caps[1] = s.creg 1 ∧ n.caps[2] = Cap.null ∧ (∀ r : Fin 32, n.regs[r] = 0) ∧ n.ldc = 0 ∧
          n.ctx = s.me.ctx ∧ n.task = s.me.task ∧ s.myParty ∈ n.start) ∧
      (v % 2 = 0 → Reachable s x x.cur → (2 ^ 7 ≤ v ∨ s.taskField (v / 2 % 64) = none) → exec i s = s.raise (cfgInv 0x0B)) ∧
      (∀ u secs r, v % 2 = 1 → v < 2 ^ 7 → checkCap (s.ownObj s.me.fld) x 1 x.cur 64 = none → let m := s.mqOf (s.me.fld / 32) (v / 2)
        (m.hq = true → s.me.mode = true) → m.ctx = s.me.ctx → m.en = true → m.recs.length < 256 → s.me.bound = none →
        s.bindSecs (s.bindAccess x.obj x.cur) 4 = .ok u secs → u.me = s.me → u.mem = s.mem → MayStart u → parseTask secs m.base [] = some r →
        ∃ t st, exec i s = .next t ∧ WentOn s t 4 ∧ (t.mqOf (s.me.fld / 32) (v / 2)).recs = m.recs ++ [{ r with start := st }] ∧ u.myParty ∈ st) ∧
      (v % 2 = 1 → v < 2 ^ 7 → checkCap (s.ownObj s.me.fld) x 1 x.cur 64 = none → (s.mqOf (s.me.fld / 32) (v / 2)).hq = true →
        s.me.mode = false → s.me.bound = none → exec i s = s.raise (mkTrap 0x03 0 0 0))

/-- The Finder (R154, R213): it starts with copies of its strand's registers, passes over what it does not do, ends where a
strand would trap, and ends at its limit. -/
def Obligations.FinderRules : Prop :=
  (∀ (s : State) (c : CapF) (b : RegF), Takes s b → Reachable s (s.creg c) (s.creg c).cur → ∃ t n, exec (.finder c b) s = .next t ∧
    WentOn s t 4 ∧ n ∈ t.others ∧ n.finder = true ∧ n.stat = .running ∧ n.fld = s.me.fld ∧ n.regs = s.me.regs ∧ n.preds = s.me.preds ∧
    n.pcc = s.creg c ∧ n.limit = (s.sreg b).toNat ∧ n.binds = [] ∧ t.others.countP (fun u => u.finder && u.fld = s.me.fld) = 1) ∧
  (∀ (s : State) (w : LF) (d : RegF) h c imm, s.me.finder = true → s.pred w.g = true →
    (∀ p ∈ shortStores d h c imm, exec p.1 s = .next ((s.advance 4).finderTick)) ∧
    (∀ p ∈ atomForms w, exec p.1 s = .next ((s.advance 8).finderTick)) ∧ exec (.stx w) s = .next ((s.advance 8).finderTick) ∧
    exec .trap s = .next ((s.advance 4).finderTick)) ∧
  (∀ (s : State) (k : TrapInfo), s.me.finder = true → s.raise k = .next { s.finderCount with me := Strand.empty }) ∧
  (∀ (s : State), let t := s.finderTick
    (s.me.limit = 1 → t.me.stat = .stopped) ∧ (s.me.limit ≠ 1 → t.me.stat = s.me.stat) ∧ t.me.regs = s.me.regs) ∧
  (∀ (s : State) (fld : Nat), (s.me.finder = true → s.me.fld = fld → s.me.stat = .stopped →
      exec (.finderLimit fld) s = .next { s with me := Strand.empty }) ∧
    (s.me.finder = false → ∃ t, exec (.finderLimit fld) s = .next t ∧ t.me = s.me ∧
      ∀ u ∈ t.others, ¬(u.finder = true ∧ u.fld = fld ∧ u.stat = .stopped)))

/-- `tdone`, `yield` and `wait` (R46, R194, R214, R215). -/
def Sys2Proof.Claim.TaskEndsAndWaits : Prop :=
  ∀ (s : State), s.me.finder = false →
    (∀ k, s.me.idle = true → s.taskOf s.me.task = some k → Done s .tdone 4 [] (s.setTask { k with phase := .finishing 0 })) ∧
    (s.me.idle = false → exec .tdone s = .next s) ∧
    (∀ k, s.taskOf s.me.task = some k → Done s .yield 4 [] (s.setTask { k with yielded := true })) ∧
    (∀ l st c t : BitVec 6, let ok := s.me.ldc ≤ l.toNat ∧ s.me.stc ≤ st.toNat ∧ s.me.xpc ≤ c.toNat ∧ s.me.tlc ≤ t.toNat
      (ok → exec (.wait l st c t) s = .next (s.retire 4 [])) ∧ (¬ok → exec (.wait l st c t) s = .next s))

/-- Regions (R196 to R205): the instructions that install, run, stop, switch and drop slots and report on them. -/
def Obligations.Regions : Prop := Claim.RegionControl ∧ Claim.InstallsAndStatus

/-- The steps of slots and stationary tiles (R152, R153, R162, R163, R200 to R202, R211). -/
def Obligations.SlotsAndTiles : Prop := Claim.SlotSteps ∧ Claim.StationaryTiles

/-- Queue bindings and strands that pass through the fabric (R206 to R210). -/
def Obligations.QueuesAndStrands : Prop := Claim.QueueBindings ∧ Claim.StrandsThroughFabric

/-- Spawning, the end of a task and waiting (R46, R190, R191, R212, R214). -/
def Obligations.SpawnsAndTaskEnds : Prop := Claim.Spawning ∧ Claim.TaskEndsAndWaits

namespace Sys2Proof.Machine

/-! ### The fabric: compute elements (R130 to R150, R170 to R175) -/

/-- Nothing but an element's own operation is due (R135, R136, R145): it is not stalled, its region goes on, no record of
it waits to be posted, no killed value is left to discard, no formed beat to leave, and no word of a tile, control token or marker stands at an input. -/
def Fx.clear (x : Fx) : Prop :=
  x.e.stall = none ∧ x.sl.dead = false ∧ x.unposted = false ∧ (∀ d ∈ x.sl.elems, d.stall = none) ∧ (∀ c ∈ x.s.chans, c.discard = 0) ∧ x.e.outq = [] ∧
    (x.e.isC = true → x.head 3 = none ∧ x.e.lastIn = 0) ∧ ∀ i b, x.head i = some b → b.isData (x.vec i) = true
/-- The element is where the state says it is: its slot is the one of that place, and channels have numbers of their own. -/
def Fx.Here (x : Fx) : Prop := x.s.slotOf x.sl.fld x.sl.idx = x.sl ∧ (x.s.chans.map (·.id)).Nodup

/-- The firing leaves the element as u has it. ROUND advances by the markers that have left (R141). -/
def Fires (s : State) (i : Instr) (u : Fx) : Prop := exec i s = .next (s.markLeft u.done u.sl.ctx).syncRounds
/-- The element stalls (R155), which leaves u. -/
def Stalls (s : State) (i : Instr) (x : Fx) (u : State) : Prop := exec i s = .next (s.markLeft u x.sl.ctx).syncRounds
/-- The element as z has it sends the first beat that it has formed for each output, if every one of those can leave; nothing
happens else (R135, R136). -/
def Sends (s : State) (i : Instr) (z : Fx) : Prop :=
  (z.fired = none → exec i s = .next s) ∧ ∀ t, z.fired = some t → exec i s = .next (s.markLeft t z.sl.ctx).syncRounds

/-- Leave of the actor to send a beat on each of some outputs (R137). -/
def Fx.leave (x : Fx) (outs : List Nat) : Option Fx := outs.foldl (fun a o => a.bind (·.gateOut o)) (some x)
/-- A beat on each of some outputs. -/
def Fx.put (x : Fx) (outs : List Nat) (b : Beat) : Fx := outs.foldl (fun z o => z.push o b) x
def Fx.withStatus (x : Fx) (st : Nat) : Fx := { x with e := { x.e with status := x.e.status ||| BitVec.ofNat 32 st } }
/-- The header of a value has been sent on some outputs. -/
def Fx.opened (x : Fx) (outs : List Nat) (E : Int) (c : Nat) (rs : List LaneRes) : Fx :=
  let z := x.put outs (headerBeat E c)
  ({ z with e := { z.e with busy := true, sent := 1 } } : Fx).withStatus (rs.foldl (fun a r => a ||| r.status) 0)
/-- An element after the markers at its inputs (R143, R150): each input counts one more, the marker is formed for its outputs,
and swaps that wait for a marker are due. -/
def Fx.pastMark (x : Fx) (outs : List Nat) : Elem :=
  { x.e with
    rin := x.e.rin.mapIdx fun i r => if x.inPorts.contains i then r + 1 else r, nval := 0
    outq := x.e.outq ++ outs.map fun o => (o, markBeat ((x.outC o).any (·.vec)) (x.e.rinAt (x.inPorts.headD 0)))
    lastIn := if x.inPorts.contains 0 then x.e.lastIn + x.e.swapNext else x.e.lastIn
    swapNext := if x.inPorts.contains 0 then 0 else x.e.swapNext }
/-- The outputs on which a value goes on: those that have not stopped it (R146). -/
def Fx.goesOn (x : Fx) (outs : List Nat) : List Nat := outs.filter fun o => !x.stoppedOn o
/-- A word leaves on output 0 with the firing; those after it are formed. -/
def Fx.firstWord (u : Fx) (v : W32) (r : List W32) : Fx :=
  ({ u with e := { u.e with outq := r.map fun w => (0, wordBeat w) } } : Fx).push 0 (wordBeat v)

/-- The operations that turn values into values lane by lane (R170): operation code, whether a second operand comes at input 1
when none is stationary, and the lanes of the result. -/
def IsLaneOp (f site : Nat) (p : Instr × Nat × Bool × (Fx → List LaneRes)) : Prop :=
  p ∈ [(Instr.oadd f site, 0x01, true, lanes2 laneAdd), (.osub f site, 0x02, true, lanes2 fun x y => laneAdd x y.negate),
   (.omul f site, 0x03, true, lanes2 laneMul), (.odiv f site, 0x04, true, lanes2 laneDiv),
   (.osqrt f site, 0x05, false, lanes1 laneSqrt), (.oexp2 f site, 0x06, false, lanes1 laneExp2),
   (.olog2 f site, 0x07, false, lanes1 laneLog2), (.oneg f site, 0x08, false, lanes1 laneNeg),
   (.oabs f site, 0x09, false, lanes1 laneAbs), (.oscl f site, 0x0A, false, fun x => lanes1 (laneScl (toSigned 16 (x.e.p 0 16))) x),
   (.omax f site, 0x0B, true, lanes2 (laneMax false)), (.omin f site, 0x0C, true, lanes2 (laneMax true)),
   (.ofan f site, 0x18, false, lanes1 laneCopy)]

/-- The operations whose result leaves as words (R170, R173): the words and the status bits, once every lane has decided. -/
def IsWordOp (f site : Nat) (p : Instr × Nat × Bool × (Fx → Option (List W32 × Nat))) : Prop :=
  p ∈ [(Instr.ocmp f site, 0x0D, true, fun x => (allSome (List.zipWith cmpCode (x.operand 0)
      (if x.e.hasSt then x.stationary else x.operand 1))).map fun l => ([BitVec.ofNat 32 (pack2 l)], 0)),
   (.osgn f site, 0x0E, false, fun x => (allSome ((x.operand 0).map sgnCode)).map fun l => ([BitVec.ofNat 32 (pack2 l)], 0)),
   (.settle f site, 0x12, false, fun x => (allSome ((x.operand 0).map (settleLane (target x.e.fmt) x.e.rm))).map
      (settleWords x.e.fmt (x.e.p 0 1 = 1))),
   (.thresh f site, 0x16, false, fun x => (allSome ((x.operand 0).map fun l =>
      if l.cls = clNan || (constLane (x.e.p 0 64)).cls = clNan then some false
      else (cmpLane false l (constLane (x.e.p 0 64))).map fun c => c = .gt || (x.e.p 64 1 = 1 && c = .eq))).map fun l =>
        ([BitVec.ofNat 32 (packBits l)], if (x.operand 0).any (·.cls = clNan) then sbNV else 0))]

/-- Every operation that reads values at its inputs in step. -/
def IsValueOp (f site : Nat) (i : Instr) (op : Nat) (two : Bool) : Prop :=
  (∃ r, IsLaneOp f site (i, op, two, r)) ∨ ∃ r, IsWordOp f site (i, op, two, r)
/-- The compute elements that pass markers without a result of their own (R143). -/
def IsStateless (f site : Nat) (i : Instr) (op : Nat) : Prop :=
  (∃ two, IsValueOp f site i op two) ∨ (i, op) ∈ [(Instr.osel f site, 0x0F), (.oconst f site, 0x10), (.split f site, 0x11)]
/-- Those with a result for each round (R144, R174, R175). -/
def IsRoundOp (f site : Nat) (i : Instr) (op : Nat) : Prop :=
  (i, op) ∈ [(Instr.racc f site, 0x13), (.rsum f site, 0x14), (.rmax f site, 0x15), (.conf f site, 0x17)]

/-- The value inputs of an element. -/
def Elem.valIns (e : Elem) (two : Bool) : List Nat := if two && !e.hasSt then [0, 1] else [0]
/-- The value outputs of an operation. -/
def valOuts (op : Nat) : List Nat := if op = 0x18 then [0, 1] else [0]

end Sys2Proof.Machine

open Sys2Proof Sys2Proof.Machine

/-- How an element reads (R69, R132, R136, R142): a header first, then digit beats up to the one that shows every zero tail. The
first digit beat carries the low four bits of the round, or the element stalls; so does a digit without a header, and a header
inside a value. A firing reads at every input whose value has not ended, or at none. -/
def Sys2Proof.Claim.ElementsRead : Prop :=
  (∀ (x : Fx) (i : Nat) (b : Beat), x.head i = some b → let g := x.e.gotAt i
    (∀ y, g = [] → b.kind = 1 → x.gateIn i = some y →
      x.takeBeat i = some (.inr { (y.drop i).keep i with e := y.e.setGot i [b] true })) ∧
    (∀ y, g ≠ [] → b.kind = 0 → (g.length = 1 → BitVec.ofNat 4 b.tag = (x.e.rinAt i).setWidth 4) → x.gateIn i = some y →
      x.takeBeat i = some (.inr { y.drop i with e := y.e.setGot i (g ++ [b]) (!b.allTail) })) ∧
    (g.length = 1 → b.kind = 0 → BitVec.ofNat 4 b.tag ≠ (x.e.rinAt i).setWidth 4 →
      x.takeBeat i = some (.inl (x.stallAt ccRoundTag 0x31 i (BitVec.ofNat 32 b.tag)))) ∧
    ((g = [] ∧ b.kind = 0 ∨ g ≠ [] ∧ b.kind = 1) → x.takeBeat i = some (.inl (x.stallAt ccCfg 0x22 i)))) ∧
  (∀ (s : State) (f site : Nat) (x : Fx) (w : Instr) (op : Nat) (two : Bool), IsValueOp f site w op two →
    s.computeAt f site op = some x → x.Here → x.clear → x.killed (valOuts op) = false → let ins := x.e.valIns two
    (∃ i ∈ ins, (x.e.gotAt i).length < 2) → let un := x.unended ins
    let more (y : Fx) : Prop := ∃ i ∈ ins, (y.e.gotAt i).length < 2
    let good (i : Nat) : Prop := ∀ u, x.takeBeat i ≠ some (.inl u)
    (∀ i u, i ∈ un → x.takeBeat i = some (.inl u) → (∀ j ∈ un, j < i → good j) → Stalls s w x u) ∧
    (∀ i y, un = [i] → x.takeBeat i = some (.inr y) → more y → Fires s w y) ∧
    (∀ y z, un = [0, 1] → x.takeBeat 0 = some (.inr y) → good 1 → y.takeBeat 1 = some (.inr z) → more z → Fires s w z) ∧
    ((∃ i ∈ un, x.head i = none) → (∀ i ∈ un, good i) → exec w s = .next s))

/-- How an operator answers (R69, R74, R135, R170): once the header and the first digit beat of every operand are there, it
sends its own header as soon as every lane's class and exponent is known, then each digit beat that is determined; with the beat
that shows every zero tail its operands are finished with. An output that has stopped the value takes no more of it. An exponent
that does not fit stalls the element. -/
def Sys2Proof.Claim.LaneOperations : Prop :=
  ∀ (s : State) (f site : Nat) (x : Fx) (w : Instr) (op : Nat) (two : Bool) (res : Fx → List LaneRes),
    IsLaneOp f site (w, op, two, res) → s.computeAt f site op = some x → x.clear →
    let ins := x.e.valIns two; let outs := valOuts op; let on := x.goesOn outs; let rs := res x
    x.killed outs = false → (∀ i ∈ ins, 2 ≤ (x.e.gotAt i).length) → (∀ o ∈ on, x.room o = true) →
    (∀ E c y, x.e.busy = false → header rs = .ok E c → x.leave on = some y → Fires s w (y.opened on E c rs)) ∧
    (x.e.busy = false → header rs = .bad → Stalls s w x (x.stallAt ccCfg 0x20 noInput)) ∧
    (∀ b y, x.e.busy = true → digits rs x.e.sent (x.e.rinAt 0) = some b → x.leave on = some y → let z := y.put on b
      (b.allTail = false → Fires s w { z with e := { z.e with sent := z.e.sent + 1 } }) ∧
      (b.allTail = true → Fires s w ((z.close outs).finish ins)))

/-- Decisions (R87, R170, R173, R227): the firing that reads the beat which decides the last lane sends the first word, sets the
status bits and kills whatever is still open at the inputs, and so waits for room; until then it only reads. `oconst`, `split` and `osel` (R171, R172) take their words at input 0 and send the value that they
make; a mask of `osel` with bits above the lanes stalls it. -/
def Sys2Proof.Claim.WordsAndDecisions : Prop :=
  ∀ (s : State) (f site : Nat) (x : Fx), x.clear →
    (∀ w op two res y, IsWordOp f site (w, op, two, res) → s.computeAt f site op = some x → let ins := x.e.valIns two
      x.readIn ins = some (.inr y) → (∀ i ∈ ins, 2 ≤ (y.e.gotAt i).length) →
      (res y = none → Fires s w y) ∧
      (∀ v r st, res y = some (v :: r, st) → let z := ((y.finish ins).queue ((v :: r).map fun w => (0, wordBeat w))).withStatus st
        let z : Fx := { z with e := { z.e with nval := z.e.nval + 1 } }
        (z.room 0 = false → exec w s = .next s) ∧
        (∀ u, z.room 0 = true → z.gateOut 0 = some u → Fires s w (u.firstWord v r)))) ∧
    (∀ b y, x.head 0 = some b → x.vec 0 = false → x.gateIn 0 = some y → x.e.words = [] →
      let z : Fx := { y.drop 0 with e := { y.e with words := [b.word] } }
      (s.computeAt f site 0x10 = some x → Fires s (.oconst f site) z) ∧
      (s.computeAt f site 0x11 = some x → Fires s (.split f site) z) ∧
      (s.computeAt f site 0x0F = some x → b.word.toNat < 2 ^ 16 → Fires s (.osel f site) z) ∧
      (s.computeAt f site 0x0F = some x → 2 ^ 16 ≤ b.word.toNat → Stalls s (.osel f site) x (x.stallAt ccCfg 0x26 0))) ∧
    (∀ y, x.killed [0] = false → x.stoppedOn 0 = false → x.room 0 = true → x.e.busy = false → x.leave [0] = some y →
      let sends (i : Instr) (rs : List LaneRes) : Prop := ∀ E c, header rs = .ok E c → Fires s i (y.opened [0] E c rs)
      (s.computeAt f site 0x10 = some x → x.e.words ≠ [] → sends (.oconst f site) ((lanesOf ((List.range 16).map fun k =>
        if (x.e.p 64 16).testBit k then fmtD.val (x.e.p 0 64) else .zero false)).2.map LaneIn.res)) ∧
      (s.computeAt f site 0x11 = some x → 16 * max (codeWidth x.e.fmt / 32) 1 ≤ x.e.words.length →
        sends (.split f site) ((lanesOf (wordVals x.e.fmt x.e.words)).2.map LaneIn.res)) ∧
      (∀ m, s.computeAt f site 0x0F = some x → x.e.words = [m] → 0 < m.toNat → m.toNat < 2 ^ 16 - 1 → x.e.cnt = 0 →
        2 ≤ (x.e.gotAt 1).length → 2 ≤ (x.e.gotAt 2).length → sends (.osel f site) ((List.range 16).map fun k =>
          match ((if m.getLsbD k then x.operand 1 else x.operand 2))[k]? with
          | some l => laneUnder (max (x.e.expoAt 1) (x.e.expoAt 2)) l
          | none => .wait)))

/-- Elements with a result for each round (R92, R94, R144, R174, R175): values are put by until the marker is at every input;
then the sum, the largest or the test of all of them leaves, and the marker after it. A round without values gives zeros, and
the identity of the maximum in lane 0. -/
def Sys2Proof.Claim.RoundResults : Prop :=
  ∀ (s : State) (f site : Nat) (x : Fx) (i : Instr) (op : Nat), IsRoundOp f site i op → s.computeAt f site op = some x → x.Here →
    x.e.stall = none → x.sl.dead = false → x.unposted = false → (∀ c ∈ x.s.chans, c.discard = 0) → x.e.outq = [] → x.head 3 = none → x.e.lastIn = 0 →
    (∀ k b, x.head k = some b → b.isCtl (x.vec k) = false) → x.inPorts = [0] →
    (x.marked 0 = false → x.e.closing = false → x.killed [0] = false → x.e.busy = false → x.e.whole 0 = true → op ≠ 0x17 →
      Fires s i { x with e := (x.e.setGot 0 [] false).addVal 0 (x.e.gotAt 0) }) ∧
    (x.marked 0 = false → x.useless (x.e.p 64 16) = false → x.e.whole 0 = true → op = 0x17 →
      Fires s i { x with e := (x.e.setGot 0 [] false).addVal 0 (x.e.gotAt 0) }) ∧
    (∀ b, x.marked 0 = true → x.head 0 = some b → b.word ≠ x.e.rinAt 0 → x.e.closing = false → x.killed [0] = false → x.e.busy = false →
      Stalls s i x (x.stallAt ccRoundTag 0x30 0 b.word)) ∧
    (x.marked 0 = true → (x.head 0).map (·.word) = some (x.e.rinAt 0) → op = 0x17 → let all := logits (x.e.p 64 16) (x.e.valsAt 0)
      let nan := all.any (·.2.cls = clNan); let ls := all.filter (·.2.cls ≠ clNan)
      ∃ w, ∃ z : Fx, (z = x ∨ z = { x with s := x.s.freeVal.2 }) ∧
        (∀ a, bestLogit ls = some a → w / 2 ^ 16 = a.1 ∧
          ∀ b, bestLogit (ls.filter (·.1 ≠ a.1)) = some b → w % 2 ^ 16 = (!nan && marginOk a.2 b.2 (fmtD.val (x.e.p 0 64))).toNat) ∧
        Sends s i ({ z with e := { x.e with vals := Vector.replicate 4 [], outq := [(0, natBeat w)]
                                            status := x.e.status ||| BitVec.ofNat 32 (if nan then sbNV else 0) } }.pastMarks [0] [0])) ∧
    (x.marked 0 = true → (x.head 0).map (·.word) = some (x.e.rinAt 0) → x.e.closing = false → x.killed [0] = false →
      x.stoppedOn 0 = false → x.e.busy = false → op ≠ 0x17 → x.room 0 = true →
      ∀ y, x.leave [0] = some y → let vs := (x.e.valsAt 0).map lanesIn
      (∀ rs E c, op = 0x13 → vs ≠ [] → allSome ((List.range 16).map fun k => (sumLanes (vs.filterMap (·[k]?))).map sumRes) = some rs →
        header rs = .ok E c → Fires s i (y.opened [0] E c rs)) ∧
      (∀ r E c, op = 0x14 → vs ≠ [] → sumLanes vs.flatten = some r → let rs := sumRes r :: List.replicate 15 plusZero
        header rs = .ok E c → Fires s i (y.opened [0] E c rs)) ∧
      (∀ r E c, op = 0x15 → vs ≠ [] → maxLanes (x.e.p 0 1 = 1) (maxIdent x.e.fmt (x.e.p 0 1 = 1)) vs.flatten = some r →
        let rs := sumRes r :: List.replicate 15 plusZero; header rs = .ok E c → Fires s i (y.opened [0] E c rs)) ∧
      (vs = [] → op ≠ 0x15 → Fires s i (y.opened [0] 0 (pack2 (List.replicate 16 clZero)) [])) ∧
      (vs = [] → op = 0x15 → (maxIdent x.e.fmt (x.e.p 0 1 = 1)).isInf = true →
        Fires s i (y.opened [0] 0 (pack2 (clInf :: List.replicate 15 clZero)) []))) ∧
    (x.e.closing = true → op ≠ 0x17 → (x.head 0).map (·.word) = some (x.e.rinAt 0) →
      Sends s i ({ x with e := { x.e with closing := false, vals := Vector.replicate 4 [] } }.pastMarks [0] [0]))

/-- The frame of every element (R135, R137, R142, R143, R155): a formed beat leaves when its output has room; markers that stand
at every input pass together, counted, and one with another number stalls the element; a stalled element and a region that the
watchdog has stopped do nothing, nor does a unit whose record waits to be posted (R401). An actor lets an element take or send a data beat where it has no rate there, while its last
firing lasts, or when every member has what it consumes and room for what it produces. -/
def Obligations.FiringFrame : Prop :=
  ∀ (s : State) (f site : Nat) (x : Fx) (i : Instr) (op : Nat), IsStateless f site i op ∨ IsRoundOp f site i op →
    s.computeAt f site op = some x → x.Here →
    ((x.e.stall.isSome = true ∨ x.sl.dead = true ∨ x.unposted = true) → exec i s = .next s) ∧
    (x.e.stall = none → x.sl.dead = false → x.unposted = false → (∀ c ∈ x.s.chans, c.discard = 0) →
      (∀ o b r, x.e.outq = (o, b) :: r → (b.kind = 0 → (x.outC o).any (·.vec) = true → x.stoppedOn o = false) →
        (x.room o = false → exec i s = .next s) ∧
        (∀ y, x.room o = true → (if b.isData ((x.outC o).any (·.vec)) then x.gateOut o else some x) = some y →
          Fires s i ({ y with e := { y.e with outq := r } }.push o b))) ∧
      (∀ o b r, x.e.outq = (o, b) :: r → b.kind = 0 → (x.outC o).any (·.vec) = true → x.stoppedOn o = true →
        Fires s i { x.endOut o with e := { x.e with outq := dropValue x.e.outq } }) ∧
      (IsStateless f site i op → x.e.outq = [] → x.e.busy = false → (∀ b, x.head 3 = some b → b.isMark false = true) → x.e.lastIn = 0 →
        x.inPorts ≠ [] → (∀ k ∈ x.inPorts, x.marked k = true) →
        ((∀ k ∈ x.inPorts, (x.head k).map (·.word) = some (x.e.rinAt k)) → Sends s i (x.pastMarks x.inPorts (valOuts op)) ∧
          (x.pastMarks x.inPorts (valOuts op)).e = x.pastMark (valOuts op)) ∧
        (∀ k b, k ∈ x.inPorts → (∀ j ∈ x.inPorts, j < k → (x.head j).map (·.word) = some (x.e.rinAt j)) → x.head k = some b →
          b.word ≠ x.e.rinAt k → Stalls s i x (x.stallAt ccRoundTag 0x30 k b.word)))) ∧
    (∀ k, k < 3 → (x.e.cin k = 0 → x.gateIn k = some x) ∧ (x.e.pout k = 0 → x.gateOut k = some x) ∧
      (0 < x.e.cin k → 0 < x.e.iq.toList.getD k 0 → ∃ y, x.gateIn k = some y ∧ y.s = x.s ∧
        y.e.iq.toList.getD k 0 = x.e.iq.toList.getD k 0 - 1) ∧
      (0 < x.e.cin k → x.e.iq.toList.getD k 0 = 0 → (∀ d ∈ x.sl.elems, d.same x.e = true → d = x.e) →
        ((x.gateIn k).isSome = true ↔ ∀ d ∈ x.sl.elems, d.actor = x.e.actor → d.sw = false → ({ x with e := d } : Fx).memberReady = true)))

/-- Elements that work on lanes (R69, R74, R132, R135, R136, R142, R170): what they read and what each operation makes of it. -/
def Obligations.LaneElements : Prop := Claim.ElementsRead ∧ Claim.LaneOperations

/-- Elements of words and decisions, and the results of rounds (R87, R92, R94, R144, R170 to R175). -/
def Obligations.WordElements : Prop := Claim.WordsAndDecisions ∧ Claim.RoundResults

namespace Sys2Proof.Machine

/-! ### The fabric: memory elements, generators, ports and switches (R176 to R187, R209, R446 to R449) -/

/-- The words of n bytes at the offset that an element adds to its cursor. -/
def Fx.accCap (x : Fx) : Cap := x.sl.capTab.getD (x.e.p 0 3) Cap.null
/-- n bytes at offset o of the element's own scratchpad lie in its SRAM. -/
def Fx.inSram (x : Fx) (o : Int) (n : Nat) : Prop :=
  let F := x.s.fieldOf x.sl.fld
  x.accCap.obj = x.s.ownObj x.sl.fld ∧ localObj ≤ x.accCap.obj ∧ o + n ≤ (F.n * step512 : Nat) ∧ F.n ≤ F.nmax ∧ F.moving = none
/-- A word stands at an input. -/
def Fx.hasWord (x : Fx) (i : Nat) (w : W32) : Prop := ∃ b, x.head i = some b ∧ b.kind = 0 ∧ b.word = w

/-- Nothing is due at a router's operation but what stands at its inputs. -/
def Fx.quiet (x : Fx) : Prop :=
  x.e.stall = none ∧ x.sl.dead = false ∧ x.unposted = false ∧ (∀ d ∈ x.sl.elems, d.stall = none) ∧ (∀ c ∈ x.s.chans, c.discard = 0) ∧ x.e.outq = []
/-- A beat of the token at input i passed to an output (R138, R184). -/
def Fx.passedOn (x : Fx) (i o : Nat) (b : Beat) : Fx :=
  let more := b.goesOn (x.vec i) (x.e.lastIn ≠ 0)
  let z := if b.kind = 1 && x.vec i then (x.forward i b [o]).keep i else x.forward i b [o]
  { z with e := { z.e with lastIn := if more then i + 1 else 0, sent := if more then x.e.sent + 1 else 0 } }
/-- What the next beat of the token at input i does: it is passed to the output, or, where it may not come there, it stalls the
operation. -/
def Passes (s : State) (w : Instr) (x : Fx) (i o : Nat) (b : Beat) : Prop :=
  (x.badToken i b = none → Sends s w (x.passedOn i o b)) ∧ ∀ u, x.badToken i b = some u → Stalls s w x u
/-- A router's operation after the markers at some inputs. -/
def Fx.passedMark (x : Fx) (ins : List Nat) (o : Nat) : Elem :=
  { x.e with rin := x.e.rin.mapIdx fun i r => if ins.contains i then r + 1 else r, nval := 0
             outq := [(o, markBeat ((x.outC o).any (·.vec)) (x.e.rinAt (ins.headD 0)))] }
/-- The markers at some inputs pass together, and one with their number leaves. -/
def Marks (s : State) (w : Instr) (x : Fx) (ins : List Nat) (o : Nat) : Prop :=
  Sends s w (x.pastMarks ins [o]) ∧ (x.pastMarks ins [o]).e = x.passedMark ins o
/-- A router's operation with markers at some inputs and nothing else due. -/
def Fx.atMark (x : Fx) (ins : List Nat) : Prop :=
  x.quiet ∧ x.e.lastIn = 0 ∧ ins ≠ [] ∧ ∀ i ∈ ins, x.marked i = true ∧ (x.head i).map (·.word) = some (x.e.rinAt i)
/-- The rounds of the inputs, that of input i counted on. -/
def Elem.rinOn (e : Elem) (i : Nat) : Vector W32 4 := e.rin.mapIdx fun k r => if k = i then r + 1 else r

end Sys2Proof.Machine

open Sys2Proof Sys2Proof.Machine

/-- Accesses of elements (R177, R260, R268): the checks of R24 at the element's capability, whose failure stalls it; a homed
access of a round that is not open waits, under the generation that it has captured; in the scratchpad's SRAM a read answers its
bytes, a write changes those bytes and no others. -/
def Sys2Proof.Claim.ElementAccesses : Prop :=
  ∀ (x : Fx) (off : Int) (n : Nat), x.e.waive = 0 → let c := x.accCap; let o := (c.cur : Int) + off
    let sc := x.e.p 4 5; let ctx := x.s.ctxOf x.sl.ctx
    let ends : Elem := { x.e with waive := 0, captured := none, passed := false }
    (∀ op k, checkCap (x.s.ownObj x.sl.fld) c (if op.writes then pW else pR) o n = some k →
      x.access off n op = .state (x.stallTrap (capTrap k c o) 0xFF)) ∧
    (∀ op, checkCap (x.s.ownObj x.sl.fld) c (if op.writes then pW else pR) o n = none → x.e.captured = none → ctx.scopeOk sc = false →
      x.access off n op = .state (x.stallTrap (scopeTrap ccScope c.obj sc (ctx.gen sc)) 0xFF)) ∧
    (∀ op, checkCap (x.s.ownObj x.sl.fld) c (if op.writes then pW else pR) o n = none → c.obj < localObj →
      x.s.roundOpen x.sl.ctx (x.e.rinAt 0) = false →
      (x.e.captured = none → ctx.scopeOk sc = true →
        x.access off n op = .state (x.s.setElem x.sl.fld x.sl.idx { x.e with captured := some (sc, ctx.gen sc, c.obj) })) ∧
      (x.e.captured.isSome = true → x.access off n op = .none)) ∧
    (n ∈ [1, 2, 4, 8] → ctx.scopeOk sc = true → x.e.passed = false → x.inSram o n → checkCap (x.s.ownObj x.sl.fld) c pR o n = none →
      ∃ y, x.access off n .read = .val y (readLE x.s.mem (spKey x.sl.fld o.toNat) n) ∧ y.s.mem = x.s.mem ∧ y.e = ends ∧ y.s.chans = x.s.chans) ∧
    (∀ v, n ∈ [4, 8] → ctx.scopeOk sc = true → x.e.passed = false → x.inSram o n → checkCap (x.s.ownObj x.sl.fld) c pW o n = none →
      x.s.Canonical → let k := spKey x.sl.fld o.toNat
      x.s.poison.contains (k / 16) = false → ∃ y r, x.access off n (.write v) = .val y r ∧ readLE y.s.mem k n = v % 256 ^ n ∧
        (∀ j, j < k ∨ k + n ≤ j → readByte y.s.mem j = readByte x.s.mem j) ∧ y.e = ends ∧ y.s.chans = x.s.chans)

/-- Memory elements (R177 to R179): `mld` sends what it reads, as words or, in mode 1, as a value; `mst` writes its data word;
`mlink` sends the fields of each node and then the count; `mring` walks a slot word by word. -/
def Sys2Proof.Claim.MemoryElements : Prop :=
  ∀ (s : State) (f site : Nat) (x : Fx), x.clear →
    (s.memAt f site 0x01 = some x → x.e.words = [] → ∀ a, x.hasWord 0 a → (x.gateIn 0).isSome = true →
      (x.e.p 9 2 ≠ 1 → x.room 0 = true → let n := if x.e.p 9 2 = 2 then 8 else 4
        ∀ y vs z, x.reads [(a.toInt, n)] = .inr (y, vs) → y.gateIn 0 = some z →
          Sends s (.mld f site) ((z.drop 0).queue ((vs.flatMap (wordsOf n)).map fun w => (0, wordBeat w)))) ∧
      (x.e.p 9 2 = 1 → ∀ y vs z, x.reads (vectorReads x.e.fmt a.toInt) = .inr (y, vs) → y.gateIn 0 = some z →
        Fires s (.mld f site) ((z.drop 0).setWords ((vectorCodes z.e.fmt vs).flatMap (codeWords z.e.fmt))))) ∧
    (s.memAt f site 0x02 = some x → ∀ d, x.hasWord 1 d → let gate (x : Fx) : Option Fx := (x.gateIn 0).bind (·.gateIn 1)
      (x.e.p 9 2 = 2 → x.e.words = [] → ∀ y, x.gateIn 1 = some y → Fires s (.mst f site) ((y.drop 1).setWords [d])) ∧
      (x.e.p 9 2 ≠ 2 → x.e.words = [] → (gate x).isSome = true → ∀ a y z r, x.hasWord 0 a →
        x.access a.toInt 4 (.write d.toNat) = .val y r → gate y = some z → Fires s (.mst f site) (((z.drop 0).drop 1).setWords [])) ∧
      (x.e.p 9 2 = 2 → (gate x).isSome = true → ∀ l a y z r, x.e.words = [l] → x.hasWord 0 a →
        x.access a.toInt 8 (.write (l.toNat + d.toNat * 2 ^ 32)) = .val y r → gate y = some z →
        Fires s (.mst f site) (((z.drop 0).drop 1).setWords []))) ∧
    (s.memAt f site 0x03 = some x →
      (x.e.words = [] → ∀ a y, x.hasWord 0 a → x.gateIn 0 = some y → Fires s (.mlink f site) ((y.drop 0).setWords [a, 0])) ∧
      (∀ a n, x.e.words = [a, n] → (a = BitVec.ofNat 32 (x.e.p 61 32) ∨ (x.e.p 45 16 ≠ 0 ∧ x.e.p 45 16 ≤ n.toNat)) →
        Sends s (.mlink f site) ((x.queue [(1, wordBeat n)]).setWords [])) ∧
      (∀ a n y vs, x.e.words = [a, n] → a ≠ BitVec.ofNat 32 (x.e.p 61 32) → (x.e.p 45 16 = 0 ∨ n.toNat < x.e.p 45 16) → x.room 0 = true →
        let at' (k : Nat) : Int := (a + BitVec.ofNat 32 k).toInt
        x.reads (((List.range (x.e.p 41 4)).map fun j => (at' (x.e.p 25 16 + 4 * j), 4)) ++ [(at' (x.e.p 9 16), 4)]) = .inr (y, vs) →
        Sends s (.mlink f site) ((y.queue (vs.dropLast.map fun v => (0, natBeat v))).setWords
          [BitVec.ofNat 32 (vs.getLastD 0) + BitVec.ofNat 32 (y.e.p 93 32), n + 1]))) ∧
    (s.memAt f site 0x04 = some x →
      (x.e.words = [] → ∀ a y, x.hasWord 0 a → x.gateIn 0 = some y → Fires s (.mring f site)
        ((y.drop 0).setWords [BitVec.ofNat 32 (a.toNat % y.e.p 41 16), 0])) ∧
      (∀ k j, x.e.words = [k, j] → x.e.p 57 16 ≤ 4 * j.toNat → Fires s (.mring f site) (x.setWords [])) ∧
      (∀ k j, x.e.words = [k, j] → 4 * j.toNat < x.e.p 57 16 →
        let off : Int := ((x.e.p 9 32 + k.toNat * x.e.p 57 16 + 4 * j.toNat : Nat) : Int)
        (∀ y v, x.e.p 73 1 = 0 → x.room 0 = true → x.access off 4 .read = .val y v →
          Sends s (.mring f site) ((y.queue [(0, natBeat v)]).setWords [k, j + 1])) ∧
        (∀ d y z r, x.e.p 73 1 = 1 → x.hasWord 1 d → (x.gateIn 1).isSome = true → x.access off 4 (.write d.toNat) = .val y r →
          y.gateIn 1 = some z → Fires s (.mring f site) ((z.drop 1).setWords [k, j + 1]))))

/-- Address generators (R141, R182): `agaff` counts through its nested strides, `agmod` through its ring; each closes its round
after a pass or when told to, with a marker where it is a round source, and ends after its rounds. `agidx` scales what it is
given. -/
def Sys2Proof.Claim.AddressGenerators : Prop :=
  ∀ (s : State) (f site : Nat) (x : Fx), x.clear →
    (∀ b y, s.agAt f site 0x03 = some x → x.head 0 = some b → b.kind = 0 → x.gateIn 0 = some y → Sends s (.agidx f site)
      ((y.drop 0).queue [(0, wordBeat (BitVec.ofNat 32 (y.e.p 0 32 + b.word.toNat * 2 ^ y.e.p 32 5)))])) ∧
    (x.e.ramped = true → x.e.ended = false →
      let marks := if x.e.rs then x.outPorts.map fun o => (o, markBeat ((x.outC o).any (·.vec)) x.e.round) else []
      let e : Elem := { x.e with outq := marks, round := x.e.round + 1, rounds := x.e.rounds + 1, tok := 0, closing := false }
      let closed (nr : Nat) : Fx := { x with e := { e with ended := decide (nr ≠ 0 ∧ nr ≤ x.e.rounds + 1) } }
      let sent (v : Int) : Fx := { x with e := { x.e with outq := [(0, wordBeat (BitVec.ofInt 32 v))], tok := x.e.tok + 1, tokAll := x.e.tokAll + 1 } }
      (s.agAt f site 0x01 = some x →
        ((x.e.closing = true ∨ x.e.passLen ≤ x.e.tok) → Sends s (.agaff f site) (closed (x.e.p 168 8))) ∧
        (x.e.closing = false → x.e.tok < x.e.passLen → x.sends = true →
          let c (k : Nat) : Nat := max (x.e.dim k).1 1; let d (k : Nat) : Int := (x.e.dim k).2; let t := x.e.tok
          Sends s (.agaff f site) (sent ((x.e.p 0 32 : Nat) + ((t % c 0 : Nat) * d 0 + ((t / c 0 % c 1 : Nat) * d 1 +
            ((t / c 0 / c 1 % c 2 : Nat) * d 2 + (t / c 0 / c 1 / c 2 % c 3 : Nat) * d 3)))))) ∧
        (x.e.closing = false → x.e.tok < x.e.passLen → x.sends = false → exec (.agaff f site) s = .next s)) ∧
      (s.agAt f site 0x02 = some x →
        ((x.e.closing = true ∨ x.e.p 112 16 ≤ x.e.tok) → Sends s (.agmod f site) (closed (x.e.p 128 8))) ∧
        (x.e.closing = false → x.e.tok < x.e.p 112 16 → x.sends = true → Sends s (.agmod f site) (sent ((x.e.p 0 32 : Nat) +
          ((x.e.p 32 32 : Nat) + (x.e.tokAll : Int) * toSigned 16 (x.e.p 64 16)) % (x.e.p 80 16 : Nat) * (x.e.p 96 16 : Nat))))))

/-- Sequencer ports (R20, R180, R206, R209): entries of a bound queue leave as words, words enter one, the word after each group
goes to SETTLE_U; an exit collects its record, and the record's arrival resumes the strand that its head names. -/
def Sys2Proof.Claim.SequencerPorts : Prop :=
  ∀ (s : State) (f site : Nat) (x : Fx), x.clear → s.fxAt f site false (fun e => e.isM && e.col = 0 && e.op = 0x06) = some x →
    let port := x.s.portBind x.sl.fld (x.e.site / 16) x.sl.idx
    (x.e.p 0 2 = 0 → x.closes = false → x.sends = true → ∀ t b v r, port = some (t, b) → b.ents = v :: r →
      let y : Fx := { x with s := x.s.updPortBind x.sl.fld t b.q fun b => { b with ents := r } }
      Sends s (.sqp f site) ((y.queue ((if b.w64 then wordsOf 8 v.toNat else [v.setWidth 32]).map fun w => (0, wordBeat w))).token)) ∧
    ((x.e.p 0 2 = 0 ∨ x.e.p 0 2 = 2) → x.closes = true → Sends s (.sqp f site) x.closeRound) ∧
    (x.e.p 0 2 = 1 → ∀ t b w y, port = some (t, b) → x.hasWord 0 w → x.gateIn 0 = some y →
      let absorb := y.s.updStrand y.sl.fld t fun t => { t with settleU := t.settleU ||| w.setWidth 16 }
      let enter (v : W64) := y.s.updPortBind y.sl.fld t b.q fun b => { b with ents := b.ents ++ [v] }
      (x.e.p 2 1 = 1 → x.e.cnt = x.e.p 3 5 → Fires s (.sqp f site) (({ y with s := absorb, e := { y.e with cnt := 0 } } : Fx).drop 0)) ∧
      ((x.e.p 2 1 = 0 ∨ x.e.cnt ≠ x.e.p 3 5) →
        (b.w64 = false → b.ents.length < queueCap →
          Fires s (.sqp f site) (({ y with s := enter (w.setWidth 64), e := { y.e with nval := 0, cnt := y.e.cnt + 1 } } : Fx).drop 0)) ∧
        (b.w64 = true → x.e.nval = 0 →
          Fires s (.sqp f site) (({ y with e := { y.e with nval := 1, tok := w.toNat, cnt := y.e.cnt + 1 } } : Fx).drop 0)) ∧
        (b.w64 = true → x.e.nval ≠ 0 → b.ents.length < queueCap →
          Fires s (.sqp f site) (({ y with s := enter (BitVec.ofNat 64 (x.e.tok + w.toNat * 2 ^ 32))
                                           e := { y.e with nval := 0, cnt := y.e.cnt + 1 } } : Fx).drop 0)))) ∧
    (x.e.p 0 2 = 3 → ∀ b, x.e.closing = false → x.s.exitBusy x.sl.fld (x.e.site / 16) = false → x.head 0 = some b →
      ((x.e.words ≠ [] ∨ b.kind = kHead) → Fires s (.sqp f site) (({ x with e := { x.e with words := x.e.words ++ [b.word], closing := b.kind = kTail } } : Fx).drop 0)) ∧
      (x.e.words = [] → b.kind ≠ kHead → Stalls s (.sqp f site) x (x.stallAt ccCfg 0x22 0))) ∧
    (∀ row h ds t, site = 16 * row → x.e.p 0 2 = 3 → x.e.words = h :: ds → x.e.closing = true → h.toNat / 2 ^ 11 % 2 ^ 7 = f →
      h.toNat / 2 ^ 18 % 2 ^ 5 = s.pkg → s.strandAt f (h.toNat / 2 ^ 8 % 8) = some t → t.stat = .fabric →
      ∃ u, exec (.recordAtExit f row) s = .next u ∧ u.mem = s.mem ∧
        u.strandAt f (h.toNat / 2 ^ 8 % 8) = some { t with stat := .running, exitRec := some (row, ds) })

/-- Ports of engines and arrays (R176, R180, R181, R312, R323, R342): `engp` gathers the words of a request and sends it once
its checks pass and what was written before is home; `mxp` sends drain commands, and their rows as values; `atp` sends the rows of
the attention engine. -/
def Obligations.EnginePorts : Prop :=
  ∀ (s : State) (f site : Nat) (x : Fx), x.clear →
    (s.fxAt f site false (fun e => e.isM && e.col = 0 && e.op = 0x05) = some x → (x.e.rs && x.closes) = false →
      (∀ b y, x.e.words = [] → x.head 0 = some b → b.kind = 0 → (x.vec 0) = false → (wordZero (x.e.p 0 4) b.word).isSome = true → x.gateIn 0 = some y →
        Fires s (.engp f site) ((y.drop 0).setWords (y.e.words ++ [b.word]))) ∧
      (∀ b, x.e.words = [] → x.head 0 = some b → b.kind = 0 → (x.vec 0) = false → wordZero (x.e.p 0 4) b.word = none →
        Stalls s (.engp f site) x (x.stallTrap (engTrap 0x8B 0 0) 0xFF)) ∧
      (∀ w0 ws size caps y, x.head 0 = none → x.e.words = w0 :: ws → wordZero (x.e.p 0 4) w0 = some (size, caps) → w0.toNat % 64 ≠ 0x2C →
        (wordOffs size caps).length ≤ ws.length →
        let m := bits w0.toNat 0 6; let fn := bits w0.toNat 6 9; let ps := (wordOffs size caps).zip ws; let cs := ps.filter (·.1.2)
        let i := { x.issuer (x.e.p 4 5) (cs.filterMap fun p => match capWord x m p.1.1 p.2 with
          | some (some c) => some (p.1.1, c)
          | _ => none) (cs.any fun p => capWord x m p.1.1 p.2 = some none) with waive := x.e.waive }
        let blk := ((List.range (size / 4)).map fun k => toBytes 4 (match ps.find? fun p => p.1 = (4 * k, false) with
          | some p => p.2.toNat
          | none => 0)).flatten
        let p := wordPlan m fn 0 x.s i blk
        (∀ q ∈ cs, (capWord x m q.1.1 q.2).isSome = true) → x.s.checkReq i blk true p = .inr .ok → x.s.tileTurn i p .ok = true →
        x.s.streamFull i.src p.eng = false →
        x.s.roundOpen x.sl.ctx (x.e.rinAt 0) = true → x.before (x.e.p 4 5) = some (.inr y) →
        Fires s (.engp f site) { y with s := y.s.enqueue i p (y.s.mkReq i m fn 0 blk [(0 : W64)] .elem i.out p)
                                        e := { y.e with words := [], waive := 0 } })) ∧
    (s.fxAt f site false (fun e => e.isM && e.col = 0 && e.op = 0x07) = some x →
      (∀ c y, x.pendingReq = false → x.hasWord 0 c → c.toNat < 2 ^ 14 → c.toNat / 4 % 64 + c.toNat / 256 % 64 < 64 → x.gateIn 0 = some y →
        let z := y.drop 0; let i := z.issuer 0 [] false; let p : Plan := { total := 1, eng := engId z.s.pkg 8 (2 * f + site / 16 % 2) }
        Fires s (.mxp f site) { z with s := z.s.enqueue i p (z.s.mkReq i majDrain 0 c.toNat [] [] .none false p) }) ∧
      (∀ c, x.pendingReq = false → x.hasWord 0 c → (2 ^ 14 ≤ c.toNat ∨ 64 ≤ c.toNat / 4 % 64 + c.toNat / 256 % 64) →
        Stalls s (.mxp f site) x (x.stallAt ccCfg 0x0B 0)) ∧
      (∀ st r, x.pendingReq = true → s.streams.find? (fun t => t.src = .elem f x.sl.idx site) = some st → st.cur = some r →
        s.arrayBusy f st.id = false → let d := s.drainBeats f (site / 16 % 2) (bits r.imm 0 2) (bits r.imm 2 6) (bits r.imm 8 6 + 1) r.round
        Sends s (.mxp f site) (({ x with s := s.setStream (st.setReq { r with next := 1, started := true }) } : Fx).withStatus
          (if d.2 then sbOF else 0) |>.queue (d.1.map fun b => (0, b))))) ∧
    (s.fxAt f site false (fun e => e.isM && e.col = 0 && e.op = 0x08) = some x →
      (x.closes = true → Sends s (.atp f site) x.closeRound) ∧
      (∀ st r, x.closes = false → x.sends = true → s.streams = [st] → st.eng = engId s.pkg 9 f → st.reqs = [r] → r.major = 0x28 →
        r.data ≠ [] → 16 * (6 + (attnOp r.blk).pt) = site → let fo := (attnOp r.blk).fout; let n := fmtBytes fo 16
        let y : Fx := { x with s := s.setStream (st.setReq { r with data := r.data.drop n }) }
        Sends s (.atp f site) ((y.queue ((valueBeats ((unpackCodes fo 16 (r.data.take n)).map (codeVal fo)) x.e.round).map fun b => (0, b))).token)))

/-- What a token passed whole may not hold (R132, R139, R142): a digit where no value is open, a header inside one, a reserved
control code, a first digit beat of another round, or a record head with bits 31:29 not zero. -/
def Sys2Proof.Claim.TokenChecks : Prop :=
  ∀ (x : Fx) (i : Nat) (b : Beat),
    (x.vec i = false → x.e.lastIn = 0 → b.kind = kHead → 2 ^ 29 ≤ b.word.toNat → x.badToken i b = some (x.stallAt ccCfg 0x24 i)) ∧
    (x.vec i = false → (b.kind ≠ kHead ∨ b.word.toNat < 2 ^ 29) → x.badToken i b = none) ∧
    (x.vec i = true → x.e.lastIn = 0 → b.kind = 0 → x.badToken i b = some (x.stallAt ccCfg 0x22 i)) ∧
    (x.vec i = true → x.e.lastIn = 0 → b.kind = 3 → b.v ≠ 1 → x.badToken i b = some (x.stallAt ccCfg 0x21 i)) ∧
    (x.vec i = true → x.e.lastIn = 0 → (b.kind = 1 ∨ (b.kind = 3 ∧ b.v = 1)) → x.badToken i b = none) ∧
    (x.vec i = true → x.e.lastIn ≠ 0 → b.kind ≠ 0 → x.badToken i b = some (x.stallAt ccCfg 0x22 i)) ∧
    (x.vec i = true → x.e.lastIn ≠ 0 → b.kind = 0 → let first := x.e.sent = 1; let same := BitVec.ofNat 4 b.tag = (x.e.rinAt i).setWidth 4
      (first → ¬ same → x.badToken i b = some (x.stallAt ccRoundTag 0x31 i (BitVec.ofNat 32 b.tag))) ∧
      ((¬ first ∨ same) → x.badToken i b = none))

/-- Switch operations (R138, R143, R183 to R185, R446 to R449): `steer` sends a record where its head's pipe says, with its new
pipe; a merge passes whole tokens, and its marker once one stands at every input, and a marker beside a token stalls it; a join
node passes one input's round after the other; a carry lets back what comes round before it lets in, and counts what it lets in;
a circuit's sender hands its beats to the receiver. -/
def Sys2Proof.Claim.SwitchOperations : Prop :=
  ∀ (s : State) (f site : Nat) (x : Fx),
    (s.switchAt f site 0x01 = some x → x.clear → ∀ b, x.head 0 = some b →
      (x.e.lastIn ≠ 0 → let z := x.forward 0 b [x.e.lastIn - 1]
        Sends s (.steer f site) { z with e := { z.e with lastIn := if b.kind = kTail then 0 else x.e.lastIn } }) ∧
      (x.e.lastIn = 0 → b.kind = kHead → b.word.toNat < 2 ^ 29 → let pipe := b.word.toNat % 256
        (∀ j np pv, j < 8 → x.e.steerEntry j = some (pipe, np, pv) → (∀ i t, i < j → x.e.steerEntry i = some t → t.1 ≠ pipe) →
          let z := x.forward 0 { b with v := BitVec.ofNat 48 (b.word.toNat - pipe + np) } [pv]
          let z : Fx := { z with e := { z.e with lastIn := pv + 1 } }
          (z.fired = none → exec (.steer f site) s = .next s) ∧
          (∀ u, z.fired = some u → exec (.steer f site) s =
            .next (s.markLeft (u.countOut x.sl (x.sl.fld, x.e.site, true) j) x.sl.ctx).syncRounds)) ∧
        ((∀ i t, i < 8 → x.e.steerEntry i = some t → t.1 ≠ pipe) → Stalls s (.steer f site) x (x.stallAt ccCfg 0x25 0))) ∧
      (x.e.lastIn = 0 → b.kind = kHead → 2 ^ 29 ≤ b.word.toNat → Stalls s (.steer f site) x (x.stallAt ccCfg 0x24 0)) ∧
      (x.e.lastIn = 0 → b.kind ≠ kHead → Stalls s (.steer f site) x (x.stallAt ccCfg 0x22 0))) ∧
    (s.switchAt f site 0x02 = some x → let ins := x.e.mergeIns; let o := x.e.swOut
      (x.e.p 204 1 = 0 → x.clear → x.e.lastIn = 0 → ∀ i b, ins.find? (fun i => (x.head i).isSome) = some i → x.head i = some b →
        Passes s (.merge f site) x i o b) ∧
      (x.e.p 204 1 = 0 → x.Here → x.atMark ins → Marks s (.merge f site) x ins o) ∧
      (x.e.p 204 1 = 0 → x.quiet → x.e.lastIn = 0 → ∀ i j b, ins.find? x.marked = some i → ins.find? x.holdsToken = some j →
        x.tokened j = true → x.head i = some b → Stalls s (.merge f site) x (x.stallAt ccRoundTag 0x32 i b.word)) ∧
      (x.e.p 204 1 = 1 → exec (.merge f site) s = .next s) ∧ (x.e.p 204 1 = 0 → exec (.joinNode f site) s = .next s) ∧
      (x.e.p 204 1 = 1 → ∀ i, ins[x.e.tok]? = some i →
        (x.clear → x.e.lastIn = 0 → ∀ b, x.head i = some b → Passes s (.joinNode f site) x i o b) ∧
        (x.atMark [i] → let last := x.e.tok + 1 = ins.length; ∀ b, x.head i = some b →
          Sends s (.joinNode f site) { (x.drop i).keep i with e := { x.e with rin := x.e.rinOn i, outq := (if last then [(o, b)] else []),
                                                                               tok := if last then 0 else x.e.tok + 1 } }))) ∧
    (s.switchAt f site 0x03 = some x → let o := x.e.swOut
      (x.clear → x.e.lastIn = 0 → ∀ b, b.kind = kHead → b.word.toNat < 2 ^ 29 →
        (x.head 1 = some b → Sends s (.carry f site) (x.passedOn 1 o b)) ∧
        (x.head 1 = none → x.head 0 = some b → x.e.cnt < x.e.p 201 4 →
          Sends s (.carry f site) (({ x with e := { x.e with cnt := x.e.cnt + 1 } } : Fx).passedOn 0 o b)) ∧
        (x.head 1 = none → x.head 0 = some b → x.e.p 201 4 ≤ x.e.cnt → exec (.carry f site) s = .next s)) ∧
      (x.atMark [0] → x.head 1 = none → ∀ b, x.head 0 = some b →
        (x.e.cnt = 0 → x.e.rinAt 0 = x.e.rinAt 1 →
          Sends s (.carry f site) { x.drop 0 with e := { x.e with rin := x.e.rinOn 0, outq := [(o, b)] } }) ∧
        (x.e.cnt ≠ 0 → exec (.carry f site) s = .next s)) ∧
      (x.atMark [1] → Sends s (.carry f site) { x.drop 1 with e := { x.e with rin := x.e.rinOn 1 } })) ∧
    (s.switchAt f site 0x04 = some x →
      (x.e.isCircuit = false → x.clear → x.e.lastIn = 0 → ∀ b, x.head 0 = some b → Passes s (.fwd f site) x 0 x.e.swOut b) ∧
      (x.e.isCircuit = false → x.Here → x.atMark [0] → Marks s (.fwd f site) x [0] x.e.swOut) ∧
      (∀ sl r b, x.e.isCircuit = true → x.e.isRecv = false → x.clear → x.peer = some (sl, r) → x.e.stop = false → x.head 0 = some b →
        (circuitCap ≤ r.outq.length → exec (.fwd f site) s = .next s) ∧
        (r.outq.length < circuitCap → x.badToken 0 b = none → let more := b.goesOn (x.vec 0) (x.e.lastIn ≠ 0)
          let y := if b.kind = 1 && x.vec 0 then (x.drop 0).keep 0 else x.drop 0
          let z : Fx := { y with e := { x.e with lastIn := if more then 1 else 0, sent := if more then x.e.sent + 1 else 0 } }
          exec (.fwd f site) s =
            .next (s.markLeft (z.done.setElem sl.fld sl.idx { r with outq := r.outq ++ [(r.swOut, b)] }) x.sl.ctx).syncRounds)))

/-- Filters (R186, R187): the first entry that may fire converts a word, takes the zeros out of it, takes a mask to put zeros
back, or gathers a block to transpose it. -/
def Sys2Proof.Claim.Filters : Prop :=
  ∀ (s : State) (f site k : Nat) (x : Fx), k < 4 → s.fxAt f site true (fun e => e.op = 5 && e.sub = k) = some x → x.clear →
    (∀ j, j < k → s.fxAt f site true (fun e => e.op = 5 && e.sub = j) = none) →
    let sends (z : Fx) : Prop := ∀ t, z.fired = some t → exec (.vcfilt f site) s = .next (s.markLeft t z.sl.ctx).syncRounds
    (∀ w, x.hasWord 0 w →
      (x.e.vcfMode = 0 → codeWidth (x.e.vcf 14 4) ≠ 64 → let c := convertElem (x.e.vcf 14 4) (x.e.vcf 10 4) (rmode (x.e.vcf 18 3)) w.toNat
        let z := ((x.drop 0).queue (c.1.map fun v => (x.e.vcfOut, wordBeat v))).withStatus c.2
        sends { z with e := { z.e with buf := [] } }) ∧
      (x.e.vcfMode = 1 → let z := (x.e.unpackW w).foldl Fx.removeElem (x.drop 0); let p := z.e.packAll 8 z.e.buf
        sends (({ z with e := { z.e with buf := p.2 } } : Fx).queue (p.1.map fun v => (z.e.vcfOut, wordBeat v)))) ∧
      (x.e.vcfMode = 3 → x.e.buf.length < 255 → let z := x.drop 0
        Fires s (.vcfilt f site) { z with e := { z.e with buf := z.e.buf ++ [w] } }) ∧
      (x.e.vcfMode = 3 → x.e.buf.length = 255 → let z := x.drop 0
        sends (({ z with e := { z.e with buf := [] } } : Fx).queue
          ((transpose (x.e.buf ++ [w])).map fun v => (x.e.vcfOut, wordBeat v))))) ∧
    (∀ b, x.e.vcfMode = 2 → x.head 1 = some b → b.kind = 0 → x.e.words = [] →
      Fires s (.vcfilt f site) (({ x.drop 1 with e := { x.e with cnt := 0 } } : Fx).setWords [b.word])) ∧
    (∀ (y : Fx) (v : W32), (y.removeElem v).e.tokAll = y.e.tokAll + (if v = 0 then 0 else 1) ∧
      (y.removeElem v).e.buf = (if v = 0 then y.e.buf else y.e.buf ++ [v])) ∧
    (∀ l : List W32, l.length = 256 → ∀ i j, i < 16 → j < 16 → (transpose l).getD (16 * i + j) 0 = l.getD (16 * j + i) 0)

/-- Tile swaps, kills and rounds (R145 to R147, R150, R260): a swap token exchanges the two stationary registers once L is full;
a kill pulse stops the value that is still open at its producer; the open round of a context advances when every element has
passed its marker and everything it had to do is done. -/
def Obligations.SwapsKillsRounds : Prop :=
  (∀ (s : State) (f site : Nat) (x : Fx) (b : Beat), s.fxAt f site false (·.isC) = some x → x.e.stall = none → x.sl.dead = false → x.unposted = false →
    x.e.outq = [] → x.e.lastIn = 0 → x.inPorts = [0] → x.head 0 = some b → x.vec 0 = true → b.kind = 3 → x.e.gotAt 0 = [] → x.e.words = [] →
    (b.v = 1 → x.e.hasSt = true → x.e.lfull = true →
      let z : Fx := { x.drop 0 with e := { x.e with tileA := x.e.tileL, tileL := x.e.tileA, filled := 0, lfull := false, nval := 0 } }
      let z := if x.e.swf then z.queue ((z.outPorts.filter fun o => (z.outC o).any (·.vec)).map fun o => (o, swapBeat)) else z
      (z.fired = none → exec (.tileSwap f site) s = .next s) ∧
      ∀ t, z.fired = some t → exec (.tileSwap f site) s = .next t.syncRounds) ∧
    (b.v = 1 → x.e.hasSt = true → x.e.lfull = false → exec (.tileSwap f site) s = .next s) ∧
    (b.v ≠ 1 → exec (.tileSwap f site) s = .next (x.stallAt ccCfg 0x21 0).syncRounds) ∧
    (b.v = 1 → x.e.hasSt = false → exec (.tileSwap f site) s = .next (x.stallAt ccCfg 0x23 0).syncRounds)) ∧
  (∀ (s : State) (f id : Nat) (c : Chan), s.chan id = some c →
    (c.src.fld = f → c.kill = true → exec (.kill f id) s = .next (s.setChan { c with kill := false, stopped := c.openv })) ∧
    (c.kill = false → exec (.kill f id) s = .next s)) ∧
  (∀ (s : State) (ctx : Nat), let c := s.ctxOf ctx; let j := c.openRound
    (roundAfter c.round j = true → (∀ sl ∈ s.slots, sl.st = .running → sl.ctx = ctx → ∀ e ∈ sl.elems, s.elemPast sl e j = true) →
      (∀ g ∈ s.flights, g.acc.ctx = ctx → g.acc.round = j → g.pending = false) → (∀ st ∈ s.streams, ∀ r ∈ st.reqs, r.ctx = ctx → r.round ≠ j) →
      (∀ e ∈ s.l1, e.ctx = ctx → e.wround = j → e.dirty = 0) →
      ∃ t, exec (.roundComplete ctx) s = .next t ∧ (t.ctxOf ctx).openRound = j + 1 ∧ (t.ctxOf ctx).round = c.round ∧ t.mem = s.mem ∧ t.slots = s.slots) ∧
    (roundAfter c.round j = false → exec (.roundComplete ctx) s = .next s) ∧
    ((∃ sl ∈ s.slots, sl.st = .running ∧ sl.ctx = ctx ∧ ∃ e ∈ sl.elems, s.elemPast sl e j = false) → exec (.roundComplete ctx) s = .next s))

/-- Elements that reach memory (R177 to R179, R260, R268): their accesses and what each leaves. -/
def Obligations.MemorySideElements : Prop := Claim.ElementAccesses ∧ Claim.MemoryElements

/-- Address generators and sequencer ports (R20, R141, R180, R182, R206, R209). -/
def Obligations.GeneratorsAndPorts : Prop := Claim.AddressGenerators ∧ Claim.SequencerPorts

/-- Switch operations (R132, R138, R139, R142, R143, R183 to R187, R446 to R449): the checks of what they pass, steering, merging,
joining, carrying, forwarding and filtering. -/
def Obligations.SwitchElements : Prop := Claim.TokenChecks ∧ Claim.SwitchOperations ∧ Claim.Filters

namespace Sys2Proof.Machine

/-! ### Engines (R308 to R384) -/

/-- The instructions that name a request block (R337): major opcode, size of the block, registers read besides, and the plan
that its checks make of the block. -/
def IsBlockReq (w : LF) (q : Instr × Nat × Nat × List RegF × (State → Issuer → List Byte → Plan)) : Prop :=
  q ∈ [(Instr.xcopy w, 0x20, 64, [], copyPlan false (bits w.fn.toNat 1 3)), (.xcopy2 w, 0x21, 96, [], copyPlan true (bits w.fn.toNat 1 3)),
   (.xgather w, 0x22, 96, [], gatherPlan false), (.xscatter w, 0x23, 96, [], gatherPlan true), (.attn w, 0x28, 128, [], attnPlan),
   (.xcodec w, 0x29, 96, [], codecPlan), (.xcksum w, 0x2A, 96, [], cksumPlan), (.coll w, 0x2B, 96, [], collPlan),
   (.nvsub w, 0x2C, 128, [w.b], fun s i blk => nvPlan (s.readReg w.b).toNat s i blk), (.kvlook w, 0x2E, 64, [], lookPlan),
   (.kvapp w, 0x2F, 64, [], appPlan), (.kvfork w, 0x30, 96, [], forkPlan), (.kvfree w, 0x31, 64, [], freePlan),
   (.kvpol w, 0x32, 64, [], polPlan), (.xtest w, 0x33, 64, [], testPlan), (.bfenq w, 0x34, 96, [], enqPlan),
   (.evscore w, 0x36, 64, [], scorePlan), (.sqevict w, 0x37, 64, [], evictPlan)]

/-- The matrix instructions (R346 to R348): major opcode, registers, array and the cause that their checks raise. -/
def IsPlainReq (s : State) (w : LF) (q : Instr × Nat × List RegF × Nat × Option TrapInfo) : Prop :=
  let ab := [w.a, w.a + 1, w.b, w.b + 1, w.x]
  let row (regs : List RegF) := rowOp w.fn.toNat w.imm.toNat ((regs.map s.readReg).getD 0 0)
  let wr := if w.fnBits 8 1 = 1 then [w.a, w.b] else [w.a]
  q ∈ [(Instr.mma w, 0x24, ab, bits w.fn.toNat 1 1, s.matCheck (matOp false w.fn.toNat w.imm.toNat (ab.map s.readReg))),
   (.mmx w, 0x25, ab ++ [w.x + 1], bits w.fn.toNat 1 1, s.matCheck (matOp true w.fn.toNat w.imm.toNat ((ab ++ [w.x + 1]).map s.readReg))),
   (.accrd w, 0x26, [w.a], bits w.fn.toNat 1 1, s.rowCheck (row [w.a]) (w.fnBits 7 1 = 1)),
   (.accwr w, 0x27, wr, bits w.fn.toNat 1 1, s.rowCheck (row wr) true)]

/-- The steps that perform an element of a request (R313): majors, work, and the faults that stay at the stream's head. -/
def IsEngStep (st : Nat) (q : Instr × List Nat × (Req → Eng ElemRes) × (TrapInfo → Bool)) : Prop :=
  let no : TrapInfo → Bool := fun _ => false
  q ∈ [(Instr.copyElementPerform st, [0x20, 0x21], copyBody, no), (.gatherElementPerform st, [0x22, 0x23], gatherBody, no),
   (.accrdPerform st, [0x26], accrdBody, arrayHolds), (.accwrPerform st, [0x27], accwrBody, arrayHolds),
   (.attnPerform st, [0x28], attnBody, arrayHolds), (.codecChunkPerform st, [0x29], codecBody, no),
   (.checksumPerform st, [0x2A], cksumBody, no), (.collectivePerform st, [0x2B], collBody, no),
   (.nvmeSubmitPerform st, [0x2C], nvsubBody, no), (.kvlookPerform st, [0x2E], lookBody, no), (.kvappPerform st, [0x2F], appBody, no),
   (.kvforkPerform st, [0x30], forkBody, no), (.kvfreePerform st, [0x31], freeBody, no), (.kvpolPerform st, [0x32], polBody, no),
   (.xtestPerform st, [0x33], testBody, no), (.bfenqPerform st, [0x34], enqBody, no), (.evscorePerform st, [0x36], scoreBody, no),
   (.sqevictPerform st, [0x37], evictBody, no)]

/-- The element that a stream performs now is r's, and nothing holds it (R313 to R317, R324, R424). -/
def MayPerform (s : State) (st : Stream) (r : Req) : Prop :=
  st.cur = some r ∧ st.heldWp = false ∧ st.stall = none ∧ s.mustLeave st r = false ∧ r.out = none ∧ r.ob = false ∧ r.bad = false ∧
    r.toPin = [] ∧ ∀ p ∈ s.posts, p.stream ≠ some st.id
/-- The machine, the request and what else an element's work starts with. -/
def startWork (s : State) (r : Req) : EW := { s := s, r := { r with started := true }, fl := 0, wq := [] }
/-- What a fault of an element's work leaves of it: a chunk that it could not decode is poisoned (R253). -/
def State.afterFault (s : State) (k : TrapInfo) (a : Option Access) : State := a.elim s fun a => s.keepPoison a k
/-- What an element's work comes to, tried on u; `next` says what the step leaves beside. -/
def WorkDone (u : State) (st : Stream) (r : Req) (body : Req → Eng ElemRes) (hold : TrapInfo → Bool) (next : State → Prop) : Prop :=
  (∀ e w st', body r (startWork u r) = .ok (e, w) → e.fault = none → e.note = none → w.s.streamAt st.id = some st' →
    (e.more = true → next (w.s.setStream { st'.setReq w.r with port := none })) ∧
    (e.more = false → next (w.s.engLand (st'.setReq { w.r with pend := w.wq }) { w.r with pend := w.wq }
      (respWord e.st e.cause e.sub r.next st.eng 0 w.fl r.rtag e.res)))) ∧
  (body r (startWork u r) = .error (.wait none) → next u) ∧
  (∀ a c y, body r (startWork u r) = .error (.wait (some (a, c, y))) → next (u.holdReq r a c y)) ∧
  (∀ k fl a, body r (startWork u r) = .error (.fault k fl a) →
    (hold k = false → next ((u.afterFault k a).engFault st r k fl)) ∧
    (hold k = true → next (((u.afterFault k a).postReq r st.eng 4 k true).setStream { st with stall := some k, port := none })))
/-- The requests of a KV engine, which performs one at a time (R370). -/
def kvMajors : List Nat := [0x2E, 0x2F, 0x30, 0x31, 0x32, 0x36, 0x37]

end Sys2Proof.Machine

open Sys2Proof Sys2Proof.Machine

/-- Requests are issued (R310 to R313, R336 to R338): a block that is read whole and passes its checks becomes the last request
of the strand's stream to the engine, and the class counter counts it; a full counter or stream makes the instruction wait; a
check that fails raises its cause, and a request that its tiles hold up waits at their table (R237). A block whose first byte is
not zero fails at offset 0. -/
def Sys2Proof.Claim.RequestsIssue : Prop :=
  ∀ (s t : State) (w : LF) (i : Instr) (major size : Nat) (reads : List RegF) (plan : State → Issuer → List Byte → Plan) secs,
    IsBlockReq w (i, major, size, reads, plan) → s.me.finder = false → s.pred w.g = true → Admits s { reads := reads } →
    s.sinkUnbound w.d = false → let c := s.creg5 w.a; let o := dispAddr c w
    (∀ k, checkRange (s.ownObj s.me.fld) c pR o size = some k → exec i s = s.raise (capTrap k c o)) ∧
    (checkRange (s.ownObj s.me.fld) c pR o size = none → o % 64 ≠ 0 → exec i s = s.raise (capTrap ccAlign c o)) ∧
    (checkRange (s.ownObj s.me.fld) c pR o size = none → o % 64 = 0 →
      s.readRecord (s.strandAccess c.obj o.toNat 16 .capRead 0 1) (size / 16) = .ok t secs →
      let blk := secBytes secs; let iss := t.issuer w.x.toNat (secs.zipIdx.map fun p => (16 * p.2, secCap p.1)) c.obj
      let p := plan t iss blk; let nr := decide (24 ≤ w.d.toNat)
      (∀ k, t.me.finder = false → t.checkReq iss blk nr p = .inl k → exec i s = t.raise k) ∧
      (fieldLE blk 0 1 ≠ 0 → t.checkReq iss blk nr p = .inl (engTrap 0x8B c.obj 0)) ∧
      (∀ z, t.checkReq iss blk nr p = .inr z → t.tileTurn iss p z = false → exec i s = .next (t.tileQueue iss p)) ∧
      (t.checkReq iss blk nr p = .inr .ok → t.tileTurn iss p .ok = true →
        (t.me.full (engCls major) = true ∨ t.streamFull iss.src p.eng = true) → exec i s = .next t) ∧
      (t.checkReq iss blk nr p = .inr .ok → t.tileTurn iss p .ok = true → t.me.full (engCls major) = false →
        t.streamFull iss.src p.eng = false → Quiet t →
        let r := t.mkReq iss major w.fn.toNat w.imm.toNat blk (reads.map t.readReg) (sinkOf w.d blk (iss.cap 16)) false p
        exec i s = .next (((t.enqueue iss p r).up (engCls major)).retire 8 reads)))

/-- Matrix requests are issued (R335, R346 to R348), and what joining a stream means (R310, R237): the request is the last of
its source's stream to its engine, and a named tile begins to fill or, on last use, to drain. -/
def Sys2Proof.Claim.MatrixRequests : Prop :=
  (∀ (s : State) (w : LF) (i : Instr) (major arr : Nat) (regs : List RegF) (chk : Option TrapInfo),
    IsPlainReq s w (i, major, regs, arr, chk) → s.me.finder = false → s.pred w.g = true → Admits s { reads := regs } →
    s.sinkUnbound w.d = false → let iss := s.issuer 0 [] 0; let p : Plan := { total := 1, eng := engId s.pkg 8 (2 * s.me.fld + arr) }
    (∀ k, chk = some k → exec i s = s.raise k) ∧
    (chk = none → (s.me.full .tl = true ∨ s.streamFull iss.src p.eng = true) → exec i s = .next s) ∧
    (chk = none → s.me.full .tl = false → s.streamFull iss.src p.eng = false → Quiet s →
      exec i s = .next (((s.enqueue iss p (s.mkReq iss major w.fn.toNat w.imm.toNat [] (regs.map s.readReg)
        (sinkOf w.d [] Cap.null) false p)).up .tl).retire 8 regs))) ∧
  (∀ (s : State) (iss : Issuer) (p : Plan) (r : Req), let t := s.enqueue iss p r
    (∃ st ∈ t.streams, st.src = iss.src ∧ st.eng = p.eng ∧ st.reqs.getLast? = some r) ∧ t.mem = s.mem ∧ t.me = s.me ∧
    (∀ k a b, p.dtile = some (k, a, b) → p.stile = none → (s.fieldOf iss.fld).tileCode k ≠ 4 → (t.fieldOf iss.fld).tileCode k = 1) ∧
    (∀ k a b, p.stile = some (k, a, b) → p.dtile = none → (s.fieldOf iss.fld).tileCode k ≠ 4 →
      (t.fieldOf iss.fld).tileCode k = if r.lu then 3 else (s.fieldOf iss.fld).tileCode k))

/-- Elements are performed one at a time (R313 to R316, R324, R339, R370): the work of the oldest unfinished request is done whole;
then its writes land and its response is formed. Work that a port holds is not begun. A fault ends the element with status 1,
posts a record and makes requests in order behind it be skipped; a matrix or attention array holds it instead. A KV engine
performs one request at a time. -/
def Sys2Proof.Claim.EngineElements : Prop :=
  ∀ (s : State) (sid : Nat) (st : Stream) (r : Req), s.streamAt sid = some st → MayPerform s st r →
    (∀ i majors body hold, IsEngStep sid (i, majors, body, hold) → r.major ∈ majors →
      (r.major ∈ kvMajors → s.kvBusy sid = true → exec i s = .next s) ∧
      ((r.major ∈ kvMajors → s.kvBusy sid = false) → WorkDone s st r body hold fun t => exec i s = .next t)) ∧
    (∀ i body, (i, body, r.major) ∈ [(Instr.mmaPerform sid, mmaBody, 0x24), (.mmxPerform sid, mmxBody, 0x25)] →
      WorkDone (s.shadowed sid) st r body arrayHolds fun t => exec i s = .next (t.dropShadows sid)) ∧
    (∀ k fl, let t := s.engFault st r k fl; let w := respWord 1 k.code k.sub r.next st.eng r.rdr fl r.rtag 0
      (∃ rec ∈ t.posts, rec.kind = 4 ∧ rec.cause = k.code ∧ rec.sub = k.sub ∧ rec.cnt = r.next ∧ rec.ctx = r.ctx) ∧ t.mem = s.mem ∧
      t.streamAt sid = some { (st.setReq { r.answer w with bad := true, pend := [] }) with skip := true, port := none }) ∧
    (∀ w, r.pend = [] → s.engLand st r w =
      s.setStream { st.setReq ({ r with pend := [] }.answer (w ||| BitVec.ofNat 128 (r.rdr % 2 ^ 16 * 2 ^ 64))) with port := none })

/-- `xcopy` without conversion inside one scratchpad (R343, R344): its bytes arrive at the destination, and no other byte
changes. -/
def Sys2Proof.Claim.CopyMovesBytes : Prop :=
  ∀ (s : State) (sid : Nat) (st : Stream) (r : Req), s.streamAt sid = some st → MayPerform s st r → st.reqs = [r] → r.major = 0x20 →
    r.next = 0 → r.total = 1 → r.toElem = false → r.pend = [] → s.Canonical → s.poison = [] →
    (∀ p ∈ s.ports, p.obj < localObj) →
    let F := s.fieldOf r.fld; let src := r.cap 32; let dst := r.cap 48; let n := r.b 4 4
    r.b 8 1 = 14 → r.b 9 1 = 14 → 1 ≤ n → n ≤ 1024 → localObj ≤ src.obj → dst.obj = src.obj → F.moving = none → F.n ≤ F.nmax →
    src.cur + n ≤ F.n * step512 → dst.cur + n ≤ F.n * step512 → (src.cur + n ≤ dst.cur ∨ dst.cur + n ≤ src.cur) →
    ∃ t, exec (.copyElementPerform sid) s = .next t ∧
      (∀ k, k < n → readByte t.mem (spKey r.fld (dst.cur + k)) = readByte s.mem (spKey r.fld (src.cur + k))) ∧
      (∀ x, (x < spKey r.fld dst.cur ∨ spKey r.fld dst.cur + n ≤ x) → readByte t.mem x = readByte s.mem x) ∧
      ∃ u, t.streamAt sid = some u ∧ u.cur = none

/-- What accumulators hold (R230, R321 to R323): a dot product into an empty or an IEEE entry is fused step by step from +0 or
the entry; an entry of the other kind is a fault; exact sums stay within 112 bits or the entry saturates and stays as it is; an
entry in another form than R230 allows is turned away. -/
def Obligations.AccumulatorEntries : Prop :=
  (∀ facc md e xs, facc < 4 → let f := ieeeFmt facc
    let go (a : Nat) : FRes := xs.foldl (fun r p => ((f.fmaV md p.1 p.2 r.1).1, r.2 ||| (f.fmaV md p.1 p.2 r.1).2)) (a, 0)
    (accKind e = 0 → mmaEntry facc md e xs = some (go 0)) ∧
    (accKind e = 1 → accFmt e = facc → mmaEntry facc md e xs = some (go (bits e 0 64))) ∧
    ((accKind e = 2 ∨ accKind e = 3 ∨ (accKind e = 1 ∧ accFmt e ≠ facc)) → mmaEntry facc md e xs = none)) ∧
  (∀ e x, (accKind e = 2 → accOvf e = true → mmxEntry e x = some (e, 0)) ∧
    (accKind e = 3 → mmxEntry e x = none) ∧
    (∀ v : Int, (accKind e = 0 ∨ accKind e = 2) → accOvf e = false → x = some v → let y := (if accKind e = 0 then 0 else accVal e) + v
      (y.natAbs < 2 ^ 111 → ∃ q, mmxEntry e x = some (q, 0) ∧ accKind q = 2 ∧ accOvf q = false ∧ accVal q = y) ∧
      (2 ^ 111 ≤ y.natAbs → ∃ q, mmxEntry e x = some (q, flOF) ∧ accOvf q = true ∧ accVal q = if y < 0 then -(2 ^ 111 - 1) else 2 ^ 111 - 1))) ∧
  (∀ ovf (v : Int), v.natAbs < 2 ^ 111 → accOk (accFixed ovf v) = true ∧ accVal (accFixed ovf v) = v) ∧
  (∀ fmt v, fmt < 4 → v < 2 ^ 64 → accOk (accIeee fmt v) = true ∧ accKind (accIeee fmt v) = 1 ∧ accFmt (accIeee fmt v) = fmt)

/-- Responses and completion (R313, R317, R319, R336, R340, R341): a response goes to its queue as two entries, or nowhere;
the oldest request completes once all its elements are performed and delivered, and the counter of its strand goes down; a
follow-on command joins its array's stream when its copy has landed, as one that is over with status 3 where the copy has
faulted; pages are pinned one by one (R250); a tile is ready when its
fill has landed and empty when its last read is done (R237). -/
def Sys2Proof.Claim.DeliveryAndCompletion : Prop :=
  (∀ (s : State) (sid : Nat) (st : Stream) (r : Req) (w : W128) ws, s.streamAt sid = some st →
    st.reqs.find? (fun r => !r.resps.isEmpty || !r.data.isEmpty) = some r → r.resps = w :: ws →
    let took := st.setReq { r with resps := ws }
    (st.dead = false → r.sink = .none → exec (.responseDelivery sid) s = .next (s.setStream took)) ∧
    (∀ f i q t b, st.dead = false → r.sink = .queue q → st.src = .strand f i → s.strandAt f i = some t →
      t.binds.find? (fun b => b.q = q && b.kind1 && (!b.push) && !b.removed) = some b → b.ents.length + 2 ≤ queueCap →
      exec (.responseDelivery sid) s = .next ((s.setStream took).updPortBind f i q fun b =>
        { b with ents := b.ents ++ [w.setWidth 64, w.extractLsb' 64 64] })) ∧
    ((st.dead = true ∨ r.sink = .lost) → ∃ t u, exec (.responseDelivery sid) s = .next t ∧ t.streamAt sid = some u ∧ u.dead = false ∧ t.mem = s.mem ∧
      (∀ q ∈ u.reqs, q.resps = [] ∧ q.data = []) ∧ ∃ rec ∈ t.posts, rec.kind = 4 ∧ rec.cause = ccEngine ∧ rec.sub = 0x8A)) ∧
  (∀ (s : State) (sid : Nat) (st : Stream) (r : Req) rs, s.streamAt sid = some st → st.reqs = r :: rs →
    (r.total ≤ r.next → r.resps = [] → r.data = [] → r.follow = none → ∃ u : Stream, u.reqs = rs ∧ u.src = st.src ∧ u.eng = st.eng ∧
      exec (.requestComplete sid) s = .next ((s.setStream u).srcDown st.src (engCls r.major))) ∧
    ((r.next < r.total ∨ r.resps ≠ [] ∨ r.data ≠ [] ∨ r.follow ≠ none) → exec (.requestComplete sid) s = .next s)) ∧
  (∀ (s : State) (sid : Nat) (st : Stream) (r q : Req), s.streamAt sid = some st →
    st.reqs.find? (fun r => r.follow.isSome && r.next = r.total) = some r → r.follow = some q.id → s.follows = [q] → 
    let eng := engId s.pkg 8 (2 * q.fld + q.fn / 2 % 2)
    ∃ t, exec (.followOnIssue sid) s = .next t ∧ t.follows = [] ∧ t.mem = s.mem ∧ ∃ u ∈ t.streams, u.src = st.src ∧ u.eng = eng ∧
      (r.bad = false → q ∈ u.reqs) ∧
      (r.bad = true → { q with started := true, next := q.total,
                                resps := if q.sink = .none then [] else [respWord 3 0 0 0 eng 0 0 q.rtag 0] } ∈ u.reqs)) ∧
  (∀ (s : State) (sid : Nat) (st : Stream) (r : Req) obj page wr rest key kind side, s.streamAt sid = some st → st.cur = some r →
    r.toPin = (obj, page, wr) :: rest → s.pinsAt (obj % 8) < pinCap → s.translate r.ctx obj (page * 65536) wr = .ok key kind side →
    s.engWaits r (r.access obj (page * 65536) 1 (if wr then .write 0 else .read) false true) = false →
    let pin : Pin := { obj := obj, page := page, frame := key % 2 ^ 48 / 65536, ro := s.pageRo r.ctx obj page, kind := kind, side := side }
    exec (.pagePin sid) s = .next (s.setStream { st.setReq { r with toPin := rest, pinned := r.pinned ++ [pin] } with port := none })) ∧
  (∀ (s : State) (f k : Nat), let F := s.fieldOf f
    (F.tileCode k = 1 → s.tileBusy f k true = false → exec (.tileFillComplete f k) s = .next (s.setField (F.setTile k .ready))) ∧
    (F.tileCode k = 3 → s.tileBusy f k false = false → exec (.tileDrainComplete f k) s = .next (s.setField (F.setTile k .empty))) ∧
    (s.tileBusy f k true = true → exec (.tileFillComplete f k) s = .next s) ∧
    (s.tileBusy f k false = true → exec (.tileDrainComplete f k) s = .next s))

/-- Completions of storage, responses from a ring and the wait for backfills (R341, R356, R361): `nvcmp` takes the oldest
completion of a pair that is bound to its context; `eresp` takes the element at rd and moves rd on; both answer or wait where
there is none, as fn says; `bfsync` goes on once no position is pending. -/
def Sys2Proof.Claim.TakingResponses : Prop :=
  ∀ (s : State) (w : LF), s.me.finder = false → s.pred w.g = true →
    (Admits s { reads := [w.b] } → s.pairBound w.d = none → s.scopeFault 0 w.x.toNat = none → let n := (s.readReg w.b).toNat
      (s.pairOf n s.me.ctx = false → exec (.nvcmp w) s = s.raise (engTrap 0x8F 0 n)) ∧
      (s.pairOf n s.me.ctx = true → s.nvcomps.find? (·.1 = n) = none →
        (w.fn.toNat % 2 = 1 → exec (.nvcmp w) s = .next ((s.setPair w.d 0 0).retire 8 [w.b])) ∧
        (w.fn.toNat % 2 = 0 → exec (.nvcmp w) s = .next s)) ∧
      (∀ e, s.pairOf n s.me.ctx = true → s.nvcomps.find? (·.1 = n) = some (n, e, []) → exec (.nvcmp w) s =
        .next (((({ s with nvcomps := s.nvcomps.erase (n, e, []) } : State).cqTake n).setPair w.d (e.setWidth 64) (e.extractLsb' 64 64)).retire 8 [w.b]))) ∧
    (let c := s.creg5 w.a; let o := dispAddr c w; let a := o.toNat; let x := w.x.toNat
      s.pairBound w.d = none → checkRange (s.ownObj s.me.fld) c (pR + pW) o 64 = none → o % 64 = 0 → s.scopeFault c.obj x = none →
      s.unperformed = false → ∀ t rest u v tg fl rs lgn wr rd,
      s.readRecord { s.strandAccess c.obj (a + 16) 16 .capRead 0 x with exempt := true } 3 = .ok t rest →
      t.performSync (t.strandAccess c.obj a 16 .read 1 x) = (u, .val v tg fl, rs) → ringHeader v (rest.map (·.1)) = some (lgn, wr, rd) →
      (wr = rd → w.fn.toNat % 2 = 1 → exec (.eresp w) s = .next ((u.setPair w.d 0xFF 0).retire 8 [])) ∧
      (wr = rd → w.fn.toNat % 2 = 0 → exec (.eresp w) s = .next u) ∧
      (∀ v e t1 f1 y z r2 t2 f2 q2, wr ≠ rd → checkRange (u.ownObj u.me.fld) c (pR + pW) (ringSlot a lgn rd) 16 = none →
        let el := u.strandAccess c.obj (ringSlot a lgn rd) 16 .read 0 x
        u.perform el = (v, .val e t1 f1) → v.consume (v.readRels el) = some y → Quiet y →
        y.performSync (y.strandAccess c.obj (a + 8) 4 (.write ((rd + 1) % 2 ^ 32)) 2 x) = (z, .val r2 t2 f2, q2) →
        exec (.eresp w) s = .next ((z.setPair w.d (BitVec.ofNat 64 e) (BitVec.ofNat 64 (e / 2 ^ 64))).retire 8 []))) ∧
    (let c := s.creg5 w.a; let o := dispAddr c w; let x := w.x.toNat
      checkRange (s.ownObj s.me.fld) c pR o 64 = none → o % 64 = 0 → s.scopeFault c.obj x = none → ∀ t secs,
      s.bindSecs (s.bindAccess c.obj o.toNat) 4 = .ok t secs → descOk (secBytes secs) = true →
      (fieldLE (secBytes secs) 20 4 ≠ 0 → exec (.bfsync w) s = .next t) ∧
      (∀ u v tg fl rs, fieldLE (secBytes secs) 20 4 = 0 →
        t.performSync (t.strandAccess c.obj (o.toNat + 20) 4 .read 1 x) = (u, .val v tg fl, rs) → exec (.bfsync w) s = .next (u.retire 8 [])))

/-- Storage and backfill steps (R294, R355, R356, R376, R380, R461): a completion of a command of a strand is written to its
pair's completion queue, where that has room, and can be taken by `nvcmp`, with the command's number and the phase bit set; the
device's own commands note their status; a controller's write lands in a page that is pinned for one of its commands or in one of
its queues, and nowhere else; a backfill record leaves its queue when its rows are written or
have failed. -/
def Obligations.StorageAndBackfill : Prop :=
  (∀ (s : State) (pair cid : Nat) (lo hi : W64) (data : List Byte) (c : NvCmd),
    s.nvcmds.find? (fun c => c.pair = pair && c.cid = cid && c.sent && !c.done) = some c →
    let raw : W128 := hi.extractLsb' 48 16 ++ BitVec.ofNat 16 cid ++ hi.extractLsb' 0 32 ++ lo
    let noted : State := { s with nvcmds := s.nvcmds.map fun d =>
      if d = c then { c with done := true, status := hi.toNat / 2 ^ 49, pins := [] } else d }
    let put := s.cqPut pair raw
    (c.flush = true → exec (.nvmeCompletionPosted pair cid lo hi data) s = .next noted) ∧
    (c.flush = false → (s.nvq pair).cqFull = true → exec (.nvmeCompletionPosted pair cid lo hi data) s = .next s) ∧
    (c.flush = false → (s.nvq pair).cqFull = false →
      (c.swap.isSome = true → exec (.nvmeCompletionPosted pair cid lo hi data) s = .next ((noted.cqPut pair raw).cqTake pair)) ∧
      (c.swap = none → c.data = [] → ∃ e : W128, exec (.nvmeCompletionPosted pair cid lo hi data) s =
          .next { c.req.elim put (fun id => put.nvWake id (hi.toNat / 2 ^ 49)) with
            nvcmds := s.nvcmds.erase c, nvcomps := s.nvcomps ++ [(pair, e, [])] } ∧ e.setWidth 64 = lo ∧ e.extractLsb' 64 32 = hi.setWidth 32 ∧
        e.extractLsb' 96 16 = BitVec.ofNat 16 cid ∧ e.getLsbD 112 = true ∧ e.extractLsb' 113 15 = hi.extractLsb' 49 15))) ∧
  (∀ (s : State) pair cid lo hi data, s.nvcmds.find? (fun c => c.pair = pair && c.cid = cid && c.sent && !c.done) = none →
    exec (.nvmeCompletionPosted pair cid lo hi data) s = .next s) ∧
  (∀ (s : State) (port rid key : Nat) (data : List Byte),
    ((∀ c ∈ s.nvcmds, ∀ p ∈ c.pins, p.frame ≠ key % 2 ^ 48 / 65536) →
      ((∀ p ∈ s.host.nvqb, inQueue p.1 key data.length = false) → exec (.controllerDma port rid key data) s = .next s) ∧
      (∀ p ∈ s.host.nvqb, p.2.toNat % 2 = 1 → bits p.2.toNat 1 2 = port → bits p.2.toNat 3 16 = rid → inQueue p.1 key data.length = true →
        exec (.controllerDma port rid key data) s = .next (s.queueWrite key data))) ∧
    (∀ c p v, s.nvcmds = [c] → c.pins = [p] → c.done = false → s.host.nvqb = [(c.pair, v)] → v.toNat % 2 = 1 →
      bits v.toNat 1 2 = port → bits v.toNat 3 16 = rid → p.frame = key % 2 ^ 48 / 65536 → p.obj % 8 = key / 2 ^ 48 →
      key % 65536 + data.length ≤ 65536 →
      exec (.controllerDma port rid key data) s = .next (s.dmaPut c p.obj (p.page * 65536 + key % 65536) data))) ∧
  (∀ (s : State) (mount : Nat),
    ((∀ b ∈ s.backfills, b.mount ≠ mount) → exec (.backfillRecord mount) s = .next s) ∧
    (∀ b, s.nextBackfill mount = some b →
      (∀ w, backfillBody b { s := s, r := b.req, fl := 0, wq := [] } = .ok ((), w) →
        exec (.backfillRecord mount) s = .next { w.s with backfills := w.s.backfills.erase b }) ∧
      (∀ a c y, backfillBody b { s := s, r := b.req, fl := 0, wq := [] } = .error (.wait (some (a, c, y))) →
        exec (.backfillRecord mount) s = .next (s.holdAccOnce a c y b.req.source)) ∧
      (∀ k fl a, backfillBody b { s := s, r := b.req, fl := 0, wq := [] } = .error (.fault k fl a) → ∃ t, exec (.backfillRecord mount) s = .next t ∧
        t.backfills = s.backfills.erase b ∧ t.mem = s.mem ∧ ∃ rec ∈ t.posts, rec.kind = 4 ∧ rec.cause = k.code ∧ rec.sub = k.sub)))

/-- Engine requests (R310 to R313, R335 to R348): blocks, matrix instructions, and how a request joins its stream. -/
def Obligations.EngineRequests : Prop := Claim.RequestsIssue ∧ Claim.MatrixRequests

/-- Elements of requests are performed whole and in order (R313 to R316, R324, R343, R344), and a copy moves its bytes and no other. -/
def Obligations.EnginePerformance : Prop := Claim.EngineElements ∧ Claim.CopyMovesBytes

/-- Responses (R313, R317, R336, R340, R341, R356, R361): delivered, completed and taken. -/
def Obligations.Deliveries : Prop := Claim.DeliveryAndCompletion ∧ Claim.TakingResponses

namespace Sys2Proof.Machine

/-! ### Faults, resume and fenced units (R399 to R426) -/

/-- The rows of `resume`. -/
def IsResume (i : Instr) (b : RegF) : Prop :=
  i ∈ [Instr.resumeSite b, .abandonRegion b, .resumePort b, .resumeArray b, .abandonArray b, .resumeStrand b, .endStrand b, .resumeEngine b]

end Sys2Proof.Machine

open Sys2Proof Sys2Proof.Machine

/-- `resume` (R404, R408): a word that names no unit or an act that the unit does not support raises CFG_INVALID 0x0B, a unit of
another context CAP_PERM; otherwise the token reaches its unit and the instruction is done, whatever the unit does with it. -/
def Sys2Proof.Claim.ResumeIssues : Prop :=
  ∀ (s : State) (i : Instr) (b : RegF), IsResume i b → s.me.finder = false → s.me.mode = true → Admits s { reads := [b] } →
    let v := (s.readReg b).toNat; let l := locOf v
    ((5 ≤ v % 8 ∨ 2 ≤ v / 2 ^ 60 ∨ (v / 2 ^ 60 = 1 ∧ (v % 8 = 1 ∨ v % 8 = 4))) → exec i s = s.raise (cfgInv 0x0B)) ∧
    (locOk v = false → exec i s = s.raise (cfgInv 0x0B)) ∧
    (locOk v = true → l.pkg ≠ s.pkg → exec i s = s.raise (mkTrap 0x16 0 0 v)) ∧
    (locOk v = true → l.pkg = s.pkg → s.foreign s.me.ctx l = true → exec i s = s.raise (mkTrap 0x06 0 0 v)) ∧
    (locOk v = true → l.pkg = s.pkg → s.foreign s.me.ctx l = false → exec i s = .next ((s.resumeAt s.me.ctx l).retire 4 [b]))

/-- What a resume token does to a live unit (R408): a stalled element fires again, a region stops without drain, port records
close and the requests held for them are translated again, an array replays its operation or abandons it, whose tile then equals
its shadow copy, a stopped strand restarts at ECAP or ends, and a stream held by a watchpoint goes on. A unit that is not stalled ignores it. -/
def Sys2Proof.Claim.ResumeEffects : Prop :=
  ∀ (s : State) (c : Nat) (l : Loc), s.saved = [] → let t := s.resumeAt c l
    (l.tgt = 0 → stalledAt s.slots l.fld l.cslot l.unit = false → t = s) ∧
    (l.tgt = 0 → l.act = 0 → stalledAt s.slots l.fld l.cslot l.unit = true → t.mem = s.mem ∧
      ∀ q ∈ t.slots, q.fld = l.fld → q.idx = l.cslot → ∀ e ∈ q.elems, e.site = l.unit → e.stall = none) ∧
    (l.tgt = 0 → l.act = 1 → stalledAt s.slots l.fld l.cslot l.unit = true → let sl := s.slotOf l.fld l.cslot
      t.mem = s.mem ∧ (∀ q ∈ t.slots, q.f0 = sl.f0 → q.idx = sl.idx → q.st = .installed ∧ q.pend = .none) ∧
      ∀ h ∈ t.chans, sl.owns h = true → h.q = []) ∧
    (l.tgt = 1 → t.mem = s.mem ∧
      (l.id / 2 ^ 16 = 1 → t.ports = s.ports.filter fun p => !(p.ctx = c && p.mount = l.fld % 8 && p.seq.isSome)) ∧
      (∀ p ∈ s.ports, p ∉ t.ports → ∀ f ∈ s.flights, (∃ m, f.phase = .held m) → let a := s.portAccess f.acc
        a.ctx = p.ctx → a.obj = p.obj → a.off / 65536 = p.page → f.cause = p.cause → { f with phase := .retry } ∈ t.flights) ∧
      (l.id < 2 ^ 16 → ∀ p ∈ s.ports, p ∉ t.ports → p.ctx = c ∧ p.mount = l.fld % 8 ∧ ∃ q, p.seq = some q ∧ q.toNat % 2 ^ 16 = l.id)) ∧
    (l.tgt = 2 → ∀ st ∈ s.streams, s.arrayEng l st.eng = true → ∀ k r, st.stall = some k → st.cur = some r →
      (l.act = 0 → t.mem = s.mem ∧ { st with stall := none } ∈ t.streams) ∧
      (l.act = 1 → { (st.setReq { r.answer (respWord 1 k.code k.sub r.next st.eng 0 0 r.rtag 0) with bad := true, pend := [] }) with
        stall := none, skip := true, port := none } ∈ t.streams)) ∧
    (l.tgt = 2 → l.act = 1 → ∀ st k r, s.streams.filter (fun st => s.arrayEng l st.eng && st.stall.isSome) = [st] → st.stall = some k →
      st.cur = some r → r.mat.isSome = true → t.mem = (s.restoreShadow l.fld r.id).mem) ∧
    (l.tgt = 3 → ∀ u, s.strandAt l.fld l.unit = some u →
      (u.stat ≠ .stopped → t.strandAt l.fld l.unit = some u) ∧
      (u.stat = .stopped → l.act = 0 →
        t.strandAt l.fld l.unit = some { u with dflt := false, mode := true, pcc := u.ecap, stat := .running }) ∧
      (u.stat = .stopped → l.act = 1 → u.idle = true → u.drained = true → t = s.endStrand l.fld l.unit) ∧
      (u.stat = .stopped → l.act = 1 → (u.idle = false ∨ u.drained = false) →
        t.strandAt l.fld l.unit = some { u with ending := true })) ∧
    (l.tgt = 4 → t.mem = s.mem ∧ ∀ st ∈ t.streams, st.eng = l.id → (∃ r ∈ st.reqs, r.ctx = c) → st.heldWp = false)

/-- `wpset` and `wpclr` (R422): the checks in order, then watchpoint k is enabled with hit[k] clear, or disabled. -/
def Sys2Proof.Claim.Watchpoints : Prop :=
  ∀ (s : State) (c : CapF) (b : RegF), s.me.finder = false → Admits s { reads := [b] } →
    let x := s.creg c; let v := (s.readReg b).toNat; let cx := s.ctxOf s.me.ctx; let sum := checkCap (s.ownObj s.me.fld) x pR x.cur 16
    let fields := v / 4 % 2 ^ 14 = 0 ∧ v / 2 ^ 32 = 0 ∧ v / 2 ^ 16 ≠ 0
    (∀ k, sum = some k → exec (.wpset c b) s = s.raise (capTrap k x x.cur)) ∧
    (sum = none → localObj ≤ x.obj → exec (.wpset c b) s = s.raise (capTrap 0x06 x x.cur)) ∧
    (sum = none → x.obj < localObj → ¬ fields → exec (.wpset c b) s = s.raise (cfgTrap 0x0B 0 0)) ∧
    (sum = none → x.obj < localObj → fields → ∃ n : Ctx, exec (.wpset c b) s = .next ((s.setCtx n).retire 4 [b]) ∧
      n = { cx with wpc := n.wpc, watches := n.watches } ∧ (∀ i, n.wpc.getLsbD i = if i = v % 4 then true else if i = 8 + v % 4 then false else cx.wpc.getLsbD i) ∧
      n.watches.find? (·.k = v % 4) = some { k := v % 4, obj := x.obj, sec := x.cur / 16, mask := BitVec.ofNat 16 (v / 2 ^ 16) }) ∧
    (v / 8 ≠ 0 → exec (.wpclr b) s = s.raise (cfgTrap 0x0B 0 0)) ∧
    (v / 8 = 0 → ∃ y : W64, exec (.wpclr b) s = .next ((s.setCtx { cx with wpc := y }).retire 4 [b]) ∧
      ∀ i, y.getLsbD i = if (v / 4 = 1 ∧ i < 4) ∨ (v / 4 = 0 ∧ i = v % 4) then false else cx.wpc.getLsbD i)

/-- The fault queue (R401, R402, R407): a post waits while the ring is full or its header invalid; else it writes the record's
64 bytes and then wr + 1; a port's location word carries the low 16 bits of the record's seq (R404). `fltq` reads wr, moves rd on by at most the records that are there and answers both. -/
def Sys2Proof.Claim.FaultQueue : Prop :=
  (∀ (s : State) (ctx : Nat),
    ((s.posts.find? (·.ctx = ctx) = none ∨ s.fqHeader ctx = none) → exec (.faultRecordPost ctx) s = .next s) ∧
    (∀ r lgn wr rd, s.posts.find? (·.ctx = ctx) = some r → s.fqHeader ctx = some (lgn, wr, rd) →
      ((wr + 2 ^ 32 - rd) % 2 ^ 32 = 2 ^ lgn → exec (.faultRecordPost ctx) s = .next s) ∧
      ((wr + 2 ^ 32 - rd) % 2 ^ 32 < 2 ^ lgn → s.ports = [] → let q := (s.ctxOf ctx).fq; let o := q.cur + 64 + 64 * (wr % 2 ^ lgn)
        ∃ cyc : W64, let b := ({ r with loc := r.postLoc wr } : Record).bytes cyc wr
        let w (u : State) (i : Nat) := u.devWrite ctx q.obj (o + 16 * i) 16 (fieldLE b (16 * i) 16) false
        exec (.faultRecordPost ctx) s = .next { (w (w (w (w { s with free := s.free + 1 } 0) 1) 2) 3).devWrite ctx q.obj (q.cur + 4) 4
          ((wr + 1) % 2 ^ 32) false with posts := s.posts.erase r }))) ∧
  (∀ (r : Record) (seq i : Nat), (r.postLoc seq).getLsbD i =
    if r.loc.toNat % 8 = 1 ∧ 32 ≤ i ∧ i < 48 then seq.testBit (i - 32) else r.loc.getLsbD i) ∧
  (∀ (r : Record) cyc seq, r.kind < 256 → r.cause < 256 → r.sub < 256 → r.why < 256 → r.party < 2 ^ 16 → r.tno < 2 ^ 16 → r.obj < 2 ^ 32 →
    r.off < 2 ^ 48 → r.cnt < 2 ^ 32 → seq < 2 ^ 32 → let b := r.bytes cyc seq; b.length = 64 ∧ fieldLE b 0 1 = r.kind ∧ fieldLE b 1 1 = r.cause ∧
      fieldLE b 2 1 = r.sub ∧ fieldLE b 3 1 = r.why ∧ fieldLE b 4 2 = r.party ∧ fieldLE b 6 2 = r.tno ∧ fieldLE b 8 8 = r.loc.toNat ∧
      fieldLE b 16 4 = r.obj ∧ fieldLE b 20 6 = r.off ∧ fieldLE b 26 2 = 0 ∧ fieldLE b 28 4 = r.cnt ∧ fieldLE b 32 16 = r.det.toNat ∧
      fieldLE b 48 8 = cyc.toNat ∧ fieldLE b 56 4 = seq ∧ fieldLE b 60 4 = 0) ∧
  (∀ (s : State) (b : RegF), s.me.finder = false → Admits s { reads := [b], writes := [b] } →
    let n := (s.readReg b).toNat; let q := (s.ctxOf s.me.ctx).fq
    (256 ≤ n → exec (.fltq b) s = s.raise (cfgTrap 0x0B 0 0)) ∧
    (n < 256 → s.fqHeader s.me.ctx = none → exec (.fltq b) s = s.raise (mkTrap 0x12 0x91 q.obj q.cur)) ∧
    (∀ h t v tg fl rs, n < 256 → s.fqHeader s.me.ctx = some h → s.unperformed = false →
      s.performSync (s.strandAccess q.obj q.cur 16 .read 1 4) = (t, .val v tg fl, rs) →
      let wr := bits v 32 32; let rd := bits v 64 32; let rd' := (rd + min n ((wr + 2 ^ 32 - rd) % 2 ^ 32)) % 2 ^ 32
      (n = 0 → exec (.fltq b) s = .next ((t.setSreg b (BitVec.ofNat 64 (wr * 2 ^ 32 + rd))).retire 4 [b])) ∧
      (∀ u v2 t2 f2 r2, n ≠ 0 → Quiet t →
        t.performSync (t.strandAccess q.obj (q.cur + 8) 4 (.write rd') 2 4) = (u, .val v2 t2 f2, r2) →
        exec (.fltq b) s = .next ((u.setSreg b (BitVec.ofNat 64 (wr * 2 ^ 32 + rd'))).retire 4 [b]))))

/-- Watchdog, remote timeouts and timing errors (R156, R157, R419, R420): a region that does nothing while nothing of it is
outstanding stalls whole with one record of kind 8; a request to another die that no port holds is abandoned: a strand raises
REMOTE_TIMEOUT between two instructions, or at the access where its check had not returned, a memory element stalls with it, an
engine's element ends with it (log 42); a replay moves a saturating counter; a stage that has replayed one beat 16 times in a row
stalls its element or router with POISON and fences its field, whose task is saved. -/
def Sys2Proof.Claim.WatchdogAndTimeouts : Prop :=
  (∀ (s : State) (fld slot : Nat), let sl := s.slotOf fld slot
    (s.regionIdle sl = true → sl.st = .running ∧ sl.pend = .none ∧ ∀ q ∈ s.region sl, ∀ e ∈ q.elems, e.stall = none ∧ fireElem q.fld e s = none) ∧
    (∀ k w, s.taskAt sl.fld = some k → k.phase = .saving w → s.regionIdle sl = false) ∧
    (s.regionIdle sl = false → exec (.deadlockWatchdog fld slot) s = .next s) ∧
    (sl.sidx = 0 → s.regionIdle sl = true → ∃ t rec, exec (.deadlockWatchdog fld slot) s = .next t ∧ t.posts = s.posts ++ [rec] ∧
      rec.ctx = sl.ctx ∧ rec.kind = 8 ∧ rec.cause = 0x15 ∧ rec.why = 0 ∧ t.mem = s.mem ∧
      ∀ q ∈ t.slots, q.f0 = sl.f0 → q.idx = sl.idx → q.dead = true)) ∧
  (∀ (s : State) (fld id : Nat),
    (s.flights.find? (fun f => f.id = id && f.ofStrand && f.acc.offDie) = none → exec (.remoteTimeout 3 fld id) s = .next s) ∧
    (∀ f fl sl, s.flights.find? (fun f => f.id = id && f.ofStrand && f.acc.offDie) = some f → f.who = .strand fl sl →
      (∀ m, f.phase = .held m → exec (.remoteTimeout 3 fld id) s = .next s) ∧
      ((∀ u ∈ s.me :: s.others, u.at fl sl = true → u.trap = none) → f.unchecked = false ∨ f.snap = none → (∀ m, f.phase ≠ .held m) →
        exec (.remoteTimeout 3 fld id) s = .next ((s.dropFlight id).updStrand fl sl fun u =>
          { u.down f.cls with dests := u.dests.filter fun d => d.1 ≠ id, trap := some (mkTrap 0x16 0 f.acc.obj f.acc.off) })) ∧
      (∀ b, f.unchecked = true → f.snap = some b → (∀ m, f.phase ≠ .held m) →
        exec (.remoteTimeout 3 fld id) s = .next (s.rollback f b (mkTrap 0x16 0 f.acc.obj f.acc.off))))) ∧
  (∀ (s : State) (fld site : Nat) (x : Fx), s.fxAt fld site false (fun e => e.isM && e.col = 15) = some x →
    let o := (x.sl.capTab.getD (x.e.p 0 3) Cap.null).obj
    x.e.stall = none → x.sl.dead = false → offDie fld o = true → (∀ p ∈ s.ports, p.ctx ≠ x.sl.ctx ∨ p.obj ≠ o) →
      exec (.remoteTimeout 0 fld site) s = .next (({ x with s := s.freeVal.2 } : Fx).stallWith
        { cause := 0x16, why := 0, inp := noInput, stage := 0, rcv := 0, obj := o % 2 ^ 32, off := s.freeVal.1.toNat % 2 ^ 48 })) ∧
  (∀ (s : State) (fld id : Nat) (st : Stream) (r : Req) (at_ : Nat) (c : Cap), s.streamAt id = some st → st.cur = some r → r.bad = false →
    st.heldWp = false → st.stall = none → (∀ q ∈ st.reqs, q.resps = []) → r.caps = [(at_, c)] → offDie r.fld c.obj = true →
    (∀ p ∈ s.ports, p.ctx ≠ r.ctx ∨ p.obj ≠ c.obj) →
      exec (.remoteTimeout 4 fld id) s = .next (s.freeVal.2.engFault st r (mkTrap 0x16 0 c.obj (s.freeVal.1.toNat % 2 ^ 48)))) ∧
  (∀ (s : State) (fld site stage : Nat), fld < 128 → site < 256 → ∃ g : Field, exec (.timingReplay (stagePlace fld site stage)) s = .next (s.setField g) ∧
    g = { s.fieldOf fld with replays := g.replays, runs := g.runs } ∧
    g.replays.toNat = min ((s.fieldOf fld).replays.toNat + 1) (2 ^ 32 - 1) ∧
    (s.setField g).replayRun fld site stage = s.replayRun fld site stage + 1) ∧
  (∀ (s : State) (fld site stage : Nat),
    ((s.runningAt fld = none ∨ s.replayRun fld site stage < 16) → exec (.persistentTimingError fld site stage) s = .next s) ∧
    (∀ x, s.unitAt fld site = some x → 16 ≤ s.replayRun fld site stage → x.e.stall = none → (s.fieldOf fld).fenced = false → stage < 256 →
      let a := x.stallWith { cause := 0x13, why := 0x41, inp := noInput, stage := stage, rcv := 0, obj := 0, off := 0 }
      let g : Field := { s.fieldOf fld with runs := (s.fieldOf fld).runs.filter (·.1 ≠ (site, stage)), fenced := true }
      let u := (a.setField g).replaceMsg 1 fld 0x13
      (s.taskAt fld = none → exec (.persistentTimingError fld site stage) s = .next u) ∧
      (∀ k c w, s.taskAt fld = some k → k.phase = .running → u.poolFrame k.ctx k.fields.length = some c → u.flushTask k = (w, .ok) →
        ∃ t k', exec (.persistentTimingError fld site stage) s = .next t ∧ t.taskOf k.tno = some k' ∧ k'.phase = .queued ∧ k'.fields = [] ∧
          (∃ v ∈ t.saved, v.tno = k.tno ∧ v.full = true) ∧
          (∃ rec ∈ t.posts, rec.kind = 7 ∧ rec.why = 3 ∧ rec.ctx = k.ctx ∧ rec.obj = c.obj ∧ rec.off = c.cur) ∧
          ∃ rec ∈ t.posts, rec.kind = 9 ∧ rec.why = 1 ∧ rec.ctx = k.ctx)))

/-- HBM frames (R243, R245, R426): corrected errors are counted; the eighth in a frame, or one that cannot be corrected, fences the
frame, reports it and starts the migration of its pages; an uncorrected line is poisoned. A migration takes
the next frame of the reserve as it starts; as it ends, every byte and its poison lie there, and the pages are mapped there; with
an empty reserve the pages stay. -/
def Sys2Proof.Claim.FrameErrors : Prop :=
  (∀ (s : State) (mount frame : Nat) (bad : Bool), (8 ≤ mount ∨ Config.frames ≤ frame) → exec (.hbmFrameFence mount frame bad) s = .next s) ∧
  (∀ (s : State) (mount frame : Nat) (bad : Bool) (h : mount < 8), frame < Config.frames → let n := s.frameErr mount frame
    let gs := s.pagesIn mount frame
    ∃ t, exec (.hbmFrameFence mount frame bad) s = .next t ∧
      (bad = false → (t.corrected[mount]).toNat = min ((s.corrected[mount]).toNat + 1) (2 ^ 32 - 1) ∧ t.poison = s.poison ∧
        t.frameErr mount frame = min (n + 1) 8) ∧
      (bad = false → n + 1 < 8 → t.mem = s.mem ∧ t.mgmt = s.mgmt ∧ t.posts = s.posts) ∧
      (8 ≤ n → t.mem = s.mem ∧ t.mgmt = s.mgmt ∧ t.posts = s.posts) ∧
      (bad = true → t.frameErr mount frame = 8 ∧
        ∃ line < 1024, ∀ i < 4, hbmKey mount (frame * 65536 + line * 64) / 16 + i ∈ t.poison) ∧
      (n < 8 → (bad = true ∨ n = 7) → (∃ m, t.mgmt = s.mgmt ++ [m] ∧ m.code = mgReplace) ∧ t.host.fencedMounts.getLsbD mount = true ∧
        (∀ g ∈ gs, ∃ rec ∈ t.posts, rec.ctx = g.1 ∧ rec.kind = 9 ∧ rec.why = 3) ∧
        (((s.reserveNext mount).1 = none ∨ s.framePinned gs = true ∨ gs = []) → t.mem = s.mem) ∧
        (gs = [] → t.migs = s.migs ∧ t.host.rrsv = s.host.rrsv) ∧
        (gs ≠ [] → t.migs = s.migs ++ ((s.reserveNext mount).1.map fun d => (mount, frame, d)).toList ∧
          bits (t.host.rrsv[mount]).toNat 48 10 = (s.reserveNext mount).2 % 1024 ∧
          bits (t.host.rrsv[mount]).toNat 0 48 = bits (s.host.rrsv[mount]).toNat 0 48) ∧
        (∀ g, gs = [g] → (s.reserveNext mount).1.isSome = true → s.framePinned gs = false → t.mem = (s.setEntry mount g 2 none).mem))) ∧
  (∀ (s : State) (mount frame : Nat), let gs := s.pagesIn mount frame; let mine := s.migs.find? fun m => m.1 = mount && m.2.1 = frame
    ((mine = none ∨ s.framePinned gs = true) → exec (.migrationComplete mount frame) s = .next s) ∧
    (∀ m g, mine = some m → gs = [g] → s.framePinned gs = false → ∃ t : State, exec (.migrationComplete mount frame) s = .next t ∧
      t.mem = ((s.copyFrame mount frame m.2.2).setEntry mount g 1 (some m.2.2)).mem ∧ t.migs = s.migs.erase m ∧ t.host = s.host)) ∧
  (∀ (s : State) (mount a b : Nat), s.Canonical → a ≠ b → a < Config.frames → b < Config.frames → let t := s.copyFrame mount a b
    (∀ k, k < 65536 → readByte t.mem (hbmKey mount (b * 65536) + k) = readByte s.mem (hbmKey mount (a * 65536) + k)) ∧
    (∀ x, (x < hbmKey mount (b * 65536) ∨ hbmKey mount (b * 65536) + 65536 ≤ x) → readByte t.mem x = readByte s.mem x) ∧
    (∀ j, j < 4096 → (hbmKey mount (b * 65536) / 16 + j ∈ t.poison ↔ hbmKey mount (a * 65536) / 16 + j ∈ s.poison))) ∧
  (∀ (s : State) (mount : Nat) (g : Nat × Nat × Nat) (st f : Nat), s.Canonical → st < 4 → f < 2 ^ 24 →
    let k := (s.descAt mount g.1 g.2.1).entryKey mount g.2.2; let e := readLE s.mem k 8; let e' := readLE (s.setEntry mount g st (some f)).mem k 8
    e' % 4 = st ∧ bits e' 16 24 = f ∧ bits e' 2 14 = bits e 2 14 ∧ bits e' 40 24 = bits e 40 24)

/-- `resume` (R404, R408): its checks, and what its token does to each kind of unit. -/
def Obligations.Resumes : Prop := Claim.ResumeIssues ∧ Claim.ResumeEffects

/-- Watchpoints and the fault queue (R401, R402, R407, R422). -/
def Obligations.DebugState : Prop := Claim.Watchpoints ∧ Claim.FaultQueue

/-- Watchdog, timeouts, timing errors and failing frames (R156, R157, R243, R245, R419, R420, R426). -/
def Obligations.FailingUnits : Prop := Claim.WatchdogAndTimeouts ∧ Claim.FrameErrors

/-! ### Meridian (R192 to R194, R216 to R221, R410 to R418) -/

/-- Queues (R216, R217, R458): what a write to MQCFG leaves, and what Meridian makes of a write to MQSUB; both answer only once
bring-up has ended. A queue that ages, enabled or not, rises by a level up to 6. -/
def Obligations.QueueRegisters : Prop :=
  ∀ (s : State) (die q : Nat) (v : W64), let m := s.mqOf die q
    ((s.host.st ≠ 6 ∨ 4 ≤ die ∨ 64 ≤ q) → exec (.mqcfgWrite die q v) s = .next (s.hartGets none) ∧
      exec (.mqsubWrite die q v) s = .next (s.hartGets none)) ∧
    (s.host.st = 6 → die < 4 → q < 64 →
      (∃ n, exec (.mqcfgWrite die q v) s = .next ((s.hartGets (some 0)).setMQ n) ∧
        n = { m with en := v.getLsbD 0, hq := v.getLsbD 1, wbase := n.wbase, base := n.base, lvl := n.lvl, age := n.age,
                     ctx := (v.extractLsb' 24 16).toNat } ∧
        n.wbase = (if (v.extractLsb' 2 3 = 7#3 ∧ v.getLsbD 1 = false) then m.wbase else (v.extractLsb' 2 3).toNat) ∧
        n.age = (if v.extractLsb' 8 16 = 0#16 then m.age else (v.extractLsb' 8 16).toNat) ∧
        (m.recs = [] → n.base = n.wbase ∧ n.lvl = n.wbase) ∧ (m.recs ≠ [] → n.base = m.base ∧ n.lvl = m.lvl)) ∧
      (m.subs = [] → let u := (s.hartGets (some 0)).setMQ { m with dn := false, subs := [v.toNat] }
        let done (t : State) (st : Nat) (recs : List TaskRec) : Prop := exec (.mqsubWrite die q v) s =
          .next (t.setMQ { m with dn := true, subs := [], st := st, recs := recs })
        (m.en = false → done u 2 m.recs) ∧
        (m.en = true → let a := u.submitAccess m.ctx (v.extractLsb' 0 32).toNat ((v.extractLsb' 32 32).toNat * 64)
          (∀ t, u.bindHost a 4 = .wait t → exec (.mqsubWrite die q v) s = .next t) ∧
          (∀ k t, u.bindHost a 4 = .raise k t → done t 0x0F m.recs) ∧
          (∀ t secs, u.bindHost a 4 = .ok t secs →
            (parseTask secs m.base [hostParty] = none → done t 0x0F m.recs) ∧
            (∀ r, parseTask secs m.base [hostParty] = some r →
              (256 ≤ m.recs.length → done t 1 m.recs) ∧ (m.recs.length < 256 → done t 0 (m.recs ++ [r]))))))) ∧
    ((m.recs ≠ [] ∧ m.base ≠ 7) → exec (.queueAgeing die q) s = .next (s.setMQ { m with lvl := min (m.lvl + 1) 6 })) ∧
    (¬ (m.recs ≠ [] ∧ m.base ≠ 7) → exec (.queueAgeing die q) s = .next s) ∧
    (∀ r rest, m.recs = r :: rest → m.base ≠ 7 → m.lvl = 6 → (∀ x ∈ s.mqs, x.die = m.die → x.rsv = []) →
      (∀ p, placement m.die r.nf (((List.range 32).map (32 * m.die + ·)).filter fun f => !(s.fieldOf f).fenced) = some p →
        exec (.reservationTake die q) s = .next (s.setMQ { m with rsv := p })) ∧
      (placement m.die r.nf (((List.range 32).map (32 * m.die + ·)).filter fun f => !(s.fieldOf f).fenced) = none →
        exec (.reservationTake die q) s = .next s)) ∧
    ((m.lvl ≠ 6 ∨ m.base = 7 ∨ ∃ x ∈ s.mqs, x.die = m.die ∧ x.rsv ≠ []) → exec (.reservationTake die q) s = .next s)

/-- Placement (R192, R220): nf fields, all free; up to four lie side by side in one dome, and no dome with fewer free fields has
room for them; more than four are whole domes. -/
def Sys2Proof.Claim.Placement : Prop :=
  ∀ (die nf : Nat) (free p : List Nat), free.Nodup → 1 ≤ nf → (nf ≤ 4 ∨ nf % 4 = 0) → placement die nf free = some p →
    p.length = nf ∧ p.Nodup ∧ (∀ f ∈ p, f ∈ free) ∧ (∀ f ∈ p, f / 32 = die) ∧
    (nf ≤ 4 → ∃ b, p = (List.range nf).map (b + ·) ∧ b / 4 = (b + nf - 1) / 4 ∧
      ∀ d, 8 * die ≤ d → d < 8 * die + 8 → (domeRun free d nf).isSome = true →
        domeFree free (b / 4) ≤ domeFree free d ∧ (domeFree free d = domeFree free (b / 4) → b / 4 ≤ d)) ∧
    (4 < nf → ∀ j, j < nf / 4 → ∃ d, ∀ i, i < 4 → p.getD (4 * j + i) 0 = 4 * d + i)

/-- Selection and dispatch (R193, R218, R228): Meridian takes the head of a queue of the highest level that has one with a place;
the head leaves its queue, whose level returns to its base; its task holds the fields and its entry strand is there, or it is
over with status 0x1A where its image does not begin at a multiple of 32; nothing
happens where no head has a place. -/
def Sys2Proof.Claim.Selection : Prop :=
  (∀ (s : State) (die : Nat), (∀ m ∈ s.mqs, m.die = die → m.subs = []) → s.selects die = none →
    exec (.meridianSelect die) s = .next s ∧
    ∀ q, q < 64 → let m := s.mqOf die q; m.lvl ≤ 7 → m.en = true → m.recs ≠ [] → s.headPlace m [] = none) ∧
  (∀ (s : State) (die : Nat) (m : MQ) (r : TaskRec) (p : List Nat), (∀ m ∈ s.mqs, m.die = die → m.subs = []) →
    s.selects die = some (m, r, p) →
    m.en = true ∧ m.recs.head? = some r ∧ s.headPlace m [] = some p ∧
    (∀ q, q < 64 → let x := s.mqOf die q; m.lvl < x.lvl → x.lvl ≤ 7 → x.en = true → x.recs ≠ [] → s.headPlace x [] = none) ∧
    ∃ t, exec (.meridianSelect die) s = .next t ∧
      (t.mqOf m.die m.q).recs = m.recs.drop 1 ∧ (t.mqOf m.die m.q).lvl = m.wbase ∧ (t.mqOf m.die m.q).rsv = [] ∧
      (r.saved = none → r.image ≠ Cap.null → r.image.cur % 32 ≠ 0 → ∃ k ∈ t.tasks, k.body = r ∧ k.fields = p ∧ k.phase = .finishing 0x1A) ∧
      (r.saved = none → p ≠ [] → s.strandAt (p.headD 0) 0 = none → (r.image = Cap.null ∨ r.image.cur % 32 = 0) →
        (∃ k ∈ t.tasks, k.body = r ∧ k.fields = p ∧ k.phase = .installing ∧ k.ctx = m.ctx ∧ k.die = m.die ∧ k.q = m.q) ∧
        (∀ f ∈ p, (t.fieldOf f).tiles = [] ∧ (t.fieldOf f).n = 0 ∧ ∀ x, inAcc f x = true → readByte t.mem x = 0) ∧
        ∃ e, t.strandAt (p.headD 0) 0 = some e ∧ e.pcc = r.entry ∧ e.caps[1] = r.args ∧ e.regs = Strand.empty.regs ∧ e.mode = false ∧
          e.start = r.start))

/-- The start and the end of a task (R193, R194): its entry strand starts once its image is installed, a refused image completes
it with status 0x1A; completion waits for the class counters, then frees the fields, and then writes the completion word with bit
31 set and the status, or posts a record where the word cannot be written; a word that a port holds keeps the task, not its
fields. -/
def Obligations.TaskStartAndEnd : Prop :=
  (∀ (s : State) (tno : Nat) (k : Task), s.taskOf tno = some k → let sl := s.slotOf (k.fields.headD 0) 0
    let running := exec (.entryStrandStart tno) s = .next (s.setTask { k with phase := .running })
    (k.phase ≠ .installing → exec (.entryStrandStart tno) s = .next s) ∧
    (k.phase = .installing → k.body.image = Cap.null → running) ∧
    (k.phase = .installing → k.body.image ≠ Cap.null → sl.pend ≠ .none → exec (.entryStrandStart tno) s = .next s) ∧
    (k.phase = .installing → k.body.image ≠ Cap.null → sl.pend = .none → sl.st = .installed → running) ∧
    (k.phase = .installing → k.body.image ≠ Cap.null → sl.pend = .none → sl.st ≠ .installed →
      exec (.entryStrandStart tno) s = .next ((s.dropStrands k.fields).setTask { k with phase := .finishing 0x1A }))) ∧
  (∀ (s : State) (tno : Nat) (k : Task) (st : Nat), s.taskOf tno = some k → k.phase = .finishing st →
    (s.taskIdle k = false → exec (.taskCompletion tno) s = .next s) ∧
    (∀ u, s.taskIdle k = true → s.flushFields k = (u, .ok) → let f := k.fields.headD 0
      ∃ (v : State) (table : List Nat), let k' : Task := { k with fields := [], phase := .posting st f table }
        exec (.taskCompletion tno) s = .next (v.postTask k' st f table) ∧ v.taskOf tno = some k' ∧ v.posts = u.posts ∧
        (∀ q ∈ v.slots, q.fld ∉ k.fields) ∧ (∀ c ∈ v.chans, c.src.fld ∉ k.fields) ∧ (∀ a ∈ v.arms, a.fld ∉ k.fields) ∧
        (∀ f ∈ k.fields, (v.fieldOf f).n = 0 ∧ (v.fieldOf f).tiles = [] ∧ ∀ i, v.strandAt f i = none) ∧
        ∀ x, (∀ f ∈ k.fields, inAcc f x = false) → readByte v.mem x = readByte u.mem x)) ∧
  (∀ (s : State) (tno : Nat) (k : Task) (st f : Nat) (table : List Nat), s.taskOf tno = some k → k.phase = .posting st f table →
    exec (.taskCompletion tno) s = .next (s.postTask k st f table)) ∧
  (∀ (s : State) (k : Task) (st f : Nat) (table : List Nat), let t := s.postTask k st f table
    (∀ w, s.completionWord k st f table = some w → k.owner = none →
      t.tasks = w.tasks.filter (fun x => x.tno ≠ k.tno) ∧ t.mem = w.mem ∧ t.posts = w.posts ∧ t.rels = w.rels) ∧
    (s.completionWord k st f table = none → t.tasks = s.tasks ∧ t.mem = s.mem)) ∧
  (∀ (s : State) (k : Task) (st f : Nat) (table : List Nat), let c := k.body.args; let o := c.cur + k.body.cmp
    (k.body.cmp = 2 ^ 32 - 1 → s.completionWord k st f table = some s) ∧
    (∀ code, k.body.cmp ≠ 2 ^ 32 - 1 → checkCap localObj c pW o 4 = some code → ∃ rec, s.completionWord k st f table =
      some { s with posts := s.posts ++ [rec] } ∧ rec.kind = 5 ∧ rec.cause = code ∧ rec.why = 0 ∧ rec.ctx = k.ctx) ∧
    (k.body.cmp ≠ 2 ^ 32 - 1 → checkCap localObj c pW o 4 = none → localObj ≤ c.obj → s.Canonical →
      s.poison.contains (spKey f o / 16) = false → ∃ w, s.completionWord k st f table = some w ∧
        readLE w.mem (spKey f o) 4 = 2 ^ 31 + st % 256 ∧ (∀ j, j < spKey f o ∨ spKey f o + 4 ≤ j → readByte w.mem j = readByte s.mem j) ∧
        spKey f o / 16 ∉ w.tags) ∧
    (∀ key kind side, k.body.cmp ≠ 2 ^ 32 - 1 → checkCap localObj c pW o 4 = none → c.obj < localObj → c.obj / 8 % 32 = s.pkg →
      s.translate k.ctx c.obj o true = .ok key kind side → ∃ w, s.completionWord k st f table = some w ∧
        w.mem = (s.devWrite k.ctx c.obj o 4 (2 ^ 31 + st % 256) false).mem ∧
        ∃ r ∈ w.rels, r.ctx = k.ctx ∧ r.obj = c.obj ∧ r.off = o ∧ r.n = 4 ∧ r.set = arraySet ∧ r.table = table))

/-- Pre-emption (R221, R416): at expiry or after `yield` a task gives way where a waiting head of its level or above could be placed
on its fields, and its sources close their rounds; once all of it has come to rest, or a unit has stalled or a strand stopped, it is saved into a
frame of the pool and goes to the head of its queue; `ctxsave` parks it (R414), and a task stalled for too long is saved (R412)
until its records are closed. -/
def Obligations.PreemptionAndEscalation : Prop :=
  (∀ (s : State) (tno : Nat) (k : Task), s.taskOf tno = some k →
    (k.phase ≠ .running → exec (.quantumExpiry tno) s = .next s) ∧
    (k.phase = .running → s.contended k = false → exec (.quantumExpiry tno) s = .next (s.setTask { k with yielded := false })) ∧
    (k.phase = .running → s.contended k = true → ∃ t, exec (.quantumExpiry tno) s = .next t ∧
      t = { s with tasks := t.tasks, slots := t.slots } ∧ t.taskOf tno = some { k with phase := .saving 0, yielded := false } ∧
      (∀ q ∈ t.slots, q.fld ∈ k.fields → q.st = .running → q.pend ≠ .partDrain → ∀ e ∈ q.elems, e.isSource = true → e.hold = true)) ∧
    (s.contended k = true ↔ ∃ m ∈ s.mqs, m.die = k.die ∧ m.en = true ∧ (s.mqOf k.die k.q).base ≤ m.lvl ∧ (s.headPlace m k.fields).isSome = true)) ∧
  (∀ (s : State) (tno : Nat) (k : Task), s.taskOf tno = some k →
    (s.saveKind k = none → s.installs k = true ∨ (s.rested k = false ∧ s.stalled k = false ∧ s.halted k = false)) ∧
    (s.saveKind k = some false → s.rested k = true) ∧ (s.saveKind k = some true → s.stalled k = true ∨ s.halted k = true) ∧
    (s.saveKind k = none → (k.phase = .saving 0 → exec (.preemptionSave tno) s = .next (s.holdTask k)) ∧
      (k.phase = .saving 2 → exec (.ctxsaveComplete tno) s = .next (s.holdTask k))) ∧
    (∀ full c u, k.phase = .saving 0 → s.saveKind k = some full → s.poolFrame k.ctx k.fields.length = some c → s.flushTask k = (u, .ok) →
      ∃ t, exec (.preemptionSave tno) s = .next t ∧ t.taskOf tno = some { k with fields := [], phase := .queued, yielded := false, frame := c } ∧
        (∃ v ∈ t.saved, v.tno = tno ∧ v.full = full) ∧ (t.mqOf k.die k.q).recs.head? = some { k.body with saved := some tno } ∧
        (t.mqOf k.die k.q).lvl = (s.mqOf k.die k.q).base ∧ t.posts = u.posts ∧
        (∀ f ∈ k.fields, ∀ i, t.strandAt f i = none) ∧ ∀ q ∈ t.slots, q.fld ∉ k.fields) ∧
    (∀ full u, k.phase = .saving 2 → s.saveKind k = some full → s.flushTask k = (u, .ok) →
      ∃ t, exec (.ctxsaveComplete tno) s = .next t ∧
        t.taskOf tno = some { k with fields := [], phase := .parked, yielded := false, owner := none } ∧
        (∃ v ∈ t.saved, v.tno = tno ∧ v.full = full) ∧ ∃ rec, t.posts = u.posts ++ [rec] ∧ rec.kind = 7 ∧ rec.why = 2 ∧ rec.ctx = k.ctx ∧
          rec.obj = k.frame.obj ∧ rec.off = k.frame.cur ∧ rec.cnt = k.fields.length) ∧
    (k.phase = .running → ((s.ctxOf k.ctx).sth = 0 ∨ s.stalled k = false ∨ s.poolFrame k.ctx k.fields.length = none) →
      exec (.stallEscalation tno) s = .next s) ∧
    (∀ c u, k.phase = .running → (s.ctxOf k.ctx).sth ≠ 0 → s.stalled k = true → s.poolFrame k.ctx k.fields.length = some c →
      s.flushTask k = (u, .ok) → ∃ t, exec (.stallEscalation tno) s = .next t ∧
        t.taskOf tno = some { k with fields := [], phase := .escalated, yielded := false, frame := c } ∧
        ∃ rec, t.posts = u.posts ++ [rec] ∧ rec.kind = 7 ∧ rec.why = 1 ∧ rec.ctx = k.ctx) ∧
    (∀ v, k.phase = .escalated → s.saved.find? (·.tno = tno) = some v →
      (s.recordOpen v k.ctx = true → exec (.stallEscalation tno) s = .next s) ∧
      (s.recordOpen v k.ctx = false → exec (.stallEscalation tno) s = .next (s.requeue k k.die k.q))))

/-- `ctxsave` and `ctxload` (R414, R415): their checks in order, then the task is marked to be saved with XPC up, or the parked task
goes to the head of the queue. -/
def Obligations.ContextFrames : Prop :=
  (∀ (s : State) (c : CapF) (b : RegF), s.me.finder = false → s.me.mode = true → Admits s { reads := [b] } →
    let x := s.creg c; let v := (s.readReg b).toNat; let found := s.tasks.find? fun t => t.die = bits v 21 2 && t.tno % 2 ^ 16 = bits v 0 16
    let sum := checkRange (s.ownObj s.me.fld) x (pR + pW) x.cur (frameSize ((found.map (·.fields.length)).getD 1))
    (∀ e, sum = some e → exec (.ctxsave c b) s = s.raise (capTrap e x x.cur)) ∧
    (sum = none → x.cur % 4096 ≠ 0 → exec (.ctxsave c b) s = s.raise (capTrap 0x07 x x.cur)) ∧
    (sum = none → x.cur % 4096 = 0 → v / 2 ^ 23 ≠ 0 → exec (.ctxsave c b) s = s.raise (cfgInv 0x0B)) ∧
    (sum = none → x.cur % 4096 = 0 → v / 2 ^ 23 = 0 → bits v 16 5 = s.pkg →
      (found = none → exec (.ctxsave c b) s = s.raise (cfgInv 0x0A)) ∧
      (∀ k, found = some k → (k.ctx ≠ s.me.ctx ∨ k.tno = s.me.task ∨ k.phase ∈ [TaskPhase.installing, .queued, .parked, .escalated]) →
        exec (.ctxsave c b) s = s.raise (cfgInv 0x0A)) ∧
      (∀ k, found = some k → k.ctx = s.me.ctx → k.tno ≠ s.me.task → k.phase = .running → k.owner = none →
        (s.me.full .xp = true → exec (.ctxsave c b) s = .next s) ∧
        (s.me.full .xp = false → let k := { k with owner := some (s.me.fld, s.me.slot), frame := x }
          exec (.ctxsave c b) s = .next ((((s.setTask { k with phase := .saving 2 }).holdTask k).up .xp).retire 4 [b]))))) ∧
  (∀ (s t : State) (c : CapF) (b : RegF) secs, s.me.finder = false → s.me.mode = true → Admits s { reads := [b] } →
    let x := s.creg c; let q := (s.readReg b).toNat
    checkRange (s.ownObj s.me.fld) x pR x.cur 4096 = none → x.cur % 4096 = 0 →
    (64 ≤ q → exec (.ctxload c b) s = s.raise (cfgInv 0x0B)) ∧
    (q < 64 → s.readRecord (s.recordAccess x) 8 = .ok t secs → t.me = s.me → let h := (secs.headD (0, false)).1
      let w := ((secs.drop 7).headD (0, false)).1; let m := t.mqOf (t.me.fld / 32) q
      (bits h 0 16 ≠ s.me.ctx → exec (.ctxload c b) s = t.raise (capTrap 0x06 x x.cur)) ∧
      (bits h 0 16 = s.me.ctx →
        (t.savedIn x (bits h 16 16) m.die = none → exec (.ctxload c b) s = t.raise (cfgTrap 0x0A 0 0)) ∧
        (∀ k v, t.savedIn x (bits h 16 16) m.die = some (k, v) →
          (frameGood k v secs = false → exec (.ctxload c b) s = t.raise (cfgTrap 0x03 0 x.obj)) ∧
          (frameGood k v secs = true → ((bits h 40 8 ≠ 1 ∧ bits h 40 8 ≠ 2) ∨ bits h 32 8 ≠ bits w 0 8) →
            exec (.ctxload c b) s = t.raise (cfgTrap 0x0B 0 0)) ∧
          (frameGood k v secs = true → (bits h 40 8 = 1 ∨ bits h 40 8 = 2) → bits h 32 8 = bits w 0 8 →
            (k.phase ≠ .parked → k.phase ≠ .escalated → exec (.ctxload c b) s = t.raise (cfgTrap 0x0A 0 0)) ∧
            (k.phase = .parked → (m.en = false ∨ m.ctx ≠ s.me.ctx) → exec (.ctxload c b) s = t.raise (mkTrap 0x06 0 x.obj q)) ∧
            (k.phase = .parked → m.en = true → m.ctx = s.me.ctx →
              (256 ≤ m.recs.length → exec (.ctxload c b) s = .next t) ∧
              (m.recs.length < 256 → exec (.ctxload c b) s = .next ((t.requeue k m.die q).retire 4 [b]))))))))

/-- Placement, selection and dispatch (R192, R193, R218, R220). -/
def Obligations.PlacementAndSelection : Prop := Claim.Placement ∧ Claim.Selection

/-! ### Links, host windows, management and bring-up (R426, R443, R444, R454 to R467) -/

/-- Links (R426, R443, R444, R466): a flit that passes its CRC in sequence is taken, any other is discarded; a replay moves
counters only; a lane with more than 16 replays within 2^30 flits is fenced and reported, and the link carries nothing until it
has narrowed from four lanes to two, or from two to one. -/
def Sys2Proof.Claim.Links : Prop :=
  ∀ (s : State) (port seq : Nat) (crc : Bool),
    (s.linkOf port = none → exec (.flitReceive port seq crc) s = .next s ∧ exec (.linkReplay port seq) s = .next s ∧
      exec (.laneFence port) s = .next s ∧ exec (.linkNarrowComplete port) s = .next s) ∧
    (∀ l, s.linkOf port = some l →
      ((l.lanes = 0 ∨ l.narrowing = true) → exec (.flitReceive port seq crc) s = .next s ∧ exec (.laneFence port) s = .next s) ∧
      (l.lanes ≠ 0 → l.narrowing = false → exec (.flitReceive port seq crc) s = .next (s.setLink { l with
        expect := if crc = true ∧ l.expect = BitVec.ofNat 16 seq then l.expect + 1 else l.expect
        flits := if l.flits + 1 < 2 ^ 30 then l.flits + 1 else 0
        laneReplays := if l.flits + 1 < 2 ^ 30 then l.laneReplays else 0 })) ∧
      (l.lanes ≠ 0 → ∃ c : W32, exec (.linkReplay port seq) s = .next (s.setLink { l with replays := c, laneReplays := l.laneReplays + 1 }) ∧
        c.toNat = min (l.replays.toNat + 1) (2 ^ 32 - 1)) ∧
      (l.laneReplays ≤ 16 → exec (.laneFence port) s = .next s) ∧
      (16 < l.laneReplays → l.lanes ≠ 0 → l.narrowing = false → ∃ m, m.code = mgReplace ∧ exec (.laneFence port) s = .next
        { s.setLink { l with lanes := (if l.lanes = 4 then 2 else if l.lanes = 2 then 1 else 0), laneReplays := 0, flits := 0, narrowing := true }
          with mgmt := s.mgmt ++ [m] }) ∧
      exec (.linkNarrowComplete port) s = .next (s.setLink { l with narrowing := false }))

/-- The windows of the host complex (R457): which register lies at which address, and what it holds for a read (R216, R458,
R465); anything but an aligned doubleword of a register is an access fault. -/
def Sys2Proof.Claim.HostWindows : Prop :=
  (hregOf 0x3F00000000 = some .pkgid ∧ hregOf 0x3F00000008 = some .bstate ∧ hregOf 0x3F00000010 = some .ctxt ∧
    hregOf 0x3F00000800 = some .caplo ∧ hregOf 0x3F00000808 = some .caphi ∧ hregOf 0x3F00000810 = some .captgt ∧ hregOf 0x3F00000818 = some .capst) ∧
  (∀ i, i < 512 → hregOf (0x3F00001000 + 8 * i) = some (.aper i)) ∧ (∀ n, n < 1024 → hregOf (0x3F00002000 + 16 * n) = some (.nvqb n)) ∧
  (∀ d, d < 4 → let base := 0x3F00010000 + 0x10000 * d
    (∀ q, q < 64 → hregOf (base + 8 * q) = some (.mqcfg d q) ∧ hregOf (base + 0x200 + 8 * q) = some (.mqsub d q) ∧
      hregOf (base + 0x600 + 8 * q) = some (.mqst d q)) ∧
    hregOf (base + 0x400) = some (.adir (2 * d)) ∧ hregOf (base + 0x408) = some (.adir (2 * d + 1)) ∧ hregOf (base + 0x410) = some (.diestat d) ∧
    hregOf (base + 0x418) = some (.rrsv (2 * d)) ∧ hregOf (base + 0x420) = some (.rrsv (2 * d + 1))) ∧
  (∀ a, a % 8 ≠ 0 → hregOf a = none) ∧
  (∀ (s : State) (addr size kind : Nat) (v : W64) (r : HReg), hregOf addr = some r →
    ((size ≠ 8 ∨ 2 ≤ kind ∨ (s.host.st ≠ 6 ∧ r ≠ .pkgid ∧ r ≠ .bstate)) → exec (.hostApertureAccess addr size kind v) s = .next (s.hartGets none)) ∧
    ((s.host.st = 6 ∨ r = .pkgid ∨ r = .bstate) → exec (.hostApertureAccess addr 8 0 v) s = .next (s.hartGets (some (s.hregRead r))) ∧
      exec (.hostApertureAccess addr 8 1 v) s = exec (.hostRegisterWrite addr v) s)) ∧
  (∀ s : State, s.hregRead .bstate = BitVec.ofNat 64 (s.host.st + 16 * s.host.why) ∧ s.hregRead .pkgid = s.host.pkgid.setWidth 64 ∧
    (∀ d q, s.hregRead (.mqsub d q) = 0 ∧ let m := s.mqOf d q; let y := s.hregRead (.mqcfg d q); let z := s.hregRead (.mqst d q)
      y.getLsbD 0 = m.en ∧ y.getLsbD 1 = m.hq ∧ (m.wbase < 8 → m.lvl < 8 → m.age < 2 ^ 16 → m.ctx < 2 ^ 16 → m.recs.length ≤ 256 →
        (y.extractLsb' 2 3).toNat = m.wbase ∧ (y.extractLsb' 5 3).toNat = m.lvl ∧ (y.extractLsb' 8 16).toNat = m.age ∧
        (y.extractLsb' 24 16).toNat = m.ctx ∧ (y.extractLsb' 40 9).toNat = m.recs.length ∧ y.getLsbD 49 = !m.rsv.isEmpty ∧
        y.extractLsb' 50 14 = 0#14) ∧
      (z.extractLsb' 0 8).toNat = m.st % 256 ∧ z.getLsbD 8 = m.dn ∧ z.extractLsb' 9 55 = 0#55))

/-- Writes to the windows (R9, R10, R245, R456, R457, R462, R465): what each register keeps of a value; before bring-up has ended
only PKGID and BSTATE respond, and PKGID is fixed afterwards. -/
def Sys2Proof.Claim.HostWrites : Prop :=
  ∀ (s : State) (addr : Nat) (v : W64),
    let ends (t : HostRegs) : Prop := exec (.hostRegisterWrite addr v) s = .next (({ s with host := t } : State).hartGets (some 0))
    (hregOf addr = none → exec (.hostRegisterWrite addr v) s = .next (s.hartGets none)) ∧
    (hregOf addr = some .pkgid → (s.host.st ≠ 6 → ends { s.host with pkgid := v.setWidth 5 }) ∧ (s.host.st = 6 → ends s.host)) ∧
    (hregOf addr = some .bstate → ends s.host) ∧
    (∀ r, hregOf addr = some r → s.host.st ≠ 6 → r ≠ .pkgid → r ≠ .bstate → exec (.hostRegisterWrite addr v) s = .next (s.hartGets none)) ∧
    (s.host.st = 6 →
      (hregOf addr = some .ctxt → ends { s.host with ctxt := v }) ∧ (hregOf addr = some .caplo → ends { s.host with caplo := v }) ∧
      (hregOf addr = some .caphi → ends { s.host with caphi := v }) ∧
      (hregOf addr = some .captgt → exec (.hostRegisterWrite addr v) s = exec (.captgtWrite v) s) ∧
      ((hregOf addr = some .capst ∨ (∃ d q, hregOf addr = some (.mqst d q)) ∨ ∃ d, hregOf addr = some (.diestat d)) → ends s.host) ∧
      (∀ i, hregOf addr = some (.aper i) → ∃ l w, ends { s.host with aper := l } ∧ regIn l i = w ∧ (∀ j, j ≠ i → regIn l j = regIn s.host.aper j) ∧
        w = (if i % 2 = 0 then v &&& 0x7FFFFFFFFFFFF#64 else v &&& 0xFFFFFFFF0000#64)) ∧
      (∀ m (h : m < 8), hregOf addr = some (.adir m) → ends { s.host with adir := s.host.adir.set m (v &&& 0xFFFFFFFFFFC0#64) }) ∧
      (∀ m (h : m < 8), hregOf addr = some (.rrsv m) → ends { s.host with rrsv := s.host.rrsv.set m (v &&& 0x3FFFFFFFFFFFFFF#64) }) ∧
      (∀ n, n < 1024 → hregOf addr = some (.nvqb n) → exec (.hostRegisterWrite addr v) s = exec (.nvqbWrite n v) s) ∧
      (∀ d q, d < 4 → q < 64 → (hregOf addr = some (.mqcfg d q) → exec (.hostRegisterWrite addr v) s = exec (.mqcfgWrite d q v) s) ∧
        (hregOf addr = some (.mqsub d q) → exec (.hostRegisterWrite addr v) s = exec (.mqsubWrite d q v) s)) ∧
      (∀ n, n < 1024 → (((regIn s.host.nvqb n).getLsbD 0 = true ∧ s.pairBusy n = true) → exec (.nvqbWrite n v) s = .next (s.hartGets (some 0))) ∧
        (((regIn s.host.nvqb n).getLsbD 0 = false ∨ s.pairBusy n = false) → ∃ l, exec (.nvqbWrite n v) s =
            .next { s.hartGets (some 0) with host := { s.host with nvqb := l, hart := some 0 } } ∧
          regIn l n = v &&& 0x7FFFFFFFFFFFF#64 ∧ ∀ j, j ≠ n → regIn l j = regIn s.host.nvqb j)) ∧
      (∀ m (h : m < 8), exec (.rrsvWrite m v) s = .next { s with host := { s.host with
        rrsv := s.host.rrsv.set m (v &&& 0x3FFFFFFFFFFFFFF#64), hart := some 0 } }))

/-- Accesses through apertures (R455, R456, R460): an access that the aperture allows is an access of the host complex at scope 4 to
its object; it answers what it reads, or waits at a port that holds it; one that it does not allow is an access fault. A write
to CAPTGT stores a capability, tagged where it is well-formed, and shows in CAPST. -/
def Obligations.HostAccesses : Prop :=
  (∀ (s : State) (addr size kind : Nat) (v : W64), hregOf addr = none →
    ((s.host.st ≠ 6 ∨ s.aperture addr = none ∨ size ∉ [1, 2, 4, 8]) → exec (.hostApertureAccess addr size kind v) s = .next (s.hartGets none)) ∧
    (∀ p, s.aperture addr = some p → (16 < p.off % 16 + size ∨ ((kind = 0 ∨ 2 ≤ kind) ∧ p.r = false) ∨ (1 ≤ kind ∧ p.w = false)) →
      exec (.hostApertureAccess addr size kind v) s = .next (s.hartGets none)) ∧
    (∀ p, s.host.st = 6 → s.aperture addr = some p → size ∈ [1, 2, 4, 8] → p.off % 16 + size ≤ 16 → p.obj < localObj →
      (∀ t w tg fl rs op, ((kind = 0 ∧ p.r = true ∧ op = .read) ∨ (kind = 1 ∧ p.w = true ∧ op = .write v.toNat) ∨
          (2 ≤ kind ∧ kind ≤ 10 ∧ 4 ≤ size ∧ p.off % size = 0 ∧ p.r = true ∧ p.w = true ∧ op = .atomic (kind - 2) v.toNat)) →
        let a := s.hostAccess p size op
        a.ctx = p.ctx ∧ a.obj = p.obj ∧ a.off = p.off ∧ a.n = size ∧ a.party = 0x7FFF ∧ a.sync = true ∧ a.scope = 4 ∧
        (s.performSync a = (t, .val w tg fl, rs) → exec (.hostApertureAccess addr size kind v) s = .next (t.hartGets (some (BitVec.ofNat 64 w)))) ∧
        (∀ c y, s.performSync a = (t, .hold c y, rs) → ∃ u f, exec (.hostApertureAccess addr size kind v) s = .next u ∧ f ∈ u.flights ∧
          f.who = .host ∧ f.phase = .held (p.obj % 8) ∧ u.host.hart = (t.holdAt p.ctx p.obj p.off c y 0x7FFF).host.hart)))) ∧
  (∀ (s : State) (addr : Nat) (p : Aper), s.aperture addr = some p → ∃ i, i < 256 ∧ 0x4000000000 + i * 2 ^ 30 ≤ addr ∧ addr < 0x4000000000 + (i + 1) * 2 ^ 30 ∧
    let lo := regIn s.host.aper (2 * i); lo.getLsbD 48 = true ∧ p.obj = (lo.extractLsb' 0 32).toNat ∧ p.ctx = (lo.extractLsb' 32 16).toNat ∧
      p.r = lo.getLsbD 49 ∧ p.w = lo.getLsbD 50 ∧ p.off = (regIn s.host.aper (2 * i + 1)).toNat + (addr - (0x4000000000 + i * 2 ^ 30))) ∧
  (∀ (s : State) (v : W64), s.host.st = 6 →
    let fails := exec (.captgtWrite v) s = .next { s with host := { s.host with capst := 2, hart := some 0 } }
    (s.aperture v.toNat = none → fails) ∧
    (∀ p, s.aperture v.toNat = some p → (p.w = false ∨ v.toNat % 16 ≠ 0 ∨ localObj ≤ p.obj) → fails) ∧
    (∀ p, s.aperture v.toNat = some p → p.w = true → v.toNat % 16 = 0 → p.obj < localObj →
      let c : Cap := { bits := s.host.caphi ++ s.host.caplo, tag := true }; let c : Cap := { c with tag := c.ok }
      ∀ t w tg fl rs, s.performSync (s.hostAccess p 16 (.capWrite c)) = (t, .val w tg fl, rs) → ∃ z : State, exec (.captgtWrite v) s = .next z ∧
        z.mem = t.mem ∧ z.host.capst = if c.tag then 0 else 1))

/-- The management port, bring-up and heat (R462 to R467): identity and status are always answered, the status
with the replay counters of the fields and of the links once bring-up has ended; attestation once bring-up has
ended and refused before; each stage of bring-up goes on to the next or fails with its cause; throttling changes nothing else;
a shutdown posts the cause and stops the device. -/
def Sys2Proof.Claim.ManagementAndBringUp : Prop :=
  ∀ (s : State),
    (∃ m, m.code = mgIdentity ∧ m.body.extractLsb' 0 64 = identVal ∧ exec .identityRequest s = .next { s with mgmt := s.mgmt ++ [m] }) ∧
    (∃ m, m.code = mgStatus ∧ m.body.extractLsb' 0 64 = s.host.bstate ∧
      let counted (f : Field) : Mgmt := { code := mgReplays, body := BitVec.ofNat 256 (f.no + f.replays.toNat * 2 ^ 32) }
      let linked (l : Link) : Mgmt := { code := mgLinkReplays, body := BitVec.ofNat 256 (l.port + l.replays.toNat * 2 ^ 32) }
      exec .statusRequest s = .next { s with
        mgmt := s.mgmt ++ m :: (((if s.host.st = 6 then s.fields else []).filter (·.replays ≠ 0)).map counted ++
          ((if s.host.st = 6 then s.links else []).filter (·.replays ≠ 0)).map linked) }) ∧
    (∀ i n, (i, n) ∈ [(Instr.getVersion, 0), (.getCapabilities, 1), (.negotiateAlgorithms, 2), (.getDigests, 3), (.getCertificate, 4),
        (.challenge, 5), (.getMeasurements, 6)] → ∃ m, exec i s = .next { s with mgmt := s.mgmt ++ [m] } ∧
      (s.host.st = 6 → m = { code := mgSpdm + n, body := Config.attestation n }) ∧ (s.host.st ≠ 6 → m.code = mgBringup)) ∧
    (let phase (st why : Nat) : State := { s with host := { s.host with st := st, why := why } };
      (s.host.st ≤ 1 → ∃ st why, exec .firmwareVerify s = .next { phase st why with free := s.free + 1 } ∧ ((st = 2 ∧ why = 0) ∨ (st = 15 ∧ why = 1))) ∧
      (1 < s.host.st → exec .firmwareVerify s = .next s) ∧
      (∀ good, exec (.hbmTraining good) s = .next (if s.host.st ≠ 2 then s else if good = true then phase 3 0 else phase 15 2)) ∧
      (∀ good, exec (.dieLinkTraining good) s = .next (if s.host.st ≠ 3 then s else if good = true then { phase 4 0 with links := dieEdges } else phase 15 3)) ∧
      (∀ up pkg, (s.host.st ≠ 4 → exec (.packagePortTraining up pkg) s = .next s) ∧ (s.host.st = 4 → ∃ ls : List Link,
        exec (.packagePortTraining up pkg) s = .next { s with host := { s.host with st := 6, why := 0, pkgid := pkg }, links := ls ++ s.links.filter (16 ≤ ·.port) } ∧
        ls.length = 16 ∧ ∀ i (h : i < ls.length), ls[i].port = i ∧ ls[i].lanes = if up.getLsbD i then 4 else 0))) ∧
    (∀ die, exec (.thermalThrottle die) s = .next { s with clockStep := s.clockStep + 1 }) ∧
    (∀ die, ∃ m, m.code = mgShutdown ∧ exec (.thermalShutdown die) s = .next { s with mgmt := s.mgmt ++ [m], shutdown := true })

/-- The registers of the host windows (R216, R245, R456 to R458, R462, R465): addresses, reads and writes. -/
def Obligations.WindowsOfTheHost : Prop := Claim.HostWindows ∧ Claim.HostWrites

/-- Links, the management port, bring-up and heat (R426, R443, R444, R463 to R467). -/
def Obligations.LinksAndManagement : Prop := Claim.Links ∧ Claim.ManagementAndBringUp
end

