-- ==== Sys2Proof/Laws/Encoding.lean ====
section
/-!
SUPPORT. The fields of the words that the encoder makes: each field reads back as it was written.
-/
namespace Sys2Proof

/-- Two fields joined, as a number. -/
theorem cat_toNat {n m : Nat} (x : BitVec n) (y : BitVec m) : (x ++ y).toNat = x.toNat * 2 ^ m + y.toNat := by
  rw [BitVec.toNat_append, ← Nat.shiftLeft_add_eq_or_of_lt y.isLt, Nat.shiftLeft_eq]

theorem mkRR_toNat (c : BitVec 2) (m : BitVec 6) (d : RegF) (a : RegF) (b : RegF) (fn : BitVec 9) :
    (mkRR c m d a b fn).toNat = c.toNat * 2 ^ 30 + m.toNat * 2 ^ 24 + d.toNat * 2 ^ 19 + a.toNat * 2 ^ 14 + b.toNat * 2 ^ 9 + fn.toNat := by
  unfold mkRR
  simp only [cat_toNat]
  omega

@[simp] theorem fCls_mkRR (c : BitVec 2) (m : BitVec 6) (d : RegF) (a : RegF) (b : RegF) (fn : BitVec 9) : fCls (mkRR c m d a b fn) = c := by
  apply BitVec.eq_of_toNat_eq
  have := mkRR_toNat c m d a b fn
  have := c.isLt; have := m.isLt; have := d.isLt; have := a.isLt; have := b.isLt; have := fn.isLt
  simp only [fCls, BitVec.extractLsb'_toNat, Nat.shiftRight_eq_div_pow]
  omega

@[simp] theorem fMaj_mkRR (c : BitVec 2) (m : BitVec 6) (d : RegF) (a : RegF) (b : RegF) (fn : BitVec 9) : fMaj (mkRR c m d a b fn) = m := by
  apply BitVec.eq_of_toNat_eq
  have := mkRR_toNat c m d a b fn
  have := c.isLt; have := m.isLt; have := d.isLt; have := a.isLt; have := b.isLt; have := fn.isLt
  simp only [fMaj, BitVec.extractLsb'_toNat, Nat.shiftRight_eq_div_pow]
  omega

@[simp] theorem fD_mkRR (c : BitVec 2) (m : BitVec 6) (d : RegF) (a : RegF) (b : RegF) (fn : BitVec 9) : fD (mkRR c m d a b fn) = d := by
  apply BitVec.eq_of_toNat_eq
  have := mkRR_toNat c m d a b fn
  have := c.isLt; have := m.isLt; have := d.isLt; have := a.isLt; have := b.isLt; have := fn.isLt
  simp only [fD, BitVec.extractLsb'_toNat, Nat.shiftRight_eq_div_pow]
  omega

@[simp] theorem fA_mkRR (c : BitVec 2) (m : BitVec 6) (d : RegF) (a : RegF) (b : RegF) (fn : BitVec 9) : fA (mkRR c m d a b fn) = a := by
  apply BitVec.eq_of_toNat_eq
  have := mkRR_toNat c m d a b fn
  have := c.isLt; have := m.isLt; have := d.isLt; have := a.isLt; have := b.isLt; have := fn.isLt
  simp only [fA, BitVec.extractLsb'_toNat, Nat.shiftRight_eq_div_pow]
  omega

@[simp] theorem fB_mkRR (c : BitVec 2) (m : BitVec 6) (d : RegF) (a : RegF) (b : RegF) (fn : BitVec 9) : fB (mkRR c m d a b fn) = b := by
  apply BitVec.eq_of_toNat_eq
  have := mkRR_toNat c m d a b fn
  have := c.isLt; have := m.isLt; have := d.isLt; have := a.isLt; have := b.isLt; have := fn.isLt
  simp only [fB, BitVec.extractLsb'_toNat, Nat.shiftRight_eq_div_pow]
  omega

@[simp] theorem fFn_mkRR (c : BitVec 2) (m : BitVec 6) (d : RegF) (a : RegF) (b : RegF) (fn : BitVec 9) : fFn (mkRR c m d a b fn) = fn := by
  apply BitVec.eq_of_toNat_eq
  have := mkRR_toNat c m d a b fn
  have := c.isLt; have := m.isLt; have := d.isLt; have := a.isLt; have := b.isLt; have := fn.isLt
  simp only [fFn, BitVec.extractLsb'_toNat, Nat.shiftRight_eq_div_pow]
  omega

theorem mkRI_toNat (c : BitVec 2) (m : BitVec 6) (d : RegF) (a : RegF) (i : BitVec 14) :
    (mkRI c m d a i).toNat = c.toNat * 2 ^ 30 + m.toNat * 2 ^ 24 + d.toNat * 2 ^ 19 + a.toNat * 2 ^ 14 + i.toNat := by
  unfold mkRI
  simp only [cat_toNat]
  omega

@[simp] theorem fCls_mkRI (c : BitVec 2) (m : BitVec 6) (d : RegF) (a : RegF) (i : BitVec 14) : fCls (mkRI c m d a i) = c := by
  apply BitVec.eq_of_toNat_eq
  have := mkRI_toNat c m d a i
  have := c.isLt; have := m.isLt; have := d.isLt; have := a.isLt; have := i.isLt
  simp only [fCls, BitVec.extractLsb'_toNat, Nat.shiftRight_eq_div_pow]
  omega

@[simp] theorem fMaj_mkRI (c : BitVec 2) (m : BitVec 6) (d : RegF) (a : RegF) (i : BitVec 14) : fMaj (mkRI c m d a i) = m := by
  apply BitVec.eq_of_toNat_eq
  have := mkRI_toNat c m d a i
  have := c.isLt; have := m.isLt; have := d.isLt; have := a.isLt; have := i.isLt
  simp only [fMaj, BitVec.extractLsb'_toNat, Nat.shiftRight_eq_div_pow]
  omega

@[simp] theorem fD_mkRI (c : BitVec 2) (m : BitVec 6) (d : RegF) (a : RegF) (i : BitVec 14) : fD (mkRI c m d a i) = d := by
  apply BitVec.eq_of_toNat_eq
  have := mkRI_toNat c m d a i
  have := c.isLt; have := m.isLt; have := d.isLt; have := a.isLt; have := i.isLt
  simp only [fD, BitVec.extractLsb'_toNat, Nat.shiftRight_eq_div_pow]
  omega

@[simp] theorem fA_mkRI (c : BitVec 2) (m : BitVec 6) (d : RegF) (a : RegF) (i : BitVec 14) : fA (mkRI c m d a i) = a := by
  apply BitVec.eq_of_toNat_eq
  have := mkRI_toNat c m d a i
  have := c.isLt; have := m.isLt; have := d.isLt; have := a.isLt; have := i.isLt
  simp only [fA, BitVec.extractLsb'_toNat, Nat.shiftRight_eq_div_pow]
  omega

@[simp] theorem fI14_mkRI (c : BitVec 2) (m : BitVec 6) (d : RegF) (a : RegF) (i : BitVec 14) : fI14 (mkRI c m d a i) = i := by
  apply BitVec.eq_of_toNat_eq
  have := mkRI_toNat c m d a i
  have := c.isLt; have := m.isLt; have := d.isLt; have := a.isLt; have := i.isLt
  simp only [fI14, BitVec.extractLsb'_toNat, Nat.shiftRight_eq_div_pow]
  omega

theorem mkMovi_toNat (d : RegF) (i : BitVec 19) :
    (mkMovi d i).toNat = 0 * 2 ^ 30 + 8 * 2 ^ 24 + d.toNat * 2 ^ 19 + i.toNat := by
  unfold mkMovi
  simp only [cat_toNat, BitVec.toNat_ofNat]
  omega

@[simp] theorem fCls_mkMovi (d : RegF) (i : BitVec 19) : fCls (mkMovi d i) = 0#2 := by
  apply BitVec.eq_of_toNat_eq
  have := mkMovi_toNat d i
  have := d.isLt; have := i.isLt
  simp only [fCls, BitVec.extractLsb'_toNat, Nat.shiftRight_eq_div_pow, BitVec.toNat_ofNat]
  omega

@[simp] theorem fMaj_mkMovi (d : RegF) (i : BitVec 19) : fMaj (mkMovi d i) = 8#6 := by
  apply BitVec.eq_of_toNat_eq
  have := mkMovi_toNat d i
  have := d.isLt; have := i.isLt
  simp only [fMaj, BitVec.extractLsb'_toNat, Nat.shiftRight_eq_div_pow, BitVec.toNat_ofNat]
  omega

@[simp] theorem fD_mkMovi (d : RegF) (i : BitVec 19) : fD (mkMovi d i) = d := by
  apply BitVec.eq_of_toNat_eq
  have := mkMovi_toNat d i
  have := d.isLt; have := i.isLt
  simp only [fD, BitVec.extractLsb'_toNat, Nat.shiftRight_eq_div_pow]
  omega

@[simp] theorem fI19_mkMovi (d : RegF) (i : BitVec 19) : fI19 (mkMovi d i) = i := by
  apply BitVec.eq_of_toNat_eq
  have := mkMovi_toNat d i
  have := d.isLt; have := i.isLt
  simp only [fI19, BitVec.extractLsb'_toNat, Nat.shiftRight_eq_div_pow]
  omega

theorem mkBR_toNat (m : BitVec 6) (p : PredF) (n : BitVec 1) (off : BitVec 20) :
    (mkBR m p n off).toNat = 0 * 2 ^ 30 + m.toNat * 2 ^ 24 + p.toNat * 2 ^ 21 + n.toNat * 2 ^ 20 + off.toNat := by
  unfold mkBR
  simp only [cat_toNat, BitVec.toNat_ofNat]
  omega

@[simp] theorem fCls_mkBR (m : BitVec 6) (p : PredF) (n : BitVec 1) (off : BitVec 20) : fCls (mkBR m p n off) = 0#2 := by
  apply BitVec.eq_of_toNat_eq
  have := mkBR_toNat m p n off
  have := m.isLt; have := p.isLt; have := n.isLt; have := off.isLt
  simp only [fCls, BitVec.extractLsb'_toNat, Nat.shiftRight_eq_div_pow, BitVec.toNat_ofNat]
  omega

@[simp] theorem fMaj_mkBR (m : BitVec 6) (p : PredF) (n : BitVec 1) (off : BitVec 20) : fMaj (mkBR m p n off) = m := by
  apply BitVec.eq_of_toNat_eq
  have := mkBR_toNat m p n off
  have := m.isLt; have := p.isLt; have := n.isLt; have := off.isLt
  simp only [fMaj, BitVec.extractLsb'_toNat, Nat.shiftRight_eq_div_pow]
  omega

@[simp] theorem fP_mkBR (m : BitVec 6) (p : PredF) (n : BitVec 1) (off : BitVec 20) : fP (mkBR m p n off) = p := by
  apply BitVec.eq_of_toNat_eq
  have := mkBR_toNat m p n off
  have := m.isLt; have := p.isLt; have := n.isLt; have := off.isLt
  simp only [fP, BitVec.extractLsb'_toNat, Nat.shiftRight_eq_div_pow]
  omega

@[simp] theorem fN_mkBR (m : BitVec 6) (p : PredF) (n : BitVec 1) (off : BitVec 20) : fN (mkBR m p n off) = n := by
  apply BitVec.eq_of_toNat_eq
  have := mkBR_toNat m p n off
  have := m.isLt; have := p.isLt; have := n.isLt; have := off.isLt
  simp only [fN, BitVec.extractLsb'_toNat, Nat.shiftRight_eq_div_pow]
  omega

@[simp] theorem fOff_mkBR (m : BitVec 6) (p : PredF) (n : BitVec 1) (off : BitVec 20) : fOff (mkBR m p n off) = off := by
  apply BitVec.eq_of_toNat_eq
  have := mkBR_toNat m p n off
  have := m.isLt; have := p.isLt; have := n.isLt; have := off.isLt
  simp only [fOff, BitVec.extractLsb'_toNat, Nat.shiftRight_eq_div_pow]
  omega

theorem mkCP_toNat (c : BitVec 2) (m : BitVec 6) (d : CapF) (a : CapF) (b : RegF) (fn : BitVec 11) :
    (mkCP c m d a b fn).toNat = c.toNat * 2 ^ 30 + m.toNat * 2 ^ 24 + d.toNat * 2 ^ 20 + a.toNat * 2 ^ 16 + b.toNat * 2 ^ 11 + fn.toNat := by
  unfold mkCP
  simp only [cat_toNat]
  omega

@[simp] theorem fCls_mkCP (c : BitVec 2) (m : BitVec 6) (d : CapF) (a : CapF) (b : RegF) (fn : BitVec 11) : fCls (mkCP c m d a b fn) = c := by
  apply BitVec.eq_of_toNat_eq
  have := mkCP_toNat c m d a b fn
  have := c.isLt; have := m.isLt; have := d.isLt; have := a.isLt; have := b.isLt; have := fn.isLt
  simp only [fCls, BitVec.extractLsb'_toNat, Nat.shiftRight_eq_div_pow]
  omega

@[simp] theorem fMaj_mkCP (c : BitVec 2) (m : BitVec 6) (d : CapF) (a : CapF) (b : RegF) (fn : BitVec 11) : fMaj (mkCP c m d a b fn) = m := by
  apply BitVec.eq_of_toNat_eq
  have := mkCP_toNat c m d a b fn
  have := c.isLt; have := m.isLt; have := d.isLt; have := a.isLt; have := b.isLt; have := fn.isLt
  simp only [fMaj, BitVec.extractLsb'_toNat, Nat.shiftRight_eq_div_pow]
  omega

@[simp] theorem cD_mkCP (c : BitVec 2) (m : BitVec 6) (d : CapF) (a : CapF) (b : RegF) (fn : BitVec 11) : cD (mkCP c m d a b fn) = d := by
  apply BitVec.eq_of_toNat_eq
  have := mkCP_toNat c m d a b fn
  have := c.isLt; have := m.isLt; have := d.isLt; have := a.isLt; have := b.isLt; have := fn.isLt
  simp only [cD, BitVec.extractLsb'_toNat, Nat.shiftRight_eq_div_pow]
  omega

@[simp] theorem cA_mkCP (c : BitVec 2) (m : BitVec 6) (d : CapF) (a : CapF) (b : RegF) (fn : BitVec 11) : cA (mkCP c m d a b fn) = a := by
  apply BitVec.eq_of_toNat_eq
  have := mkCP_toNat c m d a b fn
  have := c.isLt; have := m.isLt; have := d.isLt; have := a.isLt; have := b.isLt; have := fn.isLt
  simp only [cA, BitVec.extractLsb'_toNat, Nat.shiftRight_eq_div_pow]
  omega

@[simp] theorem cB_mkCP (c : BitVec 2) (m : BitVec 6) (d : CapF) (a : CapF) (b : RegF) (fn : BitVec 11) : cB (mkCP c m d a b fn) = b := by
  apply BitVec.eq_of_toNat_eq
  have := mkCP_toNat c m d a b fn
  have := c.isLt; have := m.isLt; have := d.isLt; have := a.isLt; have := b.isLt; have := fn.isLt
  simp only [cB, BitVec.extractLsb'_toNat, Nat.shiftRight_eq_div_pow]
  omega

@[simp] theorem cFn_mkCP (c : BitVec 2) (m : BitVec 6) (d : CapF) (a : CapF) (b : RegF) (fn : BitVec 11) : cFn (mkCP c m d a b fn) = fn := by
  apply BitVec.eq_of_toNat_eq
  have := mkCP_toNat c m d a b fn
  have := c.isLt; have := m.isLt; have := d.isLt; have := a.isLt; have := b.isLt; have := fn.isLt
  simp only [cFn, BitVec.extractLsb'_toNat, Nat.shiftRight_eq_div_pow]
  omega

theorem mkWait_toNat (l : BitVec 6) (s : BitVec 6) (c : BitVec 6) (t : BitVec 6) :
    (mkWait l s c t).toNat = 1 * 2 ^ 30 + 3 * 2 ^ 24 + l.toNat * 2 ^ 18 + s.toNat * 2 ^ 12 + c.toNat * 2 ^ 6 + t.toNat := by
  unfold mkWait
  simp only [cat_toNat, BitVec.toNat_ofNat]
  omega

@[simp] theorem fCls_mkWait (l : BitVec 6) (s : BitVec 6) (c : BitVec 6) (t : BitVec 6) : fCls (mkWait l s c t) = 1#2 := by
  apply BitVec.eq_of_toNat_eq
  have := mkWait_toNat l s c t
  have := l.isLt; have := s.isLt; have := c.isLt; have := t.isLt
  simp only [fCls, BitVec.extractLsb'_toNat, Nat.shiftRight_eq_div_pow, BitVec.toNat_ofNat]
  omega

@[simp] theorem fMaj_mkWait (l : BitVec 6) (s : BitVec 6) (c : BitVec 6) (t : BitVec 6) : fMaj (mkWait l s c t) = 3#6 := by
  apply BitVec.eq_of_toNat_eq
  have := mkWait_toNat l s c t
  have := l.isLt; have := s.isLt; have := c.isLt; have := t.isLt
  simp only [fMaj, BitVec.extractLsb'_toNat, Nat.shiftRight_eq_div_pow, BitVec.toNat_ofNat]
  omega

theorem mkTail_toNat (x : BitVec 5) (g : PredF) (imm : BitVec 22) :
    (mkTail x g imm).toNat = 3 * 2 ^ 30 + x.toNat * 2 ^ 25 + g.toNat * 2 ^ 22 + imm.toNat := by
  unfold mkTail
  simp only [cat_toNat, BitVec.toNat_ofNat]
  omega

@[simp] theorem fCls_mkTail (x : BitVec 5) (g : PredF) (imm : BitVec 22) : fCls (mkTail x g imm) = 3#2 := by
  apply BitVec.eq_of_toNat_eq
  have := mkTail_toNat x g imm
  have := x.isLt; have := g.isLt; have := imm.isLt
  simp only [fCls, BitVec.extractLsb'_toNat, Nat.shiftRight_eq_div_pow, BitVec.toNat_ofNat]
  omega

@[simp] theorem tX_mkTail (x : BitVec 5) (g : PredF) (imm : BitVec 22) : tX (mkTail x g imm) = x := by
  apply BitVec.eq_of_toNat_eq
  have := mkTail_toNat x g imm
  have := x.isLt; have := g.isLt; have := imm.isLt
  simp only [tX, BitVec.extractLsb'_toNat, Nat.shiftRight_eq_div_pow]
  omega

@[simp] theorem tG_mkTail (x : BitVec 5) (g : PredF) (imm : BitVec 22) : tG (mkTail x g imm) = g := by
  apply BitVec.eq_of_toNat_eq
  have := mkTail_toNat x g imm
  have := x.isLt; have := g.isLt; have := imm.isLt
  simp only [tG, BitVec.extractLsb'_toNat, Nat.shiftRight_eq_div_pow]
  omega

@[simp] theorem tImm_mkTail (x : BitVec 5) (g : PredF) (imm : BitVec 22) : tImm (mkTail x g imm) = imm := by
  apply BitVec.eq_of_toNat_eq
  have := mkTail_toNat x g imm
  have := x.isLt; have := g.isLt; have := imm.isLt
  simp only [tImm, BitVec.extractLsb'_toNat, Nat.shiftRight_eq_div_pow]
  omega

/-- A word of class 2 is the head of a long instruction (R32). -/
@[simp] theorem isHead_mkRR (c : BitVec 2) (m : BitVec 6) (d a b : RegF) (fn : BitVec 9) : isHead (mkRR c m d a b fn) = decide (c = 2) := by
  simp [isHead]

end Sys2Proof
end

