-- ==== Sys2Proof/Laws/Exec.lean ====
section
/-!
SUPPORT. What exec does with each constructor of Instr: one rewriting lemma per arm.
-/
namespace Sys2Proof.Machine

theorem exec_illegalOp (w0 : W32) (w1 : W32) (s : State) : exec (.illegalOp w0 w1) s = execIllegalOp w0 w1 s := rfl
theorem exec_add (d : RegF) (a : RegF) (b : RegF) (s : State) : exec (.add d a b) s = execAdd d a b s := rfl
theorem exec_sub (d : RegF) (a : RegF) (b : RegF) (s : State) : exec (.sub d a b) s = execSub d a b s := rfl
theorem exec_mul (d : RegF) (a : RegF) (b : RegF) (s : State) : exec (.mul d a b) s = execMul d a b s := rfl
theorem exec_mulh (d : RegF) (a : RegF) (b : RegF) (s : State) : exec (.mulh d a b) s = execMulh d a b s := rfl
theorem exec_mulhu (d : RegF) (a : RegF) (b : RegF) (s : State) : exec (.mulhu d a b) s = execMulhu d a b s := rfl
theorem exec_div (d : RegF) (a : RegF) (b : RegF) (s : State) : exec (.div d a b) s = execDiv d a b s := rfl
theorem exec_divu (d : RegF) (a : RegF) (b : RegF) (s : State) : exec (.divu d a b) s = execDivu d a b s := rfl
theorem exec_rem (d : RegF) (a : RegF) (b : RegF) (s : State) : exec (.rem d a b) s = execRem d a b s := rfl
theorem exec_remu (d : RegF) (a : RegF) (b : RegF) (s : State) : exec (.remu d a b) s = execRemu d a b s := rfl
theorem exec_and (d : RegF) (a : RegF) (b : RegF) (s : State) : exec (.and d a b) s = execAnd d a b s := rfl
theorem exec_or (d : RegF) (a : RegF) (b : RegF) (s : State) : exec (.or d a b) s = execOr d a b s := rfl
theorem exec_xor (d : RegF) (a : RegF) (b : RegF) (s : State) : exec (.xor d a b) s = execXor d a b s := rfl
theorem exec_andn (d : RegF) (a : RegF) (b : RegF) (s : State) : exec (.andn d a b) s = execAndn d a b s := rfl
theorem exec_shl (d : RegF) (a : RegF) (b : RegF) (s : State) : exec (.shl d a b) s = execShl d a b s := rfl
theorem exec_shr (d : RegF) (a : RegF) (b : RegF) (s : State) : exec (.shr d a b) s = execShr d a b s := rfl
theorem exec_sar (d : RegF) (a : RegF) (b : RegF) (s : State) : exec (.sar d a b) s = execSar d a b s := rfl
theorem exec_rot (d : RegF) (a : RegF) (b : RegF) (s : State) : exec (.rot d a b) s = execRot d a b s := rfl
theorem exec_min (d : RegF) (a : RegF) (b : RegF) (s : State) : exec (.min d a b) s = execMin d a b s := rfl
theorem exec_max (d : RegF) (a : RegF) (b : RegF) (s : State) : exec (.max d a b) s = execMax d a b s := rfl
theorem exec_minu (d : RegF) (a : RegF) (b : RegF) (s : State) : exec (.minu d a b) s = execMinu d a b s := rfl
theorem exec_maxu (d : RegF) (a : RegF) (b : RegF) (s : State) : exec (.maxu d a b) s = execMaxu d a b s := rfl
theorem exec_clz (d : RegF) (a : RegF) (s : State) : exec (.clz d a) s = execClz d a s := rfl
theorem exec_ctz (d : RegF) (a : RegF) (s : State) : exec (.ctz d a) s = execCtz d a s := rfl
theorem exec_popc (d : RegF) (a : RegF) (s : State) : exec (.popc d a) s = execPopc d a s := rfl
theorem exec_sextB (d : RegF) (a : RegF) (s : State) : exec (.sextB d a) s = execSextB d a s := rfl
theorem exec_sextH (d : RegF) (a : RegF) (s : State) : exec (.sextH d a) s = execSextH d a s := rfl
theorem exec_sextW (d : RegF) (a : RegF) (s : State) : exec (.sextW d a) s = execSextW d a s := rfl
theorem exec_zextB (d : RegF) (a : RegF) (s : State) : exec (.zextB d a) s = execZextB d a s := rfl
theorem exec_zextH (d : RegF) (a : RegF) (s : State) : exec (.zextH d a) s = execZextH d a s := rfl
theorem exec_zextW (d : RegF) (a : RegF) (s : State) : exec (.zextW d a) s = execZextW d a s := rfl
theorem exec_sel (d : RegF) (p : PredF) (a : RegF) (b : RegF) (s : State) : exec (.sel d p a b) s = execSel d p a b s := rfl
theorem exec_cmpEq (p : PredF) (a : RegF) (b : RegF) (s : State) : exec (.cmpEq p a b) s = execCmpEq p a b s := rfl
theorem exec_cmpNe (p : PredF) (a : RegF) (b : RegF) (s : State) : exec (.cmpNe p a b) s = execCmpNe p a b s := rfl
theorem exec_cmpLt (p : PredF) (a : RegF) (b : RegF) (s : State) : exec (.cmpLt p a b) s = execCmpLt p a b s := rfl
theorem exec_cmpGe (p : PredF) (a : RegF) (b : RegF) (s : State) : exec (.cmpGe p a b) s = execCmpGe p a b s := rfl
theorem exec_cmpLtu (p : PredF) (a : RegF) (b : RegF) (s : State) : exec (.cmpLtu p a b) s = execCmpLtu p a b s := rfl
theorem exec_cmpGeu (p : PredF) (a : RegF) (b : RegF) (s : State) : exec (.cmpGeu p a b) s = execCmpGeu p a b s := rfl
theorem exec_pand (d : PredF) (a : PredF) (b : PredF) (s : State) : exec (.pand d a b) s = execPand d a b s := rfl
theorem exec_por (d : PredF) (a : PredF) (b : PredF) (s : State) : exec (.por d a b) s = execPor d a b s := rfl
theorem exec_pnot (d : PredF) (a : PredF) (s : State) : exec (.pnot d a) s = execPnot d a s := rfl
theorem exec_addi (d : RegF) (a : RegF) (imm : BitVec 14) (s : State) : exec (.addi d a imm) s = execAddi d a imm s := rfl
theorem exec_andi (d : RegF) (a : RegF) (imm : BitVec 14) (s : State) : exec (.andi d a imm) s = execAndi d a imm s := rfl
theorem exec_ori (d : RegF) (a : RegF) (imm : BitVec 14) (s : State) : exec (.ori d a imm) s = execOri d a imm s := rfl
theorem exec_xori (d : RegF) (a : RegF) (imm : BitVec 14) (s : State) : exec (.xori d a imm) s = execXori d a imm s := rfl
theorem exec_shli (d : RegF) (a : RegF) (sh : BitVec 6) (s : State) : exec (.shli d a sh) s = execShli d a sh s := rfl
theorem exec_shri (d : RegF) (a : RegF) (sh : BitVec 6) (s : State) : exec (.shri d a sh) s = execShri d a sh s := rfl
theorem exec_sari (d : RegF) (a : RegF) (sh : BitVec 6) (s : State) : exec (.sari d a sh) s = execSari d a sh s := rfl
theorem exec_movi (d : RegF) (imm : BitVec 19) (s : State) : exec (.movi d imm) s = execMovi d imm s := rfl
theorem exec_moviL (d : RegF) (k : W32) (g : PredF) (s : State) : exec (.moviL d k g) s = execMoviL d k g s := rfl
theorem exec_movhi (d : RegF) (a : RegF) (k : W32) (g : PredF) (s : State) : exec (.movhi d a k g) s = execMovhi d a k g s := rfl
theorem exec_loop (d : RegF) (off : BitVec 14) (s : State) : exec (.loop d off) s = execLoop d off s := rfl
theorem exec_ldB (d : RegF) (h : BitVec 1) (c : CapF) (imm : BitVec 14) (s : State) : exec (.ldB d h c imm) s = execLdB d h c imm s := rfl
theorem exec_ldBu (d : RegF) (h : BitVec 1) (c : CapF) (imm : BitVec 14) (s : State) : exec (.ldBu d h c imm) s = execLdBu d h c imm s := rfl
theorem exec_ldH (d : RegF) (h : BitVec 1) (c : CapF) (imm : BitVec 14) (s : State) : exec (.ldH d h c imm) s = execLdH d h c imm s := rfl
theorem exec_ldHu (d : RegF) (h : BitVec 1) (c : CapF) (imm : BitVec 14) (s : State) : exec (.ldHu d h c imm) s = execLdHu d h c imm s := rfl
theorem exec_ldW (d : RegF) (h : BitVec 1) (c : CapF) (imm : BitVec 14) (s : State) : exec (.ldW d h c imm) s = execLdW d h c imm s := rfl
theorem exec_ldWu (d : RegF) (h : BitVec 1) (c : CapF) (imm : BitVec 14) (s : State) : exec (.ldWu d h c imm) s = execLdWu d h c imm s := rfl
theorem exec_ldD (d : RegF) (h : BitVec 1) (c : CapF) (imm : BitVec 14) (s : State) : exec (.ldD d h c imm) s = execLdD d h c imm s := rfl
theorem exec_stB (d : RegF) (h : BitVec 1) (c : CapF) (imm : BitVec 14) (s : State) : exec (.stB d h c imm) s = execStB d h c imm s := rfl
theorem exec_stH (d : RegF) (h : BitVec 1) (c : CapF) (imm : BitVec 14) (s : State) : exec (.stH d h c imm) s = execStH d h c imm s := rfl
theorem exec_stW (d : RegF) (h : BitVec 1) (c : CapF) (imm : BitVec 14) (s : State) : exec (.stW d h c imm) s = execStW d h c imm s := rfl
theorem exec_stD (d : RegF) (h : BitVec 1) (c : CapF) (imm : BitVec 14) (s : State) : exec (.stD d h c imm) s = execStD d h c imm s := rfl
theorem exec_ldx (w : LF) (s : State) : exec (.ldx w) s = execLdx w s := rfl
theorem exec_stx (w : LF) (s : State) : exec (.stx w) s = execStx w s := rfl
theorem exec_loadComplete (id : Nat) (s : State) : exec (.loadComplete id) s = execLoadComplete id s := rfl
theorem exec_storeComplete (id : Nat) (s : State) : exec (.storeComplete id) s = execStoreComplete id s := rfl
theorem exec_bp (p : PredF) (n : BitVec 1) (off : BitVec 20) (s : State) : exec (.bp p n off) s = execBp p n off s := rfl
theorem exec_call (off : BitVec 20) (s : State) : exec (.call off) s = execCall off s := rfl
theorem exec_jr (c : CapF) (b : RegF) (s : State) : exec (.jr c b) s = execJr c b s := rfl
theorem exec_callr (c : CapF) (b : RegF) (s : State) : exec (.callr c b) s = execCallr c b s := rfl
theorem exec_ret (c : CapF) (s : State) : exec (.ret c) s = execRet c s := rfl
theorem exec_fadd (f : BitVec 2) (d : RegF) (a : RegF) (b : RegF) (rm : BitVec 3) (s : State) : exec (.fadd f d a b rm) s = execFadd f d a b rm s := rfl
theorem exec_fsub (f : BitVec 2) (d : RegF) (a : RegF) (b : RegF) (rm : BitVec 3) (s : State) : exec (.fsub f d a b rm) s = execFsub f d a b rm s := rfl
theorem exec_fmul (f : BitVec 2) (d : RegF) (a : RegF) (b : RegF) (rm : BitVec 3) (s : State) : exec (.fmul f d a b rm) s = execFmul f d a b rm s := rfl
theorem exec_ffma (f : BitVec 2) (d : RegF) (a : RegF) (b : RegF) (rm : BitVec 3) (s : State) : exec (.ffma f d a b rm) s = execFfma f d a b rm s := rfl
theorem exec_fdiv (f : BitVec 2) (d : RegF) (a : RegF) (b : RegF) (rm : BitVec 3) (s : State) : exec (.fdiv f d a b rm) s = execFdiv f d a b rm s := rfl
theorem exec_fsqrt (f : BitVec 2) (d : RegF) (a : RegF) (rm : BitVec 3) (s : State) : exec (.fsqrt f d a rm) s = execFsqrt f d a rm s := rfl
theorem exec_frsqrt (f : BitVec 2) (d : RegF) (a : RegF) (rm : BitVec 3) (s : State) : exec (.frsqrt f d a rm) s = execFrsqrt f d a rm s := rfl
theorem exec_fexp2 (f : BitVec 2) (d : RegF) (a : RegF) (rm : BitVec 3) (s : State) : exec (.fexp2 f d a rm) s = execFexp2 f d a rm s := rfl
theorem exec_flog2 (f : BitVec 2) (d : RegF) (a : RegF) (rm : BitVec 3) (s : State) : exec (.flog2 f d a rm) s = execFlog2 f d a rm s := rfl
theorem exec_fmin (f : BitVec 2) (d : RegF) (a : RegF) (b : RegF) (s : State) : exec (.fmin f d a b) s = execFmin f d a b s := rfl
theorem exec_fmax (f : BitVec 2) (d : RegF) (a : RegF) (b : RegF) (s : State) : exec (.fmax f d a b) s = execFmax f d a b s := rfl
theorem exec_fabs (f : BitVec 2) (d : RegF) (a : RegF) (s : State) : exec (.fabs f d a) s = execFabs f d a s := rfl
theorem exec_fneg (f : BitVec 2) (d : RegF) (a : RegF) (s : State) : exec (.fneg f d a) s = execFneg f d a s := rfl
theorem exec_fclass (f : BitVec 2) (d : RegF) (a : RegF) (s : State) : exec (.fclass f d a) s = execFclass f d a s := rfl
theorem exec_fround (f : BitVec 2) (d : RegF) (a : RegF) (rm : BitVec 3) (s : State) : exec (.fround f d a rm) s = execFround f d a rm s := rfl
theorem exec_fscale (f : BitVec 2) (d : RegF) (a : RegF) (b : RegF) (rm : BitVec 3) (s : State) : exec (.fscale f d a b rm) s = execFscale f d a b rm s := rfl
theorem exec_fcmpEq (f : BitVec 2) (p : PredF) (a : RegF) (b : RegF) (s : State) : exec (.fcmpEq f p a b) s = execFcmpEq f p a b s := rfl
theorem exec_fcmpNe (f : BitVec 2) (p : PredF) (a : RegF) (b : RegF) (s : State) : exec (.fcmpNe f p a b) s = execFcmpNe f p a b s := rfl
theorem exec_fcmpLt (f : BitVec 2) (p : PredF) (a : RegF) (b : RegF) (s : State) : exec (.fcmpLt f p a b) s = execFcmpLt f p a b s := rfl
theorem exec_fcmpLe (f : BitVec 2) (p : PredF) (a : RegF) (b : RegF) (s : State) : exec (.fcmpLe f p a b) s = execFcmpLe f p a b s := rfl
theorem exec_fcmpUn (f : BitVec 2) (p : PredF) (a : RegF) (b : RegF) (s : State) : exec (.fcmpUn f p a b) s = execFcmpUn f p a b s := rfl
theorem exec_fcvtFromIeee (f : BitVec 2) (d : RegF) (a : RegF) (k : BitVec 2) (rm : BitVec 3) (s : State) : exec (.fcvtFromIeee f d a k rm) s = execFcvtFromIeee f d a k rm s := rfl
theorem exec_fcvtFromNarrow (f : BitVec 2) (d : RegF) (a : RegF) (k : BitVec 2) (rm : BitVec 3) (s : State) : exec (.fcvtFromNarrow f d a k rm) s = execFcvtFromNarrow f d a k rm s := rfl
theorem exec_fcvtFromI64 (f : BitVec 2) (d : RegF) (a : RegF) (rm : BitVec 3) (s : State) : exec (.fcvtFromI64 f d a rm) s = execFcvtFromI64 f d a rm s := rfl
theorem exec_fcvtFromU64 (f : BitVec 2) (d : RegF) (a : RegF) (rm : BitVec 3) (s : State) : exec (.fcvtFromU64 f d a rm) s = execFcvtFromU64 f d a rm s := rfl
theorem exec_fcvtFromI32 (f : BitVec 2) (d : RegF) (a : RegF) (rm : BitVec 3) (s : State) : exec (.fcvtFromI32 f d a rm) s = execFcvtFromI32 f d a rm s := rfl
theorem exec_fcvtFromU32 (f : BitVec 2) (d : RegF) (a : RegF) (rm : BitVec 3) (s : State) : exec (.fcvtFromU32 f d a rm) s = execFcvtFromU32 f d a rm s := rfl
theorem exec_fcvtToInt (f : BitVec 2) (d : RegF) (a : RegF) (k : BitVec 3) (rm : BitVec 3) (s : State) : exec (.fcvtToInt f d a k rm) s = execFcvtToInt f d a k rm s := rfl
theorem exec_fcvtToNarrow (f : BitVec 2) (d : RegF) (a : RegF) (k : BitVec 2) (rm : BitVec 3) (s : State) : exec (.fcvtToNarrow f d a k rm) s = execFcvtToNarrow f d a k rm s := rfl
theorem exec_sysr (d : RegF) (n : BitVec 12) (s : State) : exec (.sysr d n) s = execSysr d n s := rfl
theorem exec_sysrC (c : CapF) (n : BitVec 12) (s : State) : exec (.sysrC c n) s = execSysrC c n s := rfl
theorem exec_sysw (a : RegF) (n : BitVec 12) (s : State) : exec (.sysw a n) s = execSysw a n s := rfl
theorem exec_syswC (c : CapF) (n : BitVec 12) (s : State) : exec (.syswC c n) s = execSyswC c n s := rfl
theorem exec_nop (s : State) : exec (.nop) s = execNop s := rfl
theorem exec_halt (s : State) : exec (.halt) s = execHalt s := rfl
theorem exec_trap (s : State) : exec (.trap) s = execTrap s := rfl
theorem exec_brk (s : State) : exec (.brk) s = execBrk s := rfl
theorem exec_eret (s : State) : exec (.eret) s = execEret s := rfl
theorem exec_ident (d : RegF) (s : State) : exec (.ident d) s = execIdent d s := rfl
theorem exec_trapEntry (fld : Nat) (slot : Nat) (s : State) : exec (.trapEntry fld slot) s = execTrapEntry fld slot s := rfl
theorem exec_cgetObj (b : RegF) (c : CapF) (s : State) : exec (.cgetObj b c) s = execCgetObj b c s := rfl
theorem exec_cgetCur (b : RegF) (c : CapF) (s : State) : exec (.cgetCur b c) s = execCgetCur b c s := rfl
theorem exec_cgetBase (b : RegF) (c : CapF) (s : State) : exec (.cgetBase b c) s = execCgetBase b c s := rfl
theorem exec_cgetTop (b : RegF) (c : CapF) (s : State) : exec (.cgetTop b c) s = execCgetTop b c s := rfl
theorem exec_cgetPerm (b : RegF) (c : CapF) (s : State) : exec (.cgetPerm b c) s = execCgetPerm b c s := rfl
theorem exec_cgetTag (b : RegF) (c : CapF) (s : State) : exec (.cgetTag b c) s = execCgetTag b c s := rfl
theorem exec_cgetG (b : RegF) (c : CapF) (s : State) : exec (.cgetG b c) s = execCgetG b c s := rfl
theorem exec_csetc (d : CapF) (c : CapF) (b : RegF) (s : State) : exec (.csetc d c b) s = execCsetc d c b s := rfl
theorem exec_cadd (d : CapF) (c : CapF) (b : RegF) (s : State) : exec (.cadd d c b) s = execCadd d c b s := rfl
theorem exec_cbound (d : CapF) (c : CapF) (b : RegF) (s : State) : exec (.cbound d c b) s = execCbound d c b s := rfl
theorem exec_cperm (d : CapF) (c : CapF) (b : RegF) (s : State) : exec (.cperm d c b) s = execCperm d c b s := rfl
theorem exec_cnull (d : CapF) (s : State) : exec (.cnull d) s = execCnull d s := rfl
theorem exec_cmov (d : CapF) (c : CapF) (s : State) : exec (.cmov d c) s = execCmov d c s := rfl
theorem exec_csub (b : RegF) (c : CapF) (e : CapF) (s : State) : exec (.csub b c e) s = execCsub b c e s := rfl
theorem exec_ctest (p : PredF) (c : CapF) (s : State) : exec (.ctest p c) s = execCtest p c s := rfl
theorem exec_cld (d : CapF) (c : CapF) (b : RegF) (s : State) : exec (.cld d c b) s = execCld d c b s := rfl
theorem exec_cst (d : CapF) (c : CapF) (b : RegF) (s : State) : exec (.cst d c b) s = execCst d c b s := rfl
theorem exec_cmake (d : CapF) (b : RegF) (s : State) : exec (.cmake d b) s = execCmake d b s := rfl
theorem exec_cfgsw (a : RegF) (s : State) : exec (.cfgsw a) s = execCfgsw a s := rfl
theorem exec_cfgdrop (a : RegF) (s : State) : exec (.cfgdrop a) s = execCfgdrop a s := rfl
theorem exec_rgrun (a : RegF) (s : State) : exec (.rgrun a) s = execRgrun a s := rfl
theorem exec_rgstop (a : RegF) (s : State) : exec (.rgstop a) s = execRgstop a s := rfl
theorem exec_rgstat (d : RegF) (a : RegF) (s : State) : exec (.rgstat d a) s = execRgstat d a s := rfl
theorem exec_qbindIn (q : PredF) (a : RegF) (s : State) : exec (.qbindIn q a) s = execQbindIn q a s := rfl
theorem exec_qbindOut (q : PredF) (a : RegF) (s : State) : exec (.qbindOut q a) s = execQbindOut q a s := rfl
theorem exec_qunbind (q : PredF) (s : State) : exec (.qunbind q) s = execQunbind q s := rfl
theorem exec_qpeek (d : RegF) (q : PredF) (s : State) : exec (.qpeek d q) s = execQpeek d q s := rfl
theorem exec_enter (a : RegF) (s : State) : exec (.enter a) s = execEnter a s := rfl
theorem exec_await (a : RegF) (s : State) : exec (.await a) s = execAwait a s := rfl
theorem exec_mark (a : RegF) (s : State) : exec (.mark a) s = execMark a s := rfl
theorem exec_rwait (a : RegF) (s : State) : exec (.rwait a) s = execRwait a s := rfl
theorem exec_tdone (s : State) : exec (.tdone) s = execTdone s := rfl
theorem exec_yield (s : State) : exec (.yield) s = execYield s := rfl
theorem exec_stswap (a : RegF) (s : State) : exec (.stswap a) s = execStswap a s := rfl
theorem exec_cfgld (c : CapF) (b : RegF) (s : State) : exec (.cfgld c b) s = execCfgld c b s := rfl
theorem exec_cfgpart (c : CapF) (b : RegF) (s : State) : exec (.cfgpart c b) s = execCfgpart c b s := rfl
theorem exec_spawnStrand (c : CapF) (b : RegF) (s : State) : exec (.spawnStrand c b) s = execSpawnStrand c b s := rfl
theorem exec_spawnTask (c : CapF) (b : RegF) (s : State) : exec (.spawnTask c b) s = execSpawnTask c b s := rfl
theorem exec_finder (c : CapF) (b : RegF) (s : State) : exec (.finder c b) s = execFinder c b s := rfl
theorem exec_stld (c : CapF) (b : RegF) (s : State) : exec (.stld c b) s = execStld c b s := rfl
theorem exec_wait (ld : BitVec 6) (st : BitVec 6) (cp : BitVec 6) (tl : BitVec 6) (s : State) : exec (.wait ld st cp tl) s = execWait ld st cp tl s := rfl
theorem exec_wpset (c : CapF) (b : RegF) (s : State) : exec (.wpset c b) s = execWpset c b s := rfl
theorem exec_wpclr (b : RegF) (s : State) : exec (.wpclr b) s = execWpclr b s := rfl
theorem exec_ctxsave (c : CapF) (b : RegF) (s : State) : exec (.ctxsave c b) s = execCtxsave c b s := rfl
theorem exec_ctxload (c : CapF) (b : RegF) (s : State) : exec (.ctxload c b) s = execCtxload c b s := rfl
theorem exec_resumeSite (b : RegF) (s : State) : exec (.resumeSite b) s = execResumeSite b s := rfl
theorem exec_abandonRegion (b : RegF) (s : State) : exec (.abandonRegion b) s = execAbandonRegion b s := rfl
theorem exec_resumePort (b : RegF) (s : State) : exec (.resumePort b) s = execResumePort b s := rfl
theorem exec_resumeArray (b : RegF) (s : State) : exec (.resumeArray b) s = execResumeArray b s := rfl
theorem exec_abandonArray (b : RegF) (s : State) : exec (.abandonArray b) s = execAbandonArray b s := rfl
theorem exec_resumeStrand (b : RegF) (s : State) : exec (.resumeStrand b) s = execResumeStrand b s := rfl
theorem exec_endStrand (b : RegF) (s : State) : exec (.endStrand b) s = execEndStrand b s := rfl
theorem exec_resumeEngine (b : RegF) (s : State) : exec (.resumeEngine b) s = execResumeEngine b s := rfl
theorem exec_fltq (b : RegF) (s : State) : exec (.fltq b) s = execFltq b s := rfl
theorem exec_atomAdd (w : LF) (s : State) : exec (.atomAdd w) s = execAtomAdd w s := rfl
theorem exec_atomMin (w : LF) (s : State) : exec (.atomMin w) s = execAtomMin w s := rfl
theorem exec_atomMax (w : LF) (s : State) : exec (.atomMax w) s = execAtomMax w s := rfl
theorem exec_atomMinu (w : LF) (s : State) : exec (.atomMinu w) s = execAtomMinu w s := rfl
theorem exec_atomMaxu (w : LF) (s : State) : exec (.atomMaxu w) s = execAtomMaxu w s := rfl
theorem exec_atomAnd (w : LF) (s : State) : exec (.atomAnd w) s = execAtomAnd w s := rfl
theorem exec_atomOr (w : LF) (s : State) : exec (.atomOr w) s = execAtomOr w s := rfl
theorem exec_atomXor (w : LF) (s : State) : exec (.atomXor w) s = execAtomXor w s := rfl
theorem exec_atomSwp (w : LF) (s : State) : exec (.atomSwp w) s = execAtomSwp w s := rfl
theorem exec_atomFadd (w : LF) (s : State) : exec (.atomFadd w) s = execAtomFadd w s := rfl
theorem exec_atomInc (w : LF) (s : State) : exec (.atomInc w) s = execAtomInc w s := rfl
theorem exec_atomcas (w : LF) (s : State) : exec (.atomcas w) s = execAtomcas w s := rfl
theorem exec_vatom (w : LF) (s : State) : exec (.vatom w) s = execVatom w s := rfl
theorem exec_vatomcas (w : LF) (s : State) : exec (.vatomcas w) s = execVatomcas w s := rfl
theorem exec_atomicPerform (id : Nat) (s : State) : exec (.atomicPerform id) s = execAtomicPerform id s := rfl
theorem exec_fence (w : LF) (s : State) : exec (.fence w) s = execFence w s := rfl
theorem exec_fenceSt (w : LF) (s : State) : exec (.fenceSt w) s = execFenceSt w s := rfl
theorem exec_scset (w : LF) (s : State) : exec (.scset w) s = execScset w s := rfl
theorem exec_scget (w : LF) (s : State) : exec (.scget w) s = execScget w s := rfl
theorem exec_scinv (w : LF) (s : State) : exec (.scinv w) s = execScinv w s := rfl
theorem exec_cbsync (w : LF) (s : State) : exec (.cbsync w) s = execCbsync w s := rfl
theorem exec_barinit (w : LF) (s : State) : exec (.barinit w) s = execBarinit w s := rfl
theorem exec_bararr (w : LF) (s : State) : exec (.bararr w) s = execBararr w s := rfl
theorem exec_barwait (w : LF) (s : State) : exec (.barwait w) s = execBarwait w s := rfl
theorem exec_monarm (w : LF) (s : State) : exec (.monarm w) s = execMonarm w s := rfl
theorem exec_monwait (w : LF) (s : State) : exec (.monwait w) s = execMonwait w s := rfl
theorem exec_monwaitTimeout (fld : Nat) (slot : Nat) (s : State) : exec (.monwaitTimeout fld slot) s = execMonwaitTimeout fld slot s := rfl
theorem exec_monsig (w : LF) (s : State) : exec (.monsig w) s = execMonsig w s := rfl
theorem exec_tcfg (w : LF) (s : State) : exec (.tcfg w) s = execTcfg w s := rfl
theorem exec_trel (w : LF) (s : State) : exec (.trel w) s = execTrel w s := rfl
theorem exec_tstate (w : LF) (s : State) : exec (.tstate w) s = execTstate w s := rfl
theorem exec_twait (w : LF) (s : State) : exec (.twait w) s = execTwait w s := rfl
theorem exec_cwb (w : LF) (s : State) : exec (.cwb w) s = execCwb w s := rfl
theorem exec_cinv (w : LF) (s : State) : exec (.cinv w) s = execCinv w s := rfl
theorem exec_cpf (w : LF) (s : State) : exec (.cpf w) s = execCpf w s := rfl
theorem exec_objq (w : LF) (s : State) : exec (.objq w) s = execObjq w s := rfl
theorem exec_carve (w : LF) (s : State) : exec (.carve w) s = execCarve w s := rfl
theorem exec_xcopy (w : LF) (s : State) : exec (.xcopy w) s = execXcopy w s := rfl
theorem exec_xcopy2 (w : LF) (s : State) : exec (.xcopy2 w) s = execXcopy2 w s := rfl
theorem exec_xgather (w : LF) (s : State) : exec (.xgather w) s = execXgather w s := rfl
theorem exec_xscatter (w : LF) (s : State) : exec (.xscatter w) s = execXscatter w s := rfl
theorem exec_mma (w : LF) (s : State) : exec (.mma w) s = execMma w s := rfl
theorem exec_mmx (w : LF) (s : State) : exec (.mmx w) s = execMmx w s := rfl
theorem exec_accrd (w : LF) (s : State) : exec (.accrd w) s = execAccrd w s := rfl
theorem exec_accwr (w : LF) (s : State) : exec (.accwr w) s = execAccwr w s := rfl
theorem exec_attn (w : LF) (s : State) : exec (.attn w) s = execAttn w s := rfl
theorem exec_xcodec (w : LF) (s : State) : exec (.xcodec w) s = execXcodec w s := rfl
theorem exec_xcksum (w : LF) (s : State) : exec (.xcksum w) s = execXcksum w s := rfl
theorem exec_coll (w : LF) (s : State) : exec (.coll w) s = execColl w s := rfl
theorem exec_nvsub (w : LF) (s : State) : exec (.nvsub w) s = execNvsub w s := rfl
theorem exec_nvcmp (w : LF) (s : State) : exec (.nvcmp w) s = execNvcmp w s := rfl
theorem exec_kvlook (w : LF) (s : State) : exec (.kvlook w) s = execKvlook w s := rfl
theorem exec_kvapp (w : LF) (s : State) : exec (.kvapp w) s = execKvapp w s := rfl
theorem exec_kvfork (w : LF) (s : State) : exec (.kvfork w) s = execKvfork w s := rfl
theorem exec_kvfree (w : LF) (s : State) : exec (.kvfree w) s = execKvfree w s := rfl
theorem exec_kvpol (w : LF) (s : State) : exec (.kvpol w) s = execKvpol w s := rfl
theorem exec_xtest (w : LF) (s : State) : exec (.xtest w) s = execXtest w s := rfl
theorem exec_bfenq (w : LF) (s : State) : exec (.bfenq w) s = execBfenq w s := rfl
theorem exec_bfsync (w : LF) (s : State) : exec (.bfsync w) s = execBfsync w s := rfl
theorem exec_evscore (w : LF) (s : State) : exec (.evscore w) s = execEvscore w s := rfl
theorem exec_sqevict (w : LF) (s : State) : exec (.sqevict w) s = execSqevict w s := rfl
theorem exec_eresp (w : LF) (s : State) : exec (.eresp w) s = execEresp w s := rfl
theorem exec_responseDelivery (st : Nat) (s : State) : exec (.responseDelivery st) s = execResponseDelivery st s := rfl
theorem exec_requestComplete (st : Nat) (s : State) : exec (.requestComplete st) s = execRequestComplete st s := rfl
theorem exec_copyElementPerform (st : Nat) (s : State) : exec (.copyElementPerform st) s = execCopyElementPerform st s := rfl
theorem exec_gatherElementPerform (st : Nat) (s : State) : exec (.gatherElementPerform st) s = execGatherElementPerform st s := rfl
theorem exec_tileFillComplete (fld : Nat) (tile : Nat) (s : State) : exec (.tileFillComplete fld tile) s = execTileFillComplete fld tile s := rfl
theorem exec_tileDrainComplete (fld : Nat) (tile : Nat) (s : State) : exec (.tileDrainComplete fld tile) s = execTileDrainComplete fld tile s := rfl
theorem exec_followOnIssue (st : Nat) (s : State) : exec (.followOnIssue st) s = execFollowOnIssue st s := rfl
theorem exec_mmaPerform (st : Nat) (s : State) : exec (.mmaPerform st) s = execMmaPerform st s := rfl
theorem exec_mmxPerform (st : Nat) (s : State) : exec (.mmxPerform st) s = execMmxPerform st s := rfl
theorem exec_accrdPerform (st : Nat) (s : State) : exec (.accrdPerform st) s = execAccrdPerform st s := rfl
theorem exec_accwrPerform (st : Nat) (s : State) : exec (.accwrPerform st) s = execAccwrPerform st s := rfl
theorem exec_attnPerform (st : Nat) (s : State) : exec (.attnPerform st) s = execAttnPerform st s := rfl
theorem exec_xtestPerform (st : Nat) (s : State) : exec (.xtestPerform st) s = execXtestPerform st s := rfl
theorem exec_collectivePerform (st : Nat) (s : State) : exec (.collectivePerform st) s = execCollectivePerform st s := rfl
theorem exec_codecChunkPerform (st : Nat) (s : State) : exec (.codecChunkPerform st) s = execCodecChunkPerform st s := rfl
theorem exec_checksumPerform (st : Nat) (s : State) : exec (.checksumPerform st) s = execChecksumPerform st s := rfl
theorem exec_nvmeSubmitPerform (st : Nat) (s : State) : exec (.nvmeSubmitPerform st) s = execNvmeSubmitPerform st s := rfl
theorem exec_nvmeCompletionPosted (pair : Nat) (cid : Nat) (lo : W64) (hi : W64) (data : List Byte) (s : State) : exec (.nvmeCompletionPosted pair cid lo hi data) s = execNvmeCompletionPosted pair cid lo hi data s := rfl
theorem exec_controllerDma (port : Nat) (rid : Nat) (key : Nat) (data : List Byte) (s : State) : exec (.controllerDma port rid key data) s = execControllerDma port rid key data s := rfl
theorem exec_kvlookPerform (st : Nat) (s : State) : exec (.kvlookPerform st) s = execKvlookPerform st s := rfl
theorem exec_kvappPerform (st : Nat) (s : State) : exec (.kvappPerform st) s = execKvappPerform st s := rfl
theorem exec_kvforkPerform (st : Nat) (s : State) : exec (.kvforkPerform st) s = execKvforkPerform st s := rfl
theorem exec_kvfreePerform (st : Nat) (s : State) : exec (.kvfreePerform st) s = execKvfreePerform st s := rfl
theorem exec_kvpolPerform (st : Nat) (s : State) : exec (.kvpolPerform st) s = execKvpolPerform st s := rfl
theorem exec_evscorePerform (st : Nat) (s : State) : exec (.evscorePerform st) s = execEvscorePerform st s := rfl
theorem exec_sqevictPerform (st : Nat) (s : State) : exec (.sqevictPerform st) s = execSqevictPerform st s := rfl
theorem exec_bfenqPerform (st : Nat) (s : State) : exec (.bfenqPerform st) s = execBfenqPerform st s := rfl
theorem exec_backfillRecord (mount : Nat) (s : State) : exec (.backfillRecord mount) s = execBackfillRecord mount s := rfl
theorem exec_cfgldInstall (fld : Nat) (slot : Nat) (s : State) : exec (.cfgldInstall fld slot) s = execCfgldInstall fld slot s := rfl
theorem exec_installComplete (fld : Nat) (slot : Nat) (s : State) : exec (.installComplete fld slot) s = execInstallComplete fld slot s := rfl
theorem exec_cfgpartApply (fld : Nat) (slot : Nat) (s : State) : exec (.cfgpartApply fld slot) s = execCfgpartApply fld slot s := rfl
theorem exec_partialFrameTake (fld : Nat) (slot : Nat) (site : Nat) (s : State) : exec (.partialFrameTake fld slot site) s = execPartialFrameTake fld slot site s := rfl
theorem exec_partialDrainComplete (fld : Nat) (slot : Nat) (s : State) : exec (.partialDrainComplete fld slot) s = execPartialDrainComplete fld slot s := rfl
theorem exec_stopComplete (fld : Nat) (slot : Nat) (s : State) : exec (.stopComplete fld slot) s = execStopComplete fld slot s := rfl
theorem exec_switchComplete (fld : Nat) (slot : Nat) (s : State) : exec (.switchComplete fld slot) s = execSwitchComplete fld slot s := rfl
theorem exec_stldFillComplete (fld : Nat) (site : Nat) (s : State) : exec (.stldFillComplete fld site) s = execStldFillComplete fld site s := rfl
theorem exec_recordAtExit (fld : Nat) (row : Nat) (s : State) : exec (.recordAtExit fld row) s = execRecordAtExit fld row s := rfl
theorem exec_rampRelease (fld : Nat) (site : Nat) (s : State) : exec (.rampRelease fld site) s = execRampRelease fld site s := rfl
theorem exec_oadd (fld : Nat) (site : Nat) (s : State) : exec (.oadd fld site) s = execOadd fld site s := rfl
theorem exec_osub (fld : Nat) (site : Nat) (s : State) : exec (.osub fld site) s = execOsub fld site s := rfl
theorem exec_omul (fld : Nat) (site : Nat) (s : State) : exec (.omul fld site) s = execOmul fld site s := rfl
theorem exec_odiv (fld : Nat) (site : Nat) (s : State) : exec (.odiv fld site) s = execOdiv fld site s := rfl
theorem exec_osqrt (fld : Nat) (site : Nat) (s : State) : exec (.osqrt fld site) s = execOsqrt fld site s := rfl
theorem exec_oexp2 (fld : Nat) (site : Nat) (s : State) : exec (.oexp2 fld site) s = execOexp2 fld site s := rfl
theorem exec_olog2 (fld : Nat) (site : Nat) (s : State) : exec (.olog2 fld site) s = execOlog2 fld site s := rfl
theorem exec_oneg (fld : Nat) (site : Nat) (s : State) : exec (.oneg fld site) s = execOneg fld site s := rfl
theorem exec_oabs (fld : Nat) (site : Nat) (s : State) : exec (.oabs fld site) s = execOabs fld site s := rfl
theorem exec_oscl (fld : Nat) (site : Nat) (s : State) : exec (.oscl fld site) s = execOscl fld site s := rfl
theorem exec_omax (fld : Nat) (site : Nat) (s : State) : exec (.omax fld site) s = execOmax fld site s := rfl
theorem exec_omin (fld : Nat) (site : Nat) (s : State) : exec (.omin fld site) s = execOmin fld site s := rfl
theorem exec_ocmp (fld : Nat) (site : Nat) (s : State) : exec (.ocmp fld site) s = execOcmp fld site s := rfl
theorem exec_osgn (fld : Nat) (site : Nat) (s : State) : exec (.osgn fld site) s = execOsgn fld site s := rfl
theorem exec_osel (fld : Nat) (site : Nat) (s : State) : exec (.osel fld site) s = execOsel fld site s := rfl
theorem exec_oconst (fld : Nat) (site : Nat) (s : State) : exec (.oconst fld site) s = execOconst fld site s := rfl
theorem exec_split (fld : Nat) (site : Nat) (s : State) : exec (.split fld site) s = execSplit fld site s := rfl
theorem exec_settle (fld : Nat) (site : Nat) (s : State) : exec (.settle fld site) s = execSettle fld site s := rfl
theorem exec_racc (fld : Nat) (site : Nat) (s : State) : exec (.racc fld site) s = execRacc fld site s := rfl
theorem exec_rsum (fld : Nat) (site : Nat) (s : State) : exec (.rsum fld site) s = execRsum fld site s := rfl
theorem exec_rmax (fld : Nat) (site : Nat) (s : State) : exec (.rmax fld site) s = execRmax fld site s := rfl
theorem exec_thresh (fld : Nat) (site : Nat) (s : State) : exec (.thresh fld site) s = execThresh fld site s := rfl
theorem exec_conf (fld : Nat) (site : Nat) (s : State) : exec (.conf fld site) s = execConf fld site s := rfl
theorem exec_ofan (fld : Nat) (site : Nat) (s : State) : exec (.ofan fld site) s = execOfan fld site s := rfl
theorem exec_mld (fld : Nat) (site : Nat) (s : State) : exec (.mld fld site) s = execMld fld site s := rfl
theorem exec_mst (fld : Nat) (site : Nat) (s : State) : exec (.mst fld site) s = execMst fld site s := rfl
theorem exec_mlink (fld : Nat) (site : Nat) (s : State) : exec (.mlink fld site) s = execMlink fld site s := rfl
theorem exec_mring (fld : Nat) (site : Nat) (s : State) : exec (.mring fld site) s = execMring fld site s := rfl
theorem exec_engp (fld : Nat) (site : Nat) (s : State) : exec (.engp fld site) s = execEngp fld site s := rfl
theorem exec_sqp (fld : Nat) (site : Nat) (s : State) : exec (.sqp fld site) s = execSqp fld site s := rfl
theorem exec_mxp (fld : Nat) (site : Nat) (s : State) : exec (.mxp fld site) s = execMxp fld site s := rfl
theorem exec_atp (fld : Nat) (site : Nat) (s : State) : exec (.atp fld site) s = execAtp fld site s := rfl
theorem exec_agaff (fld : Nat) (site : Nat) (s : State) : exec (.agaff fld site) s = execAgaff fld site s := rfl
theorem exec_agmod (fld : Nat) (site : Nat) (s : State) : exec (.agmod fld site) s = execAgmod fld site s := rfl
theorem exec_agidx (fld : Nat) (site : Nat) (s : State) : exec (.agidx fld site) s = execAgidx fld site s := rfl
theorem exec_steer (fld : Nat) (site : Nat) (s : State) : exec (.steer fld site) s = execSteer fld site s := rfl
theorem exec_merge (fld : Nat) (site : Nat) (s : State) : exec (.merge fld site) s = execMerge fld site s := rfl
theorem exec_joinNode (fld : Nat) (site : Nat) (s : State) : exec (.joinNode fld site) s = execJoinNode fld site s := rfl
theorem exec_carry (fld : Nat) (site : Nat) (s : State) : exec (.carry fld site) s = execCarry fld site s := rfl
theorem exec_fwd (fld : Nat) (site : Nat) (s : State) : exec (.fwd fld site) s = execFwd fld site s := rfl
theorem exec_vcfilt (fld : Nat) (site : Nat) (s : State) : exec (.vcfilt fld site) s = execVcfilt fld site s := rfl
theorem exec_tileSwap (fld : Nat) (site : Nat) (s : State) : exec (.tileSwap fld site) s = execTileSwap fld site s := rfl
theorem exec_kill (fld : Nat) (chan : Nat) (s : State) : exec (.kill fld chan) s = execKill fld chan s := rfl
theorem exec_timingReplay (place : Nat) (s : State) : exec (.timingReplay place) s = execTimingReplay place s := rfl
theorem exec_persistentTimingError (fld : Nat) (site : Nat) (stage : Nat) (s : State) : exec (.persistentTimingError fld site stage) s = execPersistentTimingError fld site stage s := rfl
theorem exec_faultRecordPost (ctx : Nat) (s : State) : exec (.faultRecordPost ctx) s = execFaultRecordPost ctx s := rfl
theorem exec_deadlockWatchdog (fld : Nat) (slot : Nat) (s : State) : exec (.deadlockWatchdog fld slot) s = execDeadlockWatchdog fld slot s := rfl
theorem exec_remoteTimeout (tgt fld id : Nat) (s : State) : exec (.remoteTimeout tgt fld id) s = execRemoteTimeout tgt fld id s := rfl
theorem exec_roundComplete (ctx : Nat) (s : State) : exec (.roundComplete ctx) s = execRoundComplete ctx s := rfl
theorem exec_homeAccess (id : Nat) (s : State) : exec (.homeAccess id) s = execHomeAccess id s := rfl
theorem exec_l1Probe (fld : Nat) (ctx : Nat) (obj : Nat) (sec : Nat) (s : State) : exec (.l1Probe fld ctx obj sec) s = execL1Probe fld ctx obj sec s := rfl
theorem exec_evictionWriteBack (fld : Nat) (ctx : Nat) (obj : Nat) (sec : Nat) (s : State) : exec (.evictionWriteBack fld ctx obj sec) s = execEvictionWriteBack fld ctx obj sec s := rfl
theorem exec_portTranslate (id : Nat) (s : State) : exec (.portTranslate id) s = execPortTranslate id s := rfl
theorem exec_pagePin (st : Nat) (s : State) : exec (.pagePin st) s = execPagePin st s := rfl
theorem exec_hbmFrameFence (mount : Nat) (frame : Nat) (bad : Bool) (s : State) : exec (.hbmFrameFence mount frame bad) s = execHbmFrameFence mount frame bad s := rfl
theorem exec_migrationComplete (mount : Nat) (frame : Nat) (s : State) : exec (.migrationComplete mount frame) s = execMigrationComplete mount frame s := rfl
theorem exec_elasticInterval (fld : Nat) (s : State) : exec (.elasticInterval fld) s = execElasticInterval fld s := rfl
theorem exec_boundaryMoveComplete (fld : Nat) (s : State) : exec (.boundaryMoveComplete fld) s = execBoundaryMoveComplete fld s := rfl
theorem exec_meridianSelect (die : Nat) (s : State) : exec (.meridianSelect die) s = execMeridianSelect die s := rfl
theorem exec_entryStrandStart (tno : Nat) (s : State) : exec (.entryStrandStart tno) s = execEntryStrandStart tno s := rfl
theorem exec_queueAgeing (die : Nat) (q : Nat) (s : State) : exec (.queueAgeing die q) s = execQueueAgeing die q s := rfl
theorem exec_reservationTake (die : Nat) (q : Nat) (s : State) : exec (.reservationTake die q) s = execReservationTake die q s := rfl
theorem exec_quantumExpiry (tno : Nat) (s : State) : exec (.quantumExpiry tno) s = execQuantumExpiry tno s := rfl
theorem exec_preemptionSave (tno : Nat) (s : State) : exec (.preemptionSave tno) s = execPreemptionSave tno s := rfl
theorem exec_taskCompletion (tno : Nat) (s : State) : exec (.taskCompletion tno) s = execTaskCompletion tno s := rfl
theorem exec_stallEscalation (tno : Nat) (s : State) : exec (.stallEscalation tno) s = execStallEscalation tno s := rfl
theorem exec_finderLimit (fld : Nat) (s : State) : exec (.finderLimit fld) s = execFinderLimit fld s := rfl
theorem exec_flitReceive (port : Nat) (seq : Nat) (crc : Bool) (s : State) : exec (.flitReceive port seq crc) s = execFlitReceive port seq crc s := rfl
theorem exec_linkReplay (port : Nat) (seq : Nat) (s : State) : exec (.linkReplay port seq) s = execLinkReplay port seq s := rfl
theorem exec_laneFence (port : Nat) (s : State) : exec (.laneFence port) s = execLaneFence port s := rfl
theorem exec_linkNarrowComplete (port : Nat) (s : State) : exec (.linkNarrowComplete port) s = execLinkNarrowComplete port s := rfl
theorem exec_mqsubWrite (die : Nat) (q : Nat) (v : W64) (s : State) : exec (.mqsubWrite die q v) s = execMqsubWrite die q v s := rfl
theorem exec_mqcfgWrite (die : Nat) (q : Nat) (v : W64) (s : State) : exec (.mqcfgWrite die q v) s = execMqcfgWrite die q v s := rfl
theorem exec_captgtWrite (v : W64) (s : State) : exec (.captgtWrite v) s = execCaptgtWrite v s := rfl
theorem exec_nvqbWrite (n : Nat) (v : W64) (s : State) : exec (.nvqbWrite n v) s = execNvqbWrite n v s := rfl
theorem exec_rrsvWrite (mount : Nat) (v : W64) (s : State) : exec (.rrsvWrite mount v) s = execRrsvWrite mount v s := rfl
theorem exec_hostRegisterWrite (addr : Nat) (v : W64) (s : State) : exec (.hostRegisterWrite addr v) s = execHostRegisterWrite addr v s := rfl
theorem exec_hostApertureAccess (addr : Nat) (size : Nat) (kind : Nat) (v : W64) (s : State) : exec (.hostApertureAccess addr size kind v) s = execHostApertureAccess addr size kind v s := rfl
theorem exec_identityRequest (s : State) : exec (.identityRequest) s = execIdentityRequest s := rfl
theorem exec_statusRequest (s : State) : exec (.statusRequest) s = execStatusRequest s := rfl
theorem exec_getVersion (s : State) : exec (.getVersion) s = execGetVersion s := rfl
theorem exec_getCapabilities (s : State) : exec (.getCapabilities) s = execGetCapabilities s := rfl
theorem exec_negotiateAlgorithms (s : State) : exec (.negotiateAlgorithms) s = execNegotiateAlgorithms s := rfl
theorem exec_getDigests (s : State) : exec (.getDigests) s = execGetDigests s := rfl
theorem exec_getCertificate (s : State) : exec (.getCertificate) s = execGetCertificate s := rfl
theorem exec_challenge (s : State) : exec (.challenge) s = execChallenge s := rfl
theorem exec_getMeasurements (s : State) : exec (.getMeasurements) s = execGetMeasurements s := rfl
theorem exec_deviceReset (s : State) : exec (.deviceReset) s = execDeviceReset s := rfl
theorem exec_firmwareVerify (s : State) : exec (.firmwareVerify) s = execFirmwareVerify s := rfl
theorem exec_hbmTraining (good : Bool) (s : State) : exec (.hbmTraining good) s = execHbmTraining good s := rfl
theorem exec_dieLinkTraining (good : Bool) (s : State) : exec (.dieLinkTraining good) s = execDieLinkTraining good s := rfl
theorem exec_packagePortTraining (up : BitVec 16) (pkg : BitVec 5) (s : State) : exec (.packagePortTraining up pkg) s = execPackagePortTraining up pkg s := rfl
theorem exec_thermalThrottle (die : Nat) (s : State) : exec (.thermalThrottle die) s = execThermalThrottle die s := rfl
theorem exec_thermalShutdown (die : Nat) (s : State) : exec (.thermalShutdown die) s = execThermalShutdown die s := rfl
theorem exec_ctxsaveComplete (tno : Nat) (s : State) : exec (.ctxsaveComplete tno) s = execCtxsaveComplete tno s := rfl

end Sys2Proof.Machine
end

