-- ==== Sys2Proof/Laws/Memory.lean ====
section
/-!
SUPPORT. Memory: every operation keeps the canonical form; a read sees the last write; other bytes stay.
-/
namespace Sys2Proof.Machine

theorem above_mono {m : List Host.Cell} {j k : Nat} (h : Memory.above k m = true) (hj : j ≤ k) : Memory.above j m = true := by
  cases m with
  | nil => rfl
  | cons c r =>
    obtain ⟨a, v⟩ := c
    simp only [Memory.above, Bool.and_eq_true, decide_eq_true_eq] at h ⊢
    exact ⟨⟨by omega, h.1.2⟩, h.2⟩

/-- What a cons in canonical form says. -/
theorem above_cons {a : Nat} {v : Byte} {r : List Host.Cell} {k : Nat} :
    Memory.above k ((a, v) :: r) = true ↔ k ≤ a ∧ v ≠ unlisted ∧ Memory.above (a + 1) r = true := by
  simp [Memory.above, and_assoc]

theorem above_writeByte {m : List Host.Cell} {k a : Nat} {b : Byte} (h : Memory.above k m = true) (ha : k ≤ a) :
    Memory.above k (writeByte m a b) = true := by
  induction m generalizing k with
  | nil =>
    unfold writeByte
    split
    · rfl
    · next hb => exact above_cons.2 ⟨ha, hb, rfl⟩
  | cons c r ih =>
    obtain ⟨x, v⟩ := c
    obtain ⟨h1, h2, h3⟩ := above_cons.1 h
    unfold writeByte
    split
    · next hx => exact above_cons.2 ⟨h1, h2, ih h3 (by omega)⟩
    · split
      · next _ hx =>
        split
        · exact above_mono h3 (by omega)
        · next hb => exact above_cons.2 ⟨ha, hb, by rw [← hx]; exact h3⟩
      · split
        · exact h
        · next _ _ hb => exact above_cons.2 ⟨ha, hb, above_cons.2 ⟨by omega, h2, h3⟩⟩

theorem wf_writeByte {m : List Host.Cell} {a : Nat} {b : Byte} (h : Memory.wf m = true) : Memory.wf (writeByte m a b) = true :=
  above_writeByte h (Nat.zero_le a)

theorem wf_writeLE {m : List Host.Cell} {k n v : Nat} (h : Memory.wf m = true) : Memory.wf (writeLE m k n v) = true := by
  induction n generalizing m k v with
  | zero => exact h
  | succ n ih => exact ih (wf_writeByte h)

theorem wf_writeBytes {m : List Host.Cell} {k : Nat} {b : List Byte} (h : Memory.wf m = true) :
    Memory.wf (writeBytes m k b) = true := by
  induction b generalizing m k with
  | nil => exact h
  | cons x r ih => exact ih (wf_writeByte h)

theorem wf_writeMask {m : List Host.Cell} {k n v mask : Nat} (h : Memory.wf m = true) :
    Memory.wf (writeMask m k n v mask) = true := by
  induction n generalizing m k v mask with
  | zero => exact h
  | succ n ih =>
    unfold writeMask
    split
    · exact ih (wf_writeByte h)
    · exact ih h

theorem above_filter {m : List Host.Cell} {k : Nat} {p : Host.Cell → Bool} (h : Memory.above k m = true) :
    Memory.above k (m.filter p) = true := by
  induction m generalizing k with
  | nil => rfl
  | cons c r ih =>
    obtain ⟨x, v⟩ := c
    obtain ⟨h1, h2, h3⟩ := above_cons.1 h
    rw [List.filter_cons]
    split
    · exact above_cons.2 ⟨h1, h2, ih h3⟩
    · exact above_mono (ih h3) (by omega)

theorem wf_filter {m : List Host.Cell} {p : Host.Cell → Bool} (h : Memory.wf m = true) : Memory.wf (m.filter p) = true :=
  above_filter h

theorem wf_zeroRange {m : List Host.Cell} {k n : Nat} (h : Memory.wf m = true) : Memory.wf (zeroRange m k n) = true := wf_filter h

/-- Writes one after another, wherever they go. -/
theorem wf_foldl_writeByte {α : Type} {l : List α} {key : α → Nat} {val : α → Byte} {m : List Host.Cell} (h : Memory.wf m = true) :
    Memory.wf (l.foldl (fun m x => writeByte m (key x) (val x)) m) = true := by
  induction l generalizing m with
  | nil => exact h
  | cons x r ih => exact ih (wf_writeByte h)

/-- Bytes below the first listed key read as unlisted. -/
theorem readByte_above {m : List Host.Cell} {k a : Nat} (h : Memory.above k m = true) (ha : a < k) : readByte m a = unlisted := by
  induction m generalizing k with
  | nil => rfl
  | cons c r ih =>
    obtain ⟨x, v⟩ := c
    obtain ⟨h1, h2, h3⟩ := above_cons.1 h
    unfold readByte
    rw [if_neg (by omega)]
    exact ih h3 (by omega)

theorem readByte_writeByte_above {m : List Host.Cell} {k a : Nat} {b : Byte} (h : Memory.above k m = true) (c : Nat) :
    readByte (writeByte m a b) c = if c = a then b else readByte m c := by
  induction m generalizing k with
  | nil =>
    unfold writeByte
    split
    · next hb => subst hb; simp [readByte]
    · simp only [readByte]; grind
  | cons x r ih =>
    obtain ⟨x, v⟩ := x
    obtain ⟨h1, h2, h3⟩ := above_cons.1 h
    have ih' := ih h3
    have hr : ∀ d, d ≤ x → readByte r d = unlisted := fun d hd => readByte_above h3 (by omega)
    unfold writeByte
    split
    · simp only [readByte]; rw [ih']; grind
    · split
      · next _ hx =>
        subst hx
        split
        · next hb => subst hb; simp only [readByte]; have := hr x (Nat.le_refl x); grind
        · simp only [readByte]; grind
      · split
        · next hb => subst hb; simp only [readByte]; have := hr a (by omega); grind
        · simp only [readByte]; grind

/-- A byte written reads back; every other byte stays. -/
theorem readByte_writeByte {m : List Host.Cell} {a : Nat} {b : Byte} (h : Memory.wf m = true) (c : Nat) :
    readByte (writeByte m a b) c = if c = a then b else readByte m c := readByte_writeByte_above h c

/-- Bytes outside the n bytes from k stay. -/
theorem readByte_writeLE {m : List Host.Cell} {k n v c : Nat} (h : Memory.wf m = true) (hc : c < k ∨ k + n ≤ c) :
    readByte (writeLE m k n v) c = readByte m c := by
  induction n generalizing m k v with
  | zero => rfl
  | succ n ih =>
    have : readByte (writeLE m k (n + 1) v) c = readByte (writeLE (writeByte m k (BitVec.ofNat 8 v)) (k + 1) n (v / 256)) c := rfl
    rw [this, ih (wf_writeByte h) (by omega), readByte_writeByte h, if_neg (by omega)]

/-- n bytes written read back as the number modulo 256^n. -/
theorem readLE_writeLE {m : List Host.Cell} {k n v : Nat} (h : Memory.wf m = true) : readLE (writeLE m k n v) k n = v % 256 ^ n := by
  induction n generalizing m k v with
  | zero => simp [readLE, Nat.mod_one]
  | succ n ih =>
    have e : writeLE m k (n + 1) v = writeLE (writeByte m k (BitVec.ofNat 8 v)) (k + 1) n (v / 256) := rfl
    have hw := wf_writeByte (a := k) (b := BitVec.ofNat 8 v) h
    rw [e, readLE, ih hw, readByte_writeLE hw (by omega), readByte_writeByte h, if_pos rfl]
    simp only [BitVec.toNat_ofNat]
    rw [show 256 ^ (n + 1) = 256 * 256 ^ n from by rw [Nat.pow_succ, Nat.mul_comm], Nat.mod_mul]

/-- Bytes outside the masked ones stay. -/
theorem readByte_writeMask {m : List Host.Cell} {k n v mask c : Nat} (h : Memory.wf m = true) (hc : c < k ∨ k + n ≤ c) :
    readByte (writeMask m k n v mask) c = readByte m c := by
  induction n generalizing m k v mask with
  | zero => rfl
  | succ n ih =>
    unfold writeMask
    split
    · rw [ih (wf_writeByte h) (by omega), readByte_writeByte h, if_neg (by omega)]
    · rw [ih h (by omega)]

end Sys2Proof.Machine
end

