-- ==== Sys2Proof/Laws/PerInstr.lean ====
section
/-!
SUPPORT. A law of every instruction as syntax: the classes of its words (R32). The steps of other units have none.
-/
namespace Sys2Proof.Laws.Shape

/-- One word of class 0 or 1, or a head of class 2 with a tail of class 3 (R32). -/
def Statement (i : Instr) : Prop :=
  match encode i with
  | [] => True
  | [w0] => fCls w0 = 0 ∨ fCls w0 = 1
  | [w0, w1] => fCls w0 = 2 ∧ fCls w1 = 3
  | _ => False

theorem noWord {i : Instr} (h : encode i = []) : Statement i := by simp [Statement, h]
theorem oneWord {i : Instr} {w : W32} (h : encode i = [w]) (c : fCls w = 0 ∨ fCls w = 1) : Statement i := by simpa [Statement, h] using c
theorem twoWords {i : Instr} {w v : W32} (h : encode i = [w, v]) (c : fCls w = 2) (t : fCls v = 3) : Statement i := by simp [Statement, h, c, t]

theorem illegalOp (w0 : W32) (w1 : W32) : Statement (.illegalOp w0 w1) := noWord rfl
theorem add (d : RegF) (a : RegF) (b : RegF) : Statement (.add d a b) := oneWord rfl (.inl (fCls_mkRR ..))
theorem sub (d : RegF) (a : RegF) (b : RegF) : Statement (.sub d a b) := oneWord rfl (.inl (fCls_mkRR ..))
theorem mul (d : RegF) (a : RegF) (b : RegF) : Statement (.mul d a b) := oneWord rfl (.inl (fCls_mkRR ..))
theorem mulh (d : RegF) (a : RegF) (b : RegF) : Statement (.mulh d a b) := oneWord rfl (.inl (fCls_mkRR ..))
theorem mulhu (d : RegF) (a : RegF) (b : RegF) : Statement (.mulhu d a b) := oneWord rfl (.inl (fCls_mkRR ..))
theorem div (d : RegF) (a : RegF) (b : RegF) : Statement (.div d a b) := oneWord rfl (.inl (fCls_mkRR ..))
theorem divu (d : RegF) (a : RegF) (b : RegF) : Statement (.divu d a b) := oneWord rfl (.inl (fCls_mkRR ..))
theorem rem (d : RegF) (a : RegF) (b : RegF) : Statement (.rem d a b) := oneWord rfl (.inl (fCls_mkRR ..))
theorem remu (d : RegF) (a : RegF) (b : RegF) : Statement (.remu d a b) := oneWord rfl (.inl (fCls_mkRR ..))
theorem and (d : RegF) (a : RegF) (b : RegF) : Statement (.and d a b) := oneWord rfl (.inl (fCls_mkRR ..))
theorem or (d : RegF) (a : RegF) (b : RegF) : Statement (.or d a b) := oneWord rfl (.inl (fCls_mkRR ..))
theorem xor (d : RegF) (a : RegF) (b : RegF) : Statement (.xor d a b) := oneWord rfl (.inl (fCls_mkRR ..))
theorem andn (d : RegF) (a : RegF) (b : RegF) : Statement (.andn d a b) := oneWord rfl (.inl (fCls_mkRR ..))
theorem shl (d : RegF) (a : RegF) (b : RegF) : Statement (.shl d a b) := oneWord rfl (.inl (fCls_mkRR ..))
theorem shr (d : RegF) (a : RegF) (b : RegF) : Statement (.shr d a b) := oneWord rfl (.inl (fCls_mkRR ..))
theorem sar (d : RegF) (a : RegF) (b : RegF) : Statement (.sar d a b) := oneWord rfl (.inl (fCls_mkRR ..))
theorem rot (d : RegF) (a : RegF) (b : RegF) : Statement (.rot d a b) := oneWord rfl (.inl (fCls_mkRR ..))
theorem min (d : RegF) (a : RegF) (b : RegF) : Statement (.min d a b) := oneWord rfl (.inl (fCls_mkRR ..))
theorem max (d : RegF) (a : RegF) (b : RegF) : Statement (.max d a b) := oneWord rfl (.inl (fCls_mkRR ..))
theorem minu (d : RegF) (a : RegF) (b : RegF) : Statement (.minu d a b) := oneWord rfl (.inl (fCls_mkRR ..))
theorem maxu (d : RegF) (a : RegF) (b : RegF) : Statement (.maxu d a b) := oneWord rfl (.inl (fCls_mkRR ..))
theorem clz (d : RegF) (a : RegF) : Statement (.clz d a) := oneWord rfl (.inl (fCls_mkRR ..))
theorem ctz (d : RegF) (a : RegF) : Statement (.ctz d a) := oneWord rfl (.inl (fCls_mkRR ..))
theorem popc (d : RegF) (a : RegF) : Statement (.popc d a) := oneWord rfl (.inl (fCls_mkRR ..))
theorem sextB (d : RegF) (a : RegF) : Statement (.sextB d a) := oneWord rfl (.inl (fCls_mkRR ..))
theorem sextH (d : RegF) (a : RegF) : Statement (.sextH d a) := oneWord rfl (.inl (fCls_mkRR ..))
theorem sextW (d : RegF) (a : RegF) : Statement (.sextW d a) := oneWord rfl (.inl (fCls_mkRR ..))
theorem zextB (d : RegF) (a : RegF) : Statement (.zextB d a) := oneWord rfl (.inl (fCls_mkRR ..))
theorem zextH (d : RegF) (a : RegF) : Statement (.zextH d a) := oneWord rfl (.inl (fCls_mkRR ..))
theorem zextW (d : RegF) (a : RegF) : Statement (.zextW d a) := oneWord rfl (.inl (fCls_mkRR ..))
theorem sel (d : RegF) (p : PredF) (a : RegF) (b : RegF) : Statement (.sel d p a b) := oneWord rfl (.inl (fCls_mkRR ..))
theorem cmpEq (p : PredF) (a : RegF) (b : RegF) : Statement (.cmpEq p a b) := oneWord rfl (.inl (fCls_mkRR ..))
theorem cmpNe (p : PredF) (a : RegF) (b : RegF) : Statement (.cmpNe p a b) := oneWord rfl (.inl (fCls_mkRR ..))
theorem cmpLt (p : PredF) (a : RegF) (b : RegF) : Statement (.cmpLt p a b) := oneWord rfl (.inl (fCls_mkRR ..))
theorem cmpGe (p : PredF) (a : RegF) (b : RegF) : Statement (.cmpGe p a b) := oneWord rfl (.inl (fCls_mkRR ..))
theorem cmpLtu (p : PredF) (a : RegF) (b : RegF) : Statement (.cmpLtu p a b) := oneWord rfl (.inl (fCls_mkRR ..))
theorem cmpGeu (p : PredF) (a : RegF) (b : RegF) : Statement (.cmpGeu p a b) := oneWord rfl (.inl (fCls_mkRR ..))
theorem pand (d : PredF) (a : PredF) (b : PredF) : Statement (.pand d a b) := oneWord rfl (.inl (fCls_mkRR ..))
theorem por (d : PredF) (a : PredF) (b : PredF) : Statement (.por d a b) := oneWord rfl (.inl (fCls_mkRR ..))
theorem pnot (d : PredF) (a : PredF) : Statement (.pnot d a) := oneWord rfl (.inl (fCls_mkRR ..))
theorem addi (d : RegF) (a : RegF) (imm : BitVec 14) : Statement (.addi d a imm) := oneWord rfl (.inl (fCls_mkRI ..))
theorem andi (d : RegF) (a : RegF) (imm : BitVec 14) : Statement (.andi d a imm) := oneWord rfl (.inl (fCls_mkRI ..))
theorem ori (d : RegF) (a : RegF) (imm : BitVec 14) : Statement (.ori d a imm) := oneWord rfl (.inl (fCls_mkRI ..))
theorem xori (d : RegF) (a : RegF) (imm : BitVec 14) : Statement (.xori d a imm) := oneWord rfl (.inl (fCls_mkRI ..))
theorem shli (d : RegF) (a : RegF) (sh : BitVec 6) : Statement (.shli d a sh) := oneWord rfl (.inl (fCls_mkRI ..))
theorem shri (d : RegF) (a : RegF) (sh : BitVec 6) : Statement (.shri d a sh) := oneWord rfl (.inl (fCls_mkRI ..))
theorem sari (d : RegF) (a : RegF) (sh : BitVec 6) : Statement (.sari d a sh) := oneWord rfl (.inl (fCls_mkRI ..))
theorem movi (d : RegF) (imm : BitVec 19) : Statement (.movi d imm) := oneWord rfl (.inl (fCls_mkMovi ..))
theorem moviL (d : RegF) (k : W32) (g : PredF) : Statement (.moviL d k g) := twoWords rfl (fCls_mkRR ..) (fCls_mkTail ..)
theorem movhi (d : RegF) (a : RegF) (k : W32) (g : PredF) : Statement (.movhi d a k g) := twoWords rfl (fCls_mkRR ..) (fCls_mkTail ..)
theorem loop (d : RegF) (off : BitVec 14) : Statement (.loop d off) := oneWord rfl (.inl (fCls_mkRI ..))
theorem ldB (d : RegF) (h : BitVec 1) (c : CapF) (imm : BitVec 14) : Statement (.ldB d h c imm) := oneWord rfl (.inl (fCls_mkRI ..))
theorem ldBu (d : RegF) (h : BitVec 1) (c : CapF) (imm : BitVec 14) : Statement (.ldBu d h c imm) := oneWord rfl (.inl (fCls_mkRI ..))
theorem ldH (d : RegF) (h : BitVec 1) (c : CapF) (imm : BitVec 14) : Statement (.ldH d h c imm) := oneWord rfl (.inl (fCls_mkRI ..))
theorem ldHu (d : RegF) (h : BitVec 1) (c : CapF) (imm : BitVec 14) : Statement (.ldHu d h c imm) := oneWord rfl (.inl (fCls_mkRI ..))
theorem ldW (d : RegF) (h : BitVec 1) (c : CapF) (imm : BitVec 14) : Statement (.ldW d h c imm) := oneWord rfl (.inl (fCls_mkRI ..))
theorem ldWu (d : RegF) (h : BitVec 1) (c : CapF) (imm : BitVec 14) : Statement (.ldWu d h c imm) := oneWord rfl (.inl (fCls_mkRI ..))
theorem ldD (d : RegF) (h : BitVec 1) (c : CapF) (imm : BitVec 14) : Statement (.ldD d h c imm) := oneWord rfl (.inl (fCls_mkRI ..))
theorem stB (d : RegF) (h : BitVec 1) (c : CapF) (imm : BitVec 14) : Statement (.stB d h c imm) := oneWord rfl (.inl (fCls_mkRI ..))
theorem stH (d : RegF) (h : BitVec 1) (c : CapF) (imm : BitVec 14) : Statement (.stH d h c imm) := oneWord rfl (.inl (fCls_mkRI ..))
theorem stW (d : RegF) (h : BitVec 1) (c : CapF) (imm : BitVec 14) : Statement (.stW d h c imm) := oneWord rfl (.inl (fCls_mkRI ..))
theorem stD (d : RegF) (h : BitVec 1) (c : CapF) (imm : BitVec 14) : Statement (.stD d h c imm) := oneWord rfl (.inl (fCls_mkRI ..))
theorem ldx (w : LF) : Statement (.ldx w) := twoWords rfl (fCls_mkRR ..) (fCls_mkTail ..)
theorem stx (w : LF) : Statement (.stx w) := twoWords rfl (fCls_mkRR ..) (fCls_mkTail ..)
theorem loadComplete (id : Nat) : Statement (.loadComplete id) := noWord rfl
theorem storeComplete (id : Nat) : Statement (.storeComplete id) := noWord rfl
theorem bp (p : PredF) (n : BitVec 1) (off : BitVec 20) : Statement (.bp p n off) := oneWord rfl (.inl (fCls_mkBR ..))
theorem call (off : BitVec 20) : Statement (.call off) := oneWord rfl (.inl (fCls_mkBR ..))
theorem jr (c : CapF) (b : RegF) : Statement (.jr c b) := oneWord rfl (.inl (fCls_mkCP ..))
theorem callr (c : CapF) (b : RegF) : Statement (.callr c b) := oneWord rfl (.inl (fCls_mkCP ..))
theorem ret (c : CapF) : Statement (.ret c) := oneWord rfl (.inl (fCls_mkCP ..))
theorem fadd (f : BitVec 2) (d : RegF) (a : RegF) (b : RegF) (rm : BitVec 3) : Statement (.fadd f d a b rm) := oneWord rfl (.inl (fCls_mkRR ..))
theorem fsub (f : BitVec 2) (d : RegF) (a : RegF) (b : RegF) (rm : BitVec 3) : Statement (.fsub f d a b rm) := oneWord rfl (.inl (fCls_mkRR ..))
theorem fmul (f : BitVec 2) (d : RegF) (a : RegF) (b : RegF) (rm : BitVec 3) : Statement (.fmul f d a b rm) := oneWord rfl (.inl (fCls_mkRR ..))
theorem ffma (f : BitVec 2) (d : RegF) (a : RegF) (b : RegF) (rm : BitVec 3) : Statement (.ffma f d a b rm) := oneWord rfl (.inl (fCls_mkRR ..))
theorem fdiv (f : BitVec 2) (d : RegF) (a : RegF) (b : RegF) (rm : BitVec 3) : Statement (.fdiv f d a b rm) := oneWord rfl (.inl (fCls_mkRR ..))
theorem fsqrt (f : BitVec 2) (d : RegF) (a : RegF) (rm : BitVec 3) : Statement (.fsqrt f d a rm) := oneWord rfl (.inl (fCls_mkRR ..))
theorem frsqrt (f : BitVec 2) (d : RegF) (a : RegF) (rm : BitVec 3) : Statement (.frsqrt f d a rm) := oneWord rfl (.inl (fCls_mkRR ..))
theorem fexp2 (f : BitVec 2) (d : RegF) (a : RegF) (rm : BitVec 3) : Statement (.fexp2 f d a rm) := oneWord rfl (.inl (fCls_mkRR ..))
theorem flog2 (f : BitVec 2) (d : RegF) (a : RegF) (rm : BitVec 3) : Statement (.flog2 f d a rm) := oneWord rfl (.inl (fCls_mkRR ..))
theorem fmin (f : BitVec 2) (d : RegF) (a : RegF) (b : RegF) : Statement (.fmin f d a b) := oneWord rfl (.inl (fCls_mkRR ..))
theorem fmax (f : BitVec 2) (d : RegF) (a : RegF) (b : RegF) : Statement (.fmax f d a b) := oneWord rfl (.inl (fCls_mkRR ..))
theorem fabs (f : BitVec 2) (d : RegF) (a : RegF) : Statement (.fabs f d a) := oneWord rfl (.inl (fCls_mkRR ..))
theorem fneg (f : BitVec 2) (d : RegF) (a : RegF) : Statement (.fneg f d a) := oneWord rfl (.inl (fCls_mkRR ..))
theorem fclass (f : BitVec 2) (d : RegF) (a : RegF) : Statement (.fclass f d a) := oneWord rfl (.inl (fCls_mkRR ..))
theorem fround (f : BitVec 2) (d : RegF) (a : RegF) (rm : BitVec 3) : Statement (.fround f d a rm) := oneWord rfl (.inl (fCls_mkRR ..))
theorem fscale (f : BitVec 2) (d : RegF) (a : RegF) (b : RegF) (rm : BitVec 3) : Statement (.fscale f d a b rm) := oneWord rfl (.inl (fCls_mkRR ..))
theorem fcmpEq (f : BitVec 2) (p : PredF) (a : RegF) (b : RegF) : Statement (.fcmpEq f p a b) := oneWord rfl (.inl (fCls_mkRR ..))
theorem fcmpNe (f : BitVec 2) (p : PredF) (a : RegF) (b : RegF) : Statement (.fcmpNe f p a b) := oneWord rfl (.inl (fCls_mkRR ..))
theorem fcmpLt (f : BitVec 2) (p : PredF) (a : RegF) (b : RegF) : Statement (.fcmpLt f p a b) := oneWord rfl (.inl (fCls_mkRR ..))
theorem fcmpLe (f : BitVec 2) (p : PredF) (a : RegF) (b : RegF) : Statement (.fcmpLe f p a b) := oneWord rfl (.inl (fCls_mkRR ..))
theorem fcmpUn (f : BitVec 2) (p : PredF) (a : RegF) (b : RegF) : Statement (.fcmpUn f p a b) := oneWord rfl (.inl (fCls_mkRR ..))
theorem fcvtFromIeee (f : BitVec 2) (d : RegF) (a : RegF) (k : BitVec 2) (rm : BitVec 3) : Statement (.fcvtFromIeee f d a k rm) := oneWord rfl (.inl (fCls_mkRR ..))
theorem fcvtFromNarrow (f : BitVec 2) (d : RegF) (a : RegF) (k : BitVec 2) (rm : BitVec 3) : Statement (.fcvtFromNarrow f d a k rm) := oneWord rfl (.inl (fCls_mkRR ..))
theorem fcvtFromI64 (f : BitVec 2) (d : RegF) (a : RegF) (rm : BitVec 3) : Statement (.fcvtFromI64 f d a rm) := oneWord rfl (.inl (fCls_mkRR ..))
theorem fcvtFromU64 (f : BitVec 2) (d : RegF) (a : RegF) (rm : BitVec 3) : Statement (.fcvtFromU64 f d a rm) := oneWord rfl (.inl (fCls_mkRR ..))
theorem fcvtFromI32 (f : BitVec 2) (d : RegF) (a : RegF) (rm : BitVec 3) : Statement (.fcvtFromI32 f d a rm) := oneWord rfl (.inl (fCls_mkRR ..))
theorem fcvtFromU32 (f : BitVec 2) (d : RegF) (a : RegF) (rm : BitVec 3) : Statement (.fcvtFromU32 f d a rm) := oneWord rfl (.inl (fCls_mkRR ..))
theorem fcvtToInt (f : BitVec 2) (d : RegF) (a : RegF) (k : BitVec 3) (rm : BitVec 3) : Statement (.fcvtToInt f d a k rm) := oneWord rfl (.inl (fCls_mkRR ..))
theorem fcvtToNarrow (f : BitVec 2) (d : RegF) (a : RegF) (k : BitVec 2) (rm : BitVec 3) : Statement (.fcvtToNarrow f d a k rm) := oneWord rfl (.inl (fCls_mkRR ..))
theorem sysr (d : RegF) (n : BitVec 12) : Statement (.sysr d n) := oneWord rfl (.inl (fCls_mkRI ..))
theorem sysrC (c : CapF) (n : BitVec 12) : Statement (.sysrC c n) := oneWord rfl (.inl (fCls_mkRI ..))
theorem sysw (a : RegF) (n : BitVec 12) : Statement (.sysw a n) := oneWord rfl (.inl (fCls_mkRI ..))
theorem syswC (c : CapF) (n : BitVec 12) : Statement (.syswC c n) := oneWord rfl (.inl (fCls_mkRI ..))
theorem nop : Statement (.nop) := oneWord rfl (.inl (fCls_mkRR ..))
theorem halt : Statement (.halt) := oneWord rfl (.inl (fCls_mkRR ..))
theorem trap : Statement (.trap) := oneWord rfl (.inl (fCls_mkRR ..))
theorem brk : Statement (.brk) := oneWord rfl (.inl (fCls_mkRR ..))
theorem eret : Statement (.eret) := oneWord rfl (.inl (fCls_mkRR ..))
theorem ident (d : RegF) : Statement (.ident d) := oneWord rfl (.inl (fCls_mkRR ..))
theorem trapEntry (fld : Nat) (slot : Nat) : Statement (.trapEntry fld slot) := noWord rfl
theorem cgetObj (b : RegF) (c : CapF) : Statement (.cgetObj b c) := oneWord rfl (.inr (fCls_mkCP ..))
theorem cgetCur (b : RegF) (c : CapF) : Statement (.cgetCur b c) := oneWord rfl (.inr (fCls_mkCP ..))
theorem cgetBase (b : RegF) (c : CapF) : Statement (.cgetBase b c) := oneWord rfl (.inr (fCls_mkCP ..))
theorem cgetTop (b : RegF) (c : CapF) : Statement (.cgetTop b c) := oneWord rfl (.inr (fCls_mkCP ..))
theorem cgetPerm (b : RegF) (c : CapF) : Statement (.cgetPerm b c) := oneWord rfl (.inr (fCls_mkCP ..))
theorem cgetTag (b : RegF) (c : CapF) : Statement (.cgetTag b c) := oneWord rfl (.inr (fCls_mkCP ..))
theorem cgetG (b : RegF) (c : CapF) : Statement (.cgetG b c) := oneWord rfl (.inr (fCls_mkCP ..))
theorem csetc (d : CapF) (c : CapF) (b : RegF) : Statement (.csetc d c b) := oneWord rfl (.inr (fCls_mkCP ..))
theorem cadd (d : CapF) (c : CapF) (b : RegF) : Statement (.cadd d c b) := oneWord rfl (.inr (fCls_mkCP ..))
theorem cbound (d : CapF) (c : CapF) (b : RegF) : Statement (.cbound d c b) := oneWord rfl (.inr (fCls_mkCP ..))
theorem cperm (d : CapF) (c : CapF) (b : RegF) : Statement (.cperm d c b) := oneWord rfl (.inr (fCls_mkCP ..))
theorem cnull (d : CapF) : Statement (.cnull d) := oneWord rfl (.inr (fCls_mkCP ..))
theorem cmov (d : CapF) (c : CapF) : Statement (.cmov d c) := oneWord rfl (.inr (fCls_mkCP ..))
theorem csub (b : RegF) (c : CapF) (e : CapF) : Statement (.csub b c e) := oneWord rfl (.inr (fCls_mkCP ..))
theorem ctest (p : PredF) (c : CapF) : Statement (.ctest p c) := oneWord rfl (.inr (fCls_mkCP ..))
theorem cld (d : CapF) (c : CapF) (b : RegF) : Statement (.cld d c b) := oneWord rfl (.inr (fCls_mkCP ..))
theorem cst (d : CapF) (c : CapF) (b : RegF) : Statement (.cst d c b) := oneWord rfl (.inr (fCls_mkCP ..))
theorem cmake (d : CapF) (b : RegF) : Statement (.cmake d b) := oneWord rfl (.inr (fCls_mkCP ..))
theorem cfgsw (a : RegF) : Statement (.cfgsw a) := oneWord rfl (.inr (fCls_mkRR ..))
theorem cfgdrop (a : RegF) : Statement (.cfgdrop a) := oneWord rfl (.inr (fCls_mkRR ..))
theorem rgrun (a : RegF) : Statement (.rgrun a) := oneWord rfl (.inr (fCls_mkRR ..))
theorem rgstop (a : RegF) : Statement (.rgstop a) := oneWord rfl (.inr (fCls_mkRR ..))
theorem rgstat (d : RegF) (a : RegF) : Statement (.rgstat d a) := oneWord rfl (.inr (fCls_mkRR ..))
theorem qbindIn (q : PredF) (a : RegF) : Statement (.qbindIn q a) := oneWord rfl (.inr (fCls_mkRR ..))
theorem qbindOut (q : PredF) (a : RegF) : Statement (.qbindOut q a) := oneWord rfl (.inr (fCls_mkRR ..))
theorem qunbind (q : PredF) : Statement (.qunbind q) := oneWord rfl (.inr (fCls_mkRR ..))
theorem qpeek (d : RegF) (q : PredF) : Statement (.qpeek d q) := oneWord rfl (.inr (fCls_mkRR ..))
theorem enter (a : RegF) : Statement (.enter a) := oneWord rfl (.inr (fCls_mkRR ..))
theorem await (a : RegF) : Statement (.await a) := oneWord rfl (.inr (fCls_mkRR ..))
theorem mark (a : RegF) : Statement (.mark a) := oneWord rfl (.inr (fCls_mkRR ..))
theorem rwait (a : RegF) : Statement (.rwait a) := oneWord rfl (.inr (fCls_mkRR ..))
theorem tdone : Statement (.tdone) := oneWord rfl (.inr (fCls_mkRR ..))
theorem yield : Statement (.yield) := oneWord rfl (.inr (fCls_mkRR ..))
theorem stswap (a : RegF) : Statement (.stswap a) := oneWord rfl (.inr (fCls_mkRR ..))
theorem cfgld (c : CapF) (b : RegF) : Statement (.cfgld c b) := oneWord rfl (.inr (fCls_mkCP ..))
theorem cfgpart (c : CapF) (b : RegF) : Statement (.cfgpart c b) := oneWord rfl (.inr (fCls_mkCP ..))
theorem spawnStrand (c : CapF) (b : RegF) : Statement (.spawnStrand c b) := oneWord rfl (.inr (fCls_mkCP ..))
theorem spawnTask (c : CapF) (b : RegF) : Statement (.spawnTask c b) := oneWord rfl (.inr (fCls_mkCP ..))
theorem finder (c : CapF) (b : RegF) : Statement (.finder c b) := oneWord rfl (.inr (fCls_mkCP ..))
theorem stld (c : CapF) (b : RegF) : Statement (.stld c b) := oneWord rfl (.inr (fCls_mkCP ..))
theorem wait (ld : BitVec 6) (st : BitVec 6) (cp : BitVec 6) (tl : BitVec 6) : Statement (.wait ld st cp tl) := oneWord rfl (.inr (fCls_mkWait ..))
theorem wpset (c : CapF) (b : RegF) : Statement (.wpset c b) := oneWord rfl (.inr (fCls_mkCP ..))
theorem wpclr (b : RegF) : Statement (.wpclr b) := oneWord rfl (.inr (fCls_mkCP ..))
theorem ctxsave (c : CapF) (b : RegF) : Statement (.ctxsave c b) := oneWord rfl (.inr (fCls_mkCP ..))
theorem ctxload (c : CapF) (b : RegF) : Statement (.ctxload c b) := oneWord rfl (.inr (fCls_mkCP ..))
theorem resumeSite (b : RegF) : Statement (.resumeSite b) := oneWord rfl (.inr (fCls_mkCP ..))
theorem abandonRegion (b : RegF) : Statement (.abandonRegion b) := oneWord rfl (.inr (fCls_mkCP ..))
theorem resumePort (b : RegF) : Statement (.resumePort b) := oneWord rfl (.inr (fCls_mkCP ..))
theorem resumeArray (b : RegF) : Statement (.resumeArray b) := oneWord rfl (.inr (fCls_mkCP ..))
theorem abandonArray (b : RegF) : Statement (.abandonArray b) := oneWord rfl (.inr (fCls_mkCP ..))
theorem resumeStrand (b : RegF) : Statement (.resumeStrand b) := oneWord rfl (.inr (fCls_mkCP ..))
theorem endStrand (b : RegF) : Statement (.endStrand b) := oneWord rfl (.inr (fCls_mkCP ..))
theorem resumeEngine (b : RegF) : Statement (.resumeEngine b) := oneWord rfl (.inr (fCls_mkCP ..))
theorem fltq (b : RegF) : Statement (.fltq b) := oneWord rfl (.inr (fCls_mkCP ..))
theorem atomAdd (w : LF) : Statement (.atomAdd w) := twoWords rfl (fCls_mkRR ..) (fCls_mkTail ..)
theorem atomMin (w : LF) : Statement (.atomMin w) := twoWords rfl (fCls_mkRR ..) (fCls_mkTail ..)
theorem atomMax (w : LF) : Statement (.atomMax w) := twoWords rfl (fCls_mkRR ..) (fCls_mkTail ..)
theorem atomMinu (w : LF) : Statement (.atomMinu w) := twoWords rfl (fCls_mkRR ..) (fCls_mkTail ..)
theorem atomMaxu (w : LF) : Statement (.atomMaxu w) := twoWords rfl (fCls_mkRR ..) (fCls_mkTail ..)
theorem atomAnd (w : LF) : Statement (.atomAnd w) := twoWords rfl (fCls_mkRR ..) (fCls_mkTail ..)
theorem atomOr (w : LF) : Statement (.atomOr w) := twoWords rfl (fCls_mkRR ..) (fCls_mkTail ..)
theorem atomXor (w : LF) : Statement (.atomXor w) := twoWords rfl (fCls_mkRR ..) (fCls_mkTail ..)
theorem atomSwp (w : LF) : Statement (.atomSwp w) := twoWords rfl (fCls_mkRR ..) (fCls_mkTail ..)
theorem atomFadd (w : LF) : Statement (.atomFadd w) := twoWords rfl (fCls_mkRR ..) (fCls_mkTail ..)
theorem atomInc (w : LF) : Statement (.atomInc w) := twoWords rfl (fCls_mkRR ..) (fCls_mkTail ..)
theorem atomcas (w : LF) : Statement (.atomcas w) := twoWords rfl (fCls_mkRR ..) (fCls_mkTail ..)
theorem vatom (w : LF) : Statement (.vatom w) := twoWords rfl (fCls_mkRR ..) (fCls_mkTail ..)
theorem vatomcas (w : LF) : Statement (.vatomcas w) := twoWords rfl (fCls_mkRR ..) (fCls_mkTail ..)
theorem atomicPerform (id : Nat) : Statement (.atomicPerform id) := noWord rfl
theorem fence (w : LF) : Statement (.fence w) := twoWords rfl (fCls_mkRR ..) (fCls_mkTail ..)
theorem fenceSt (w : LF) : Statement (.fenceSt w) := twoWords rfl (fCls_mkRR ..) (fCls_mkTail ..)
theorem scset (w : LF) : Statement (.scset w) := twoWords rfl (fCls_mkRR ..) (fCls_mkTail ..)
theorem scget (w : LF) : Statement (.scget w) := twoWords rfl (fCls_mkRR ..) (fCls_mkTail ..)
theorem scinv (w : LF) : Statement (.scinv w) := twoWords rfl (fCls_mkRR ..) (fCls_mkTail ..)
theorem cbsync (w : LF) : Statement (.cbsync w) := twoWords rfl (fCls_mkRR ..) (fCls_mkTail ..)
theorem barinit (w : LF) : Statement (.barinit w) := twoWords rfl (fCls_mkRR ..) (fCls_mkTail ..)
theorem bararr (w : LF) : Statement (.bararr w) := twoWords rfl (fCls_mkRR ..) (fCls_mkTail ..)
theorem barwait (w : LF) : Statement (.barwait w) := twoWords rfl (fCls_mkRR ..) (fCls_mkTail ..)
theorem monarm (w : LF) : Statement (.monarm w) := twoWords rfl (fCls_mkRR ..) (fCls_mkTail ..)
theorem monwait (w : LF) : Statement (.monwait w) := twoWords rfl (fCls_mkRR ..) (fCls_mkTail ..)
theorem monwaitTimeout (fld : Nat) (slot : Nat) : Statement (.monwaitTimeout fld slot) := noWord rfl
theorem monsig (w : LF) : Statement (.monsig w) := twoWords rfl (fCls_mkRR ..) (fCls_mkTail ..)
theorem tcfg (w : LF) : Statement (.tcfg w) := twoWords rfl (fCls_mkRR ..) (fCls_mkTail ..)
theorem trel (w : LF) : Statement (.trel w) := twoWords rfl (fCls_mkRR ..) (fCls_mkTail ..)
theorem tstate (w : LF) : Statement (.tstate w) := twoWords rfl (fCls_mkRR ..) (fCls_mkTail ..)
theorem twait (w : LF) : Statement (.twait w) := twoWords rfl (fCls_mkRR ..) (fCls_mkTail ..)
theorem cwb (w : LF) : Statement (.cwb w) := twoWords rfl (fCls_mkRR ..) (fCls_mkTail ..)
theorem cinv (w : LF) : Statement (.cinv w) := twoWords rfl (fCls_mkRR ..) (fCls_mkTail ..)
theorem cpf (w : LF) : Statement (.cpf w) := twoWords rfl (fCls_mkRR ..) (fCls_mkTail ..)
theorem objq (w : LF) : Statement (.objq w) := twoWords rfl (fCls_mkRR ..) (fCls_mkTail ..)
theorem carve (w : LF) : Statement (.carve w) := twoWords rfl (fCls_mkRR ..) (fCls_mkTail ..)
theorem xcopy (w : LF) : Statement (.xcopy w) := twoWords rfl (fCls_mkRR ..) (fCls_mkTail ..)
theorem xcopy2 (w : LF) : Statement (.xcopy2 w) := twoWords rfl (fCls_mkRR ..) (fCls_mkTail ..)
theorem xgather (w : LF) : Statement (.xgather w) := twoWords rfl (fCls_mkRR ..) (fCls_mkTail ..)
theorem xscatter (w : LF) : Statement (.xscatter w) := twoWords rfl (fCls_mkRR ..) (fCls_mkTail ..)
theorem mma (w : LF) : Statement (.mma w) := twoWords rfl (fCls_mkRR ..) (fCls_mkTail ..)
theorem mmx (w : LF) : Statement (.mmx w) := twoWords rfl (fCls_mkRR ..) (fCls_mkTail ..)
theorem accrd (w : LF) : Statement (.accrd w) := twoWords rfl (fCls_mkRR ..) (fCls_mkTail ..)
theorem accwr (w : LF) : Statement (.accwr w) := twoWords rfl (fCls_mkRR ..) (fCls_mkTail ..)
theorem attn (w : LF) : Statement (.attn w) := twoWords rfl (fCls_mkRR ..) (fCls_mkTail ..)
theorem xcodec (w : LF) : Statement (.xcodec w) := twoWords rfl (fCls_mkRR ..) (fCls_mkTail ..)
theorem xcksum (w : LF) : Statement (.xcksum w) := twoWords rfl (fCls_mkRR ..) (fCls_mkTail ..)
theorem coll (w : LF) : Statement (.coll w) := twoWords rfl (fCls_mkRR ..) (fCls_mkTail ..)
theorem nvsub (w : LF) : Statement (.nvsub w) := twoWords rfl (fCls_mkRR ..) (fCls_mkTail ..)
theorem nvcmp (w : LF) : Statement (.nvcmp w) := twoWords rfl (fCls_mkRR ..) (fCls_mkTail ..)
theorem kvlook (w : LF) : Statement (.kvlook w) := twoWords rfl (fCls_mkRR ..) (fCls_mkTail ..)
theorem kvapp (w : LF) : Statement (.kvapp w) := twoWords rfl (fCls_mkRR ..) (fCls_mkTail ..)
theorem kvfork (w : LF) : Statement (.kvfork w) := twoWords rfl (fCls_mkRR ..) (fCls_mkTail ..)
theorem kvfree (w : LF) : Statement (.kvfree w) := twoWords rfl (fCls_mkRR ..) (fCls_mkTail ..)
theorem kvpol (w : LF) : Statement (.kvpol w) := twoWords rfl (fCls_mkRR ..) (fCls_mkTail ..)
theorem xtest (w : LF) : Statement (.xtest w) := twoWords rfl (fCls_mkRR ..) (fCls_mkTail ..)
theorem bfenq (w : LF) : Statement (.bfenq w) := twoWords rfl (fCls_mkRR ..) (fCls_mkTail ..)
theorem bfsync (w : LF) : Statement (.bfsync w) := twoWords rfl (fCls_mkRR ..) (fCls_mkTail ..)
theorem evscore (w : LF) : Statement (.evscore w) := twoWords rfl (fCls_mkRR ..) (fCls_mkTail ..)
theorem sqevict (w : LF) : Statement (.sqevict w) := twoWords rfl (fCls_mkRR ..) (fCls_mkTail ..)
theorem eresp (w : LF) : Statement (.eresp w) := twoWords rfl (fCls_mkRR ..) (fCls_mkTail ..)
theorem responseDelivery (st : Nat) : Statement (.responseDelivery st) := noWord rfl
theorem requestComplete (st : Nat) : Statement (.requestComplete st) := noWord rfl
theorem copyElementPerform (st : Nat) : Statement (.copyElementPerform st) := noWord rfl
theorem gatherElementPerform (st : Nat) : Statement (.gatherElementPerform st) := noWord rfl
theorem tileFillComplete (fld : Nat) (tile : Nat) : Statement (.tileFillComplete fld tile) := noWord rfl
theorem tileDrainComplete (fld : Nat) (tile : Nat) : Statement (.tileDrainComplete fld tile) := noWord rfl
theorem followOnIssue (st : Nat) : Statement (.followOnIssue st) := noWord rfl
theorem mmaPerform (st : Nat) : Statement (.mmaPerform st) := noWord rfl
theorem mmxPerform (st : Nat) : Statement (.mmxPerform st) := noWord rfl
theorem accrdPerform (st : Nat) : Statement (.accrdPerform st) := noWord rfl
theorem accwrPerform (st : Nat) : Statement (.accwrPerform st) := noWord rfl
theorem attnPerform (st : Nat) : Statement (.attnPerform st) := noWord rfl
theorem xtestPerform (st : Nat) : Statement (.xtestPerform st) := noWord rfl
theorem collectivePerform (st : Nat) : Statement (.collectivePerform st) := noWord rfl
theorem codecChunkPerform (st : Nat) : Statement (.codecChunkPerform st) := noWord rfl
theorem checksumPerform (st : Nat) : Statement (.checksumPerform st) := noWord rfl
theorem nvmeSubmitPerform (st : Nat) : Statement (.nvmeSubmitPerform st) := noWord rfl
theorem nvmeCompletionPosted (pair : Nat) (cid : Nat) (lo : W64) (hi : W64) (data : List Byte) : Statement (.nvmeCompletionPosted pair cid lo hi data) := noWord rfl
theorem controllerDma (port : Nat) (rid : Nat) (key : Nat) (data : List Byte) : Statement (.controllerDma port rid key data) := noWord rfl
theorem kvlookPerform (st : Nat) : Statement (.kvlookPerform st) := noWord rfl
theorem kvappPerform (st : Nat) : Statement (.kvappPerform st) := noWord rfl
theorem kvforkPerform (st : Nat) : Statement (.kvforkPerform st) := noWord rfl
theorem kvfreePerform (st : Nat) : Statement (.kvfreePerform st) := noWord rfl
theorem kvpolPerform (st : Nat) : Statement (.kvpolPerform st) := noWord rfl
theorem evscorePerform (st : Nat) : Statement (.evscorePerform st) := noWord rfl
theorem sqevictPerform (st : Nat) : Statement (.sqevictPerform st) := noWord rfl
theorem bfenqPerform (st : Nat) : Statement (.bfenqPerform st) := noWord rfl
theorem backfillRecord (mount : Nat) : Statement (.backfillRecord mount) := noWord rfl
theorem cfgldInstall (fld : Nat) (slot : Nat) : Statement (.cfgldInstall fld slot) := noWord rfl
theorem installComplete (fld : Nat) (slot : Nat) : Statement (.installComplete fld slot) := noWord rfl
theorem cfgpartApply (fld : Nat) (slot : Nat) : Statement (.cfgpartApply fld slot) := noWord rfl
theorem partialFrameTake (fld : Nat) (slot : Nat) (site : Nat) : Statement (.partialFrameTake fld slot site) := noWord rfl
theorem partialDrainComplete (fld : Nat) (slot : Nat) : Statement (.partialDrainComplete fld slot) := noWord rfl
theorem stopComplete (fld : Nat) (slot : Nat) : Statement (.stopComplete fld slot) := noWord rfl
theorem switchComplete (fld : Nat) (slot : Nat) : Statement (.switchComplete fld slot) := noWord rfl
theorem stldFillComplete (fld : Nat) (site : Nat) : Statement (.stldFillComplete fld site) := noWord rfl
theorem recordAtExit (fld : Nat) (row : Nat) : Statement (.recordAtExit fld row) := noWord rfl
theorem rampRelease (fld : Nat) (site : Nat) : Statement (.rampRelease fld site) := noWord rfl
theorem oadd (fld : Nat) (site : Nat) : Statement (.oadd fld site) := noWord rfl
theorem osub (fld : Nat) (site : Nat) : Statement (.osub fld site) := noWord rfl
theorem omul (fld : Nat) (site : Nat) : Statement (.omul fld site) := noWord rfl
theorem odiv (fld : Nat) (site : Nat) : Statement (.odiv fld site) := noWord rfl
theorem osqrt (fld : Nat) (site : Nat) : Statement (.osqrt fld site) := noWord rfl
theorem oexp2 (fld : Nat) (site : Nat) : Statement (.oexp2 fld site) := noWord rfl
theorem olog2 (fld : Nat) (site : Nat) : Statement (.olog2 fld site) := noWord rfl
theorem oneg (fld : Nat) (site : Nat) : Statement (.oneg fld site) := noWord rfl
theorem oabs (fld : Nat) (site : Nat) : Statement (.oabs fld site) := noWord rfl
theorem oscl (fld : Nat) (site : Nat) : Statement (.oscl fld site) := noWord rfl
theorem omax (fld : Nat) (site : Nat) : Statement (.omax fld site) := noWord rfl
theorem omin (fld : Nat) (site : Nat) : Statement (.omin fld site) := noWord rfl
theorem ocmp (fld : Nat) (site : Nat) : Statement (.ocmp fld site) := noWord rfl
theorem osgn (fld : Nat) (site : Nat) : Statement (.osgn fld site) := noWord rfl
theorem osel (fld : Nat) (site : Nat) : Statement (.osel fld site) := noWord rfl
theorem oconst (fld : Nat) (site : Nat) : Statement (.oconst fld site) := noWord rfl
theorem split (fld : Nat) (site : Nat) : Statement (.split fld site) := noWord rfl
theorem settle (fld : Nat) (site : Nat) : Statement (.settle fld site) := noWord rfl
theorem racc (fld : Nat) (site : Nat) : Statement (.racc fld site) := noWord rfl
theorem rsum (fld : Nat) (site : Nat) : Statement (.rsum fld site) := noWord rfl
theorem rmax (fld : Nat) (site : Nat) : Statement (.rmax fld site) := noWord rfl
theorem thresh (fld : Nat) (site : Nat) : Statement (.thresh fld site) := noWord rfl
theorem conf (fld : Nat) (site : Nat) : Statement (.conf fld site) := noWord rfl
theorem ofan (fld : Nat) (site : Nat) : Statement (.ofan fld site) := noWord rfl
theorem mld (fld : Nat) (site : Nat) : Statement (.mld fld site) := noWord rfl
theorem mst (fld : Nat) (site : Nat) : Statement (.mst fld site) := noWord rfl
theorem mlink (fld : Nat) (site : Nat) : Statement (.mlink fld site) := noWord rfl
theorem mring (fld : Nat) (site : Nat) : Statement (.mring fld site) := noWord rfl
theorem engp (fld : Nat) (site : Nat) : Statement (.engp fld site) := noWord rfl
theorem sqp (fld : Nat) (site : Nat) : Statement (.sqp fld site) := noWord rfl
theorem mxp (fld : Nat) (site : Nat) : Statement (.mxp fld site) := noWord rfl
theorem atp (fld : Nat) (site : Nat) : Statement (.atp fld site) := noWord rfl
theorem agaff (fld : Nat) (site : Nat) : Statement (.agaff fld site) := noWord rfl
theorem agmod (fld : Nat) (site : Nat) : Statement (.agmod fld site) := noWord rfl
theorem agidx (fld : Nat) (site : Nat) : Statement (.agidx fld site) := noWord rfl
theorem steer (fld : Nat) (site : Nat) : Statement (.steer fld site) := noWord rfl
theorem merge (fld : Nat) (site : Nat) : Statement (.merge fld site) := noWord rfl
theorem joinNode (fld : Nat) (site : Nat) : Statement (.joinNode fld site) := noWord rfl
theorem carry (fld : Nat) (site : Nat) : Statement (.carry fld site) := noWord rfl
theorem fwd (fld : Nat) (site : Nat) : Statement (.fwd fld site) := noWord rfl
theorem vcfilt (fld : Nat) (site : Nat) : Statement (.vcfilt fld site) := noWord rfl
theorem tileSwap (fld : Nat) (site : Nat) : Statement (.tileSwap fld site) := noWord rfl
theorem kill (fld : Nat) (chan : Nat) : Statement (.kill fld chan) := noWord rfl
theorem timingReplay (place : Nat) : Statement (.timingReplay place) := noWord rfl
theorem persistentTimingError (fld : Nat) (site : Nat) (stage : Nat) : Statement (.persistentTimingError fld site stage) := noWord rfl
theorem faultRecordPost (ctx : Nat) : Statement (.faultRecordPost ctx) := noWord rfl
theorem deadlockWatchdog (fld : Nat) (slot : Nat) : Statement (.deadlockWatchdog fld slot) := noWord rfl
theorem remoteTimeout (tgt fld id : Nat) : Statement (.remoteTimeout tgt fld id) := noWord rfl
theorem roundComplete (ctx : Nat) : Statement (.roundComplete ctx) := noWord rfl
theorem homeAccess (id : Nat) : Statement (.homeAccess id) := noWord rfl
theorem l1Probe (fld : Nat) (ctx : Nat) (obj : Nat) (sec : Nat) : Statement (.l1Probe fld ctx obj sec) := noWord rfl
theorem evictionWriteBack (fld : Nat) (ctx : Nat) (obj : Nat) (sec : Nat) : Statement (.evictionWriteBack fld ctx obj sec) := noWord rfl
theorem portTranslate (id : Nat) : Statement (.portTranslate id) := noWord rfl
theorem pagePin (st : Nat) : Statement (.pagePin st) := noWord rfl
theorem hbmFrameFence (mount : Nat) (frame : Nat) (bad : Bool) : Statement (.hbmFrameFence mount frame bad) := noWord rfl
theorem migrationComplete (mount : Nat) (frame : Nat) : Statement (.migrationComplete mount frame) := noWord rfl
theorem elasticInterval (fld : Nat) : Statement (.elasticInterval fld) := noWord rfl
theorem boundaryMoveComplete (fld : Nat) : Statement (.boundaryMoveComplete fld) := noWord rfl
theorem meridianSelect (die : Nat) : Statement (.meridianSelect die) := noWord rfl
theorem entryStrandStart (tno : Nat) : Statement (.entryStrandStart tno) := noWord rfl
theorem queueAgeing (die : Nat) (q : Nat) : Statement (.queueAgeing die q) := noWord rfl
theorem reservationTake (die : Nat) (q : Nat) : Statement (.reservationTake die q) := noWord rfl
theorem quantumExpiry (tno : Nat) : Statement (.quantumExpiry tno) := noWord rfl
theorem preemptionSave (tno : Nat) : Statement (.preemptionSave tno) := noWord rfl
theorem taskCompletion (tno : Nat) : Statement (.taskCompletion tno) := noWord rfl
theorem stallEscalation (tno : Nat) : Statement (.stallEscalation tno) := noWord rfl
theorem finderLimit (fld : Nat) : Statement (.finderLimit fld) := noWord rfl
theorem flitReceive (port : Nat) (seq : Nat) (crc : Bool) : Statement (.flitReceive port seq crc) := noWord rfl
theorem linkReplay (port : Nat) (seq : Nat) : Statement (.linkReplay port seq) := noWord rfl
theorem laneFence (port : Nat) : Statement (.laneFence port) := noWord rfl
theorem linkNarrowComplete (port : Nat) : Statement (.linkNarrowComplete port) := noWord rfl
theorem mqsubWrite (die : Nat) (q : Nat) (v : W64) : Statement (.mqsubWrite die q v) := noWord rfl
theorem mqcfgWrite (die : Nat) (q : Nat) (v : W64) : Statement (.mqcfgWrite die q v) := noWord rfl
theorem captgtWrite (v : W64) : Statement (.captgtWrite v) := noWord rfl
theorem nvqbWrite (n : Nat) (v : W64) : Statement (.nvqbWrite n v) := noWord rfl
theorem rrsvWrite (mount : Nat) (v : W64) : Statement (.rrsvWrite mount v) := noWord rfl
theorem hostRegisterWrite (addr : Nat) (v : W64) : Statement (.hostRegisterWrite addr v) := noWord rfl
theorem hostApertureAccess (addr : Nat) (size : Nat) (kind : Nat) (v : W64) : Statement (.hostApertureAccess addr size kind v) := noWord rfl
theorem identityRequest : Statement (.identityRequest) := noWord rfl
theorem statusRequest : Statement (.statusRequest) := noWord rfl
theorem getVersion : Statement (.getVersion) := noWord rfl
theorem getCapabilities : Statement (.getCapabilities) := noWord rfl
theorem negotiateAlgorithms : Statement (.negotiateAlgorithms) := noWord rfl
theorem getDigests : Statement (.getDigests) := noWord rfl
theorem getCertificate : Statement (.getCertificate) := noWord rfl
theorem challenge : Statement (.challenge) := noWord rfl
theorem getMeasurements : Statement (.getMeasurements) := noWord rfl
theorem deviceReset : Statement (.deviceReset) := noWord rfl
theorem firmwareVerify : Statement (.firmwareVerify) := noWord rfl
theorem hbmTraining (good : Bool) : Statement (.hbmTraining good) := noWord rfl
theorem dieLinkTraining (good : Bool) : Statement (.dieLinkTraining good) := noWord rfl
theorem packagePortTraining (up : BitVec 16) (pkg : BitVec 5) : Statement (.packagePortTraining up pkg) := noWord rfl
theorem thermalThrottle (die : Nat) : Statement (.thermalThrottle die) := noWord rfl
theorem thermalShutdown (die : Nat) : Statement (.thermalShutdown die) := noWord rfl
theorem ctxsaveComplete (tno : Nat) : Statement (.ctxsaveComplete tno) := noWord rfl

end Sys2Proof.Laws.Shape
end

