-- ==== Sys2Proof/Laws/Run.lean ====
section
/-!
SUPPORT. The shared operations of instructions: what a cause, the frame of an instruction, a guard and a privileged form
can answer, and what a step does when nothing but an instruction is open.
-/
namespace Sys2Proof.Machine

/-- A cause raised is a next state: a Finder ends, a trap is taken, or it waits for the loads (R27, R154). -/
theorem State.raise_cases (s : State) (k : TrapInfo) :
    s.raise k = .next (if s.me.finder then s.finderCount.freeMe else if s.me.ldc = 0 then s.takeTrap k
      else { s with me := { s.me with trap := some k } }) := by
  unfold State.raise
  split
  · rfl
  · split <;> rfl

theorem State.raise_next (s : State) (k : TrapInfo) : ∃ t, s.raise k = .next t := ⟨_, s.raise_cases k⟩

/-- A Finder passes over an instruction of the kind that it does not do (R154). -/
theorem run_skip {len : Nat} {o : Opnds} {body : State → Act} {s : State} (h : s.me.finder = true) :
    run .other len o body s = .next (s.retire len []) := by
  unfold run
  rw [if_pos (by simp [h])]

/-- A queue that the instruction may not name (R17). -/
theorem run_badQueue {kind : Kind} {len : Nat} {o : Opnds} {body : State → Act} {s : State} {r : RegF}
    (h : (s.me.finder && kind = .other) = false) (hb : s.badQueue o = some r) :
    run kind len o body s = s.raise (mkTrap ccQueue 0 0 r.toNat) := by
  unfold run
  rw [if_neg (by rw [h]; decide), hb]

/-- An instruction that waits for a queue changes nothing (R17, R417). -/
theorem run_queueWaits {kind : Kind} {len : Nat} {o : Opnds} {body : State → Act} {s : State}
    (h : (s.me.finder && kind = .other) = false) (hb : s.badQueue o = none) (hw : s.queueWaits o = true) :
    run kind len o body s = .next s := by
  unfold run
  rw [if_neg (by rw [h]; decide), hb]
  simp [hw]

theorem run_done {kind : Kind} {len : Nat} {o : Opnds} {body : State → Act} {s t : State}
    (h : (s.me.finder && kind = .other) = false) (hb : s.badQueue o = none) (hw : s.queueWaits o = false) (hd : body s = .done t) :
    run kind len o body s = .next (t.retire len o.reads) := by
  unfold run
  rw [if_neg (by rw [h]; decide), hb]
  simp [hw, hd]

theorem run_wait {kind : Kind} {len : Nat} {o : Opnds} {body : State → Act} {s t : State}
    (h : (s.me.finder && kind = .other) = false) (hb : s.badQueue o = none) (hw : s.queueWaits o = false) (hd : body s = .wait t) :
    run kind len o body s = .next t := by
  unfold run
  rw [if_neg (by rw [h]; decide), hb]
  simp [hw, hd]

theorem run_jump {kind : Kind} {len : Nat} {o : Opnds} {body : State → Act} {s t : State}
    (h : (s.me.finder && kind = .other) = false) (hb : s.badQueue o = none) (hw : s.queueWaits o = false) (hd : body s = .jump t) :
    run kind len o body s = .next (if t.me.finder then t.finderTick else t.popAll o.reads) := by
  unfold run
  rw [if_neg (by rw [h]; decide), hb]
  simp [hw, hd]

theorem run_raise {kind : Kind} {len : Nat} {o : Opnds} {body : State → Act} {s t : State} {k : TrapInfo}
    (h : (s.me.finder && kind = .other) = false) (hb : s.badQueue o = none) (hw : s.queueWaits o = false)
    (hd : body s = .raise k t) (hf : t.me.finder = false) : run kind len o body s = t.raise k := by
  unfold run
  rw [if_neg (by rw [h]; decide), hb]
  simp [hw, hd, hf]

/-- Whatever its body answers, an instruction has a next state. -/
theorem run_next (kind : Kind) (len : Nat) (o : Opnds) (body : State → Act) (s : State) : ∃ t, run kind len o body s = .next t := by
  unfold run
  split
  · exact ⟨_, rfl⟩
  · split
    · exact s.raise_next _
    · split
      · exact ⟨_, rfl⟩
      · split
        · exact ⟨_, rfl⟩
        · exact ⟨_, rfl⟩
        · exact ⟨_, rfl⟩
        · split
          · exact ⟨_, rfl⟩
          · exact State.raise_next _ _

/-- A long instruction with a false guard only moves on (R41). -/
theorem runL_false {w : LF} {kind : Kind} {o : Opnds} {body : State → Act} {s : State} (h : s.pred w.g = false) :
    runL w kind o body s = .next (s.retire 8 []) := by simp [runL, h]
theorem runL_true {w : LF} {kind : Kind} {o : Opnds} {body : State → Act} {s : State} (h : s.pred w.g = true) :
    runL w kind o body s = run kind 8 o body s := by simp [runL, h]
theorem runL_next (w : LF) (kind : Kind) (o : Opnds) (body : State → Act) (s : State) : ∃ t, runL w kind o body s = .next t := by
  unfold runL
  split
  · exact run_next _ _ _ _ _
  · exact ⟨_, rfl⟩

/-- In task mode a privileged instruction raises PRIV (R26). -/
theorem runPriv_task {len : Nat} {o : Opnds} {body : State → Act} {s : State} (h : s.me.mode = false) :
    runPriv len o body s = s.raise (mkTrap ccPriv 0 0 0) := by simp [runPriv, h]
theorem runPriv_handler {len : Nat} {o : Opnds} {body : State → Act} {s : State} (h : s.me.mode = true) :
    runPriv len o body s = run .other len o body s := by simp [runPriv, h]
theorem runPriv_next (len : Nat) (o : Opnds) (body : State → Act) (s : State) : ∃ t, runPriv len o body s = .next t := by
  unfold runPriv
  split
  · exact s.raise_next _
  · exact run_next _ _ _ _ _

/-- The step of an element or an engine is a next state. -/
theorem stepOf_next (s : State) (r : Option State) : ∃ t, stepOf s r = .next t := by
  unfold stepOf
  split <;> exact ⟨_, rfl⟩
theorem engStep_next (s : State) (r : Option State) : ∃ t, engStep s r = .next t := ⟨_, rfl⟩
theorem stepOf_some {s t : State} {r : Option State} (h : r = some t) : stepOf s r = .next t.syncRounds := by rw [h]; rfl
theorem engStep_some {s t : State} {r : Option State} (h : r = some t) : engStep s r = .next t := by rw [h]; rfl

/-- With nothing else open, a step is the instruction of the strand whose turn it is. -/
theorem step_of_fetch {s t : State} {i : Instr} (h0 : s.shutdown = false) (h1 : s.inputs = []) (h2 : s.ended = none)
    (h3 : s.moves = []) (h4 : s.takeTurn exec = some t) (h5 : t.fetch = .instr i) : step s = exec i t := by
  cases h : s.turns.isEmpty <;> simp [step, h0, h1, h2, h3, h4, h5, h, issueNext, State.choose, State.attempt]

/-- What the outside does comes first. -/
theorem step_of_input {s : State} {i : Instr} {r : List Instr} (h0 : s.shutdown = false) (h1 : s.inputs = i :: r) :
    step s = exec i { s with inputs := r } := by simp [step, h0, h1]

/-! ### Operand shapes whose operands hold nothing back -/

theorem alu2_next {d a b : RegF} {f : W64 → W64 → W64} {s : State} (hb : s.badQueue { reads := [a, b], writes := [d] } = none)
    (hw : s.queueWaits { reads := [a, b], writes := [d] } = false) :
    alu2 d a b f s = .next ((s.putReg d (f (s.readReg a) (s.readReg b))).retire 4 [a, b]) :=
  run_done (kind := .plain) (body := fun s => .done (s.putReg d (f (s.readReg a) (s.readReg b)))) (by simp) hb hw rfl
theorem alu1_next {d a : RegF} {f : W64 → W64} {s : State} (hb : s.badQueue { reads := [a], writes := [d] } = none)
    (hw : s.queueWaits { reads := [a], writes := [d] } = false) :
    alu1 d a f s = .next ((s.putReg d (f (s.readReg a))).retire 4 [a]) :=
  run_done (kind := .plain) (body := fun s => .done (s.putReg d (f (s.readReg a)))) (by simp) hb hw rfl
theorem cmp2_next {p : PredF} {a b : RegF} {f : W64 → W64 → Bool} {s : State} (hb : s.badQueue { reads := [a, b] } = none)
    (hw : s.queueWaits { reads := [a, b] } = false) :
    cmp2 p a b f s = .next ((s.setPred p (f (s.readReg a) (s.readReg b))).retire 4 [a, b]) :=
  run_done (kind := .plain) (body := fun s => .done (s.setPred p (f (s.readReg a) (s.readReg b)))) (by simp) hb hw rfl
theorem predOp_next (p : PredF) (f : State → Bool) (s : State) : predOp p f s = .next ((s.setPred p (f s)).retire 4 []) :=
  run_done (kind := .plain) (o := {}) (body := fun s => .done (s.setPred p (f s))) (by simp) rfl rfl rfl

end Sys2Proof.Machine
end

