-- ==== Sys2Proof/Laws/State.lean ====
section
/-!
SUPPORT. What each named update of the state leaves: one lemma per field.
-/
namespace Sys2Proof.Machine

@[simp] theorem State.setSreg_others (s : State) (r : RegF) (v : W64) : (s.setSreg r v).others = s.others := by unfold State.setSreg; split <;> rfl
@[simp] theorem State.setSreg_left (s : State) (r : RegF) (v : W64) : (s.setSreg r v).left = s.left := by unfold State.setSreg; split <;> rfl
@[simp] theorem State.setSreg_inputs (s : State) (r : RegF) (v : W64) : (s.setSreg r v).inputs = s.inputs := by unfold State.setSreg; split <;> rfl
@[simp] theorem State.setSreg_turn (s : State) (r : RegF) (v : W64) : (s.setSreg r v).turn = s.turn := by unfold State.setSreg; split <;> rfl
@[simp] theorem State.setSreg_free (s : State) (r : RegF) (v : W64) : (s.setSreg r v).free = s.free := by unfold State.setSreg; split <;> rfl
@[simp] theorem State.setSreg_ids (s : State) (r : RegF) (v : W64) : (s.setSreg r v).ids = s.ids := by unfold State.setSreg; split <;> rfl
@[simp] theorem State.setSreg_mem (s : State) (r : RegF) (v : W64) : (s.setSreg r v).mem = s.mem := by unfold State.setSreg; split <;> rfl
@[simp] theorem State.setSreg_tags (s : State) (r : RegF) (v : W64) : (s.setSreg r v).tags = s.tags := by unfold State.setSreg; split <;> rfl
@[simp] theorem State.setSreg_poison (s : State) (r : RegF) (v : W64) : (s.setSreg r v).poison = s.poison := by unfold State.setSreg; split <;> rfl
@[simp] theorem State.setSreg_race (s : State) (r : RegF) (v : W64) : (s.setSreg r v).race = s.race := by unfold State.setSreg; split <;> rfl
@[simp] theorem State.setSreg_rels (s : State) (r : RegF) (v : W64) : (s.setSreg r v).rels = s.rels := by unfold State.setSreg; split <;> rfl
@[simp] theorem State.setSreg_l1 (s : State) (r : RegF) (v : W64) : (s.setSreg r v).l1 = s.l1 := by unfold State.setSreg; split <;> rfl
@[simp] theorem State.setSreg_flights (s : State) (r : RegF) (v : W64) : (s.setSreg r v).flights = s.flights := by unfold State.setSreg; split <;> rfl
@[simp] theorem State.setSreg_ctxs (s : State) (r : RegF) (v : W64) : (s.setSreg r v).ctxs = s.ctxs := by unfold State.setSreg; split <;> rfl
@[simp] theorem State.setSreg_bars (s : State) (r : RegF) (v : W64) : (s.setSreg r v).bars = s.bars := by unfold State.setSreg; split <;> rfl
@[simp] theorem State.setSreg_arms (s : State) (r : RegF) (v : W64) : (s.setSreg r v).arms = s.arms := by unfold State.setSreg; split <;> rfl
@[simp] theorem State.setSreg_fields (s : State) (r : RegF) (v : W64) : (s.setSreg r v).fields = s.fields := by unfold State.setSreg; split <;> rfl
@[simp] theorem State.setSreg_slots (s : State) (r : RegF) (v : W64) : (s.setSreg r v).slots = s.slots := by unfold State.setSreg; split <;> rfl
@[simp] theorem State.setSreg_chans (s : State) (r : RegF) (v : W64) : (s.setSreg r v).chans = s.chans := by unfold State.setSreg; split <;> rfl
@[simp] theorem State.setSreg_fills (s : State) (r : RegF) (v : W64) : (s.setSreg r v).fills = s.fills := by unfold State.setSreg; split <;> rfl
@[simp] theorem State.setSreg_mqs (s : State) (r : RegF) (v : W64) : (s.setSreg r v).mqs = s.mqs := by unfold State.setSreg; split <;> rfl
@[simp] theorem State.setSreg_lastQ (s : State) (r : RegF) (v : W64) : (s.setSreg r v).lastQ = s.lastQ := by unfold State.setSreg; split <;> rfl
@[simp] theorem State.setSreg_tasks (s : State) (r : RegF) (v : W64) : (s.setSreg r v).tasks = s.tasks := by unfold State.setSreg; split <;> rfl
@[simp] theorem State.setSreg_saved (s : State) (r : RegF) (v : W64) : (s.setSreg r v).saved = s.saved := by unfold State.setSreg; split <;> rfl
@[simp] theorem State.setSreg_streams (s : State) (r : RegF) (v : W64) : (s.setSreg r v).streams = s.streams := by unfold State.setSreg; split <;> rfl
@[simp] theorem State.setSreg_follows (s : State) (r : RegF) (v : W64) : (s.setSreg r v).follows = s.follows := by unfold State.setSreg; split <;> rfl
@[simp] theorem State.setSreg_backfills (s : State) (r : RegF) (v : W64) : (s.setSreg r v).backfills = s.backfills := by unfold State.setSreg; split <;> rfl
@[simp] theorem State.setSreg_nvcmds (s : State) (r : RegF) (v : W64) : (s.setSreg r v).nvcmds = s.nvcmds := by unfold State.setSreg; split <;> rfl
@[simp] theorem State.setSreg_nvcomps (s : State) (r : RegF) (v : W64) : (s.setSreg r v).nvcomps = s.nvcomps := by unfold State.setSreg; split <;> rfl
@[simp] theorem State.setSreg_nvqs (s : State) (r : RegF) (v : W64) : (s.setSreg r v).nvqs = s.nvqs := by unfold State.setSreg; split <;> rfl
@[simp] theorem State.setSreg_colls (s : State) (r : RegF) (v : W64) : (s.setSreg r v).colls = s.colls := by unfold State.setSreg; split <;> rfl
@[simp] theorem State.setSreg_posts (s : State) (r : RegF) (v : W64) : (s.setSreg r v).posts = s.posts := by unfold State.setSreg; split <;> rfl
@[simp] theorem State.setSreg_ports (s : State) (r : RegF) (v : W64) : (s.setSreg r v).ports = s.ports := by unfold State.setSreg; split <;> rfl
@[simp] theorem State.setSreg_corrected (s : State) (r : RegF) (v : W64) : (s.setSreg r v).corrected = s.corrected := by unfold State.setSreg; split <;> rfl
@[simp] theorem State.setSreg_frameErrs (s : State) (r : RegF) (v : W64) : (s.setSreg r v).frameErrs = s.frameErrs := by unfold State.setSreg; split <;> rfl
@[simp] theorem State.setSreg_migs (s : State) (r : RegF) (v : W64) : (s.setSreg r v).migs = s.migs := by unfold State.setSreg; split <;> rfl
@[simp] theorem State.setSreg_replies (s : State) (r : RegF) (v : W64) : (s.setSreg r v).replies = s.replies := by unfold State.setSreg; split <;> rfl
@[simp] theorem State.setSreg_links (s : State) (r : RegF) (v : W64) : (s.setSreg r v).links = s.links := by unfold State.setSreg; split <;> rfl
@[simp] theorem State.setSreg_host (s : State) (r : RegF) (v : W64) : (s.setSreg r v).host = s.host := by unfold State.setSreg; split <;> rfl
@[simp] theorem State.setSreg_mgmt (s : State) (r : RegF) (v : W64) : (s.setSreg r v).mgmt = s.mgmt := by unfold State.setSreg; split <;> rfl
@[simp] theorem State.setSreg_clockStep (s : State) (r : RegF) (v : W64) : (s.setSreg r v).clockStep = s.clockStep := by unfold State.setSreg; split <;> rfl
@[simp] theorem State.setSreg_shutdown (s : State) (r : RegF) (v : W64) : (s.setSreg r v).shutdown = s.shutdown := by unfold State.setSreg; split <;> rfl

@[simp] theorem State.setPred_others (s : State) (p : PredF) (v : Bool) : (s.setPred p v).others = s.others := by unfold State.setPred; split <;> rfl
@[simp] theorem State.setPred_left (s : State) (p : PredF) (v : Bool) : (s.setPred p v).left = s.left := by unfold State.setPred; split <;> rfl
@[simp] theorem State.setPred_inputs (s : State) (p : PredF) (v : Bool) : (s.setPred p v).inputs = s.inputs := by unfold State.setPred; split <;> rfl
@[simp] theorem State.setPred_turn (s : State) (p : PredF) (v : Bool) : (s.setPred p v).turn = s.turn := by unfold State.setPred; split <;> rfl
@[simp] theorem State.setPred_free (s : State) (p : PredF) (v : Bool) : (s.setPred p v).free = s.free := by unfold State.setPred; split <;> rfl
@[simp] theorem State.setPred_ids (s : State) (p : PredF) (v : Bool) : (s.setPred p v).ids = s.ids := by unfold State.setPred; split <;> rfl
@[simp] theorem State.setPred_mem (s : State) (p : PredF) (v : Bool) : (s.setPred p v).mem = s.mem := by unfold State.setPred; split <;> rfl
@[simp] theorem State.setPred_tags (s : State) (p : PredF) (v : Bool) : (s.setPred p v).tags = s.tags := by unfold State.setPred; split <;> rfl
@[simp] theorem State.setPred_poison (s : State) (p : PredF) (v : Bool) : (s.setPred p v).poison = s.poison := by unfold State.setPred; split <;> rfl
@[simp] theorem State.setPred_race (s : State) (p : PredF) (v : Bool) : (s.setPred p v).race = s.race := by unfold State.setPred; split <;> rfl
@[simp] theorem State.setPred_rels (s : State) (p : PredF) (v : Bool) : (s.setPred p v).rels = s.rels := by unfold State.setPred; split <;> rfl
@[simp] theorem State.setPred_l1 (s : State) (p : PredF) (v : Bool) : (s.setPred p v).l1 = s.l1 := by unfold State.setPred; split <;> rfl
@[simp] theorem State.setPred_flights (s : State) (p : PredF) (v : Bool) : (s.setPred p v).flights = s.flights := by unfold State.setPred; split <;> rfl
@[simp] theorem State.setPred_ctxs (s : State) (p : PredF) (v : Bool) : (s.setPred p v).ctxs = s.ctxs := by unfold State.setPred; split <;> rfl
@[simp] theorem State.setPred_bars (s : State) (p : PredF) (v : Bool) : (s.setPred p v).bars = s.bars := by unfold State.setPred; split <;> rfl
@[simp] theorem State.setPred_arms (s : State) (p : PredF) (v : Bool) : (s.setPred p v).arms = s.arms := by unfold State.setPred; split <;> rfl
@[simp] theorem State.setPred_fields (s : State) (p : PredF) (v : Bool) : (s.setPred p v).fields = s.fields := by unfold State.setPred; split <;> rfl
@[simp] theorem State.setPred_slots (s : State) (p : PredF) (v : Bool) : (s.setPred p v).slots = s.slots := by unfold State.setPred; split <;> rfl
@[simp] theorem State.setPred_chans (s : State) (p : PredF) (v : Bool) : (s.setPred p v).chans = s.chans := by unfold State.setPred; split <;> rfl
@[simp] theorem State.setPred_fills (s : State) (p : PredF) (v : Bool) : (s.setPred p v).fills = s.fills := by unfold State.setPred; split <;> rfl
@[simp] theorem State.setPred_mqs (s : State) (p : PredF) (v : Bool) : (s.setPred p v).mqs = s.mqs := by unfold State.setPred; split <;> rfl
@[simp] theorem State.setPred_lastQ (s : State) (p : PredF) (v : Bool) : (s.setPred p v).lastQ = s.lastQ := by unfold State.setPred; split <;> rfl
@[simp] theorem State.setPred_tasks (s : State) (p : PredF) (v : Bool) : (s.setPred p v).tasks = s.tasks := by unfold State.setPred; split <;> rfl
@[simp] theorem State.setPred_saved (s : State) (p : PredF) (v : Bool) : (s.setPred p v).saved = s.saved := by unfold State.setPred; split <;> rfl
@[simp] theorem State.setPred_streams (s : State) (p : PredF) (v : Bool) : (s.setPred p v).streams = s.streams := by unfold State.setPred; split <;> rfl
@[simp] theorem State.setPred_follows (s : State) (p : PredF) (v : Bool) : (s.setPred p v).follows = s.follows := by unfold State.setPred; split <;> rfl
@[simp] theorem State.setPred_backfills (s : State) (p : PredF) (v : Bool) : (s.setPred p v).backfills = s.backfills := by unfold State.setPred; split <;> rfl
@[simp] theorem State.setPred_nvcmds (s : State) (p : PredF) (v : Bool) : (s.setPred p v).nvcmds = s.nvcmds := by unfold State.setPred; split <;> rfl
@[simp] theorem State.setPred_nvcomps (s : State) (p : PredF) (v : Bool) : (s.setPred p v).nvcomps = s.nvcomps := by unfold State.setPred; split <;> rfl
@[simp] theorem State.setPred_nvqs (s : State) (p : PredF) (v : Bool) : (s.setPred p v).nvqs = s.nvqs := by unfold State.setPred; split <;> rfl
@[simp] theorem State.setPred_colls (s : State) (p : PredF) (v : Bool) : (s.setPred p v).colls = s.colls := by unfold State.setPred; split <;> rfl
@[simp] theorem State.setPred_posts (s : State) (p : PredF) (v : Bool) : (s.setPred p v).posts = s.posts := by unfold State.setPred; split <;> rfl
@[simp] theorem State.setPred_ports (s : State) (p : PredF) (v : Bool) : (s.setPred p v).ports = s.ports := by unfold State.setPred; split <;> rfl
@[simp] theorem State.setPred_corrected (s : State) (p : PredF) (v : Bool) : (s.setPred p v).corrected = s.corrected := by unfold State.setPred; split <;> rfl
@[simp] theorem State.setPred_frameErrs (s : State) (p : PredF) (v : Bool) : (s.setPred p v).frameErrs = s.frameErrs := by unfold State.setPred; split <;> rfl
@[simp] theorem State.setPred_migs (s : State) (p : PredF) (v : Bool) : (s.setPred p v).migs = s.migs := by unfold State.setPred; split <;> rfl
@[simp] theorem State.setPred_replies (s : State) (p : PredF) (v : Bool) : (s.setPred p v).replies = s.replies := by unfold State.setPred; split <;> rfl
@[simp] theorem State.setPred_links (s : State) (p : PredF) (v : Bool) : (s.setPred p v).links = s.links := by unfold State.setPred; split <;> rfl
@[simp] theorem State.setPred_host (s : State) (p : PredF) (v : Bool) : (s.setPred p v).host = s.host := by unfold State.setPred; split <;> rfl
@[simp] theorem State.setPred_mgmt (s : State) (p : PredF) (v : Bool) : (s.setPred p v).mgmt = s.mgmt := by unfold State.setPred; split <;> rfl
@[simp] theorem State.setPred_clockStep (s : State) (p : PredF) (v : Bool) : (s.setPred p v).clockStep = s.clockStep := by unfold State.setPred; split <;> rfl
@[simp] theorem State.setPred_shutdown (s : State) (p : PredF) (v : Bool) : (s.setPred p v).shutdown = s.shutdown := by unfold State.setPred; split <;> rfl

@[simp] theorem State.setCreg_others (s : State) (c : CapF) (v : Cap) : (s.setCreg c v).others = s.others := by unfold State.setCreg; split <;> rfl
@[simp] theorem State.setCreg_left (s : State) (c : CapF) (v : Cap) : (s.setCreg c v).left = s.left := by unfold State.setCreg; split <;> rfl
@[simp] theorem State.setCreg_inputs (s : State) (c : CapF) (v : Cap) : (s.setCreg c v).inputs = s.inputs := by unfold State.setCreg; split <;> rfl
@[simp] theorem State.setCreg_turn (s : State) (c : CapF) (v : Cap) : (s.setCreg c v).turn = s.turn := by unfold State.setCreg; split <;> rfl
@[simp] theorem State.setCreg_free (s : State) (c : CapF) (v : Cap) : (s.setCreg c v).free = s.free := by unfold State.setCreg; split <;> rfl
@[simp] theorem State.setCreg_ids (s : State) (c : CapF) (v : Cap) : (s.setCreg c v).ids = s.ids := by unfold State.setCreg; split <;> rfl
@[simp] theorem State.setCreg_mem (s : State) (c : CapF) (v : Cap) : (s.setCreg c v).mem = s.mem := by unfold State.setCreg; split <;> rfl
@[simp] theorem State.setCreg_tags (s : State) (c : CapF) (v : Cap) : (s.setCreg c v).tags = s.tags := by unfold State.setCreg; split <;> rfl
@[simp] theorem State.setCreg_poison (s : State) (c : CapF) (v : Cap) : (s.setCreg c v).poison = s.poison := by unfold State.setCreg; split <;> rfl
@[simp] theorem State.setCreg_race (s : State) (c : CapF) (v : Cap) : (s.setCreg c v).race = s.race := by unfold State.setCreg; split <;> rfl
@[simp] theorem State.setCreg_rels (s : State) (c : CapF) (v : Cap) : (s.setCreg c v).rels = s.rels := by unfold State.setCreg; split <;> rfl
@[simp] theorem State.setCreg_l1 (s : State) (c : CapF) (v : Cap) : (s.setCreg c v).l1 = s.l1 := by unfold State.setCreg; split <;> rfl
@[simp] theorem State.setCreg_flights (s : State) (c : CapF) (v : Cap) : (s.setCreg c v).flights = s.flights := by unfold State.setCreg; split <;> rfl
@[simp] theorem State.setCreg_ctxs (s : State) (c : CapF) (v : Cap) : (s.setCreg c v).ctxs = s.ctxs := by unfold State.setCreg; split <;> rfl
@[simp] theorem State.setCreg_bars (s : State) (c : CapF) (v : Cap) : (s.setCreg c v).bars = s.bars := by unfold State.setCreg; split <;> rfl
@[simp] theorem State.setCreg_arms (s : State) (c : CapF) (v : Cap) : (s.setCreg c v).arms = s.arms := by unfold State.setCreg; split <;> rfl
@[simp] theorem State.setCreg_fields (s : State) (c : CapF) (v : Cap) : (s.setCreg c v).fields = s.fields := by unfold State.setCreg; split <;> rfl
@[simp] theorem State.setCreg_slots (s : State) (c : CapF) (v : Cap) : (s.setCreg c v).slots = s.slots := by unfold State.setCreg; split <;> rfl
@[simp] theorem State.setCreg_chans (s : State) (c : CapF) (v : Cap) : (s.setCreg c v).chans = s.chans := by unfold State.setCreg; split <;> rfl
@[simp] theorem State.setCreg_fills (s : State) (c : CapF) (v : Cap) : (s.setCreg c v).fills = s.fills := by unfold State.setCreg; split <;> rfl
@[simp] theorem State.setCreg_mqs (s : State) (c : CapF) (v : Cap) : (s.setCreg c v).mqs = s.mqs := by unfold State.setCreg; split <;> rfl
@[simp] theorem State.setCreg_lastQ (s : State) (c : CapF) (v : Cap) : (s.setCreg c v).lastQ = s.lastQ := by unfold State.setCreg; split <;> rfl
@[simp] theorem State.setCreg_tasks (s : State) (c : CapF) (v : Cap) : (s.setCreg c v).tasks = s.tasks := by unfold State.setCreg; split <;> rfl
@[simp] theorem State.setCreg_saved (s : State) (c : CapF) (v : Cap) : (s.setCreg c v).saved = s.saved := by unfold State.setCreg; split <;> rfl
@[simp] theorem State.setCreg_streams (s : State) (c : CapF) (v : Cap) : (s.setCreg c v).streams = s.streams := by unfold State.setCreg; split <;> rfl
@[simp] theorem State.setCreg_follows (s : State) (c : CapF) (v : Cap) : (s.setCreg c v).follows = s.follows := by unfold State.setCreg; split <;> rfl
@[simp] theorem State.setCreg_backfills (s : State) (c : CapF) (v : Cap) : (s.setCreg c v).backfills = s.backfills := by unfold State.setCreg; split <;> rfl
@[simp] theorem State.setCreg_nvcmds (s : State) (c : CapF) (v : Cap) : (s.setCreg c v).nvcmds = s.nvcmds := by unfold State.setCreg; split <;> rfl
@[simp] theorem State.setCreg_nvcomps (s : State) (c : CapF) (v : Cap) : (s.setCreg c v).nvcomps = s.nvcomps := by unfold State.setCreg; split <;> rfl
@[simp] theorem State.setCreg_nvqs (s : State) (c : CapF) (v : Cap) : (s.setCreg c v).nvqs = s.nvqs := by unfold State.setCreg; split <;> rfl
@[simp] theorem State.setCreg_colls (s : State) (c : CapF) (v : Cap) : (s.setCreg c v).colls = s.colls := by unfold State.setCreg; split <;> rfl
@[simp] theorem State.setCreg_posts (s : State) (c : CapF) (v : Cap) : (s.setCreg c v).posts = s.posts := by unfold State.setCreg; split <;> rfl
@[simp] theorem State.setCreg_ports (s : State) (c : CapF) (v : Cap) : (s.setCreg c v).ports = s.ports := by unfold State.setCreg; split <;> rfl
@[simp] theorem State.setCreg_corrected (s : State) (c : CapF) (v : Cap) : (s.setCreg c v).corrected = s.corrected := by unfold State.setCreg; split <;> rfl
@[simp] theorem State.setCreg_frameErrs (s : State) (c : CapF) (v : Cap) : (s.setCreg c v).frameErrs = s.frameErrs := by unfold State.setCreg; split <;> rfl
@[simp] theorem State.setCreg_migs (s : State) (c : CapF) (v : Cap) : (s.setCreg c v).migs = s.migs := by unfold State.setCreg; split <;> rfl
@[simp] theorem State.setCreg_replies (s : State) (c : CapF) (v : Cap) : (s.setCreg c v).replies = s.replies := by unfold State.setCreg; split <;> rfl
@[simp] theorem State.setCreg_links (s : State) (c : CapF) (v : Cap) : (s.setCreg c v).links = s.links := by unfold State.setCreg; split <;> rfl
@[simp] theorem State.setCreg_host (s : State) (c : CapF) (v : Cap) : (s.setCreg c v).host = s.host := by unfold State.setCreg; split <;> rfl
@[simp] theorem State.setCreg_mgmt (s : State) (c : CapF) (v : Cap) : (s.setCreg c v).mgmt = s.mgmt := by unfold State.setCreg; split <;> rfl
@[simp] theorem State.setCreg_clockStep (s : State) (c : CapF) (v : Cap) : (s.setCreg c v).clockStep = s.clockStep := by unfold State.setCreg; split <;> rfl
@[simp] theorem State.setCreg_shutdown (s : State) (c : CapF) (v : Cap) : (s.setCreg c v).shutdown = s.shutdown := by unfold State.setCreg; split <;> rfl

@[simp] theorem State.advance_others (s : State) (n : Nat) : (s.advance n).others = s.others := rfl
@[simp] theorem State.advance_left (s : State) (n : Nat) : (s.advance n).left = s.left := rfl
@[simp] theorem State.advance_inputs (s : State) (n : Nat) : (s.advance n).inputs = s.inputs := rfl
@[simp] theorem State.advance_turn (s : State) (n : Nat) : (s.advance n).turn = s.turn := rfl
@[simp] theorem State.advance_free (s : State) (n : Nat) : (s.advance n).free = s.free := rfl
@[simp] theorem State.advance_ids (s : State) (n : Nat) : (s.advance n).ids = s.ids := rfl
@[simp] theorem State.advance_mem (s : State) (n : Nat) : (s.advance n).mem = s.mem := rfl
@[simp] theorem State.advance_tags (s : State) (n : Nat) : (s.advance n).tags = s.tags := rfl
@[simp] theorem State.advance_poison (s : State) (n : Nat) : (s.advance n).poison = s.poison := rfl
@[simp] theorem State.advance_race (s : State) (n : Nat) : (s.advance n).race = s.race := rfl
@[simp] theorem State.advance_rels (s : State) (n : Nat) : (s.advance n).rels = s.rels := rfl
@[simp] theorem State.advance_l1 (s : State) (n : Nat) : (s.advance n).l1 = s.l1 := rfl
@[simp] theorem State.advance_flights (s : State) (n : Nat) : (s.advance n).flights = s.flights := rfl
@[simp] theorem State.advance_ctxs (s : State) (n : Nat) : (s.advance n).ctxs = s.ctxs := rfl
@[simp] theorem State.advance_bars (s : State) (n : Nat) : (s.advance n).bars = s.bars := rfl
@[simp] theorem State.advance_arms (s : State) (n : Nat) : (s.advance n).arms = s.arms := rfl
@[simp] theorem State.advance_fields (s : State) (n : Nat) : (s.advance n).fields = s.fields := rfl
@[simp] theorem State.advance_slots (s : State) (n : Nat) : (s.advance n).slots = s.slots := rfl
@[simp] theorem State.advance_chans (s : State) (n : Nat) : (s.advance n).chans = s.chans := rfl
@[simp] theorem State.advance_fills (s : State) (n : Nat) : (s.advance n).fills = s.fills := rfl
@[simp] theorem State.advance_mqs (s : State) (n : Nat) : (s.advance n).mqs = s.mqs := rfl
@[simp] theorem State.advance_lastQ (s : State) (n : Nat) : (s.advance n).lastQ = s.lastQ := rfl
@[simp] theorem State.advance_tasks (s : State) (n : Nat) : (s.advance n).tasks = s.tasks := rfl
@[simp] theorem State.advance_saved (s : State) (n : Nat) : (s.advance n).saved = s.saved := rfl
@[simp] theorem State.advance_streams (s : State) (n : Nat) : (s.advance n).streams = s.streams := rfl
@[simp] theorem State.advance_follows (s : State) (n : Nat) : (s.advance n).follows = s.follows := rfl
@[simp] theorem State.advance_backfills (s : State) (n : Nat) : (s.advance n).backfills = s.backfills := rfl
@[simp] theorem State.advance_nvcmds (s : State) (n : Nat) : (s.advance n).nvcmds = s.nvcmds := rfl
@[simp] theorem State.advance_nvcomps (s : State) (n : Nat) : (s.advance n).nvcomps = s.nvcomps := rfl
@[simp] theorem State.advance_nvqs (s : State) (n : Nat) : (s.advance n).nvqs = s.nvqs := rfl
@[simp] theorem State.advance_colls (s : State) (n : Nat) : (s.advance n).colls = s.colls := rfl
@[simp] theorem State.advance_posts (s : State) (n : Nat) : (s.advance n).posts = s.posts := rfl
@[simp] theorem State.advance_ports (s : State) (n : Nat) : (s.advance n).ports = s.ports := rfl
@[simp] theorem State.advance_corrected (s : State) (n : Nat) : (s.advance n).corrected = s.corrected := rfl
@[simp] theorem State.advance_frameErrs (s : State) (n : Nat) : (s.advance n).frameErrs = s.frameErrs := rfl
@[simp] theorem State.advance_migs (s : State) (n : Nat) : (s.advance n).migs = s.migs := rfl
@[simp] theorem State.advance_replies (s : State) (n : Nat) : (s.advance n).replies = s.replies := rfl
@[simp] theorem State.advance_links (s : State) (n : Nat) : (s.advance n).links = s.links := rfl
@[simp] theorem State.advance_host (s : State) (n : Nat) : (s.advance n).host = s.host := rfl
@[simp] theorem State.advance_mgmt (s : State) (n : Nat) : (s.advance n).mgmt = s.mgmt := rfl
@[simp] theorem State.advance_clockStep (s : State) (n : Nat) : (s.advance n).clockStep = s.clockStep := rfl
@[simp] theorem State.advance_shutdown (s : State) (n : Nat) : (s.advance n).shutdown = s.shutdown := rfl

@[simp] theorem State.jump_others (s : State) (c : Cap) : (s.jump c).others = s.others := rfl
@[simp] theorem State.jump_left (s : State) (c : Cap) : (s.jump c).left = s.left := rfl
@[simp] theorem State.jump_inputs (s : State) (c : Cap) : (s.jump c).inputs = s.inputs := rfl
@[simp] theorem State.jump_turn (s : State) (c : Cap) : (s.jump c).turn = s.turn := rfl
@[simp] theorem State.jump_free (s : State) (c : Cap) : (s.jump c).free = s.free := rfl
@[simp] theorem State.jump_ids (s : State) (c : Cap) : (s.jump c).ids = s.ids := rfl
@[simp] theorem State.jump_mem (s : State) (c : Cap) : (s.jump c).mem = s.mem := rfl
@[simp] theorem State.jump_tags (s : State) (c : Cap) : (s.jump c).tags = s.tags := rfl
@[simp] theorem State.jump_poison (s : State) (c : Cap) : (s.jump c).poison = s.poison := rfl
@[simp] theorem State.jump_race (s : State) (c : Cap) : (s.jump c).race = s.race := rfl
@[simp] theorem State.jump_rels (s : State) (c : Cap) : (s.jump c).rels = s.rels := rfl
@[simp] theorem State.jump_l1 (s : State) (c : Cap) : (s.jump c).l1 = s.l1 := rfl
@[simp] theorem State.jump_flights (s : State) (c : Cap) : (s.jump c).flights = s.flights := rfl
@[simp] theorem State.jump_ctxs (s : State) (c : Cap) : (s.jump c).ctxs = s.ctxs := rfl
@[simp] theorem State.jump_bars (s : State) (c : Cap) : (s.jump c).bars = s.bars := rfl
@[simp] theorem State.jump_arms (s : State) (c : Cap) : (s.jump c).arms = s.arms := rfl
@[simp] theorem State.jump_fields (s : State) (c : Cap) : (s.jump c).fields = s.fields := rfl
@[simp] theorem State.jump_slots (s : State) (c : Cap) : (s.jump c).slots = s.slots := rfl
@[simp] theorem State.jump_chans (s : State) (c : Cap) : (s.jump c).chans = s.chans := rfl
@[simp] theorem State.jump_fills (s : State) (c : Cap) : (s.jump c).fills = s.fills := rfl
@[simp] theorem State.jump_mqs (s : State) (c : Cap) : (s.jump c).mqs = s.mqs := rfl
@[simp] theorem State.jump_lastQ (s : State) (c : Cap) : (s.jump c).lastQ = s.lastQ := rfl
@[simp] theorem State.jump_tasks (s : State) (c : Cap) : (s.jump c).tasks = s.tasks := rfl
@[simp] theorem State.jump_saved (s : State) (c : Cap) : (s.jump c).saved = s.saved := rfl
@[simp] theorem State.jump_streams (s : State) (c : Cap) : (s.jump c).streams = s.streams := rfl
@[simp] theorem State.jump_follows (s : State) (c : Cap) : (s.jump c).follows = s.follows := rfl
@[simp] theorem State.jump_backfills (s : State) (c : Cap) : (s.jump c).backfills = s.backfills := rfl
@[simp] theorem State.jump_nvcmds (s : State) (c : Cap) : (s.jump c).nvcmds = s.nvcmds := rfl
@[simp] theorem State.jump_nvcomps (s : State) (c : Cap) : (s.jump c).nvcomps = s.nvcomps := rfl
@[simp] theorem State.jump_nvqs (s : State) (c : Cap) : (s.jump c).nvqs = s.nvqs := rfl
@[simp] theorem State.jump_colls (s : State) (c : Cap) : (s.jump c).colls = s.colls := rfl
@[simp] theorem State.jump_posts (s : State) (c : Cap) : (s.jump c).posts = s.posts := rfl
@[simp] theorem State.jump_ports (s : State) (c : Cap) : (s.jump c).ports = s.ports := rfl
@[simp] theorem State.jump_corrected (s : State) (c : Cap) : (s.jump c).corrected = s.corrected := rfl
@[simp] theorem State.jump_frameErrs (s : State) (c : Cap) : (s.jump c).frameErrs = s.frameErrs := rfl
@[simp] theorem State.jump_migs (s : State) (c : Cap) : (s.jump c).migs = s.migs := rfl
@[simp] theorem State.jump_replies (s : State) (c : Cap) : (s.jump c).replies = s.replies := rfl
@[simp] theorem State.jump_links (s : State) (c : Cap) : (s.jump c).links = s.links := rfl
@[simp] theorem State.jump_host (s : State) (c : Cap) : (s.jump c).host = s.host := rfl
@[simp] theorem State.jump_mgmt (s : State) (c : Cap) : (s.jump c).mgmt = s.mgmt := rfl
@[simp] theorem State.jump_clockStep (s : State) (c : Cap) : (s.jump c).clockStep = s.clockStep := rfl
@[simp] theorem State.jump_shutdown (s : State) (c : Cap) : (s.jump c).shutdown = s.shutdown := rfl

@[simp] theorem State.eret_others (s : State) : (s.eret).others = s.others := rfl
@[simp] theorem State.eret_left (s : State) : (s.eret).left = s.left := rfl
@[simp] theorem State.eret_inputs (s : State) : (s.eret).inputs = s.inputs := rfl
@[simp] theorem State.eret_turn (s : State) : (s.eret).turn = s.turn := rfl
@[simp] theorem State.eret_free (s : State) : (s.eret).free = s.free := rfl
@[simp] theorem State.eret_ids (s : State) : (s.eret).ids = s.ids := rfl
@[simp] theorem State.eret_mem (s : State) : (s.eret).mem = s.mem := rfl
@[simp] theorem State.eret_tags (s : State) : (s.eret).tags = s.tags := rfl
@[simp] theorem State.eret_poison (s : State) : (s.eret).poison = s.poison := rfl
@[simp] theorem State.eret_race (s : State) : (s.eret).race = s.race := rfl
@[simp] theorem State.eret_rels (s : State) : (s.eret).rels = s.rels := rfl
@[simp] theorem State.eret_l1 (s : State) : (s.eret).l1 = s.l1 := rfl
@[simp] theorem State.eret_flights (s : State) : (s.eret).flights = s.flights := rfl
@[simp] theorem State.eret_ctxs (s : State) : (s.eret).ctxs = s.ctxs := rfl
@[simp] theorem State.eret_bars (s : State) : (s.eret).bars = s.bars := rfl
@[simp] theorem State.eret_arms (s : State) : (s.eret).arms = s.arms := rfl
@[simp] theorem State.eret_fields (s : State) : (s.eret).fields = s.fields := rfl
@[simp] theorem State.eret_slots (s : State) : (s.eret).slots = s.slots := rfl
@[simp] theorem State.eret_chans (s : State) : (s.eret).chans = s.chans := rfl
@[simp] theorem State.eret_fills (s : State) : (s.eret).fills = s.fills := rfl
@[simp] theorem State.eret_mqs (s : State) : (s.eret).mqs = s.mqs := rfl
@[simp] theorem State.eret_lastQ (s : State) : (s.eret).lastQ = s.lastQ := rfl
@[simp] theorem State.eret_tasks (s : State) : (s.eret).tasks = s.tasks := rfl
@[simp] theorem State.eret_saved (s : State) : (s.eret).saved = s.saved := rfl
@[simp] theorem State.eret_streams (s : State) : (s.eret).streams = s.streams := rfl
@[simp] theorem State.eret_follows (s : State) : (s.eret).follows = s.follows := rfl
@[simp] theorem State.eret_backfills (s : State) : (s.eret).backfills = s.backfills := rfl
@[simp] theorem State.eret_nvcmds (s : State) : (s.eret).nvcmds = s.nvcmds := rfl
@[simp] theorem State.eret_nvcomps (s : State) : (s.eret).nvcomps = s.nvcomps := rfl
@[simp] theorem State.eret_nvqs (s : State) : (s.eret).nvqs = s.nvqs := rfl
@[simp] theorem State.eret_colls (s : State) : (s.eret).colls = s.colls := rfl
@[simp] theorem State.eret_posts (s : State) : (s.eret).posts = s.posts := rfl
@[simp] theorem State.eret_ports (s : State) : (s.eret).ports = s.ports := rfl
@[simp] theorem State.eret_corrected (s : State) : (s.eret).corrected = s.corrected := rfl
@[simp] theorem State.eret_frameErrs (s : State) : (s.eret).frameErrs = s.frameErrs := rfl
@[simp] theorem State.eret_migs (s : State) : (s.eret).migs = s.migs := rfl
@[simp] theorem State.eret_replies (s : State) : (s.eret).replies = s.replies := rfl
@[simp] theorem State.eret_links (s : State) : (s.eret).links = s.links := rfl
@[simp] theorem State.eret_host (s : State) : (s.eret).host = s.host := rfl
@[simp] theorem State.eret_mgmt (s : State) : (s.eret).mgmt = s.mgmt := rfl
@[simp] theorem State.eret_clockStep (s : State) : (s.eret).clockStep = s.clockStep := rfl
@[simp] theorem State.eret_shutdown (s : State) : (s.eret).shutdown = s.shutdown := rfl

@[simp] theorem State.setCtx_me (s : State) (c : Ctx) : (s.setCtx c).me = s.me := rfl
@[simp] theorem State.setCtx_others (s : State) (c : Ctx) : (s.setCtx c).others = s.others := rfl
@[simp] theorem State.setCtx_left (s : State) (c : Ctx) : (s.setCtx c).left = s.left := rfl
@[simp] theorem State.setCtx_inputs (s : State) (c : Ctx) : (s.setCtx c).inputs = s.inputs := rfl
@[simp] theorem State.setCtx_turn (s : State) (c : Ctx) : (s.setCtx c).turn = s.turn := rfl
@[simp] theorem State.setCtx_free (s : State) (c : Ctx) : (s.setCtx c).free = s.free := rfl
@[simp] theorem State.setCtx_ids (s : State) (c : Ctx) : (s.setCtx c).ids = s.ids := rfl
@[simp] theorem State.setCtx_mem (s : State) (c : Ctx) : (s.setCtx c).mem = s.mem := rfl
@[simp] theorem State.setCtx_tags (s : State) (c : Ctx) : (s.setCtx c).tags = s.tags := rfl
@[simp] theorem State.setCtx_poison (s : State) (c : Ctx) : (s.setCtx c).poison = s.poison := rfl
@[simp] theorem State.setCtx_race (s : State) (c : Ctx) : (s.setCtx c).race = s.race := rfl
@[simp] theorem State.setCtx_rels (s : State) (c : Ctx) : (s.setCtx c).rels = s.rels := rfl
@[simp] theorem State.setCtx_l1 (s : State) (c : Ctx) : (s.setCtx c).l1 = s.l1 := rfl
@[simp] theorem State.setCtx_flights (s : State) (c : Ctx) : (s.setCtx c).flights = s.flights := rfl
@[simp] theorem State.setCtx_bars (s : State) (c : Ctx) : (s.setCtx c).bars = s.bars := rfl
@[simp] theorem State.setCtx_arms (s : State) (c : Ctx) : (s.setCtx c).arms = s.arms := rfl
@[simp] theorem State.setCtx_fields (s : State) (c : Ctx) : (s.setCtx c).fields = s.fields := rfl
@[simp] theorem State.setCtx_slots (s : State) (c : Ctx) : (s.setCtx c).slots = s.slots := rfl
@[simp] theorem State.setCtx_chans (s : State) (c : Ctx) : (s.setCtx c).chans = s.chans := rfl
@[simp] theorem State.setCtx_fills (s : State) (c : Ctx) : (s.setCtx c).fills = s.fills := rfl
@[simp] theorem State.setCtx_mqs (s : State) (c : Ctx) : (s.setCtx c).mqs = s.mqs := rfl
@[simp] theorem State.setCtx_lastQ (s : State) (c : Ctx) : (s.setCtx c).lastQ = s.lastQ := rfl
@[simp] theorem State.setCtx_tasks (s : State) (c : Ctx) : (s.setCtx c).tasks = s.tasks := rfl
@[simp] theorem State.setCtx_saved (s : State) (c : Ctx) : (s.setCtx c).saved = s.saved := rfl
@[simp] theorem State.setCtx_streams (s : State) (c : Ctx) : (s.setCtx c).streams = s.streams := rfl
@[simp] theorem State.setCtx_follows (s : State) (c : Ctx) : (s.setCtx c).follows = s.follows := rfl
@[simp] theorem State.setCtx_backfills (s : State) (c : Ctx) : (s.setCtx c).backfills = s.backfills := rfl
@[simp] theorem State.setCtx_nvcmds (s : State) (c : Ctx) : (s.setCtx c).nvcmds = s.nvcmds := rfl
@[simp] theorem State.setCtx_nvcomps (s : State) (c : Ctx) : (s.setCtx c).nvcomps = s.nvcomps := rfl
@[simp] theorem State.setCtx_nvqs (s : State) (c : Ctx) : (s.setCtx c).nvqs = s.nvqs := rfl
@[simp] theorem State.setCtx_colls (s : State) (c : Ctx) : (s.setCtx c).colls = s.colls := rfl
@[simp] theorem State.setCtx_posts (s : State) (c : Ctx) : (s.setCtx c).posts = s.posts := rfl
@[simp] theorem State.setCtx_ports (s : State) (c : Ctx) : (s.setCtx c).ports = s.ports := rfl
@[simp] theorem State.setCtx_corrected (s : State) (c : Ctx) : (s.setCtx c).corrected = s.corrected := rfl
@[simp] theorem State.setCtx_frameErrs (s : State) (c : Ctx) : (s.setCtx c).frameErrs = s.frameErrs := rfl
@[simp] theorem State.setCtx_migs (s : State) (c : Ctx) : (s.setCtx c).migs = s.migs := rfl
@[simp] theorem State.setCtx_replies (s : State) (c : Ctx) : (s.setCtx c).replies = s.replies := rfl
@[simp] theorem State.setCtx_links (s : State) (c : Ctx) : (s.setCtx c).links = s.links := rfl
@[simp] theorem State.setCtx_host (s : State) (c : Ctx) : (s.setCtx c).host = s.host := rfl
@[simp] theorem State.setCtx_mgmt (s : State) (c : Ctx) : (s.setCtx c).mgmt = s.mgmt := rfl
@[simp] theorem State.setCtx_clockStep (s : State) (c : Ctx) : (s.setCtx c).clockStep = s.clockStep := rfl
@[simp] theorem State.setCtx_shutdown (s : State) (c : Ctx) : (s.setCtx c).shutdown = s.shutdown := rfl

@[simp] theorem State.setField_me (s : State) (f : Field) : (s.setField f).me = s.me := rfl
@[simp] theorem State.setField_others (s : State) (f : Field) : (s.setField f).others = s.others := rfl
@[simp] theorem State.setField_left (s : State) (f : Field) : (s.setField f).left = s.left := rfl
@[simp] theorem State.setField_inputs (s : State) (f : Field) : (s.setField f).inputs = s.inputs := rfl
@[simp] theorem State.setField_turn (s : State) (f : Field) : (s.setField f).turn = s.turn := rfl
@[simp] theorem State.setField_free (s : State) (f : Field) : (s.setField f).free = s.free := rfl
@[simp] theorem State.setField_ids (s : State) (f : Field) : (s.setField f).ids = s.ids := rfl
@[simp] theorem State.setField_mem (s : State) (f : Field) : (s.setField f).mem = s.mem := rfl
@[simp] theorem State.setField_tags (s : State) (f : Field) : (s.setField f).tags = s.tags := rfl
@[simp] theorem State.setField_poison (s : State) (f : Field) : (s.setField f).poison = s.poison := rfl
@[simp] theorem State.setField_race (s : State) (f : Field) : (s.setField f).race = s.race := rfl
@[simp] theorem State.setField_rels (s : State) (f : Field) : (s.setField f).rels = s.rels := rfl
@[simp] theorem State.setField_l1 (s : State) (f : Field) : (s.setField f).l1 = s.l1 := rfl
@[simp] theorem State.setField_flights (s : State) (f : Field) : (s.setField f).flights = s.flights := rfl
@[simp] theorem State.setField_ctxs (s : State) (f : Field) : (s.setField f).ctxs = s.ctxs := rfl
@[simp] theorem State.setField_bars (s : State) (f : Field) : (s.setField f).bars = s.bars := rfl
@[simp] theorem State.setField_arms (s : State) (f : Field) : (s.setField f).arms = s.arms := rfl
@[simp] theorem State.setField_slots (s : State) (f : Field) : (s.setField f).slots = s.slots := rfl
@[simp] theorem State.setField_chans (s : State) (f : Field) : (s.setField f).chans = s.chans := rfl
@[simp] theorem State.setField_fills (s : State) (f : Field) : (s.setField f).fills = s.fills := rfl
@[simp] theorem State.setField_mqs (s : State) (f : Field) : (s.setField f).mqs = s.mqs := rfl
@[simp] theorem State.setField_lastQ (s : State) (f : Field) : (s.setField f).lastQ = s.lastQ := rfl
@[simp] theorem State.setField_tasks (s : State) (f : Field) : (s.setField f).tasks = s.tasks := rfl
@[simp] theorem State.setField_saved (s : State) (f : Field) : (s.setField f).saved = s.saved := rfl
@[simp] theorem State.setField_streams (s : State) (f : Field) : (s.setField f).streams = s.streams := rfl
@[simp] theorem State.setField_follows (s : State) (f : Field) : (s.setField f).follows = s.follows := rfl
@[simp] theorem State.setField_backfills (s : State) (f : Field) : (s.setField f).backfills = s.backfills := rfl
@[simp] theorem State.setField_nvcmds (s : State) (f : Field) : (s.setField f).nvcmds = s.nvcmds := rfl
@[simp] theorem State.setField_nvcomps (s : State) (f : Field) : (s.setField f).nvcomps = s.nvcomps := rfl
@[simp] theorem State.setField_nvqs (s : State) (f : Field) : (s.setField f).nvqs = s.nvqs := rfl
@[simp] theorem State.setField_colls (s : State) (f : Field) : (s.setField f).colls = s.colls := rfl
@[simp] theorem State.setField_posts (s : State) (f : Field) : (s.setField f).posts = s.posts := rfl
@[simp] theorem State.setField_ports (s : State) (f : Field) : (s.setField f).ports = s.ports := rfl
@[simp] theorem State.setField_corrected (s : State) (f : Field) : (s.setField f).corrected = s.corrected := rfl
@[simp] theorem State.setField_frameErrs (s : State) (f : Field) : (s.setField f).frameErrs = s.frameErrs := rfl
@[simp] theorem State.setField_migs (s : State) (f : Field) : (s.setField f).migs = s.migs := rfl
@[simp] theorem State.setField_replies (s : State) (f : Field) : (s.setField f).replies = s.replies := rfl
@[simp] theorem State.setField_links (s : State) (f : Field) : (s.setField f).links = s.links := rfl
@[simp] theorem State.setField_host (s : State) (f : Field) : (s.setField f).host = s.host := rfl
@[simp] theorem State.setField_mgmt (s : State) (f : Field) : (s.setField f).mgmt = s.mgmt := rfl
@[simp] theorem State.setField_clockStep (s : State) (f : Field) : (s.setField f).clockStep = s.clockStep := rfl
@[simp] theorem State.setField_shutdown (s : State) (f : Field) : (s.setField f).shutdown = s.shutdown := rfl

@[simp] theorem State.setSlot_me (s : State) (e : Slot) : (s.setSlot e).me = s.me := rfl
@[simp] theorem State.setSlot_others (s : State) (e : Slot) : (s.setSlot e).others = s.others := rfl
@[simp] theorem State.setSlot_left (s : State) (e : Slot) : (s.setSlot e).left = s.left := rfl
@[simp] theorem State.setSlot_inputs (s : State) (e : Slot) : (s.setSlot e).inputs = s.inputs := rfl
@[simp] theorem State.setSlot_turn (s : State) (e : Slot) : (s.setSlot e).turn = s.turn := rfl
@[simp] theorem State.setSlot_free (s : State) (e : Slot) : (s.setSlot e).free = s.free := rfl
@[simp] theorem State.setSlot_ids (s : State) (e : Slot) : (s.setSlot e).ids = s.ids := rfl
@[simp] theorem State.setSlot_mem (s : State) (e : Slot) : (s.setSlot e).mem = s.mem := rfl
@[simp] theorem State.setSlot_tags (s : State) (e : Slot) : (s.setSlot e).tags = s.tags := rfl
@[simp] theorem State.setSlot_poison (s : State) (e : Slot) : (s.setSlot e).poison = s.poison := rfl
@[simp] theorem State.setSlot_race (s : State) (e : Slot) : (s.setSlot e).race = s.race := rfl
@[simp] theorem State.setSlot_rels (s : State) (e : Slot) : (s.setSlot e).rels = s.rels := rfl
@[simp] theorem State.setSlot_l1 (s : State) (e : Slot) : (s.setSlot e).l1 = s.l1 := rfl
@[simp] theorem State.setSlot_flights (s : State) (e : Slot) : (s.setSlot e).flights = s.flights := rfl
@[simp] theorem State.setSlot_ctxs (s : State) (e : Slot) : (s.setSlot e).ctxs = s.ctxs := rfl
@[simp] theorem State.setSlot_bars (s : State) (e : Slot) : (s.setSlot e).bars = s.bars := rfl
@[simp] theorem State.setSlot_arms (s : State) (e : Slot) : (s.setSlot e).arms = s.arms := rfl
@[simp] theorem State.setSlot_fields (s : State) (e : Slot) : (s.setSlot e).fields = s.fields := rfl
@[simp] theorem State.setSlot_chans (s : State) (e : Slot) : (s.setSlot e).chans = s.chans := rfl
@[simp] theorem State.setSlot_fills (s : State) (e : Slot) : (s.setSlot e).fills = s.fills := rfl
@[simp] theorem State.setSlot_mqs (s : State) (e : Slot) : (s.setSlot e).mqs = s.mqs := rfl
@[simp] theorem State.setSlot_lastQ (s : State) (e : Slot) : (s.setSlot e).lastQ = s.lastQ := rfl
@[simp] theorem State.setSlot_tasks (s : State) (e : Slot) : (s.setSlot e).tasks = s.tasks := rfl
@[simp] theorem State.setSlot_saved (s : State) (e : Slot) : (s.setSlot e).saved = s.saved := rfl
@[simp] theorem State.setSlot_streams (s : State) (e : Slot) : (s.setSlot e).streams = s.streams := rfl
@[simp] theorem State.setSlot_follows (s : State) (e : Slot) : (s.setSlot e).follows = s.follows := rfl
@[simp] theorem State.setSlot_backfills (s : State) (e : Slot) : (s.setSlot e).backfills = s.backfills := rfl
@[simp] theorem State.setSlot_nvcmds (s : State) (e : Slot) : (s.setSlot e).nvcmds = s.nvcmds := rfl
@[simp] theorem State.setSlot_nvcomps (s : State) (e : Slot) : (s.setSlot e).nvcomps = s.nvcomps := rfl
@[simp] theorem State.setSlot_nvqs (s : State) (e : Slot) : (s.setSlot e).nvqs = s.nvqs := rfl
@[simp] theorem State.setSlot_colls (s : State) (e : Slot) : (s.setSlot e).colls = s.colls := rfl
@[simp] theorem State.setSlot_posts (s : State) (e : Slot) : (s.setSlot e).posts = s.posts := rfl
@[simp] theorem State.setSlot_ports (s : State) (e : Slot) : (s.setSlot e).ports = s.ports := rfl
@[simp] theorem State.setSlot_corrected (s : State) (e : Slot) : (s.setSlot e).corrected = s.corrected := rfl
@[simp] theorem State.setSlot_frameErrs (s : State) (e : Slot) : (s.setSlot e).frameErrs = s.frameErrs := rfl
@[simp] theorem State.setSlot_migs (s : State) (e : Slot) : (s.setSlot e).migs = s.migs := rfl
@[simp] theorem State.setSlot_replies (s : State) (e : Slot) : (s.setSlot e).replies = s.replies := rfl
@[simp] theorem State.setSlot_links (s : State) (e : Slot) : (s.setSlot e).links = s.links := rfl
@[simp] theorem State.setSlot_host (s : State) (e : Slot) : (s.setSlot e).host = s.host := rfl
@[simp] theorem State.setSlot_mgmt (s : State) (e : Slot) : (s.setSlot e).mgmt = s.mgmt := rfl
@[simp] theorem State.setSlot_clockStep (s : State) (e : Slot) : (s.setSlot e).clockStep = s.clockStep := rfl
@[simp] theorem State.setSlot_shutdown (s : State) (e : Slot) : (s.setSlot e).shutdown = s.shutdown := rfl

@[simp] theorem State.setTask_me (s : State) (k : Task) : (s.setTask k).me = s.me := rfl
@[simp] theorem State.setTask_others (s : State) (k : Task) : (s.setTask k).others = s.others := rfl
@[simp] theorem State.setTask_left (s : State) (k : Task) : (s.setTask k).left = s.left := rfl
@[simp] theorem State.setTask_inputs (s : State) (k : Task) : (s.setTask k).inputs = s.inputs := rfl
@[simp] theorem State.setTask_turn (s : State) (k : Task) : (s.setTask k).turn = s.turn := rfl
@[simp] theorem State.setTask_free (s : State) (k : Task) : (s.setTask k).free = s.free := rfl
@[simp] theorem State.setTask_ids (s : State) (k : Task) : (s.setTask k).ids = s.ids := rfl
@[simp] theorem State.setTask_mem (s : State) (k : Task) : (s.setTask k).mem = s.mem := rfl
@[simp] theorem State.setTask_tags (s : State) (k : Task) : (s.setTask k).tags = s.tags := rfl
@[simp] theorem State.setTask_poison (s : State) (k : Task) : (s.setTask k).poison = s.poison := rfl
@[simp] theorem State.setTask_race (s : State) (k : Task) : (s.setTask k).race = s.race := rfl
@[simp] theorem State.setTask_rels (s : State) (k : Task) : (s.setTask k).rels = s.rels := rfl
@[simp] theorem State.setTask_l1 (s : State) (k : Task) : (s.setTask k).l1 = s.l1 := rfl
@[simp] theorem State.setTask_flights (s : State) (k : Task) : (s.setTask k).flights = s.flights := rfl
@[simp] theorem State.setTask_ctxs (s : State) (k : Task) : (s.setTask k).ctxs = s.ctxs := rfl
@[simp] theorem State.setTask_bars (s : State) (k : Task) : (s.setTask k).bars = s.bars := rfl
@[simp] theorem State.setTask_arms (s : State) (k : Task) : (s.setTask k).arms = s.arms := rfl
@[simp] theorem State.setTask_fields (s : State) (k : Task) : (s.setTask k).fields = s.fields := rfl
@[simp] theorem State.setTask_slots (s : State) (k : Task) : (s.setTask k).slots = s.slots := rfl
@[simp] theorem State.setTask_chans (s : State) (k : Task) : (s.setTask k).chans = s.chans := rfl
@[simp] theorem State.setTask_fills (s : State) (k : Task) : (s.setTask k).fills = s.fills := rfl
@[simp] theorem State.setTask_mqs (s : State) (k : Task) : (s.setTask k).mqs = s.mqs := rfl
@[simp] theorem State.setTask_lastQ (s : State) (k : Task) : (s.setTask k).lastQ = s.lastQ := rfl
@[simp] theorem State.setTask_saved (s : State) (k : Task) : (s.setTask k).saved = s.saved := rfl
@[simp] theorem State.setTask_streams (s : State) (k : Task) : (s.setTask k).streams = s.streams := rfl
@[simp] theorem State.setTask_follows (s : State) (k : Task) : (s.setTask k).follows = s.follows := rfl
@[simp] theorem State.setTask_backfills (s : State) (k : Task) : (s.setTask k).backfills = s.backfills := rfl
@[simp] theorem State.setTask_nvcmds (s : State) (k : Task) : (s.setTask k).nvcmds = s.nvcmds := rfl
@[simp] theorem State.setTask_nvcomps (s : State) (k : Task) : (s.setTask k).nvcomps = s.nvcomps := rfl
@[simp] theorem State.setTask_nvqs (s : State) (k : Task) : (s.setTask k).nvqs = s.nvqs := rfl
@[simp] theorem State.setTask_colls (s : State) (k : Task) : (s.setTask k).colls = s.colls := rfl
@[simp] theorem State.setTask_posts (s : State) (k : Task) : (s.setTask k).posts = s.posts := rfl
@[simp] theorem State.setTask_ports (s : State) (k : Task) : (s.setTask k).ports = s.ports := rfl
@[simp] theorem State.setTask_corrected (s : State) (k : Task) : (s.setTask k).corrected = s.corrected := rfl
@[simp] theorem State.setTask_frameErrs (s : State) (k : Task) : (s.setTask k).frameErrs = s.frameErrs := rfl
@[simp] theorem State.setTask_migs (s : State) (k : Task) : (s.setTask k).migs = s.migs := rfl
@[simp] theorem State.setTask_replies (s : State) (k : Task) : (s.setTask k).replies = s.replies := rfl
@[simp] theorem State.setTask_links (s : State) (k : Task) : (s.setTask k).links = s.links := rfl
@[simp] theorem State.setTask_host (s : State) (k : Task) : (s.setTask k).host = s.host := rfl
@[simp] theorem State.setTask_mgmt (s : State) (k : Task) : (s.setTask k).mgmt = s.mgmt := rfl
@[simp] theorem State.setTask_clockStep (s : State) (k : Task) : (s.setTask k).clockStep = s.clockStep := rfl
@[simp] theorem State.setTask_shutdown (s : State) (k : Task) : (s.setTask k).shutdown = s.shutdown := rfl

@[simp] theorem State.setMQ_me (s : State) (m : MQ) : (s.setMQ m).me = s.me := rfl
@[simp] theorem State.setMQ_others (s : State) (m : MQ) : (s.setMQ m).others = s.others := rfl
@[simp] theorem State.setMQ_left (s : State) (m : MQ) : (s.setMQ m).left = s.left := rfl
@[simp] theorem State.setMQ_inputs (s : State) (m : MQ) : (s.setMQ m).inputs = s.inputs := rfl
@[simp] theorem State.setMQ_turn (s : State) (m : MQ) : (s.setMQ m).turn = s.turn := rfl
@[simp] theorem State.setMQ_free (s : State) (m : MQ) : (s.setMQ m).free = s.free := rfl
@[simp] theorem State.setMQ_ids (s : State) (m : MQ) : (s.setMQ m).ids = s.ids := rfl
@[simp] theorem State.setMQ_mem (s : State) (m : MQ) : (s.setMQ m).mem = s.mem := rfl
@[simp] theorem State.setMQ_tags (s : State) (m : MQ) : (s.setMQ m).tags = s.tags := rfl
@[simp] theorem State.setMQ_poison (s : State) (m : MQ) : (s.setMQ m).poison = s.poison := rfl
@[simp] theorem State.setMQ_race (s : State) (m : MQ) : (s.setMQ m).race = s.race := rfl
@[simp] theorem State.setMQ_rels (s : State) (m : MQ) : (s.setMQ m).rels = s.rels := rfl
@[simp] theorem State.setMQ_l1 (s : State) (m : MQ) : (s.setMQ m).l1 = s.l1 := rfl
@[simp] theorem State.setMQ_flights (s : State) (m : MQ) : (s.setMQ m).flights = s.flights := rfl
@[simp] theorem State.setMQ_ctxs (s : State) (m : MQ) : (s.setMQ m).ctxs = s.ctxs := rfl
@[simp] theorem State.setMQ_bars (s : State) (m : MQ) : (s.setMQ m).bars = s.bars := rfl
@[simp] theorem State.setMQ_arms (s : State) (m : MQ) : (s.setMQ m).arms = s.arms := rfl
@[simp] theorem State.setMQ_fields (s : State) (m : MQ) : (s.setMQ m).fields = s.fields := rfl
@[simp] theorem State.setMQ_slots (s : State) (m : MQ) : (s.setMQ m).slots = s.slots := rfl
@[simp] theorem State.setMQ_chans (s : State) (m : MQ) : (s.setMQ m).chans = s.chans := rfl
@[simp] theorem State.setMQ_fills (s : State) (m : MQ) : (s.setMQ m).fills = s.fills := rfl
@[simp] theorem State.setMQ_lastQ (s : State) (m : MQ) : (s.setMQ m).lastQ = s.lastQ := rfl
@[simp] theorem State.setMQ_tasks (s : State) (m : MQ) : (s.setMQ m).tasks = s.tasks := rfl
@[simp] theorem State.setMQ_saved (s : State) (m : MQ) : (s.setMQ m).saved = s.saved := rfl
@[simp] theorem State.setMQ_streams (s : State) (m : MQ) : (s.setMQ m).streams = s.streams := rfl
@[simp] theorem State.setMQ_follows (s : State) (m : MQ) : (s.setMQ m).follows = s.follows := rfl
@[simp] theorem State.setMQ_backfills (s : State) (m : MQ) : (s.setMQ m).backfills = s.backfills := rfl
@[simp] theorem State.setMQ_nvcmds (s : State) (m : MQ) : (s.setMQ m).nvcmds = s.nvcmds := rfl
@[simp] theorem State.setMQ_nvcomps (s : State) (m : MQ) : (s.setMQ m).nvcomps = s.nvcomps := rfl
@[simp] theorem State.setMQ_nvqs (s : State) (m : MQ) : (s.setMQ m).nvqs = s.nvqs := rfl
@[simp] theorem State.setMQ_colls (s : State) (m : MQ) : (s.setMQ m).colls = s.colls := rfl
@[simp] theorem State.setMQ_posts (s : State) (m : MQ) : (s.setMQ m).posts = s.posts := rfl
@[simp] theorem State.setMQ_ports (s : State) (m : MQ) : (s.setMQ m).ports = s.ports := rfl
@[simp] theorem State.setMQ_corrected (s : State) (m : MQ) : (s.setMQ m).corrected = s.corrected := rfl
@[simp] theorem State.setMQ_frameErrs (s : State) (m : MQ) : (s.setMQ m).frameErrs = s.frameErrs := rfl
@[simp] theorem State.setMQ_migs (s : State) (m : MQ) : (s.setMQ m).migs = s.migs := rfl
@[simp] theorem State.setMQ_replies (s : State) (m : MQ) : (s.setMQ m).replies = s.replies := rfl
@[simp] theorem State.setMQ_links (s : State) (m : MQ) : (s.setMQ m).links = s.links := rfl
@[simp] theorem State.setMQ_host (s : State) (m : MQ) : (s.setMQ m).host = s.host := rfl
@[simp] theorem State.setMQ_mgmt (s : State) (m : MQ) : (s.setMQ m).mgmt = s.mgmt := rfl
@[simp] theorem State.setMQ_clockStep (s : State) (m : MQ) : (s.setMQ m).clockStep = s.clockStep := rfl
@[simp] theorem State.setMQ_shutdown (s : State) (m : MQ) : (s.setMQ m).shutdown = s.shutdown := rfl

@[simp] theorem State.setRace_me (s : State) (r : Race) : (s.setRace r).me = s.me := rfl
@[simp] theorem State.setRace_others (s : State) (r : Race) : (s.setRace r).others = s.others := rfl
@[simp] theorem State.setRace_left (s : State) (r : Race) : (s.setRace r).left = s.left := rfl
@[simp] theorem State.setRace_inputs (s : State) (r : Race) : (s.setRace r).inputs = s.inputs := rfl
@[simp] theorem State.setRace_turn (s : State) (r : Race) : (s.setRace r).turn = s.turn := rfl
@[simp] theorem State.setRace_free (s : State) (r : Race) : (s.setRace r).free = s.free := rfl
@[simp] theorem State.setRace_ids (s : State) (r : Race) : (s.setRace r).ids = s.ids := rfl
@[simp] theorem State.setRace_mem (s : State) (r : Race) : (s.setRace r).mem = s.mem := rfl
@[simp] theorem State.setRace_tags (s : State) (r : Race) : (s.setRace r).tags = s.tags := rfl
@[simp] theorem State.setRace_poison (s : State) (r : Race) : (s.setRace r).poison = s.poison := rfl
@[simp] theorem State.setRace_rels (s : State) (r : Race) : (s.setRace r).rels = s.rels := rfl
@[simp] theorem State.setRace_l1 (s : State) (r : Race) : (s.setRace r).l1 = s.l1 := rfl
@[simp] theorem State.setRace_flights (s : State) (r : Race) : (s.setRace r).flights = s.flights := rfl
@[simp] theorem State.setRace_ctxs (s : State) (r : Race) : (s.setRace r).ctxs = s.ctxs := rfl
@[simp] theorem State.setRace_bars (s : State) (r : Race) : (s.setRace r).bars = s.bars := rfl
@[simp] theorem State.setRace_arms (s : State) (r : Race) : (s.setRace r).arms = s.arms := rfl
@[simp] theorem State.setRace_fields (s : State) (r : Race) : (s.setRace r).fields = s.fields := rfl
@[simp] theorem State.setRace_slots (s : State) (r : Race) : (s.setRace r).slots = s.slots := rfl
@[simp] theorem State.setRace_chans (s : State) (r : Race) : (s.setRace r).chans = s.chans := rfl
@[simp] theorem State.setRace_fills (s : State) (r : Race) : (s.setRace r).fills = s.fills := rfl
@[simp] theorem State.setRace_mqs (s : State) (r : Race) : (s.setRace r).mqs = s.mqs := rfl
@[simp] theorem State.setRace_lastQ (s : State) (r : Race) : (s.setRace r).lastQ = s.lastQ := rfl
@[simp] theorem State.setRace_tasks (s : State) (r : Race) : (s.setRace r).tasks = s.tasks := rfl
@[simp] theorem State.setRace_saved (s : State) (r : Race) : (s.setRace r).saved = s.saved := rfl
@[simp] theorem State.setRace_streams (s : State) (r : Race) : (s.setRace r).streams = s.streams := rfl
@[simp] theorem State.setRace_follows (s : State) (r : Race) : (s.setRace r).follows = s.follows := rfl
@[simp] theorem State.setRace_backfills (s : State) (r : Race) : (s.setRace r).backfills = s.backfills := rfl
@[simp] theorem State.setRace_nvcmds (s : State) (r : Race) : (s.setRace r).nvcmds = s.nvcmds := rfl
@[simp] theorem State.setRace_nvcomps (s : State) (r : Race) : (s.setRace r).nvcomps = s.nvcomps := rfl
@[simp] theorem State.setRace_nvqs (s : State) (r : Race) : (s.setRace r).nvqs = s.nvqs := rfl
@[simp] theorem State.setRace_colls (s : State) (r : Race) : (s.setRace r).colls = s.colls := rfl
@[simp] theorem State.setRace_posts (s : State) (r : Race) : (s.setRace r).posts = s.posts := rfl
@[simp] theorem State.setRace_ports (s : State) (r : Race) : (s.setRace r).ports = s.ports := rfl
@[simp] theorem State.setRace_corrected (s : State) (r : Race) : (s.setRace r).corrected = s.corrected := rfl
@[simp] theorem State.setRace_frameErrs (s : State) (r : Race) : (s.setRace r).frameErrs = s.frameErrs := rfl
@[simp] theorem State.setRace_migs (s : State) (r : Race) : (s.setRace r).migs = s.migs := rfl
@[simp] theorem State.setRace_replies (s : State) (r : Race) : (s.setRace r).replies = s.replies := rfl
@[simp] theorem State.setRace_links (s : State) (r : Race) : (s.setRace r).links = s.links := rfl
@[simp] theorem State.setRace_host (s : State) (r : Race) : (s.setRace r).host = s.host := rfl
@[simp] theorem State.setRace_mgmt (s : State) (r : Race) : (s.setRace r).mgmt = s.mgmt := rfl
@[simp] theorem State.setRace_clockStep (s : State) (r : Race) : (s.setRace r).clockStep = s.clockStep := rfl
@[simp] theorem State.setRace_shutdown (s : State) (r : Race) : (s.setRace r).shutdown = s.shutdown := rfl

@[simp] theorem State.post_me (s : State) (r : Record) : (s.post r).me = s.me := rfl
@[simp] theorem State.post_others (s : State) (r : Record) : (s.post r).others = s.others := rfl
@[simp] theorem State.post_left (s : State) (r : Record) : (s.post r).left = s.left := rfl
@[simp] theorem State.post_inputs (s : State) (r : Record) : (s.post r).inputs = s.inputs := rfl
@[simp] theorem State.post_turn (s : State) (r : Record) : (s.post r).turn = s.turn := rfl
@[simp] theorem State.post_free (s : State) (r : Record) : (s.post r).free = s.free := rfl
@[simp] theorem State.post_ids (s : State) (r : Record) : (s.post r).ids = s.ids := rfl
@[simp] theorem State.post_mem (s : State) (r : Record) : (s.post r).mem = s.mem := rfl
@[simp] theorem State.post_tags (s : State) (r : Record) : (s.post r).tags = s.tags := rfl
@[simp] theorem State.post_poison (s : State) (r : Record) : (s.post r).poison = s.poison := rfl
@[simp] theorem State.post_race (s : State) (r : Record) : (s.post r).race = s.race := rfl
@[simp] theorem State.post_rels (s : State) (r : Record) : (s.post r).rels = s.rels := rfl
@[simp] theorem State.post_l1 (s : State) (r : Record) : (s.post r).l1 = s.l1 := rfl
@[simp] theorem State.post_flights (s : State) (r : Record) : (s.post r).flights = s.flights := rfl
@[simp] theorem State.post_ctxs (s : State) (r : Record) : (s.post r).ctxs = s.ctxs := rfl
@[simp] theorem State.post_bars (s : State) (r : Record) : (s.post r).bars = s.bars := rfl
@[simp] theorem State.post_arms (s : State) (r : Record) : (s.post r).arms = s.arms := rfl
@[simp] theorem State.post_fields (s : State) (r : Record) : (s.post r).fields = s.fields := rfl
@[simp] theorem State.post_slots (s : State) (r : Record) : (s.post r).slots = s.slots := rfl
@[simp] theorem State.post_chans (s : State) (r : Record) : (s.post r).chans = s.chans := rfl
@[simp] theorem State.post_fills (s : State) (r : Record) : (s.post r).fills = s.fills := rfl
@[simp] theorem State.post_mqs (s : State) (r : Record) : (s.post r).mqs = s.mqs := rfl
@[simp] theorem State.post_lastQ (s : State) (r : Record) : (s.post r).lastQ = s.lastQ := rfl
@[simp] theorem State.post_tasks (s : State) (r : Record) : (s.post r).tasks = s.tasks := rfl
@[simp] theorem State.post_saved (s : State) (r : Record) : (s.post r).saved = s.saved := rfl
@[simp] theorem State.post_streams (s : State) (r : Record) : (s.post r).streams = s.streams := rfl
@[simp] theorem State.post_follows (s : State) (r : Record) : (s.post r).follows = s.follows := rfl
@[simp] theorem State.post_backfills (s : State) (r : Record) : (s.post r).backfills = s.backfills := rfl
@[simp] theorem State.post_nvcmds (s : State) (r : Record) : (s.post r).nvcmds = s.nvcmds := rfl
@[simp] theorem State.post_nvcomps (s : State) (r : Record) : (s.post r).nvcomps = s.nvcomps := rfl
@[simp] theorem State.post_nvqs (s : State) (r : Record) : (s.post r).nvqs = s.nvqs := rfl
@[simp] theorem State.post_colls (s : State) (r : Record) : (s.post r).colls = s.colls := rfl
@[simp] theorem State.post_ports (s : State) (r : Record) : (s.post r).ports = s.ports := rfl
@[simp] theorem State.post_corrected (s : State) (r : Record) : (s.post r).corrected = s.corrected := rfl
@[simp] theorem State.post_frameErrs (s : State) (r : Record) : (s.post r).frameErrs = s.frameErrs := rfl
@[simp] theorem State.post_migs (s : State) (r : Record) : (s.post r).migs = s.migs := rfl
@[simp] theorem State.post_replies (s : State) (r : Record) : (s.post r).replies = s.replies := rfl
@[simp] theorem State.post_links (s : State) (r : Record) : (s.post r).links = s.links := rfl
@[simp] theorem State.post_host (s : State) (r : Record) : (s.post r).host = s.host := rfl
@[simp] theorem State.post_mgmt (s : State) (r : Record) : (s.post r).mgmt = s.mgmt := rfl
@[simp] theorem State.post_clockStep (s : State) (r : Record) : (s.post r).clockStep = s.clockStep := rfl
@[simp] theorem State.post_shutdown (s : State) (r : Record) : (s.post r).shutdown = s.shutdown := rfl

@[simp] theorem State.message_me (s : State) (c : Nat) (b : BitVec 256) : (s.message c b).me = s.me := rfl
@[simp] theorem State.message_others (s : State) (c : Nat) (b : BitVec 256) : (s.message c b).others = s.others := rfl
@[simp] theorem State.message_left (s : State) (c : Nat) (b : BitVec 256) : (s.message c b).left = s.left := rfl
@[simp] theorem State.message_inputs (s : State) (c : Nat) (b : BitVec 256) : (s.message c b).inputs = s.inputs := rfl
@[simp] theorem State.message_turn (s : State) (c : Nat) (b : BitVec 256) : (s.message c b).turn = s.turn := rfl
@[simp] theorem State.message_free (s : State) (c : Nat) (b : BitVec 256) : (s.message c b).free = s.free := rfl
@[simp] theorem State.message_ids (s : State) (c : Nat) (b : BitVec 256) : (s.message c b).ids = s.ids := rfl
@[simp] theorem State.message_mem (s : State) (c : Nat) (b : BitVec 256) : (s.message c b).mem = s.mem := rfl
@[simp] theorem State.message_tags (s : State) (c : Nat) (b : BitVec 256) : (s.message c b).tags = s.tags := rfl
@[simp] theorem State.message_poison (s : State) (c : Nat) (b : BitVec 256) : (s.message c b).poison = s.poison := rfl
@[simp] theorem State.message_race (s : State) (c : Nat) (b : BitVec 256) : (s.message c b).race = s.race := rfl
@[simp] theorem State.message_rels (s : State) (c : Nat) (b : BitVec 256) : (s.message c b).rels = s.rels := rfl
@[simp] theorem State.message_l1 (s : State) (c : Nat) (b : BitVec 256) : (s.message c b).l1 = s.l1 := rfl
@[simp] theorem State.message_flights (s : State) (c : Nat) (b : BitVec 256) : (s.message c b).flights = s.flights := rfl
@[simp] theorem State.message_ctxs (s : State) (c : Nat) (b : BitVec 256) : (s.message c b).ctxs = s.ctxs := rfl
@[simp] theorem State.message_bars (s : State) (c : Nat) (b : BitVec 256) : (s.message c b).bars = s.bars := rfl
@[simp] theorem State.message_arms (s : State) (c : Nat) (b : BitVec 256) : (s.message c b).arms = s.arms := rfl
@[simp] theorem State.message_fields (s : State) (c : Nat) (b : BitVec 256) : (s.message c b).fields = s.fields := rfl
@[simp] theorem State.message_slots (s : State) (c : Nat) (b : BitVec 256) : (s.message c b).slots = s.slots := rfl
@[simp] theorem State.message_chans (s : State) (c : Nat) (b : BitVec 256) : (s.message c b).chans = s.chans := rfl
@[simp] theorem State.message_fills (s : State) (c : Nat) (b : BitVec 256) : (s.message c b).fills = s.fills := rfl
@[simp] theorem State.message_mqs (s : State) (c : Nat) (b : BitVec 256) : (s.message c b).mqs = s.mqs := rfl
@[simp] theorem State.message_lastQ (s : State) (c : Nat) (b : BitVec 256) : (s.message c b).lastQ = s.lastQ := rfl
@[simp] theorem State.message_tasks (s : State) (c : Nat) (b : BitVec 256) : (s.message c b).tasks = s.tasks := rfl
@[simp] theorem State.message_saved (s : State) (c : Nat) (b : BitVec 256) : (s.message c b).saved = s.saved := rfl
@[simp] theorem State.message_streams (s : State) (c : Nat) (b : BitVec 256) : (s.message c b).streams = s.streams := rfl
@[simp] theorem State.message_follows (s : State) (c : Nat) (b : BitVec 256) : (s.message c b).follows = s.follows := rfl
@[simp] theorem State.message_backfills (s : State) (c : Nat) (b : BitVec 256) : (s.message c b).backfills = s.backfills := rfl
@[simp] theorem State.message_nvcmds (s : State) (c : Nat) (b : BitVec 256) : (s.message c b).nvcmds = s.nvcmds := rfl
@[simp] theorem State.message_nvcomps (s : State) (c : Nat) (b : BitVec 256) : (s.message c b).nvcomps = s.nvcomps := rfl
@[simp] theorem State.message_nvqs (s : State) (c : Nat) (b : BitVec 256) : (s.message c b).nvqs = s.nvqs := rfl
@[simp] theorem State.message_colls (s : State) (c : Nat) (b : BitVec 256) : (s.message c b).colls = s.colls := rfl
@[simp] theorem State.message_posts (s : State) (c : Nat) (b : BitVec 256) : (s.message c b).posts = s.posts := rfl
@[simp] theorem State.message_ports (s : State) (c : Nat) (b : BitVec 256) : (s.message c b).ports = s.ports := rfl
@[simp] theorem State.message_corrected (s : State) (c : Nat) (b : BitVec 256) : (s.message c b).corrected = s.corrected := rfl
@[simp] theorem State.message_frameErrs (s : State) (c : Nat) (b : BitVec 256) : (s.message c b).frameErrs = s.frameErrs := rfl
@[simp] theorem State.message_migs (s : State) (c : Nat) (b : BitVec 256) : (s.message c b).migs = s.migs := rfl
@[simp] theorem State.message_replies (s : State) (c : Nat) (b : BitVec 256) : (s.message c b).replies = s.replies := rfl
@[simp] theorem State.message_links (s : State) (c : Nat) (b : BitVec 256) : (s.message c b).links = s.links := rfl
@[simp] theorem State.message_host (s : State) (c : Nat) (b : BitVec 256) : (s.message c b).host = s.host := rfl
@[simp] theorem State.message_clockStep (s : State) (c : Nat) (b : BitVec 256) : (s.message c b).clockStep = s.clockStep := rfl
@[simp] theorem State.message_shutdown (s : State) (c : Nat) (b : BitVec 256) : (s.message c b).shutdown = s.shutdown := rfl

@[simp] theorem State.hartGets_me (s : State) (v : Option W64) : (s.hartGets v).me = s.me := rfl
@[simp] theorem State.hartGets_others (s : State) (v : Option W64) : (s.hartGets v).others = s.others := rfl
@[simp] theorem State.hartGets_left (s : State) (v : Option W64) : (s.hartGets v).left = s.left := rfl
@[simp] theorem State.hartGets_inputs (s : State) (v : Option W64) : (s.hartGets v).inputs = s.inputs := rfl
@[simp] theorem State.hartGets_turn (s : State) (v : Option W64) : (s.hartGets v).turn = s.turn := rfl
@[simp] theorem State.hartGets_free (s : State) (v : Option W64) : (s.hartGets v).free = s.free := rfl
@[simp] theorem State.hartGets_ids (s : State) (v : Option W64) : (s.hartGets v).ids = s.ids := rfl
@[simp] theorem State.hartGets_mem (s : State) (v : Option W64) : (s.hartGets v).mem = s.mem := rfl
@[simp] theorem State.hartGets_tags (s : State) (v : Option W64) : (s.hartGets v).tags = s.tags := rfl
@[simp] theorem State.hartGets_poison (s : State) (v : Option W64) : (s.hartGets v).poison = s.poison := rfl
@[simp] theorem State.hartGets_race (s : State) (v : Option W64) : (s.hartGets v).race = s.race := rfl
@[simp] theorem State.hartGets_rels (s : State) (v : Option W64) : (s.hartGets v).rels = s.rels := rfl
@[simp] theorem State.hartGets_l1 (s : State) (v : Option W64) : (s.hartGets v).l1 = s.l1 := rfl
@[simp] theorem State.hartGets_flights (s : State) (v : Option W64) : (s.hartGets v).flights = s.flights := rfl
@[simp] theorem State.hartGets_ctxs (s : State) (v : Option W64) : (s.hartGets v).ctxs = s.ctxs := rfl
@[simp] theorem State.hartGets_bars (s : State) (v : Option W64) : (s.hartGets v).bars = s.bars := rfl
@[simp] theorem State.hartGets_arms (s : State) (v : Option W64) : (s.hartGets v).arms = s.arms := rfl
@[simp] theorem State.hartGets_fields (s : State) (v : Option W64) : (s.hartGets v).fields = s.fields := rfl
@[simp] theorem State.hartGets_slots (s : State) (v : Option W64) : (s.hartGets v).slots = s.slots := rfl
@[simp] theorem State.hartGets_chans (s : State) (v : Option W64) : (s.hartGets v).chans = s.chans := rfl
@[simp] theorem State.hartGets_fills (s : State) (v : Option W64) : (s.hartGets v).fills = s.fills := rfl
@[simp] theorem State.hartGets_mqs (s : State) (v : Option W64) : (s.hartGets v).mqs = s.mqs := rfl
@[simp] theorem State.hartGets_lastQ (s : State) (v : Option W64) : (s.hartGets v).lastQ = s.lastQ := rfl
@[simp] theorem State.hartGets_tasks (s : State) (v : Option W64) : (s.hartGets v).tasks = s.tasks := rfl
@[simp] theorem State.hartGets_saved (s : State) (v : Option W64) : (s.hartGets v).saved = s.saved := rfl
@[simp] theorem State.hartGets_streams (s : State) (v : Option W64) : (s.hartGets v).streams = s.streams := rfl
@[simp] theorem State.hartGets_follows (s : State) (v : Option W64) : (s.hartGets v).follows = s.follows := rfl
@[simp] theorem State.hartGets_backfills (s : State) (v : Option W64) : (s.hartGets v).backfills = s.backfills := rfl
@[simp] theorem State.hartGets_nvcmds (s : State) (v : Option W64) : (s.hartGets v).nvcmds = s.nvcmds := rfl
@[simp] theorem State.hartGets_nvcomps (s : State) (v : Option W64) : (s.hartGets v).nvcomps = s.nvcomps := rfl
@[simp] theorem State.hartGets_nvqs (s : State) (v : Option W64) : (s.hartGets v).nvqs = s.nvqs := rfl
@[simp] theorem State.hartGets_colls (s : State) (v : Option W64) : (s.hartGets v).colls = s.colls := rfl
@[simp] theorem State.hartGets_posts (s : State) (v : Option W64) : (s.hartGets v).posts = s.posts := rfl
@[simp] theorem State.hartGets_ports (s : State) (v : Option W64) : (s.hartGets v).ports = s.ports := rfl
@[simp] theorem State.hartGets_corrected (s : State) (v : Option W64) : (s.hartGets v).corrected = s.corrected := rfl
@[simp] theorem State.hartGets_frameErrs (s : State) (v : Option W64) : (s.hartGets v).frameErrs = s.frameErrs := rfl
@[simp] theorem State.hartGets_migs (s : State) (v : Option W64) : (s.hartGets v).migs = s.migs := rfl
@[simp] theorem State.hartGets_replies (s : State) (v : Option W64) : (s.hartGets v).replies = s.replies := rfl
@[simp] theorem State.hartGets_links (s : State) (v : Option W64) : (s.hartGets v).links = s.links := rfl
@[simp] theorem State.hartGets_mgmt (s : State) (v : Option W64) : (s.hartGets v).mgmt = s.mgmt := rfl
@[simp] theorem State.hartGets_clockStep (s : State) (v : Option W64) : (s.hartGets v).clockStep = s.clockStep := rfl
@[simp] theorem State.hartGets_shutdown (s : State) (v : Option W64) : (s.hartGets v).shutdown = s.shutdown := rfl

@[simp] theorem State.bringup_me (s : State) (n why : Nat) : (s.bringup n why).me = s.me := rfl
@[simp] theorem State.bringup_others (s : State) (n why : Nat) : (s.bringup n why).others = s.others := rfl
@[simp] theorem State.bringup_left (s : State) (n why : Nat) : (s.bringup n why).left = s.left := rfl
@[simp] theorem State.bringup_inputs (s : State) (n why : Nat) : (s.bringup n why).inputs = s.inputs := rfl
@[simp] theorem State.bringup_turn (s : State) (n why : Nat) : (s.bringup n why).turn = s.turn := rfl
@[simp] theorem State.bringup_free (s : State) (n why : Nat) : (s.bringup n why).free = s.free := rfl
@[simp] theorem State.bringup_ids (s : State) (n why : Nat) : (s.bringup n why).ids = s.ids := rfl
@[simp] theorem State.bringup_mem (s : State) (n why : Nat) : (s.bringup n why).mem = s.mem := rfl
@[simp] theorem State.bringup_tags (s : State) (n why : Nat) : (s.bringup n why).tags = s.tags := rfl
@[simp] theorem State.bringup_poison (s : State) (n why : Nat) : (s.bringup n why).poison = s.poison := rfl
@[simp] theorem State.bringup_race (s : State) (n why : Nat) : (s.bringup n why).race = s.race := rfl
@[simp] theorem State.bringup_rels (s : State) (n why : Nat) : (s.bringup n why).rels = s.rels := rfl
@[simp] theorem State.bringup_l1 (s : State) (n why : Nat) : (s.bringup n why).l1 = s.l1 := rfl
@[simp] theorem State.bringup_flights (s : State) (n why : Nat) : (s.bringup n why).flights = s.flights := rfl
@[simp] theorem State.bringup_ctxs (s : State) (n why : Nat) : (s.bringup n why).ctxs = s.ctxs := rfl
@[simp] theorem State.bringup_bars (s : State) (n why : Nat) : (s.bringup n why).bars = s.bars := rfl
@[simp] theorem State.bringup_arms (s : State) (n why : Nat) : (s.bringup n why).arms = s.arms := rfl
@[simp] theorem State.bringup_fields (s : State) (n why : Nat) : (s.bringup n why).fields = s.fields := rfl
@[simp] theorem State.bringup_slots (s : State) (n why : Nat) : (s.bringup n why).slots = s.slots := rfl
@[simp] theorem State.bringup_chans (s : State) (n why : Nat) : (s.bringup n why).chans = s.chans := rfl
@[simp] theorem State.bringup_fills (s : State) (n why : Nat) : (s.bringup n why).fills = s.fills := rfl
@[simp] theorem State.bringup_mqs (s : State) (n why : Nat) : (s.bringup n why).mqs = s.mqs := rfl
@[simp] theorem State.bringup_lastQ (s : State) (n why : Nat) : (s.bringup n why).lastQ = s.lastQ := rfl
@[simp] theorem State.bringup_tasks (s : State) (n why : Nat) : (s.bringup n why).tasks = s.tasks := rfl
@[simp] theorem State.bringup_saved (s : State) (n why : Nat) : (s.bringup n why).saved = s.saved := rfl
@[simp] theorem State.bringup_streams (s : State) (n why : Nat) : (s.bringup n why).streams = s.streams := rfl
@[simp] theorem State.bringup_follows (s : State) (n why : Nat) : (s.bringup n why).follows = s.follows := rfl
@[simp] theorem State.bringup_backfills (s : State) (n why : Nat) : (s.bringup n why).backfills = s.backfills := rfl
@[simp] theorem State.bringup_nvcmds (s : State) (n why : Nat) : (s.bringup n why).nvcmds = s.nvcmds := rfl
@[simp] theorem State.bringup_nvcomps (s : State) (n why : Nat) : (s.bringup n why).nvcomps = s.nvcomps := rfl
@[simp] theorem State.bringup_nvqs (s : State) (n why : Nat) : (s.bringup n why).nvqs = s.nvqs := rfl
@[simp] theorem State.bringup_colls (s : State) (n why : Nat) : (s.bringup n why).colls = s.colls := rfl
@[simp] theorem State.bringup_posts (s : State) (n why : Nat) : (s.bringup n why).posts = s.posts := rfl
@[simp] theorem State.bringup_ports (s : State) (n why : Nat) : (s.bringup n why).ports = s.ports := rfl
@[simp] theorem State.bringup_corrected (s : State) (n why : Nat) : (s.bringup n why).corrected = s.corrected := rfl
@[simp] theorem State.bringup_frameErrs (s : State) (n why : Nat) : (s.bringup n why).frameErrs = s.frameErrs := rfl
@[simp] theorem State.bringup_migs (s : State) (n why : Nat) : (s.bringup n why).migs = s.migs := rfl
@[simp] theorem State.bringup_replies (s : State) (n why : Nat) : (s.bringup n why).replies = s.replies := rfl
@[simp] theorem State.bringup_links (s : State) (n why : Nat) : (s.bringup n why).links = s.links := rfl
@[simp] theorem State.bringup_mgmt (s : State) (n why : Nat) : (s.bringup n why).mgmt = s.mgmt := rfl
@[simp] theorem State.bringup_clockStep (s : State) (n why : Nat) : (s.bringup n why).clockStep = s.clockStep := rfl
@[simp] theorem State.bringup_shutdown (s : State) (n why : Nat) : (s.bringup n why).shutdown = s.shutdown := rfl

@[simp] theorem State.setLink_me (s : State) (l : Link) : (s.setLink l).me = s.me := rfl
@[simp] theorem State.setLink_others (s : State) (l : Link) : (s.setLink l).others = s.others := rfl
@[simp] theorem State.setLink_left (s : State) (l : Link) : (s.setLink l).left = s.left := rfl
@[simp] theorem State.setLink_inputs (s : State) (l : Link) : (s.setLink l).inputs = s.inputs := rfl
@[simp] theorem State.setLink_turn (s : State) (l : Link) : (s.setLink l).turn = s.turn := rfl
@[simp] theorem State.setLink_free (s : State) (l : Link) : (s.setLink l).free = s.free := rfl
@[simp] theorem State.setLink_ids (s : State) (l : Link) : (s.setLink l).ids = s.ids := rfl
@[simp] theorem State.setLink_mem (s : State) (l : Link) : (s.setLink l).mem = s.mem := rfl
@[simp] theorem State.setLink_tags (s : State) (l : Link) : (s.setLink l).tags = s.tags := rfl
@[simp] theorem State.setLink_poison (s : State) (l : Link) : (s.setLink l).poison = s.poison := rfl
@[simp] theorem State.setLink_race (s : State) (l : Link) : (s.setLink l).race = s.race := rfl
@[simp] theorem State.setLink_rels (s : State) (l : Link) : (s.setLink l).rels = s.rels := rfl
@[simp] theorem State.setLink_l1 (s : State) (l : Link) : (s.setLink l).l1 = s.l1 := rfl
@[simp] theorem State.setLink_flights (s : State) (l : Link) : (s.setLink l).flights = s.flights := rfl
@[simp] theorem State.setLink_ctxs (s : State) (l : Link) : (s.setLink l).ctxs = s.ctxs := rfl
@[simp] theorem State.setLink_bars (s : State) (l : Link) : (s.setLink l).bars = s.bars := rfl
@[simp] theorem State.setLink_arms (s : State) (l : Link) : (s.setLink l).arms = s.arms := rfl
@[simp] theorem State.setLink_fields (s : State) (l : Link) : (s.setLink l).fields = s.fields := rfl
@[simp] theorem State.setLink_slots (s : State) (l : Link) : (s.setLink l).slots = s.slots := rfl
@[simp] theorem State.setLink_chans (s : State) (l : Link) : (s.setLink l).chans = s.chans := rfl
@[simp] theorem State.setLink_fills (s : State) (l : Link) : (s.setLink l).fills = s.fills := rfl
@[simp] theorem State.setLink_mqs (s : State) (l : Link) : (s.setLink l).mqs = s.mqs := rfl
@[simp] theorem State.setLink_lastQ (s : State) (l : Link) : (s.setLink l).lastQ = s.lastQ := rfl
@[simp] theorem State.setLink_tasks (s : State) (l : Link) : (s.setLink l).tasks = s.tasks := rfl
@[simp] theorem State.setLink_saved (s : State) (l : Link) : (s.setLink l).saved = s.saved := rfl
@[simp] theorem State.setLink_streams (s : State) (l : Link) : (s.setLink l).streams = s.streams := rfl
@[simp] theorem State.setLink_follows (s : State) (l : Link) : (s.setLink l).follows = s.follows := rfl
@[simp] theorem State.setLink_backfills (s : State) (l : Link) : (s.setLink l).backfills = s.backfills := rfl
@[simp] theorem State.setLink_nvcmds (s : State) (l : Link) : (s.setLink l).nvcmds = s.nvcmds := rfl
@[simp] theorem State.setLink_nvcomps (s : State) (l : Link) : (s.setLink l).nvcomps = s.nvcomps := rfl
@[simp] theorem State.setLink_nvqs (s : State) (l : Link) : (s.setLink l).nvqs = s.nvqs := rfl
@[simp] theorem State.setLink_colls (s : State) (l : Link) : (s.setLink l).colls = s.colls := rfl
@[simp] theorem State.setLink_posts (s : State) (l : Link) : (s.setLink l).posts = s.posts := rfl
@[simp] theorem State.setLink_ports (s : State) (l : Link) : (s.setLink l).ports = s.ports := rfl
@[simp] theorem State.setLink_corrected (s : State) (l : Link) : (s.setLink l).corrected = s.corrected := rfl
@[simp] theorem State.setLink_frameErrs (s : State) (l : Link) : (s.setLink l).frameErrs = s.frameErrs := rfl
@[simp] theorem State.setLink_migs (s : State) (l : Link) : (s.setLink l).migs = s.migs := rfl
@[simp] theorem State.setLink_replies (s : State) (l : Link) : (s.setLink l).replies = s.replies := rfl
@[simp] theorem State.setLink_host (s : State) (l : Link) : (s.setLink l).host = s.host := rfl
@[simp] theorem State.setLink_mgmt (s : State) (l : Link) : (s.setLink l).mgmt = s.mgmt := rfl
@[simp] theorem State.setLink_clockStep (s : State) (l : Link) : (s.setLink l).clockStep = s.clockStep := rfl
@[simp] theorem State.setLink_shutdown (s : State) (l : Link) : (s.setLink l).shutdown = s.shutdown := rfl

@[simp] theorem State.dropFlight_me (s : State) (n : Nat) : (s.dropFlight n).me = s.me := rfl
@[simp] theorem State.dropFlight_others (s : State) (n : Nat) : (s.dropFlight n).others = s.others := rfl
@[simp] theorem State.dropFlight_left (s : State) (n : Nat) : (s.dropFlight n).left = s.left := rfl
@[simp] theorem State.dropFlight_inputs (s : State) (n : Nat) : (s.dropFlight n).inputs = s.inputs := rfl
@[simp] theorem State.dropFlight_turn (s : State) (n : Nat) : (s.dropFlight n).turn = s.turn := rfl
@[simp] theorem State.dropFlight_free (s : State) (n : Nat) : (s.dropFlight n).free = s.free := rfl
@[simp] theorem State.dropFlight_ids (s : State) (n : Nat) : (s.dropFlight n).ids = s.ids := rfl
@[simp] theorem State.dropFlight_mem (s : State) (n : Nat) : (s.dropFlight n).mem = s.mem := rfl
@[simp] theorem State.dropFlight_tags (s : State) (n : Nat) : (s.dropFlight n).tags = s.tags := rfl
@[simp] theorem State.dropFlight_poison (s : State) (n : Nat) : (s.dropFlight n).poison = s.poison := rfl
@[simp] theorem State.dropFlight_race (s : State) (n : Nat) : (s.dropFlight n).race = s.race := rfl
@[simp] theorem State.dropFlight_rels (s : State) (n : Nat) : (s.dropFlight n).rels = s.rels := rfl
@[simp] theorem State.dropFlight_l1 (s : State) (n : Nat) : (s.dropFlight n).l1 = s.l1 := rfl
@[simp] theorem State.dropFlight_ctxs (s : State) (n : Nat) : (s.dropFlight n).ctxs = s.ctxs := rfl
@[simp] theorem State.dropFlight_bars (s : State) (n : Nat) : (s.dropFlight n).bars = s.bars := rfl
@[simp] theorem State.dropFlight_arms (s : State) (n : Nat) : (s.dropFlight n).arms = s.arms := rfl
@[simp] theorem State.dropFlight_fields (s : State) (n : Nat) : (s.dropFlight n).fields = s.fields := rfl
@[simp] theorem State.dropFlight_slots (s : State) (n : Nat) : (s.dropFlight n).slots = s.slots := rfl
@[simp] theorem State.dropFlight_chans (s : State) (n : Nat) : (s.dropFlight n).chans = s.chans := rfl
@[simp] theorem State.dropFlight_fills (s : State) (n : Nat) : (s.dropFlight n).fills = s.fills := rfl
@[simp] theorem State.dropFlight_mqs (s : State) (n : Nat) : (s.dropFlight n).mqs = s.mqs := rfl
@[simp] theorem State.dropFlight_lastQ (s : State) (n : Nat) : (s.dropFlight n).lastQ = s.lastQ := rfl
@[simp] theorem State.dropFlight_tasks (s : State) (n : Nat) : (s.dropFlight n).tasks = s.tasks := rfl
@[simp] theorem State.dropFlight_saved (s : State) (n : Nat) : (s.dropFlight n).saved = s.saved := rfl
@[simp] theorem State.dropFlight_streams (s : State) (n : Nat) : (s.dropFlight n).streams = s.streams := rfl
@[simp] theorem State.dropFlight_follows (s : State) (n : Nat) : (s.dropFlight n).follows = s.follows := rfl
@[simp] theorem State.dropFlight_backfills (s : State) (n : Nat) : (s.dropFlight n).backfills = s.backfills := rfl
@[simp] theorem State.dropFlight_nvcmds (s : State) (n : Nat) : (s.dropFlight n).nvcmds = s.nvcmds := rfl
@[simp] theorem State.dropFlight_nvcomps (s : State) (n : Nat) : (s.dropFlight n).nvcomps = s.nvcomps := rfl
@[simp] theorem State.dropFlight_nvqs (s : State) (n : Nat) : (s.dropFlight n).nvqs = s.nvqs := rfl
@[simp] theorem State.dropFlight_colls (s : State) (n : Nat) : (s.dropFlight n).colls = s.colls := rfl
@[simp] theorem State.dropFlight_posts (s : State) (n : Nat) : (s.dropFlight n).posts = s.posts := rfl
@[simp] theorem State.dropFlight_ports (s : State) (n : Nat) : (s.dropFlight n).ports = s.ports := rfl
@[simp] theorem State.dropFlight_corrected (s : State) (n : Nat) : (s.dropFlight n).corrected = s.corrected := rfl
@[simp] theorem State.dropFlight_frameErrs (s : State) (n : Nat) : (s.dropFlight n).frameErrs = s.frameErrs := rfl
@[simp] theorem State.dropFlight_migs (s : State) (n : Nat) : (s.dropFlight n).migs = s.migs := rfl
@[simp] theorem State.dropFlight_replies (s : State) (n : Nat) : (s.dropFlight n).replies = s.replies := rfl
@[simp] theorem State.dropFlight_links (s : State) (n : Nat) : (s.dropFlight n).links = s.links := rfl
@[simp] theorem State.dropFlight_host (s : State) (n : Nat) : (s.dropFlight n).host = s.host := rfl
@[simp] theorem State.dropFlight_mgmt (s : State) (n : Nat) : (s.dropFlight n).mgmt = s.mgmt := rfl
@[simp] theorem State.dropFlight_clockStep (s : State) (n : Nat) : (s.dropFlight n).clockStep = s.clockStep := rfl
@[simp] theorem State.dropFlight_shutdown (s : State) (n : Nat) : (s.dropFlight n).shutdown = s.shutdown := rfl

@[simp] theorem State.up_others (s : State) (c : Cls) : (s.up c).others = s.others := rfl
@[simp] theorem State.up_left (s : State) (c : Cls) : (s.up c).left = s.left := rfl
@[simp] theorem State.up_inputs (s : State) (c : Cls) : (s.up c).inputs = s.inputs := rfl
@[simp] theorem State.up_turn (s : State) (c : Cls) : (s.up c).turn = s.turn := rfl
@[simp] theorem State.up_free (s : State) (c : Cls) : (s.up c).free = s.free := rfl
@[simp] theorem State.up_ids (s : State) (c : Cls) : (s.up c).ids = s.ids := rfl
@[simp] theorem State.up_mem (s : State) (c : Cls) : (s.up c).mem = s.mem := rfl
@[simp] theorem State.up_tags (s : State) (c : Cls) : (s.up c).tags = s.tags := rfl
@[simp] theorem State.up_poison (s : State) (c : Cls) : (s.up c).poison = s.poison := rfl
@[simp] theorem State.up_race (s : State) (c : Cls) : (s.up c).race = s.race := rfl
@[simp] theorem State.up_rels (s : State) (c : Cls) : (s.up c).rels = s.rels := rfl
@[simp] theorem State.up_l1 (s : State) (c : Cls) : (s.up c).l1 = s.l1 := rfl
@[simp] theorem State.up_flights (s : State) (c : Cls) : (s.up c).flights = s.flights := rfl
@[simp] theorem State.up_ctxs (s : State) (c : Cls) : (s.up c).ctxs = s.ctxs := rfl
@[simp] theorem State.up_bars (s : State) (c : Cls) : (s.up c).bars = s.bars := rfl
@[simp] theorem State.up_arms (s : State) (c : Cls) : (s.up c).arms = s.arms := rfl
@[simp] theorem State.up_fields (s : State) (c : Cls) : (s.up c).fields = s.fields := rfl
@[simp] theorem State.up_slots (s : State) (c : Cls) : (s.up c).slots = s.slots := rfl
@[simp] theorem State.up_chans (s : State) (c : Cls) : (s.up c).chans = s.chans := rfl
@[simp] theorem State.up_fills (s : State) (c : Cls) : (s.up c).fills = s.fills := rfl
@[simp] theorem State.up_mqs (s : State) (c : Cls) : (s.up c).mqs = s.mqs := rfl
@[simp] theorem State.up_lastQ (s : State) (c : Cls) : (s.up c).lastQ = s.lastQ := rfl
@[simp] theorem State.up_tasks (s : State) (c : Cls) : (s.up c).tasks = s.tasks := rfl
@[simp] theorem State.up_saved (s : State) (c : Cls) : (s.up c).saved = s.saved := rfl
@[simp] theorem State.up_streams (s : State) (c : Cls) : (s.up c).streams = s.streams := rfl
@[simp] theorem State.up_follows (s : State) (c : Cls) : (s.up c).follows = s.follows := rfl
@[simp] theorem State.up_backfills (s : State) (c : Cls) : (s.up c).backfills = s.backfills := rfl
@[simp] theorem State.up_nvcmds (s : State) (c : Cls) : (s.up c).nvcmds = s.nvcmds := rfl
@[simp] theorem State.up_nvcomps (s : State) (c : Cls) : (s.up c).nvcomps = s.nvcomps := rfl
@[simp] theorem State.up_nvqs (s : State) (c : Cls) : (s.up c).nvqs = s.nvqs := rfl
@[simp] theorem State.up_colls (s : State) (c : Cls) : (s.up c).colls = s.colls := rfl
@[simp] theorem State.up_posts (s : State) (c : Cls) : (s.up c).posts = s.posts := rfl
@[simp] theorem State.up_ports (s : State) (c : Cls) : (s.up c).ports = s.ports := rfl
@[simp] theorem State.up_corrected (s : State) (c : Cls) : (s.up c).corrected = s.corrected := rfl
@[simp] theorem State.up_frameErrs (s : State) (c : Cls) : (s.up c).frameErrs = s.frameErrs := rfl
@[simp] theorem State.up_migs (s : State) (c : Cls) : (s.up c).migs = s.migs := rfl
@[simp] theorem State.up_replies (s : State) (c : Cls) : (s.up c).replies = s.replies := rfl
@[simp] theorem State.up_links (s : State) (c : Cls) : (s.up c).links = s.links := rfl
@[simp] theorem State.up_host (s : State) (c : Cls) : (s.up c).host = s.host := rfl
@[simp] theorem State.up_mgmt (s : State) (c : Cls) : (s.up c).mgmt = s.mgmt := rfl
@[simp] theorem State.up_clockStep (s : State) (c : Cls) : (s.up c).clockStep = s.clockStep := rfl
@[simp] theorem State.up_shutdown (s : State) (c : Cls) : (s.up c).shutdown = s.shutdown := rfl

@[simp] theorem State.setNvq_me (s : State) (q : NvQueue) : (s.setNvq q).me = s.me := rfl
@[simp] theorem State.setNvq_others (s : State) (q : NvQueue) : (s.setNvq q).others = s.others := rfl
@[simp] theorem State.setNvq_left (s : State) (q : NvQueue) : (s.setNvq q).left = s.left := rfl
@[simp] theorem State.setNvq_inputs (s : State) (q : NvQueue) : (s.setNvq q).inputs = s.inputs := rfl
@[simp] theorem State.setNvq_turn (s : State) (q : NvQueue) : (s.setNvq q).turn = s.turn := rfl
@[simp] theorem State.setNvq_free (s : State) (q : NvQueue) : (s.setNvq q).free = s.free := rfl
@[simp] theorem State.setNvq_ids (s : State) (q : NvQueue) : (s.setNvq q).ids = s.ids := rfl
@[simp] theorem State.setNvq_mem (s : State) (q : NvQueue) : (s.setNvq q).mem = s.mem := rfl
@[simp] theorem State.setNvq_tags (s : State) (q : NvQueue) : (s.setNvq q).tags = s.tags := rfl
@[simp] theorem State.setNvq_poison (s : State) (q : NvQueue) : (s.setNvq q).poison = s.poison := rfl
@[simp] theorem State.setNvq_race (s : State) (q : NvQueue) : (s.setNvq q).race = s.race := rfl
@[simp] theorem State.setNvq_rels (s : State) (q : NvQueue) : (s.setNvq q).rels = s.rels := rfl
@[simp] theorem State.setNvq_l1 (s : State) (q : NvQueue) : (s.setNvq q).l1 = s.l1 := rfl
@[simp] theorem State.setNvq_flights (s : State) (q : NvQueue) : (s.setNvq q).flights = s.flights := rfl
@[simp] theorem State.setNvq_ctxs (s : State) (q : NvQueue) : (s.setNvq q).ctxs = s.ctxs := rfl
@[simp] theorem State.setNvq_bars (s : State) (q : NvQueue) : (s.setNvq q).bars = s.bars := rfl
@[simp] theorem State.setNvq_arms (s : State) (q : NvQueue) : (s.setNvq q).arms = s.arms := rfl
@[simp] theorem State.setNvq_fields (s : State) (q : NvQueue) : (s.setNvq q).fields = s.fields := rfl
@[simp] theorem State.setNvq_slots (s : State) (q : NvQueue) : (s.setNvq q).slots = s.slots := rfl
@[simp] theorem State.setNvq_chans (s : State) (q : NvQueue) : (s.setNvq q).chans = s.chans := rfl
@[simp] theorem State.setNvq_fills (s : State) (q : NvQueue) : (s.setNvq q).fills = s.fills := rfl
@[simp] theorem State.setNvq_mqs (s : State) (q : NvQueue) : (s.setNvq q).mqs = s.mqs := rfl
@[simp] theorem State.setNvq_lastQ (s : State) (q : NvQueue) : (s.setNvq q).lastQ = s.lastQ := rfl
@[simp] theorem State.setNvq_tasks (s : State) (q : NvQueue) : (s.setNvq q).tasks = s.tasks := rfl
@[simp] theorem State.setNvq_saved (s : State) (q : NvQueue) : (s.setNvq q).saved = s.saved := rfl
@[simp] theorem State.setNvq_streams (s : State) (q : NvQueue) : (s.setNvq q).streams = s.streams := rfl
@[simp] theorem State.setNvq_follows (s : State) (q : NvQueue) : (s.setNvq q).follows = s.follows := rfl
@[simp] theorem State.setNvq_backfills (s : State) (q : NvQueue) : (s.setNvq q).backfills = s.backfills := rfl
@[simp] theorem State.setNvq_nvcmds (s : State) (q : NvQueue) : (s.setNvq q).nvcmds = s.nvcmds := rfl
@[simp] theorem State.setNvq_nvcomps (s : State) (q : NvQueue) : (s.setNvq q).nvcomps = s.nvcomps := rfl
@[simp] theorem State.setNvq_colls (s : State) (q : NvQueue) : (s.setNvq q).colls = s.colls := rfl
@[simp] theorem State.setNvq_posts (s : State) (q : NvQueue) : (s.setNvq q).posts = s.posts := rfl
@[simp] theorem State.setNvq_ports (s : State) (q : NvQueue) : (s.setNvq q).ports = s.ports := rfl
@[simp] theorem State.setNvq_corrected (s : State) (q : NvQueue) : (s.setNvq q).corrected = s.corrected := rfl
@[simp] theorem State.setNvq_frameErrs (s : State) (q : NvQueue) : (s.setNvq q).frameErrs = s.frameErrs := rfl
@[simp] theorem State.setNvq_migs (s : State) (q : NvQueue) : (s.setNvq q).migs = s.migs := rfl
@[simp] theorem State.setNvq_replies (s : State) (q : NvQueue) : (s.setNvq q).replies = s.replies := rfl
@[simp] theorem State.setNvq_links (s : State) (q : NvQueue) : (s.setNvq q).links = s.links := rfl
@[simp] theorem State.setNvq_host (s : State) (q : NvQueue) : (s.setNvq q).host = s.host := rfl
@[simp] theorem State.setNvq_mgmt (s : State) (q : NvQueue) : (s.setNvq q).mgmt = s.mgmt := rfl
@[simp] theorem State.setNvq_clockStep (s : State) (q : NvQueue) : (s.setNvq q).clockStep = s.clockStep := rfl
@[simp] theorem State.setNvq_shutdown (s : State) (q : NvQueue) : (s.setNvq q).shutdown = s.shutdown := rfl

@[simp] theorem State.cqTake_me (s : State) (n : Nat) : (s.cqTake n).me = s.me := rfl
@[simp] theorem State.cqTake_others (s : State) (n : Nat) : (s.cqTake n).others = s.others := rfl
@[simp] theorem State.cqTake_left (s : State) (n : Nat) : (s.cqTake n).left = s.left := rfl
@[simp] theorem State.cqTake_inputs (s : State) (n : Nat) : (s.cqTake n).inputs = s.inputs := rfl
@[simp] theorem State.cqTake_turn (s : State) (n : Nat) : (s.cqTake n).turn = s.turn := rfl
@[simp] theorem State.cqTake_free (s : State) (n : Nat) : (s.cqTake n).free = s.free := rfl
@[simp] theorem State.cqTake_ids (s : State) (n : Nat) : (s.cqTake n).ids = s.ids := rfl
@[simp] theorem State.cqTake_mem (s : State) (n : Nat) : (s.cqTake n).mem = s.mem := rfl
@[simp] theorem State.cqTake_tags (s : State) (n : Nat) : (s.cqTake n).tags = s.tags := rfl
@[simp] theorem State.cqTake_poison (s : State) (n : Nat) : (s.cqTake n).poison = s.poison := rfl
@[simp] theorem State.cqTake_race (s : State) (n : Nat) : (s.cqTake n).race = s.race := rfl
@[simp] theorem State.cqTake_rels (s : State) (n : Nat) : (s.cqTake n).rels = s.rels := rfl
@[simp] theorem State.cqTake_l1 (s : State) (n : Nat) : (s.cqTake n).l1 = s.l1 := rfl
@[simp] theorem State.cqTake_flights (s : State) (n : Nat) : (s.cqTake n).flights = s.flights := rfl
@[simp] theorem State.cqTake_ctxs (s : State) (n : Nat) : (s.cqTake n).ctxs = s.ctxs := rfl
@[simp] theorem State.cqTake_bars (s : State) (n : Nat) : (s.cqTake n).bars = s.bars := rfl
@[simp] theorem State.cqTake_arms (s : State) (n : Nat) : (s.cqTake n).arms = s.arms := rfl
@[simp] theorem State.cqTake_fields (s : State) (n : Nat) : (s.cqTake n).fields = s.fields := rfl
@[simp] theorem State.cqTake_slots (s : State) (n : Nat) : (s.cqTake n).slots = s.slots := rfl
@[simp] theorem State.cqTake_chans (s : State) (n : Nat) : (s.cqTake n).chans = s.chans := rfl
@[simp] theorem State.cqTake_fills (s : State) (n : Nat) : (s.cqTake n).fills = s.fills := rfl
@[simp] theorem State.cqTake_mqs (s : State) (n : Nat) : (s.cqTake n).mqs = s.mqs := rfl
@[simp] theorem State.cqTake_lastQ (s : State) (n : Nat) : (s.cqTake n).lastQ = s.lastQ := rfl
@[simp] theorem State.cqTake_tasks (s : State) (n : Nat) : (s.cqTake n).tasks = s.tasks := rfl
@[simp] theorem State.cqTake_saved (s : State) (n : Nat) : (s.cqTake n).saved = s.saved := rfl
@[simp] theorem State.cqTake_streams (s : State) (n : Nat) : (s.cqTake n).streams = s.streams := rfl
@[simp] theorem State.cqTake_follows (s : State) (n : Nat) : (s.cqTake n).follows = s.follows := rfl
@[simp] theorem State.cqTake_backfills (s : State) (n : Nat) : (s.cqTake n).backfills = s.backfills := rfl
@[simp] theorem State.cqTake_nvcmds (s : State) (n : Nat) : (s.cqTake n).nvcmds = s.nvcmds := rfl
@[simp] theorem State.cqTake_nvcomps (s : State) (n : Nat) : (s.cqTake n).nvcomps = s.nvcomps := rfl
@[simp] theorem State.cqTake_colls (s : State) (n : Nat) : (s.cqTake n).colls = s.colls := rfl
@[simp] theorem State.cqTake_posts (s : State) (n : Nat) : (s.cqTake n).posts = s.posts := rfl
@[simp] theorem State.cqTake_ports (s : State) (n : Nat) : (s.cqTake n).ports = s.ports := rfl
@[simp] theorem State.cqTake_corrected (s : State) (n : Nat) : (s.cqTake n).corrected = s.corrected := rfl
@[simp] theorem State.cqTake_frameErrs (s : State) (n : Nat) : (s.cqTake n).frameErrs = s.frameErrs := rfl
@[simp] theorem State.cqTake_migs (s : State) (n : Nat) : (s.cqTake n).migs = s.migs := rfl
@[simp] theorem State.cqTake_replies (s : State) (n : Nat) : (s.cqTake n).replies = s.replies := rfl
@[simp] theorem State.cqTake_links (s : State) (n : Nat) : (s.cqTake n).links = s.links := rfl
@[simp] theorem State.cqTake_host (s : State) (n : Nat) : (s.cqTake n).host = s.host := rfl
@[simp] theorem State.cqTake_mgmt (s : State) (n : Nat) : (s.cqTake n).mgmt = s.mgmt := rfl
@[simp] theorem State.cqTake_clockStep (s : State) (n : Nat) : (s.cqTake n).clockStep = s.clockStep := rfl
@[simp] theorem State.cqTake_shutdown (s : State) (n : Nat) : (s.cqTake n).shutdown = s.shutdown := rfl

@[simp] theorem State.updBind_others (s : State) (q : Nat) (g : Bind → Bind) : (s.updBind q g).others = s.others := rfl
@[simp] theorem State.updBind_left (s : State) (q : Nat) (g : Bind → Bind) : (s.updBind q g).left = s.left := rfl
@[simp] theorem State.updBind_inputs (s : State) (q : Nat) (g : Bind → Bind) : (s.updBind q g).inputs = s.inputs := rfl
@[simp] theorem State.updBind_turn (s : State) (q : Nat) (g : Bind → Bind) : (s.updBind q g).turn = s.turn := rfl
@[simp] theorem State.updBind_free (s : State) (q : Nat) (g : Bind → Bind) : (s.updBind q g).free = s.free := rfl
@[simp] theorem State.updBind_ids (s : State) (q : Nat) (g : Bind → Bind) : (s.updBind q g).ids = s.ids := rfl
@[simp] theorem State.updBind_mem (s : State) (q : Nat) (g : Bind → Bind) : (s.updBind q g).mem = s.mem := rfl
@[simp] theorem State.updBind_tags (s : State) (q : Nat) (g : Bind → Bind) : (s.updBind q g).tags = s.tags := rfl
@[simp] theorem State.updBind_poison (s : State) (q : Nat) (g : Bind → Bind) : (s.updBind q g).poison = s.poison := rfl
@[simp] theorem State.updBind_race (s : State) (q : Nat) (g : Bind → Bind) : (s.updBind q g).race = s.race := rfl
@[simp] theorem State.updBind_rels (s : State) (q : Nat) (g : Bind → Bind) : (s.updBind q g).rels = s.rels := rfl
@[simp] theorem State.updBind_l1 (s : State) (q : Nat) (g : Bind → Bind) : (s.updBind q g).l1 = s.l1 := rfl
@[simp] theorem State.updBind_flights (s : State) (q : Nat) (g : Bind → Bind) : (s.updBind q g).flights = s.flights := rfl
@[simp] theorem State.updBind_ctxs (s : State) (q : Nat) (g : Bind → Bind) : (s.updBind q g).ctxs = s.ctxs := rfl
@[simp] theorem State.updBind_bars (s : State) (q : Nat) (g : Bind → Bind) : (s.updBind q g).bars = s.bars := rfl
@[simp] theorem State.updBind_arms (s : State) (q : Nat) (g : Bind → Bind) : (s.updBind q g).arms = s.arms := rfl
@[simp] theorem State.updBind_fields (s : State) (q : Nat) (g : Bind → Bind) : (s.updBind q g).fields = s.fields := rfl
@[simp] theorem State.updBind_slots (s : State) (q : Nat) (g : Bind → Bind) : (s.updBind q g).slots = s.slots := rfl
@[simp] theorem State.updBind_chans (s : State) (q : Nat) (g : Bind → Bind) : (s.updBind q g).chans = s.chans := rfl
@[simp] theorem State.updBind_fills (s : State) (q : Nat) (g : Bind → Bind) : (s.updBind q g).fills = s.fills := rfl
@[simp] theorem State.updBind_mqs (s : State) (q : Nat) (g : Bind → Bind) : (s.updBind q g).mqs = s.mqs := rfl
@[simp] theorem State.updBind_lastQ (s : State) (q : Nat) (g : Bind → Bind) : (s.updBind q g).lastQ = s.lastQ := rfl
@[simp] theorem State.updBind_tasks (s : State) (q : Nat) (g : Bind → Bind) : (s.updBind q g).tasks = s.tasks := rfl
@[simp] theorem State.updBind_saved (s : State) (q : Nat) (g : Bind → Bind) : (s.updBind q g).saved = s.saved := rfl
@[simp] theorem State.updBind_streams (s : State) (q : Nat) (g : Bind → Bind) : (s.updBind q g).streams = s.streams := rfl
@[simp] theorem State.updBind_follows (s : State) (q : Nat) (g : Bind → Bind) : (s.updBind q g).follows = s.follows := rfl
@[simp] theorem State.updBind_backfills (s : State) (q : Nat) (g : Bind → Bind) : (s.updBind q g).backfills = s.backfills := rfl
@[simp] theorem State.updBind_nvcmds (s : State) (q : Nat) (g : Bind → Bind) : (s.updBind q g).nvcmds = s.nvcmds := rfl
@[simp] theorem State.updBind_nvcomps (s : State) (q : Nat) (g : Bind → Bind) : (s.updBind q g).nvcomps = s.nvcomps := rfl
@[simp] theorem State.updBind_nvqs (s : State) (q : Nat) (g : Bind → Bind) : (s.updBind q g).nvqs = s.nvqs := rfl
@[simp] theorem State.updBind_colls (s : State) (q : Nat) (g : Bind → Bind) : (s.updBind q g).colls = s.colls := rfl
@[simp] theorem State.updBind_posts (s : State) (q : Nat) (g : Bind → Bind) : (s.updBind q g).posts = s.posts := rfl
@[simp] theorem State.updBind_ports (s : State) (q : Nat) (g : Bind → Bind) : (s.updBind q g).ports = s.ports := rfl
@[simp] theorem State.updBind_corrected (s : State) (q : Nat) (g : Bind → Bind) : (s.updBind q g).corrected = s.corrected := rfl
@[simp] theorem State.updBind_frameErrs (s : State) (q : Nat) (g : Bind → Bind) : (s.updBind q g).frameErrs = s.frameErrs := rfl
@[simp] theorem State.updBind_migs (s : State) (q : Nat) (g : Bind → Bind) : (s.updBind q g).migs = s.migs := rfl
@[simp] theorem State.updBind_replies (s : State) (q : Nat) (g : Bind → Bind) : (s.updBind q g).replies = s.replies := rfl
@[simp] theorem State.updBind_links (s : State) (q : Nat) (g : Bind → Bind) : (s.updBind q g).links = s.links := rfl
@[simp] theorem State.updBind_host (s : State) (q : Nat) (g : Bind → Bind) : (s.updBind q g).host = s.host := rfl
@[simp] theorem State.updBind_mgmt (s : State) (q : Nat) (g : Bind → Bind) : (s.updBind q g).mgmt = s.mgmt := rfl
@[simp] theorem State.updBind_clockStep (s : State) (q : Nat) (g : Bind → Bind) : (s.updBind q g).clockStep = s.clockStep := rfl
@[simp] theorem State.updBind_shutdown (s : State) (q : Nat) (g : Bind → Bind) : (s.updBind q g).shutdown = s.shutdown := rfl

/-! ### The fields that are written -/

@[simp] theorem State.advance_me (s : State) (n : Nat) :
    (s.advance n).me = { s.me with pcc := s.me.pcc.setCur (s.pc + n), unwatched := false } := rfl
@[simp] theorem State.jump_me (s : State) (c : Cap) : (s.jump c).me = { s.me with pcc := c, unwatched := false } := rfl
@[simp] theorem State.message_mgmt (s : State) (c : Nat) (b : BitVec 256) : (s.message c b).mgmt = s.mgmt ++ [{ code := c, body := b }] := rfl
@[simp] theorem State.post_posts (s : State) (r : Record) : (s.post r).posts = s.posts ++ [r] := rfl
@[simp] theorem State.hartGets_hart (s : State) (v : Option W64) : (s.hartGets v).host.hart = v := rfl
@[simp] theorem State.bringup_st (s : State) (n why : Nat) : (s.bringup n why).host.st = n := rfl

/-- A write of a scalar register reads back, but for s0 (R14). -/
theorem State.sreg_setSreg (s : State) (r q : RegF) (v : W64) :
    (s.setSreg r v).sreg q = if q = 0 then 0 else if q = r then v else s.sreg q := by
  by_cases hr : r = 0
  · have e : s.setSreg r v = s := if_pos hr
    rw [e]
    unfold State.sreg
    by_cases h0 : q = 0
    · simp only [if_pos h0]
    · have h1 : q ≠ r := fun e => h0 (e.trans hr)
      simp only [if_neg h0, if_neg h1]
  · have e : s.setSreg r v = _ := if_neg hr
    rw [e]
    unfold State.sreg
    by_cases h0 : q = 0
    · simp only [if_pos h0]
    · simp only [if_neg h0]
      by_cases hq : q = r
      · subst hq; rw [if_pos rfl]; exact Vector.getElem_set_self _
      · rw [if_neg hq]
        exact Vector.getElem_set_ne _ _ fun e => hq (BitVec.eq_of_toNat_eq e.symm)
/-- A write of a predicate reads back, but for p0. -/
theorem State.pred_setPred (s : State) (p q : PredF) (v : Bool) :
    (s.setPred p v).pred q = if q = 0 then true else if q = p then v else s.pred q := by
  by_cases hr : p = 0
  · have e : s.setPred p v = s := if_pos hr
    rw [e]
    unfold State.pred
    by_cases h0 : q = 0
    · simp only [if_pos h0]
    · have h1 : q ≠ p := fun e => h0 (e.trans hr)
      simp only [if_neg h0, if_neg h1]
  · have e : s.setPred p v = _ := if_neg hr
    rw [e]
    unfold State.pred
    by_cases h0 : q = 0
    · simp only [if_pos h0]
    · simp only [if_neg h0]
      by_cases hq : q = p
      · subst hq; rw [if_pos rfl]; exact Vector.getElem_set_self _
      · rw [if_neg hq]
        exact Vector.getElem_set_ne _ _ fun e => hq (BitVec.eq_of_toNat_eq e.symm)
/-- A write of a capability register reads back, but for c0. -/
theorem State.creg_setCreg (s : State) (c q : CapF) (v : Cap) :
    (s.setCreg c v).creg q = if q = 0 then Cap.null else if q = c then v else s.creg q := by
  by_cases hr : c = 0
  · have e : s.setCreg c v = s := if_pos hr
    rw [e]
    unfold State.creg
    by_cases h0 : q = 0
    · simp only [if_pos h0]
    · have h1 : q ≠ c := fun e => h0 (e.trans hr)
      simp only [if_neg h0, if_neg h1]
  · have e : s.setCreg c v = _ := if_neg hr
    rw [e]
    unfold State.creg
    by_cases h0 : q = 0
    · simp only [if_pos h0]
    · simp only [if_neg h0]
      by_cases hq : q = c
      · subst hq; rw [if_pos rfl]; exact Vector.getElem_set_self _
      · rw [if_neg hq]
        exact Vector.getElem_set_ne _ _ fun e => hq (BitVec.eq_of_toNat_eq e.symm)

end Sys2Proof.Machine
end

