-- ==== Sys2Proof/Tests/Slice0.lean ====
section
/-!
SUPPORT. The model's own tests: ill-formed terms that WellFormed refuses, words written out bit by bit from the spec's encodings,
one step of small states with results worked out by hand from the rules named, and for every statement a state that meets its
hypotheses.
-/
namespace Sys2Proof.Tests
open Sys2Proof Sys2Proof.Machine

set_option Elab.async false

/-! ### Ill-formed instructions are refused (R36, R37, R43 to R47, R284, R335) -/

/-- A long instruction from its fields. -/
def lf (d a b : RegF) (fn : BitVec 9) (x : BitVec 5) (g : PredF) (imm : BitVec 22) : LF :=
  { d := d, a := a, b := b, fn := fn, x := x, g := g, imm := imm }

theorem test_wf_loop_zero : (Instr.loop 0 1).wf = false := by decide
theorem test_wf_bp_p0 : (Instr.bp 0 1 1).wf = false := by decide
theorem test_wf_cmake_31 : (Instr.cmake 3 31).wf = false := by decide
theorem test_wf_rounding : (Instr.fadd 0 1 2 3 5).wf = false ∧ (Instr.fsqrt 0 1 2 6).wf = false := by decide
theorem test_wf_same_format : (Instr.fcvtFromIeee 1 1 2 1 0).wf = false := by decide
theorem test_wf_narrow_kind : (Instr.fcvtToNarrow 1 1 2 3 0).wf = false := by decide
theorem test_wf_ldx : (Instr.ldx (lf 1 2 3 7 1 0 0)).wf = false ∧ (Instr.ldx (lf 1 16 3 6 1 0 0)).wf = false ∧
    (Instr.ldx (lf 1 2 3 (6 + 2 * 8) 1 0 0)).wf = false ∧ (Instr.ldx (lf 1 2 3 (6 + 64) 1 0 0)).wf = false := by decide
theorem test_wf_stx : (Instr.stx (lf 1 2 3 1 1 0 0)).wf = false ∧ (Instr.stx (lf 1 2 3 (6 + 8) 1 0 0)).wf = false := by decide
theorem test_wf_atom : (Instr.atomAdd (lf 1 2 3 32 1 0 0)).wf = false ∧ (Instr.atomAdd (lf 1 2 3 20 1 0 0)).wf = false ∧
    (Instr.atomInc (lf 1 2 3 (10 * 32) 1 0 0)).wf = false := by decide
theorem test_wf_vatom : (Instr.vatom (lf 1 2 16 0 1 0 0)).wf = false ∧ (Instr.vatom (lf 1 2 3 0 1 0 16)).wf = false := by decide
theorem test_wf_fence : (Instr.fence (lf 0 0 0 0 3 0 0)).wf = false ∧ (Instr.fence (lf 0 0 0 0x28 3 0 0)).wf = false := by decide
theorem test_wf_scopes : (Instr.scset (lf 0 1 0 1 4 0 0)).wf = false ∧ (Instr.scinv (lf 0 0 0 3 4 0 0)).wf = false ∧
    (Instr.scget (lf 1 1 0 2 5 0 0)).wf = false := by decide
theorem test_wf_barriers : (Instr.barinit (lf 1 2 0 1 3 0 0)).wf = false ∧ (Instr.bararr (lf 1 2 3 2 3 0 0)).wf = false ∧
    (Instr.barwait (lf 1 2 3 3 3 0 0)).wf = false := by decide
theorem test_wf_monitors : (Instr.monarm (lf 0 1 1 1 1 0 0)).wf = false ∧ (Instr.monwait (lf 0 1 0 2 1 0 0)).wf = false := by decide
theorem test_wf_tiles : (Instr.tstate (lf 1 0 0 3 0 0 5)).wf = false ∧ (Instr.twait (lf 0 0 1 4 0 0 4)).wf = false ∧
    (Instr.tcfg (lf 0 16 0 1 0 0 0)).wf = false := by decide
theorem test_wf_cache : (Instr.cwb (lf 1 2 3 1 1 0 0)).wf = false ∧ (Instr.carve (lf 16 1 2 2 0 0 0)).wf = false ∧
    (Instr.objq (lf 1 2 3 1 1 0 0)).wf = false := by decide
theorem test_wf_requests : (Instr.xcopy (lf 5 2 0 0 0 0 0)).wf = false ∧ (Instr.xcopy (lf 0 2 1 0 0 0 0)).wf = false ∧
    (Instr.xgather (lf 0 2 0 2 0 0 0)).wf = false ∧ (Instr.coll (lf 0 2 0 10 0 0 0)).wf = false := by decide
theorem test_wf_matrix : (Instr.mma (lf 0 0 1 0 1 0 0)).wf = false ∧ (Instr.mma (lf 0 1 31 0 1 0 0)).wf = false ∧
    (Instr.mmx (lf 0 1 2 0 31 0 0)).wf = false ∧ (Instr.accrd (lf 0 1 0 0 0 0 4)).wf = false ∧
    (Instr.accwr (lf 0 1 1 0 0 0 0)).wf = false := by decide
theorem test_wf_pairs : (Instr.nvcmp (lf 31 0 1 0 1 0 0)).wf = false ∧ (Instr.eresp (lf 0 1 0 0 1 0 0)).wf = false ∧
    (Instr.bfsync (lf 1 1 0 0 1 0 0)).wf = false ∧ (Instr.kvapp (lf 0 1 0 4 0 0 0)).wf = false ∧
    (Instr.nvsub (lf 0 1 1 2 0 0 0)).wf = false := by decide

/-! ### Words written out from the encodings of the spec decode to the instructions they stand for -/

-- Class 0b00, major 0x00, RR: 31:30, 29:24, d 23:19, a 18:14, b 13:9, fn 8:0 (R34, R43, R97, R99)
theorem test_decode_add : decodeWords 0b00_000000_00101_00100_00011_000000001 0 = .ok (.add 5 4 3) := by decide
theorem test_decode_popc : decodeWords 0b00_000000_00101_00100_00000_000101010 0 = .ok (.popc 5 4) := by decide
theorem test_decode_cmp_lt : decodeWords 0x00190A52 0 = .ok (.cmpLt 3 4 5) := by decide
theorem test_decode_sel : decodeWords 0b00_000000_00001_00010_00011_001000101 0 = .ok (.sel 1 5 2 3) := by decide
-- Immediates (R45, R100): the example addi s2, s5, 0x0FFF, and its long forms (R101)
theorem test_decode_addi : decodeWords 0x01114FFF 0 = .ok (.addi 2 5 0x0FFF) := by decide
theorem test_decode_movi_l : decodeWords 0x80300048 0xC0345678 = .ok (.moviL 6 0x12345678 0) := by decide
-- Loads and stores (R46, R104): ldx.d.acq s7, 8(c2, s3), scope=5
theorem test_decode_ldx : decodeWords 0x8238860E 0xCA000008 = .ok (.ldx (lf 7 2 3 0x00E 5 0 8)) := by decide
-- Capabilities (R111, R113)
theorem test_decode_cadd : decodeWords 0x40332811 0 = .ok (.cadd 3 3 5) := by decide
-- Floating point (R45, R117, R124): fadd.s.rtz s4, s5, s6 and fcvt.n8e4.s s5, s4
theorem test_decode_fadd : decodeWords 0x29214C01 0 = .ok (.fadd 1 4 5 6 1) := by decide
theorem test_decode_fcvt : decodeWords 0x292901C0 0 = .ok (.fcvtToNarrow 1 5 4 0 0) := by decide
-- Branches (R43): bp !p2, -3 words; loop with d = 3 and imm = 0x3FFC
theorem test_decode_bp : decodeWords 0x205FFFFD 0 = .ok (.bp 2 1 0xFFFFD) := by decide
theorem test_decode_loop : decodeWords 0x09183FFC 0 = .ok (.loop 3 0x3FFC) := by decide
-- ld.d s5, 24(c3): major 0x16, d 23:19, hint 18, a 17:14, imm 13:0 (R43, R102); st.w s1, -4(c2) at the dome's scope
theorem test_decode_ld : decodeWords 0b00_010110_00101_0_0011_00000000011000 0 = .ok (.ldD 5 0 3 24) := by decide
theorem test_decode_st : decodeWords 0b00_011010_00001_1_0010_11111111111100 0 = .ok (.stW 1 1 2 0x3FFC) := by decide
-- System registers and the system group (R43, R44, R125, R126)
theorem test_decode_sysr : decodeWords 0x30280001 0 = .ok (.sysr 5 1) := by decide
theorem test_decode_sysw_c : decodeWords 0x3100D005 0 = .ok (.syswC 3 5) := by decide
theorem test_decode_halt : decodeWords 0x32000002 0 = .ok .halt := by decide
-- Fabric control, installs and wait (R46): the words of the example under R215
theorem test_decode_rgrun : decodeWords 0x41014003 0 = .ok (.rgrun 5) := by decide
theorem test_decode_cfgld : decodeWords 0x42042801 0 = .ok (.cfgld 4 5) := by decide
theorem test_decode_wait : decodeWords 0x43FFF03F 0 = .ok (.wait 63 63 0 63) := by decide
theorem test_decode_qbind : decodeWords 0x41C18006 0 = .ok (.qbindIn 0 6) := by decide
-- Debug (R46, R422): wpset s4, c3
theorem test_decode_wpset : decodeWords 0x44032001 0 = .ok (.wpset 3 4) := by decide
-- Memory and synchronisation (R47): the examples of R288, R290, R294, R307, R299
theorem test_decode_atom_add : decodeWords 0x84388409 0xC4000010 = .ok (.atomAdd (lf 7 2 2 0x009 2 0 16)) := by decide
theorem test_decode_atomcas : decodeWords 0x85290C0C 0xCA000000 = .ok (.atomcas (lf 5 4 6 0x00C 5 0 0)) := by decide
theorem test_decode_vatom : decodeWords 0x86494C00 0xC4000003 = .ok (.vatom (lf 9 5 6 0 2 0 3)) := by decide
theorem test_decode_fence_st : decodeWords 0x88000028 0xC6000000 = .ok (.fenceSt (lf 0 0 0 0x028 3 0 0)) := by decide
theorem test_decode_carve : decodeWords 0x8F52C802 0xC0000000 = .ok (.carve (lf 10 11 4 2 0 0 0)) := by decide
theorem test_decode_bararr : decodeWords 0x8B29C002 0xC6000000 = .ok (.bararr (lf 5 7 0 2 3 0 0)) := by decide
theorem test_decode_barwait : decodeWords 0x8B01CA03 0xC6000000 = .ok (.barwait (lf 0 7 5 3 3 0 0)) := by decide
-- Engines (R47, R335): the examples of R343 and R358
theorem test_decode_xcopy : decodeWords 0xA0D14001 0xC6000040 = .ok (.xcopy (lf 26 5 0 1 3 0 0x40)) := by decide
theorem test_decode_kvapp : decodeWords 0xAFC98002 0xCC000000 = .ok (.kvapp (lf 25 6 0 2 6 0 0)) := by decide
-- mma none, (s2,s3), (s4,s5), s6 on array 1, tile 2: major 0x24, fn bit 1 the array, bits 3:2 the tile (R47, R346)
theorem test_decode_mma : decodeWords 0b10_100100_00000_00010_00100_000001010 0b11_00110_000_0000000000000000000000 =
    .ok (.mma (lf 0 2 4 10 6 0 0)) := by decide
theorem test_decode_unassigned : decodeWords 0x3F000000 0 = .error .unassigned ∧ decodeWords 0x00000000 0 = .error .unassigned := by decide

/-! ### One step of a small state; results worked out by hand from the rules named -/

/-- What a next state shows. -/
def after (o : Out) (p : State → Bool) : Bool :=
  match o with
  | .next t => p t
  | _ => false

/-- A running strand in slot 0 of field 0, with the word 0 at its pcc. -/
def run0 : State := State.reset.withFetchWord 32 0
/-- A capability to object 0x103 with bounds [lo, hi). -/
def capOf (obj cur lo hi perm : Nat) : Cap := Cap.make obj cur 0 lo hi perm
/-- run0 with values in s4, s5 and s6. -/
def regs3 (x y z : W64) : State := ((run0.setSreg 4 x).setSreg 5 y).setSreg 6 z
/-- run0 with a scratchpad of one step whose sectors c3 names, with every right. -/
def local0 : State :=
  (run0.setField { run0.fieldOf 0 with n := 1, nmin := 1, nmax := 1 }).setCreg 3 (capOf (run0.ownObj 0) 0x40 0 0x1000 255)

-- R97: add wraps modulo 2^64; R98: division by zero, the one overflow
theorem test_add_wraps : after (exec (.add 7 4 5) (regs3 (-1) 2 0)) fun t => t.sreg 7 == 1 && t.pc == 4 := by decide +kernel
theorem test_div_corner : after (exec (.div 7 4 5) (regs3 0x8000000000000000 (-1) 0)) (fun t => t.sreg 7 == 0x8000000000000000) ∧
    after (exec (.rem 7 4 6) (regs3 5 1 0)) (fun t => t.sreg 7 == 5) := by decide +kernel
theorem test_mulh : after (exec (.mulh 7 4 5) (regs3 (-1) 2 0)) fun t => t.sreg 7 == -1 := by decide +kernel
theorem test_sar_masks_count : after (exec (.sar 7 4 5) (regs3 (-8) 65 0)) fun t => t.sreg 7 == -4 := by decide +kernel
theorem test_rot : after (exec (.rot 7 4 5) (regs3 0x8000000000000001 4 0)) fun t => t.sreg 7 == 0x18 := by decide +kernel
theorem test_clz_zero : after (exec (.clz 7 4) (regs3 0 0 0)) fun t => t.sreg 7 == 64 := by decide +kernel
-- R99: the example of cmp.lt
theorem test_cmp_signed : after (exec (.cmpLt 3 4 5) (regs3 (-1) 0 0)) (fun t => t.pred 3) ∧
    after (exec (.cmpLtu 3 4 5) (regs3 (-1) 0 0)) (fun t => !t.pred 3) := by decide +kernel
-- R101: the example of movi.l and movhi
theorem test_movhi : after (exec (.movhi 6 6 0xDEADBEEF 0) (run0.setSreg 6 0x12345678)) fun t =>
    t.sreg 6 == 0xDEADBEEF12345678 && t.pc == 8 := by decide +kernel
-- R25: the two examples of cbound
theorem test_cbound_exact : after (exec (.cbound 2 3 4) ((run0.setCreg 3 (Cap.make 0x103 0x10000 18 0 16383 255)).setSreg 4 0x30000)) fun t =>
    (t.creg 2).g == 5 && (t.creg 2).lo == 2048 && (t.creg 2).hi == 8192 && (t.creg 2).cur == 0x10000 := by decide +kernel
theorem test_cbound_rounds : after (exec (.cbound 2 3 4) ((run0.setCreg 3 (Cap.make 0x103 100 18 0 16383 255)).setSreg 4 19901)) fun t =>
    (t.creg 2).g == 1 && (t.creg 2).lo == 50 && (t.creg 2).hi == 10001 := by decide +kernel
-- R29: the example of a load out of bounds, with a handler at offset 0 of the code object
theorem test_trap_entry : after (exec (.ldD 5 0 3 24) ({ run0 with me := { run0.me with ecap := run0.me.pcc } }.setCreg 3 (capOf 0x103 0x100 0x100 0x110 1)))
    fun t => t.me.code == 0x05 && t.me.fobj == 0x103 && t.me.faddr == 0x118 && t.me.mode && !t.me.pmode && t.me.ldc == 0 &&
      t.me.pcc == t.me.ecap := by decide +kernel
-- R126: an eret in handler mode goes to EPC in the saved mode
theorem test_eret : after (exec .eret { run0 with me := { run0.me with mode := true, epc := capOf 0x103 0x244 0 0x1000 5 } }) fun t =>
    t.me.pcc.cur == 0x244 && !t.me.mode := by decide +kernel
-- R107, R40: loop counts down and branches back; it falls through at zero
theorem test_loop : after (exec (.loop 4 0x3FFF) { regs3 2 0 0 with me := { (regs3 2 0 0).me with pcc := run0.me.pcc.setCur 4 } }) (fun t => t.sreg 4 == 1 && t.pc == 0) ∧
    after (exec (.loop 4 0x3FFF) (regs3 1 0 0)) (fun t => t.sreg 4 == 0 && t.pc == 4) := by decide +kernel
-- R37: the all-zero word raises ILLEGAL_OP at a step
theorem test_step_illegal : after (step run0) fun t => t.me.code == 0x01 && t.me.epc == run0.me.pcc := by decide +kernel
theorem test_step_nop : after (step (State.reset.withFetchWord 32 0x32000001)) fun t => t.pc == 4 && t.me.stat == .running := by decide +kernel
-- R102, R231: st.d and then ld.bu in the scratchpad, little-endian
theorem test_store : after (exec (.stD 4 0 3 8) (local0.setSreg 4 0x1122334455667788)) fun t =>
    readLE t.mem (spKey 0 0x48) 8 == 0x1122334455667788 && readByte t.mem (spKey 0 0x4F) == 0x11 && t.me.stc == 1 := by decide +kernel
theorem test_load_leaves : after (exec (.ldB 5 0 3 0) { local0 with mem := writeLE local0.mem (spKey 0 0x40) 1 0x80 }) fun t =>
    t.me.ldc == 1 && t.sreg 5 == 0 && t.flights.any fun f => f.phase == .done 0x80 false && f.sext := by decide +kernel
-- R117, R57: 1.5 + 2.25 in binary32; R124: the examples 0.3 to N8E4, −2.7 to i32 toward zero, 300.0 to u8
theorem test_fadd : after (exec (.fadd 1 7 4 5 0) (regs3 0x3FC00000 0x40100000 0)) fun t => t.sreg 7 == 0x40700000 && t.me.fflags == 0 := by
  decide +kernel
theorem test_fcvt_narrow : after (exec (.fcvtToNarrow 1 5 4 0 0) (regs3 0x3E99999A 0 0)) fun t => t.sreg 5 == 0x32 && t.me.fflags.toNat == flNX := by
  decide +kernel
theorem test_fcvt_int : after (exec (.fcvtToInt 1 5 4 2 1) (regs3 0xC02CCCCD 0 0)) (fun t => t.sreg 5 == 0xFFFFFFFFFFFFFFFE && t.me.fflags.toNat == flNX) ∧
    after (exec (.fcvtToInt 1 5 4 7 0) (regs3 0x43960000 0 0)) (fun t => t.sreg 5 == 255 && t.me.fflags.toNat == flNV) := by decide +kernel
-- R119: −0 is below +0
theorem test_fmin_zeros : after (exec (.fmin 0 7 4 5) (regs3 0 0x8000000000000000 0)) fun t => t.sreg 7 == 0x8000000000000000 := by decide +kernel
-- R286, R288: the word of atomcas at 7 becomes 9, and the old value is on its way
theorem test_atomcas : after (exec (.atomcas (lf 5 3 6 0 1 0 0)) { (local0.setSreg 5 7).setSreg 6 9 with mem := writeLE local0.mem (spKey 0 0x40) 4 7 }) fun t =>
    readLE t.mem (spKey 0 0x40) 4 == 9 && t.me.ldc == 1 && t.flights.any fun f => f.phase == .done 7 false := by decide +kernel
-- R422: the example of wpset
theorem test_wpset : after (exec (.wpset 3 4) ((run0.setSreg 4 0x00FF0000).setCreg 3 (capOf 0x103 0x40 0 0x1000 1))) fun t =>
    (t.ctxOf 0).wpc == 1 && (t.ctxOf 0).watches == [{ k := 0, obj := 0x103, sec := 4, mask := 0xFF }] := by decide +kernel
-- R465: bring-up fails with its cause; R444: a link narrows from four lanes to two
theorem test_hbm_fails : after (exec (.hbmTraining false) { State.reset with host := { State.reset.host with st := 2 } }) fun t =>
    t.host.bstate == 0x2F := by decide +kernel
theorem test_lane_fence : after (exec (.laneFence 6) { run0 with links := [{ port := 6, lanes := 4, expect := 0, replays := 0, laneReplays := 17, flits := 0, narrowing := false }] })
    fun t => t.links.map (·.lanes) == [2] && t.mgmt.length == 1 := by decide +kernel
-- R220: fields 30 and 31 of a die are free: a record of two fields goes there, one of four nowhere
theorem test_placement : placement 0 2 [30, 31] = some [30, 31] ∧ placement 0 4 [30, 31] = none ∧
    placement 0 1 [0, 1, 2, 3, 9] = some [9] := by decide +kernel

/-! ### What the statements assume is met somewhere -/

/-- run0 with register s24 bound to a port: a source, or a destination if push. -/
def bound (push : Bool) (ents : List W64) : State :=
  { run0 with me := { run0.me with binds := [{ q := 0, kind1 := false, push := push, row := 0, slot := 0, w64 := false, ents := ents, removed := false }] } }
/-- A bound queue with sixteen entries. -/
def fullQ : State := bound true (List.replicate 16 5)
def handler : State := { run0 with me := { run0.me with mode := true } }
def finder0 : State := { run0 with me := { run0.me with finder := true, limit := 1 } }
/-- The word at pcc is the first of two. -/
def runLong : State := State.reset.withFetchWord 64 0xC034567880300048

theorem wit_stepKeepsCanonical : run0.Canonical ∧ after (step run0) fun _ => true := by unfold State.Canonical; decide +kernel
theorem wit_stepRunsDecoded :
    (∃ u t, run0.turns.isEmpty = false ∧ run0.choose (run0.moves.length + 1) = (run0.moves.length, u) ∧ u.takeTurn exec = some t ∧
      t.fetchOne t.pc = .word 0 ∧ t.mayLeave 0 = true ∧ decodeWords 0 0 = .error .unassigned) ∧
    (∃ u t, runLong.turns.isEmpty = false ∧ runLong.choose (runLong.moves.length + 1) = (runLong.moves.length, u) ∧ u.takeTurn exec = some t ∧
      t.fetchOne t.pc = .word 0x80300048 ∧ t.fetchOne (t.pc + 4) = .word 0xC0345678 ∧ t.mayLeave 0x80300048 = true ∧ isHead 0x80300048 = true) :=
  ⟨⟨_, _, by decide +kernel, rfl, rfl, rfl, rfl, by decide⟩, ⟨_, _, by decide +kernel, rfl, rfl, rfl, rfl, rfl, by decide⟩⟩
/-- A strand at a store, with a load held at a port and another load behind it. -/
def behindHeld : State :=
  let s := State.reset.withFetchWord 32 0x24000000
  let f (n : Nat) (ph : Phase) : Flight :=
    { id := n, who := .strand 0 0, acc := s.strandAccess 0x100 0x40 4 .read 0 1, dst := .drop, sext := false, phase := ph, num := 0 }
  { s with flights := [f 1 (.held 0), f 2 .arriving] }
theorem wit_stepWaits : ∃ u t, behindHeld.turns.isEmpty = false ∧ behindHeld.choose (behindHeld.moves.length + 1) = (behindHeld.moves.length, u) ∧
    u.takeTurn exec = some t ∧ t.fetchOne t.pc = .word 0x24000000 ∧ t.mayLeave 0x24000000 = false :=
  ⟨_, _, by decide +kernel, rfl, rfl, rfl, by decide +kernel⟩
theorem wit_inputs : ∃ s : State, s.shutdown = false ∧ s.inputs = [.statusRequest] := ⟨{ run0 with inputs := [.statusRequest] }, rfl, rfl⟩
theorem wit_operandRegisters :
    (bound false [5, 6]).bindOf 24 = some { q := 0, kind1 := false, push := false, row := 0, slot := 0, w64 := false, ents := [5, 6], removed := false } ∧
    run0.bindOf 24 = none ∧ (bound true []).badQueue { reads := [24, 1], writes := [2] } = some 24 ∧
    (bound false []).badQueue { reads := [24, 1], writes := [2] } = none ∧ (bound false []).queueWaits { reads := [24, 1], writes := [2] } = true ∧
    fullQ.badQueue { reads := [1], writes := [24] } = none ∧ fullQ.queueWaits { reads := [1], writes := [24] } = true := by decide +kernel
/-- The operands of the scalar, floating-point and capability forms: with a bound source, with a bound destination, and with none. -/
theorem wit_admits : Admits (bound false [5]) { reads := [24, 4], writes := [7] } ∧ Admits (bound true []) { reads := [5, 4], writes := [24] } ∧
    Admits run0 { reads := [0, 31], writes := [0] } ∧ Admits run0 { writes := [31] } ∧ Admits (bound false [5]) { reads := [24] } ∧
    Admits run0 { reads := [30, 31, 29], writes := [29] } := by
  unfold Admits; decide +kernel
theorem wit_scalarFrame : run0.me.finder = false ∧ run0.me.binds = [] := by decide
theorem wit_counts : (run0.sreg 4 = 0) ∧ (∀ j, 5 ≤ j → (0x18#64).getLsbD j = false) ∧ (0x18#64).getLsbD 4 = true ∧ (0x18#64).getLsbD 3 = true ∧
    (∀ j, j < 3 → (0x18#64).getLsbD j = false) :=
  ⟨by decide +kernel, fun _ h => Nat.testBit_lt_two_pow (lt_of_lt_of_le (by decide : (24 : Nat) < 2 ^ 5) (Nat.pow_le_pow_right (by decide) h)),
    by decide, by decide, by decide⟩
theorem wit_predicates : run0.pred 0 = true ∧ run0.pred 3 = false := by decide +kernel
/-- One rounds to one, and the least subnormal and the largest number of binary16 are real; so are 1.5 and 2.5. -/
theorem wit_rounding : (fmtH.roundRat .rne 1).2 &&& flOF = 0 ∧ (fmtH.val 1).isFin = true ∧ (fmtH.val 0x7BFF).isFin = true ∧
    (fmtH.val 0x3E00).isFin = true := by
  refine ⟨?_, by decide +kernel, by decide +kernel, by decide +kernel⟩
  have h : (1 : ℚ).num.natAbs = 1 ∧ (1 : ℚ).den = 1 ∧ ¬ ((1 : ℚ) < 0) := by norm_num
  simp only [Fmt.roundRat, h.1, h.2.1, h.2.2]; decide +kernel
theorem wit_specials : (fmtD.val 0x7FF0000000000001).isSnan = true ∧ (fmtD.val 0x7FF8000000000000).isNan = true ∧
    (fmtD.val 0x7FF8000000000000).isSnan = false ∧ fmtD.val 0x7FF0000000000000 = .inf false ∧ fmtD.val 0xFFF0000000000000 = .inf true ∧
    fmtD.val 0 = .zero false ∧ fmtD.val 0x8000000000000000 = .zero true ∧ (fmtD.val 0xBFF0000000000000).isFin = true := by decide +kernel

/-- The word at pcc is a tail word. -/
def runTail : State := State.reset.withFetchWord 32 0xC0000000
theorem wit_branches : Reachable run0 run0.me.pcc 4 ∧ run0.pred 0 = true ∧ run0.bindOf 5 = none ∧ run0.sreg 5 - 1 ≠ 0 := by
  refine ⟨⟨by decide +kernel, by decide, 0, by rfl, by decide⟩, by decide +kernel, by decide +kernel, by decide +kernel⟩
theorem wit_branchFaults : (run0.creg 3).tag = false ∧ (capOf 0x103 0 0 64 1).has pX = false ∧
    (let x := run0.me.pcc; x.tag = true ∧ x.has pX = true ∧ x.obj < localObj ∧ (x.top : Int) < (x.top : Int) - 3 + 4 ∧
      checkRange (run0.ownObj 0) x pX 2 4 = none ∧ (2 : Int) % 4 ≠ 0) ∧
    checkRange (runTail.ownObj 0) runTail.me.pcc pX 0 4 = none ∧ runTail.fetchWord 0 0 runTail.me.pcc 0 = .word 0xC0000000 ∧ fCls 0xC0000000 = 3 :=
  ⟨by decide +kernel, by decide +kernel, by decide +kernel, by decide +kernel, rfl, by decide⟩

/-- c3 names bytes [100, 20001) in granules of 1, with every right and the cursor at 100; s4 to s6 hold lengths. -/
def derive (len : W64) : State := (handler.setCreg 3 (Cap.make 0x103 100 0 0 16383 255)).setSreg 4 len
theorem wit_capabilities : handler.me.mode = true ∧ Admits handler { reads := [4, 5] } ∧ Admits handler { reads := [31, 0] } ∧
    ({ bits := (Cap.make 0x103 100 0 0 16383 255).bits, tag := true } : Cap).ok = true ∧ ({ bits := 1, tag := true } : Cap).ok = false := by
  unfold Admits; decide +kernel
theorem wit_derivation : (let x := (derive 0).creg 3
      x.tag = true ∧ x.has pD = true ∧ boundCap x x.cur 100 = some (Cap.make 0x103 100 0 100 100 255) ∧ x.base ≤ x.cur ∧
      (0 : Nat) % 2 ^ 35 = 0 ∧ (x.cur : Int) + 2 ^ 48 > 2 ^ 48) ∧
    (let x := (derive 16283).creg 3; let t := x.cur + 16283
      (t : Int) = x.cur + ((derive 16283).readReg 4).toInt ∧ (t + 2 ^ 0 - 1) / 2 ^ 0 ≤ 16383 ∧ x.base ≤ x.cur / 2 ^ 0 * 2 ^ 0 ∧
      (t + 2 ^ 0 - 1) / 2 ^ 0 * 2 ^ 0 ≤ x.top) ∧
    (let x : Cap := Cap.make 0x103 101 0 101 16383 255; let t := 101 + 16284
      (t + 2 ^ 1 - 1) / 2 ^ 1 ≤ 16383 ∧ (∀ k, k < 1 → 16383 < (t + 2 ^ k - 1) / 2 ^ k) ∧ x.cur / 2 ^ 1 * 2 ^ 1 < x.base) ∧
    ((derive 0).creg 5).tag = false ∧ (capOf 0x103 0 0 64 1).has pD = false := by decide +kernel
theorem wit_trapEntry : run0.me.finder = false ∧ run0.me.ldc = 0 ∧ run0.me.mode = false ∧ run0.entryOk run0.me.fld run0.me.ecap = false ∧
    { run0 with me := { run0.me with ecap := run0.me.pcc } }.entryOk 0 run0.me.pcc = true ∧ run0.me.stat = .running ∧ finder0.me.finder = true :=
  ⟨rfl, rfl, rfl, by decide +kernel, by decide +kernel, rfl, rfl⟩
theorem wit_trapInstructions : isHead 0x80300048 = true ∧ isHead 0 = false ∧
    ({ run0.me with trap := some (mkTrap 0x18 0 0 0) } : Strand).trap = some (mkTrap 0x18 0 0 0) := by decide
theorem wit_halt : run0.me.stat ≠ .free ∧ run0.me.stc = 0 ∧ run0.me.xpc = 0 ∧ run0.me.tlc = 0 ∧
    ({ run0.me with ldc := 1 } : Strand).ldc ≠ 0 := by decide
theorem wit_systemRegisters : (0x10#12).toNat ≤ 0x10 ∧ sysIsH 0x10 = false ∧ sysIsH 0 = true ∧ 0x11 < (0x12#12).toNat ∧ sysIsCap 0 = false := by
  decide

/-! Accesses: local0's c3 has the sectors of its scratchpad from 0x40 on -/

theorem wit_loads : local0.me.finder = false ∧ Admits local0 { loads := [7] } ∧ Admits local0 { loads := [0] } ∧ local0.me.ldc < 63 ∧
    (let x := local0.creg 3; local0.checkAccess x pR (x.cur + 8) 8 1 = none ∧ local0.checkAccess x pR (x.cur + 0x1B8) 8 2 = none ∧
      let a := local0.strandAccess x.obj (x.cur + 8) 8 .read 0 1
      local0.behind local0.meWho a = false ∧ ∃ u v tag fl rs, local0.performSync a = (u, .val v tag fl, rs)) ∧
    (let x := local0.creg 3; local0.checkAccess x pR x.cur 16 1 = none ∧ ∃ u v tag fl rs,
      local0.performSync (local0.strandAccess x.obj x.cur 16 .capRead 0 1) = (u, .val v tag fl, rs)) := by
  unfold Admits
  exact ⟨rfl, by decide +kernel, by decide +kernel, by decide, ⟨by decide +kernel, by decide +kernel, by decide +kernel, _, _, _, _, _, rfl⟩,
    by decide +kernel, _, _, _, _, _, rfl⟩
theorem wit_fullCounter : 63 ≤ ({ local0.me with ldc := 63 } : Strand).ldc := by decide
/-- An indexed load of a byte at scope 1, plain. -/
def ldxW : LF := { d := 7, a := 3, b := 4, fn := 0, x := 1, g := 0, imm := 0 }
theorem wit_indexed : (Instr.ldx ldxW).wf = true ∧ (Instr.stx ldxW).wf = true ∧ local0.bindOf ldxW.b = none ∧
    Admits local0 { reads := [ldxW.b], loads := [ldxW.d] } ∧ local0.pred 0 = true ∧ local0.pred 1 = false ∧
    local0.checkAccess (local0.creg 3) pR 0x40 1 1 = none ∧ local0.checkAccess (local0.creg 3) pW 0x40 1 1 = none ∧
    ∃ u v tag fl rs, local0.performSync (local0.strandAccess (local0.creg 3).obj 0x40 1 .read 0 1) = (u, .val v tag fl, rs) := by
  unfold Admits
  exact ⟨by decide, by decide, by decide +kernel, by decide +kernel, by decide +kernel, by decide +kernel, by decide +kernel, by decide +kernel,
    _, _, _, _, _, rfl⟩
theorem wit_scratchpad : InScratchpad local0 (local0.creg 3) 0 16 ∧ InScratchpad local0 (local0.creg 3) (step512 - 16) 16 ∧
    local0.Canonical ∧ local0.me.stc < 63 ∧ local0.unperformed = false ∧ local0.me.relFence = [] ∧ local0.poison.contains (spKey 0 0 / 16) = false ∧
    local0.checkAccess (local0.creg 3) pW 0x40 8 2 = none ∧ local0.checkAccess (local0.creg 3) pW 0x40 16 1 = none := by
  unfold InScratchpad State.Canonical; decide +kernel
/-- The checks of R24, each failing in its turn: no tag; no r; another field's scratchpad; below the base; beyond the top; alignment. -/
theorem wit_accessChecks : (local0.creg 5).tag = false ∧ (capOf 0x103 0 0 64 2).perm % 2 = 0 ∧
    (let x := capOf (local0.ownObj 0 + 1) 0 0 64 1; x.tag = true ∧ x.perm % 2 = 1 ∧ localObj ≤ x.obj ∧ x.obj ≠ local0.ownObj 0) ∧
    (let x := capOf 0x103 0 8 64 1; x.obj < localObj ∧ (7 : Int) < x.base ∧ x.base ≤ 57 ∧ (x.top : Int) < 57 + 8 ∧ (57 : Int) % 8 ≠ 0) ∧
    (let x := capOf 0x103 0 8 64 1; (x.base : Int) ≤ 9 ∧ (9 : Int) + 2 ≤ x.top ∧ (9 : Int) % 2 ≠ 0) := by decide +kernel

/-- Stores of the orderings that a store may have, with nothing outstanding. -/
theorem wit_releasingStores : Quiet local0 ∧ local0.me.binds = [] ∧ ∀ fn ∈ [0, 16, 32], (let w : LF := { ldxW with fn := fn }; (Instr.stx w).wf = true ∧
    local0.struck 0 (local0.ownObj 0) 0x40 1 = [] ∧ (let a := local0.strandAccess (local0.ownObj 0) 0x40 1 (.write 0) (fn.toNat / 8 % 8) 1
      !a.late ∧ (match local0.performSync a with
        | (_, .val _ _ _, _) => true
        | _ => false) = true)) := by unfold Quiet; decide +kernel

/-- run0 with c3 for the page that it runs from, which is mapped for reads and writes. -/
def homed : State := run0.setCreg 3 (capOf 0x100 0x40 0 0x1000 255)
theorem wit_homedStores : (let x := homed.creg 3; let a (sc : Nat) := homed.strandAccess x.obj 0x48 8 (.write (homed.sreg 4).toNat) 0 sc
      homed.checkAccess x pW 0x48 8 (a 1).scope = none ∧ homed.checkAccess x pW 0x48 8 (a 2).scope = none ∧ x.obj < localObj ∧
      x.obj / 8 % 32 = homed.pkg ∧ homed.me.stc < 63 ∧ homed.unperformed = false ∧ homed.me.relFence = [] ∧ homed.struck 0 x.obj 0x48 8 = [] ∧
      homed.l1At 0 0 x.obj (0x48 / 16) = none) ∧
    ∃ k side u, homed.translate 0 0x100 0x48 true = .ok k 0 side ∧ k % 16 = 0x48 % 16 ∧ homed.poison.contains (k / 16) = false ∧
      homed.checkRace (homed.strandAccess 0x100 0x48 8 (.write 0) 0 2) true = .ok u :=
  ⟨by decide +kernel, _, _, _, rfl, by decide +kernel, by decide +kernel, rfl⟩

/-- local0 with a load into s7, a store and an atomic of its own in flight. -/
def flying (ph : Phase) (op : AccOp) (d : Dst) : State :=
  { local0 with flights := [{ id := 1, who := .strand 0 0, acc := local0.strandAccess (local0.ownObj 0) 0x40 4 op 0 1, dst := d, sext := true, phase := ph, num := 0 }]
                me := { local0.me with dests := [(1, d)], ldc := 1, stc := 1 } }
theorem wit_flights : (let s := flying (.done 5 false) .read (.reg 7);
      (s.flights.find? (fun g => g.id = 1 && (g.isDone && g.ofStrand && g.acc.op.reads))).isSome = true ∧ s.me.at s.me.fld s.me.slot = true ∧
      s.me.dests.contains (1, .reg 7) = true ∧ ({ s with me := { s.me with dests := [] } } : State).me.dests.contains (1, .reg 7) = false) ∧
    (let s := flying (.done 0 false) (.write 5) .drop;
      (s.flights.find? (fun g => g.id = 1 && (g.isDone && g.ofStrand && !g.acc.op.reads))).isSome = true ∧ s.me.at s.me.fld s.me.slot = true) ∧
    (∀ ph ∈ [Phase.arriving, .retry], ∀ op ∈ [AccOp.read, .atomic 0 1], let s := flying ph op (.reg 7)
      s.flights.find? (fun g => g.id = 1) = s.flights.head? ∧ s.flights.countP (fun g => g.id = 1) = 1 ∧
      s.flights.all (fun f => !s.waitsBehind f && s.replyOf 1 f.acc == none && f.who != .host && (match s.performSync f.acc with
        | (_, .val .., _) => true
        | _ => false)) = true) := by decide +kernel

/-- homed with a value of n bytes at an offset of its page. -/
def inPage (off n v : Nat) : State :=
  match homed.translate 0 0x100 off true with
  | .ok k _ _ => { homed with mem := writeLE homed.mem k n v }
  | _ => homed
/-- A long instruction on c3, s4 and s7 at scope x. -/
def atC3 (fn : BitVec 9) (x : BitVec 5) (imm : BitVec 22) : LF := lf 7 3 4 fn x 0 imm
theorem wit_atomics : Runs local0 (atC3 0 1 0) ∧ Quiet local0 ∧ local0.checkAccess (local0.creg 3) 19 0x40 4 1 = none ∧
    (Instr.atomAdd (atC3 0 1 0)).wf = true ∧ (Instr.atomcas (atC3 0 1 0)).wf = true ∧
    (∃ u v tag fl rs, local0.performSync (local0.strandAccess (local0.creg 3).obj 0x40 4 (.atomic 9 0) 0 1) = (u, .val v tag fl, rs)) ∧
    (∃ u v tag fl rs, local0.performSync (local0.strandAccess (local0.creg 3).obj 0x40 4 (.cas 0 0) 0 1) = (u, .val v tag fl, rs)) := by
  unfold Runs Quiet
  exact ⟨by decide +kernel, by decide +kernel, by decide +kernel, by decide, by decide, ⟨_, _, _, _, _, rfl⟩, _, _, _, _, _, rfl⟩
theorem wit_atomicResults : ∀ n ∈ [4, 8], let a := local0.strandAccess (local0.ownObj 0) (step512 - n) n (.atomic 9 0) 0 1
    a.n = n ∧ localObj ≤ a.obj ∧ a.off % n = 0 ∧ a.off + n ≤ (local0.fieldOf a.fld).n * step512 ∧
      (local0.fieldOf a.fld).n ≤ (local0.fieldOf a.fld).nmax ∧ (local0.fieldOf a.fld).moving = none := by decide +kernel
/-- Vector atomics with one element at offset 0 (applies) or 1 (misaligned), and with the element skipped. -/
def vecState (off skip : Nat) : State := { local0.setSreg 7 (BitVec.ofNat 64 skip) with mem := writeLE local0.mem (spKey 0 0x40) 8 off }
def vecW : LF := lf 7 3 3 0 1 0 0
theorem wit_vectorAtomics : Runs (vecState 0 0) vecW ∧ (Instr.vatom vecW).wf = true ∧ (Instr.vatomcas vecW).wf = true ∧
    checkRange (local0.ownObj 0) (local0.creg 3) 3 0x40 32 = none ∧ (local0.creg 3).cur % 16 = 0 ∧ Quiet (vecState 0 0) ∧
    (let block (s : State) (skip : Nat) := vatomBlock (local0.creg 3) (local0.creg 3) 1 false skip s (List.range 1);
      let loop (s : State) := match block s 0 with
        | .ok b l => vatomLoop (local0.creg 3) (local0.creg 3) vecW false 4 b 0 0 [] (pageRuns l)
        | _ => .wait s 0 0 []
      (match loop (vecState 0 0) with
        | .ok u _ _ rs => (u.vatomAcquire vecW rs).any fun v => !v.me.finder
        | _ => false) = true ∧
      (match loop (vecState 1 0) with
        | .fault _ _ u _ _ _ => !u.me.finder
        | _ => false) = true ∧ (1 : Nat) = 2 ^ 1 - 1) ∧ (vecState 0 0).me.vmask = none ∧
    -- an operand block in another package
    (let s := local0.setCreg 5 (capOf 0x908 0 0 0x1000 255); checkRange (s.ownObj 0) (s.creg 5) 3 0 16 = none ∧
      (match vatomBlock (s.creg 3) (s.creg 5) 1 false 0 s [0] with
        | .raise _ _ => true
        | _ => false) = true) := by
  unfold Runs Quiet; decide +kernel

/-- run0 with commands of its own that a controller holds. -/
def flushed (status : Nat) : State :=
  { run0 with nvcmds := [{ pair := 1024, cid := 0, opc := 0, nsid := 1, who := some (0, 0), ctx := 0, flush := true, swap := none, sqe := [], pins := [], data := []
                           fld := 0, party := 0, round := 0, status := status, done := true }] }
theorem wit_fences : Quiet run0 ∧ (run0.ctxOf 0).scopeOk 0 = true ∧ (run0.ctxOf 0).scopeOk 4 = true ∧
    (run0.acquireFrom 0 run0.myParty (run0.memberSet 0 0 4) run0.me.lastRels).any (fun u => !u.me.finder) = true ∧
    run0.streams = [] ∧ run0.nvcmds = [] ∧ run0.me.stWrites = [] ∧
    (∀ v ∈ [0, 1], ∀ q ∈ (flushed v).nvcmds, q.who = some (0, 0) ∧ q.flush = true ∧ q.done = true ∧ q.status = v) := by
  unfold Quiet
  exact ⟨by decide +kernel, by decide +kernel, by decide +kernel, by decide +kernel, rfl, rfl, rfl, by decide +kernel⟩

/-- A descriptor of the field kind for field 0 at 0x200, SCOPE_DEF for the page, and scope entry 5 defined. -/
def scopeSt : State :=
  let s := inPage 0x200 16 (1 + 2 ^ 64)
  { s with me := { s.me with sdef := capOf 0x100 0x400 0 0x1000 255 }
           ctxs := [{ s.ctxOf 0 with scopes := [{ ix := 5, kind := 1, gen := 63, pkg := 0, smask := 0, fmask := 1, dmask := 0 }] }] }
/-- A write of bytes of the descriptor of an entry, as ScopeWritten has it. -/
def putDesc (s : State) (x : Nat) (b : List Byte) : PutRes :=
  s.putPieces { s.strandAccess s.me.sdef.obj (s.me.sdef.cur + 64 * x) 16 (.write 0) 0 4 with sync := true, rel := [] }
    ((List.range ((b.length + 15) / 16)).map fun i => (s.me.sdef.cur + 64 * x + 16 * i, (b.drop (16 * i)).take 16))
theorem wit_scopes : Runs scopeSt (atC3 0 5 0x1C0) ∧ ((scopeSt.ctxOf 0).scope 5).isSome = true ∧ (scopeSt.ctxOf 0).scope 31 = none ∧
    checkCap (scopeSt.ownObj 0) (scopeSt.creg 3) 65 0x200 64 = none ∧ checkCap (scopeSt.ownObj 0) (scopeSt.creg 3) 1 0x200 64 = none ∧
    scopeSt.captured 0 5 0 = false ∧ checkRange (scopeSt.ownObj 0) scopeSt.me.sdef 2 (0x400 + 64 * 31) 2 = none ∧
    (match putDesc scopeSt 5 [0, 1] with
      | .ok v => !v.me.finder
      | _ => false) = true ∧
    (match scopeSt.bindSecs (scopeSt.bindAccess 0x100 0x200) 4 with
      | .ok u l => (match putDesc u 5 (secBytes l) with
        | .ok v => !v.me.finder
        | _ => false)
      | _ => false) = true ∧
    ∃ u l e, scopeSt.bindSecs (scopeSt.bindAccess 0x100 0x200) 4 = .ok u l ∧ parseScope 5 (secBytes l) = some e ∧ u.me = scopeSt.me ∧
      u.ctxs = scopeSt.ctxs ∧ u.flights = scopeSt.flights ∧ l.length = 4 := by
  unfold Runs
  exact ⟨by decide +kernel, by decide +kernel, by decide +kernel, by decide +kernel, by decide +kernel, by decide +kernel, by decide +kernel,
    by decide +kernel, by decide +kernel, _, _, _, rfl, rfl, by decide +kernel, by decide +kernel, by decide +kernel, rfl⟩

/-- homed with a barrier of two, a arrivals counted, on the sector at 0x40. -/
def barred (n a : Nat) (p : W32) : State := { homed with bars := [{ ctx := 0, obj := 0x100, sec := 4, n := n, a := a, p := p, arrivals := [] }] }
theorem wit_barriers : Runs homed (atC3 0 1 0) ∧ Quiet homed ∧ homed.checkSync (homed.creg 3) 0x40 1 = none ∧ homed.isMonitor 0x100 0x40 = false ∧
    (homed.sreg 4).toNat = 0 ∧ 0 < ((homed.setSreg 4 (2 ^ 32 - 1)).sreg 4).toNat ∧ 2 ^ 32 ≤ ((homed.setSreg 4 (2 ^ 32)).sreg 4).toNat ∧
    homed.barAt 0x100 0x40 = none ∧ homed.tableFull 0x100 0x40 0 = false ∧
    (∃ b, (barred 2 1 3).barAt 0x100 0x40 = some b ∧ b.a + 1 = b.n) ∧ (∃ b, (barred 2 0 3).barAt 0x100 0x40 = some b ∧ b.a + 1 ≠ b.n) ∧
    (let d (k : W32) := ((3 : W32) - k).toNat; d 3 = 0 ∧ 2 ^ 31 < d 4 ∧ d 2 = 1 ∧ d (3 - 2 ^ 31) = 2 ^ 31) ∧
    ((barred 2 0 3).acquireFrom 0 (barred 2 0 3).myParty ((barred 2 0 3).memberSet 0 0 1) []).any (fun u => !u.me.finder) = true := by
  unfold Runs Quiet
  exact ⟨by decide +kernel, by decide +kernel, by decide +kernel, by decide +kernel, by decide +kernel, by decide +kernel, by decide +kernel,
    by decide +kernel, by decide +kernel, ⟨_, rfl, rfl⟩, ⟨_, rfl, by decide⟩, by decide, by decide +kernel⟩
def arm (woken : Nat) : Arm := { ctx := 0, obj := 0x100, sec := 4, fld := 0, slot := 0, woken := woken, rel := none }
theorem wit_monitors : homed.disarm.tableFull 0x100 0x40 0 = false ∧ ((homed.setSreg 4 1).sreg 4).toNat ≤ 1 ∧ (homed.ctxOf 0).scopeOk 1 = true ∧
    homed.arms = [] ∧ (∀ v ∈ [0, 1, 2], (let s := { homed with arms := [arm v] }
      s.arms.find? fun a => decide (a.fld = s.me.fld) && decide (a.slot = s.me.slot)) = some (arm v)) ∧
    ({ homed.me with waiting := true, timedOut := true } : Strand).waiting = true := by decide +kernel

/-- The next state, or run0. -/
def next (o : Out) : State :=
  match o with
  | .next t => t
  | _ => run0
/-- local0 with tile 3 of one unit in a state. -/
def tiled (st : TileSt) : State := local0.setField { local0.fieldOf 0 with tiles := [{ ix := 3, base := 0, len := 1, st := st }] }
/-- A table that defines tile 63 as the last unit but one of a step, and tables with a reserved bit, a length of 0 and an overlap. -/
def tileTable (d e : Nat) : List Nat := List.replicate 62 0 ++ [d, e]
theorem wit_tileTable : (tileTable 0 (tileDesc (step512 / 64 - 1) 1)).length = 64 ∧
    (match buildTiles step512 [] (tileTable 0 (tileDesc (step512 / 64 - 1) 1)).zipIdx with
      | .ok ts => ts.length == 1
      | .error _ => false) = true ∧
    (∀ p ∈ [(0, tileDesc 0 1 + 2 ^ 35, 2), (0, tileDesc 0 0, 3), (tileDesc 0 2, tileDesc 1 1, 0), (0, tileDesc (step512 / 64) 1, 3)],
      (match buildTiles step512 [] (tileTable p.1 p.2.1).zipIdx with
        | .error k => k.code == 0x0F && k.faddr.toNat / 256 == p.2.2
        | .ok _ => false) = true) := by decide +kernel
theorem wit_tiles : Runs local0 (atC3 0 0 0) ∧ checkRange (local0.ownObj 0) (local0.creg 3) 1 0x40 512 = none ∧ (local0.fieldOf 0).tiles = [] ∧
    (match local0.readMany (local0.creg 3).obj 0x40 8 1 64 with
      | .ok u vs => u.me == local0.me && (u.fieldOf 0).nmin == (local0.fieldOf 0).nmin && (match buildTiles ((local0.fieldOf 0).nmin * step512) [] vs.zipIdx with
        | .ok ts => ts.isEmpty
        | .error _ => false)
      | _ => false) = true ∧
    (∀ st ∈ [TileSt.filling, .ready, .draining], ((tiled st).fieldOf 0).tile 3 = some { ix := 3, base := 0, len := 1, st := st }) ∧
    (((tiled .ready).setSreg 4 8).sreg 4).getLsbD 3 = true ∧ ((tiled .ready).fieldOf 0).tileCode 3 = 2 ∧
    (((tiled .ready).setSreg 4 1).sreg 4).getLsbD 0 = true ∧ ((tiled .ready).fieldOf 0).tileCode 0 = 4 := by
  unfold Runs; decide +kernel

/-- homed with a dirty sector in the L1 of field 0. -/
def cached : State := next (exec (.stD 4 0 3 0) homed)
theorem wit_caches : Runs homed (atC3 0 1 0) ∧ (homed.ctxOf 0).scopeOk 1 = true ∧ checkRange (homed.ownObj 0) (homed.creg 3) 1 0x40 0 = none ∧
    checkRange (homed.ownObj 0) (homed.creg 3) 3 0x40 16 = none ∧ (homed.creg 3).obj < localObj ∧ localObj ≤ (local0.creg 3).obj ∧
    (homed.setSreg 4 (16 + 2 ^ 48)).sreg 4 = 16 + 2 ^ 48 ∧ (∀ e ∈ homed.l1, e.dirty = 0) ∧
    (cached.l1At 0 0 0x100 4).any (fun e => decide (e.dirty ≠ 0)) = true ∧
    (match cached.writeBacks cached.l1 with
      | (_, .ok) => true
      | _ => false) = true ∧
    (cached.l1.all fun e => match cached.writeBack e with
      | (_, .ok) => true
      | _ => false) = true := by
  unfold Runs; decide +kernel
/-- A prefetch of homed's page, of no bytes, and one that its guard skips. -/
theorem wit_prefetches : Runs homed (atC3 0 1 0) ∧ (homed.ctxOf 0).scopeOk 1 = true ∧ (homed.ctxOf 0).scopeOk 5 = false ∧
    checkRange (homed.ownObj 0) (homed.creg 3) 1 0x40 16 = none ∧ ((homed.setSreg 4 16).sreg 4).toNat % 2 ^ 48 = 16 ∧
    ({ homed with me := { homed.me with preds := Vector.replicate 8 false } } : State).pred 1 = false := by
  unfold Runs; decide +kernel
/-- homed with a clean copy of the sector at 0x40. -/
def probed : State := { cached with l1 := cached.l1.map fun e => { e with dirty := 0 } }
theorem wit_cacheSteps : (probed.l1At 0 0 0x100 4).any (fun e => e.dirty == 0) = true ∧
    (match probed.translate 0 0x100 64 false with
      | .ok k kind side => (probed.portRead k kind side 64).isSome
      | _ => false) = true ∧
    ({ homed.fieldOf 0 with n := 2, nmin := 1, nmax := 2, backing := capOf 0x100 0 0 0x1000 3, moving := some false } : Field).moving = some false ∧
    (homed.elasticCopy 0 0 (capOf 0x100 0 0 0x1000 3) step512 step512 true 2).isSome = true ∧
    (match probed.giveWays 0 with
      | .ok v => v.l1.isEmpty
      | .error _ => false) = true := by decide +kernel
theorem wit_query : (homed.creg 3).tag = true ∧ (local0.creg 5).tag = false ∧ homed.pkg = 0x100 / 8 % 32 ∧ homed.me.ldc < 63 ∧
    homed.almanac 0 0 ≠ 0 ∧ (homed.descAt 0 0 0x100).ok 0x100 = true ∧ (homed.descAt 0 0 0x100).npg = 1 ∧ (homed.descAt 0 0 0x100).kind = 0 := by
  decide +kernel
/-- `carve` with 0 and 15 steps is asked for; 4 is no pair of numbers with max at least min. -/
theorem wit_carve : (∀ n ∈ [0, 15], (17 * n) % 16 = n ∧ n * 17 = 17 * n) ∧ (local0.fieldOf 0).tiles = [] ∧
    (local0.fieldOf 0).n = (local0.fieldOf 0).nmin ∧ (local0.fieldOf 0).moving = none ∧ local0.scratchBusy 0 = false ∧ 4 / 16 % 16 < 4 % 16 := by decide +kernel

/-- homed with one slot of field 0, its elements and channels, and s4. -/
def fab (st : SlotSt) (pend : Pend) (es : List Elem) (cs : List Chan) (v : W64 := 0) : State :=
  { homed.setSreg 4 v with slots := [{ Slot.blank 0 0 with st := st, pend := pend, elems := es, owner := some (0, 0), img := capOf 0x100 0x400 0 0x1000 255 }], chans := cs }
/-- An element with operation op and parameters p, and one of a router. -/
def el (site op p : Nat) : Elem := Elem.fresh site false 0 (BitVec.ofNat 256 (op * 2 ^ 235 + p)) 0
def sw (site op p : Nat) : Elem := Elem.fresh site true 0 (BitVec.ofNat 256 (op * 2 ^ 235 + p)) 0
def ch (id : Nat) (vec : Bool) (src dst : Port) (q : List Beat) : Chan :=
  { id := id, slot := 0, vec := vec, src := src, dst := dst, cap := 4, q := q, openv := false, kill := false, stopped := false, discard := 0 }
def pt (site ix : Nat) (sw : Bool := false) : Port := { fld := 0, site := site, sw := sw, ix := ix }
/-- An image of one section with one frame, a queue-in port that is a round source. -/
def sourceFrame : Frame := BitVec.ofNat 256 (2 ^ 254 + 6 * 2 ^ 235 + 2 ^ 201)
def imageHead : Frame :=
  let h : Frame := BitVec.ofNat 256 (2 * 2 ^ 254 + 255 * 2 ^ 244 + 2 ^ 224 + 2 ^ 220 + 200 * 2 ^ 188)
  h ||| BitVec.ofNat 256 (crc32c (frameBytes h ++ frameBytes sourceFrame) * 2 ^ 156)
def withImage (s : State) (good : Bool) : State :=
  { s with mem := (inPage 0x400 64 ((if good then imageHead.toNat else 0) + sourceFrame.toNat * 2 ^ 256)).mem }

theorem wit_regions : Takes (fab .installed .none [] []) 4 ∧ MayStart (fab .installed .none [] []) ∧
    (match (fab .installed .none [] []).readySlot 0 with
      | .ok sl => decide (∀ q ∈ (fab .installed .none [] []).rivals sl, q.st ≠ .running)
      | _ => false) = true ∧ (fab .installed .none [] []).me.xpc < 63 ∧
    (fab .running .none [] []).regionWord 0 = some (0, 0) ∧ (fab .running .none [] []).regionWord 1 = none ∧
    ((fab .running .none [] []).slotOf 0 0).st = .running ∧ ((fab .running .stop [] []).slotOf 0 0).pend ≠ .none := by
  unfold Takes MayStart Quiet; decide +kernel
theorem wit_installs : (match (fab .empty .none [] []).cfgArgs (homed.creg 3) 0, (fab .running .none [] []).cfgArgs (homed.creg 3) 0 with
      | .inr a, .inr b => a.st == .empty && b.st == .running && a.pend == .none && b.why == 0
      | _, _ => false) = true ∧
    (fab .running .none [] []).taskField 0 = some 0 ∧ (0 : Nat) / 2 ^ 12 = 0 ∧ (7 * 256) / 256 % 16 = 7 ∧
    (let c := { homed.ctxOf 0 with round := 5, openRound := 5 }; 1 ≤ (c.round - 4).toNat ∧ (c.round - (5 - 2 ^ 31)).toNat ≤ 2 ^ 31 ∧ c.round = 5) := by
  decide +kernel
theorem wit_slotSteps : ((fab .running .stop [] []).slotOf 0 0).pend = .stop ∧ (fab .running .stop [] []).quiet ((fab .running .stop [] []).slotOf 0 0) = true ∧
    ((fab .running .partDrain [el 2 1 0] []).slotOf 0 0).elems.find? (fun e => e.at 2 false) = some (el 2 1 0) ∧
    ({ s := run0, sl := Slot.blank 0 0, e := el 2 1 0 } : Fx).passed 0 = true ∧
    ((fab .running .none [el 2 1 0] []).fxAt 0 2 false fun e => !e.ramped).isSome = true ∧
    (match (withImage (fab .installing .read [] []) true).readImage ((fab .installing .read [] []).slotOf 0 0) with
      | .ok u [q] => u.slotOf 0 0 == (fab .installing .read [] []).slotOf 0 0 && u.sectionsOk 0 1 && firstBad [checkImage 0 [q], u.circuitTaken 0 [q]] == none
      | _ => false) = true ∧
    (match (withImage (fab .installing .read [] []) false).readImage ((fab .installing .read [] []).slotOf 0 0) with
      | .fail _ why k => why == 1 && k == 0
      | _ => false) = true ∧
    (match (withImage (fab .installed .part [] []) true).readImage ((fab .installed .part [] []).slotOf 0 0) with
      | .ok u [q] => u.slots == (fab .installed .part [] []).slots && u.sectionsOk 0 1 &&
          checkPartial 0 [q] [[imageHead, sourceFrame]] (u.chans.filter (·.slot = 0)) 0 == none
      | _ => false) = true := by decide +kernel

/-- A compute element with a stationary operand of one word. -/
def stat : Elem := el 2 1 (2 ^ 202)
theorem wit_stationary : tileWordOk (2 + 2 ^ 10) = true ∧ tileWordOk (2 ^ 20) = false ∧ tileWordOk 2 = true ∧
    ((fab .installing .read [stat] []).slotOf 0 0).loading = true ∧ (fab .running .none [stat] []).fills = [] ∧
    (fab .running .none [stat] []).fillWaits { fld := 0, slot := 0, site := 2, owner := 0, cap := homed.creg 3, n := 1 } = false ∧ (match (fab .running .none [stat] []).tileElem (2 + 2 ^ 10) with
      | .inr (sl, e) => sl.idx == 0 && e.fillCount == 1
      | .inl _ => false) = true ∧ (2 + 2 ^ 10) / 2 ^ 10 % 2 ^ 10 = 1 ∧ checkRange (homed.ownObj 0) (homed.creg 3) 1 0x40 4 = none ∧
    ((fab .running .none [stat] []).slotOf 0 0).loading = false ∧ homed.me.tlc < 63 ∧ (2 : Nat) / 2 ^ 10 % 2 ^ 10 = 0 ∧
    (match ({ fab .running .none [stat] [] with fills := [{ fld := 0, slot := 0, site := 2, owner := 0, cap := homed.creg 3, n := 1 }] } : State).readRun 0 0 0 (homed.creg 3) 4 1 0x40 with
      | .ok _ vs => vs.length == 1
      | _ => false) = true := by decide +kernel
/-- A queue-in port and a queue-out port at row 0, and a strand entry. -/
def port (p : Nat) : State := fab .running .none [el 0 6 p] []
theorem wit_queues : (port 0).queueAt 0 = none ∧ ((port 0).slotOf 0 0).hasPort 0 0 = true ∧ ((port 1).slotOf 0 0).hasPort 0 1 = true ∧
    ((port 0).portBind 0 0 0).isSome = false ∧ ((bound true [5]).queueAt 0).any (fun b => b.push && !b.removed) = true ∧
    ((bound false [5]).queueAt 0).any (fun b => !b.push) = true ∧ (bound true []).me.dests = [] := by decide +kernel
/-- `enter` and `await` of register s1, at row 0. -/
theorem wit_entersFabric : maskBad (2 ^ 33) 2 = false ∧ maskBad (2 ^ 33) 10 = false ∧ (∀ r ∈ maskRegs (2 ^ 33), (port 2).bindOf r = none) ∧
    ((port 2).fxAt 0 0 false fun e => e.op = 0x06 && e.p 0 2 = 2).any (fun x => x.e.outq.isEmpty && !x.sends && !x.closes) = true ∧ (port 2).settling 0 = false ∧
    ((fab .running .none [{ el 0 6 2 with ramped := true }] []).fxAt 0 0 false fun e => e.op = 0x06 && e.p 0 2 = 2).any Fx.sends = true ∧ (port 2).me.exitRec = none ∧
    (2 : Nat) = 2 * (maskRegs (2 ^ 33)).length ∧ (maskRegs (2 ^ 33)).getD 0 0 ≠ 0 := by decide +kernel
/-- A strand into field 0 from the code page, and a task record to a queue with room. -/
def spawner : State :=
  let s := (inPage 0x440 64 (run0.me.pcc.bits.toNat + (1 + 2 ^ 16) * 2 ^ 192 * 2 ^ 192)).setCreg 3 (capOf 0x100 0x440 0 0x1000 255)
  { s with mqs := [{ s.mqOf 0 0 with en := true, ctx := 0 }], tags := match s.translate 0 0x100 0x440 true with
      | .ok k _ _ => [k / 16]
      | _ => [] }
theorem wit_spawn : Takes spawner 4 ∧ MayStart spawner ∧ Reachable spawner (spawner.creg 3) 0 ∧ spawner.taskField 0 = some 0 ∧ spawner.freeSlot 0 = some 1 ∧
    spawner.taskField 63 = none ∧ (spawner.mqOf 0 0).en = true ∧ (spawner.mqOf 0 0).hq = false ∧ (spawner.mqOf 0 0).recs.length < 256 ∧
    spawner.me.bound = none ∧
    (match spawner.bindSecs (spawner.bindAccess (spawner.creg 3).obj (spawner.creg 3).cur) 4 with
      | .ok u secs => u.me == spawner.me && u.mem == spawner.mem && !u.unperformed && u.l1.all (fun e => e.dirty == 0) && (parseTask secs 0 []).isSome
      | _ => false) = true :=
  ⟨by unfold Takes; decide +kernel, by unfold MayStart Quiet; decide +kernel, ⟨by decide +kernel, by decide, 0, rfl, by decide⟩, by decide +kernel, by decide +kernel,
    by decide +kernel, by decide +kernel, by decide +kernel, by decide +kernel, by decide +kernel, by decide +kernel⟩
theorem wit_finder : finder0.me.finder = true ∧ finder0.me.limit = 1 ∧ ({ finder0.me with stat := .stopped } : Strand).stat = .stopped ∧
    run0.me.idle = true ∧ (run0.taskOf run0.me.task).isSome = true ∧ ({ run0.me with ldc := 1 } : Strand).idle = false := by decide +kernel

/-- What stands at the inputs has a property if the first beat of every channel has it. -/
theorem heads_all (x : Fx) (p : Beat → Bool → Bool) (h : x.s.chans.all (fun c => c.q.head?.all fun b => p b c.vec) = true) :
    ∀ i b, x.head i = some b → p b (x.vec i) = true := by
  intro i b hb
  unfold Fx.head at hb
  unfold Fx.vec
  cases hc : x.inC i with
  | none => simp [hc] at hb
  | some c =>
    have hm : c ∈ x.s.chans := List.mem_of_find?_eq_some hc
    have := List.all_eq_true.mp h c hm
    simp only [hc, Option.bind_some] at hb
    simpa [hb] using this
/-- One element of field 0 with beats on a channel to its input 0. -/
def into (e : Elem) (vec : Bool) (q : List Beat) : State :=
  fab .running .none [e] [ch 1 vec (pt 3 0) (pt e.site 0 e.sw) q, ch 2 vec (pt e.site 0 e.sw) (pt 3 1) []]
/-- The same with beats to its inputs 0 and 1. -/
def into2 (e : Elem) (vec : Bool) (q0 q1 : List Beat) : State :=
  fab .running .none [e] [ch 1 vec (pt 3 0) (pt e.site 0 e.sw) q0, ch 3 vec (pt 4 0) (pt e.site 1 e.sw) q1, ch 2 vec (pt e.site 0 e.sw) (pt 3 1) []]
/-- The first element of the first slot. -/
def fx (s : State) : Fx := { s := s, sl := s.slotOf 0 0, e := (s.slotOf 0 0).elems.headD (el 0 0 0) }
/-- The first element of the first slot is the one at its site, and nothing but its own operation is due. -/
def there (s : State) (site : Nat) (w : Bool) (p : Elem → Bool) : Bool :=
  let x := fx s
  s.runningAt 0 == some (s.slotOf 0 0) && ((s.slotOf 0 0).elems.find? fun e => e.at site w && p e) == some x.e &&
    (x.e.stall == none && x.sl.dead == false && !x.unposted && x.sl.elems.all (fun d => d.stall == none) && x.s.chans.all (fun c => c.discard == 0) &&
      x.e.outq == [] && (!x.e.isC || (x.head 3 == none && x.e.lastIn == 0))) && x.s.chans.all fun c => c.q.head?.all fun b => b.isData c.vec
theorem there_clear (s : State) (site : Nat) (w : Bool) (p : Elem → Bool) (h : there s site w p = true) :
    s.fxAt 0 site w p = some (fx s) ∧ (fx s).clear := by
  simp only [there, Bool.and_eq_true, beq_iff_eq, List.all_eq_true (p := fun d : Elem => d.stall == none), List.all_eq_true (p := fun c : Chan => c.discard == 0),
    Bool.or_eq_true, Bool.not_eq_true'] at h
  obtain ⟨⟨⟨h0, h1⟩, ⟨⟨⟨⟨⟨⟨h2, h3⟩, h9⟩, h4⟩, h5⟩, h6⟩, h7⟩⟩, h8⟩ := h
  exact ⟨by simp only [State.fxAt, h0, h1, Option.map_some, fx], h2, h3, h9, h4, h5, h6, fun hc => by simpa [hc] using h7,
    heads_all (fx s) (fun b v => b.isData v) h8⟩
def hasOp (op : Nat) (e : Elem) : Bool := e.isC && e.op = op
/-- A value whose lanes are all zero, and its beats; a digit beat without a zero tail. -/
def zeros : List Beat := [headerBeat 0 0x55555555, digitBeat 0xFFFFFFFF 0]
/-- An element that has read a value at input 0. -/
def read (op p : Nat) (bs : List Beat) (live : Bool) : Elem := (el 2 op p).setGot 0 bs live


/-- An element reads a header, a digit beat with its round's number and with another, and a digit beat where a header is due;
nothing is there to read. -/
theorem wit_reads : IsValueOp 0 2 (.oneg 0 2) 0x08 false ∧ IsValueOp 0 2 (.oadd 0 2) 0x01 true ∧
    (∀ q ∈ [(el 2 8 0, [headerBeat 0 0], 1), (read 8 0 [headerBeat 0 0] true, [digitBeat 0 0], 0), (read 8 0 [headerBeat 0 0] true, [digitBeat 0 15], 2),
        (el 2 8 0, [digitBeat 0 0], 2), (el 2 8 0, [], 3)],
      let s := into q.1 true q.2.1; let x := fx s; there s 2 false (hasOp 8) = true ∧ x.killed [0] = false ∧ (x.e.gotAt 0).length < 2 ∧
        x.unended [0] = [0] ∧ (match x.takeBeat 0 with
          | some (.inr y) => q.2.2 == (if (y.e.gotAt 0).length < 2 then 1 else 0)
          | some (.inl _) => q.2.2 == 2
          | none => q.2.2 == 3 && x.head 0 == none) = true) ∧
    ∀ b ∈ [headerBeat 0 0, digitBeat 0 0], let s := into2 (el 2 1 0) true [headerBeat 0 0] [b]; let x := fx s
      there s 2 false (hasOp 1) = true ∧ x.killed [0] = false ∧ x.e.valIns true = [0, 1] ∧ x.unended [0, 1] = [0, 1] ∧
        (match x.takeBeat 0 with
          | some (.inr y) => (match x.takeBeat 1, y.takeBeat 1 with
            | some (.inr _), some (.inr z) => b.kind == 1 && decide ((z.e.gotAt 0).length < 2)
            | some (.inl _), _ => b.kind == 0
            | _, _ => false)
          | _ => false) = true :=
  ⟨.inl ⟨_, .tail _ (.tail _ (.tail _ (.tail _ (.tail _ (.tail _ (.tail _ (.head _)))))))⟩, .inl ⟨_, .head _⟩, by decide +kernel, by decide +kernel⟩
/-- An answer begins, cannot be written, goes on, and ends. -/
theorem wit_lanes : ∀ q ∈ [(8, 0, zeros, 0), (10, 2 ^ 15 - 1, [headerBeat 32767 0, digitBeat 0x55555555 0], 0),
      (8, 0, [headerBeat 0 0, digitBeat 0x55555555 0, digitBeat 0 0], 1), (8, 0, zeros, 2)],
    let s := into { read q.1 q.2.1 q.2.2.1 true with busy := decide (q.2.2.2 ≠ 0), sent := q.2.2.2 } true []; let x := fx s
    let rs := if q.1 = 8 then lanes1 laneNeg x else lanes1 (laneScl (2 ^ 15 - 1)) x
    there s 2 false (hasOp q.1) = true ∧ x.killed [0] = false ∧ 2 ≤ (x.e.gotAt 0).length ∧ x.goesOn [0] = [0] ∧ x.room 0 = true ∧ (x.leave [0]).isSome = true ∧
      (if q.2.2.2 = 0 then (match header rs with
        | .ok _ _ => q.1 == 8
        | .bad => q.1 == 10
        | .wait => false) else (digits rs x.e.sent 0).any fun b => b.allTail == decide (q.2.2.2 = 2)) = true := by decide +kernel
theorem wit_words :
    (∀ q ∈ [(zeros.take 1, zeros.drop 1, true), ([headerBeat 0 0], [digitBeat 0 0], false)],
      let s := into (read 14 0 q.1 true) true q.2.1; let x := fx s
      there s 2 false (hasOp 14) = true ∧ (match x.readIn [0] with
        | some (.inr y) => decide (2 ≤ (y.e.gotAt 0).length) && (allSome ((y.operand 0).map sgnCode)).isSome == q.2.2 && (y.finish [0]).room 0 &&
            ((y.finish [0]).gateOut 0).isSome
        | _ => false) = true) ∧
    (∀ op ∈ [0x0F, 0x10, 0x11], ∀ w ∈ [0xFFFF, 0x10000], let s := into (el 2 op 0) false [natBeat w]; let x := fx s
      there s 2 false (hasOp op) = true ∧ x.head 0 = some (natBeat w) ∧ x.vec 0 = false ∧ (x.gateIn 0).isSome = true ∧ x.e.words = []) ∧
    (∀ q ∈ [(0x10, [5]), (0x11, List.replicate 32 0)], let s := into { el 2 q.1 0 with words := q.2 } false []; let x := fx s
      there s 2 false (hasOp q.1) = true ∧ x.killed [0] = false ∧ x.stoppedOn 0 = false ∧ x.room 0 = true ∧ x.e.busy = false ∧ (x.leave [0]).isSome = true ∧
        x.e.words ≠ [] ∧ (q.1 = 0x11 → 16 * max (codeWidth x.e.fmt / 32) 1 ≤ x.e.words.length) ∧
        (match header ((lanesOf (List.replicate 16 (.zero false))).2.map LaneIn.res) with
          | .ok _ _ => true
          | _ => false) = true) ∧
    (let s := into { ((el 2 15 0).setGot 1 zeros true).setGot 2 zeros true with words := [1] } false []; let x := fx s
      there s 2 false (hasOp 15) = true ∧ 2 ≤ (x.e.gotAt 1).length ∧ 2 ≤ (x.e.gotAt 2).length ∧ x.e.cnt = 0 ∧
      (match header ((List.range 16).map fun k => match (x.operand 1)[k]? with
          | some l => laneUnder (max (x.e.expoAt 1) (x.e.expoAt 2)) l
          | none => .wait) with
        | .ok _ _ => true
        | _ => false) = true) := by decide +kernel
/-- The parts of an element with results for a round: a whole value, the marker, and the marker when nothing was sent. -/
theorem wit_rounds : ∀ op ∈ [0x13, 0x14, 0x15, 0x17], ∀ q ∈ [(read op (2 ^ 64) zeros false, [headerBeat 0 0]), (el 2 op (2 ^ 64), [markBeat true 0]),
      ((read op (2 ^ 64) zeros false).addVal 0 zeros |>.setGot 0 [] false, [markBeat true 0]), ({ el 2 op (2 ^ 64) with closing := true }, [markBeat true 0])],
    let s := into q.1 true q.2; let x := fx s
    (s.runningAt 0 == some (s.slotOf 0 0) && (x.sl.elems.find? fun e => e.at 2 false && hasOp op e) == some x.e) = true ∧ x.s.slotOf x.sl.fld x.sl.idx = x.sl ∧
      x.e.stall = none ∧ x.sl.dead = false ∧ x.unposted = false ∧ (∀ c ∈ x.s.chans, c.discard = 0) ∧ x.e.outq = [] ∧ x.head 3 = none ∧ x.e.lastIn = 0 ∧
      (x.s.chans.all fun c => c.q.head?.all fun b => !b.isCtl c.vec) = true ∧ x.killed [0] = false ∧ x.stoppedOn 0 = false ∧ x.inPorts = [0] ∧ x.e.busy = false ∧ x.room 0 = true ∧
      (x.leave [0]).isSome = true ∧ (x.marked 0 = true → (x.head 0).map (·.word) = some (x.e.rinAt 0)) ∧
      x.marked 0 = decide (q.2 = [markBeat true 0]) ∧ x.useless (x.e.p 64 16) = false := by decide +kernel
/-- The channel that leaves an element has been killed in the midst of a value. -/
def stops (s : State) : State := { s with chans := s.chans.map fun c => { c with stopped := decide (c.id = 2), began := true } }
/-- What every element does: a stall, a beat with room and without, markers, a marker of another round, an actor's rates. -/
theorem wit_frame :
    (let s := into { el 2 8 0 with stall := some { cause := 0x0B, why := 0x20, inp := 0, stage := 0, rcv := 0, obj := 0, off := 0 } } true []; let x := fx s
      (s.runningAt 0 == some (s.slotOf 0 0) && (x.sl.elems.find? fun e => e.at 2 false && hasOp 8 e) == some x.e) = true ∧ x.s.slotOf x.sl.fld x.sl.idx = x.sl ∧
        (x.s.chans.map (·.id)).Nodup) ∧
    (let x := fx (stops (into { el 2 8 0 with outq := [(0, digitBeat 0 0)] } true [])); x.stoppedOn 0 = true ∧ (x.outC 0).any (·.vec) = true) ∧
    (let s := into { el 2 8 0 with outq := [(0, natBeat 1)] } true []; let x := fx s
      (s.runningAt 0 == some (s.slotOf 0 0) && (x.sl.elems.find? fun e => e.at 2 false && hasOp 8 e) == some x.e) = true ∧ x.room 0 = true) ∧
    (let x := fx (fab .running .none [{ el 2 8 0 with outq := [(0, natBeat 1)] }] [ch 1 true (pt 2 0) (pt 3 0) [natBeat 0, natBeat 0, natBeat 0, natBeat 0]]);
      x.room 0 = false) := by decide +kernel
theorem wit_markers : ∀ b ∈ [markBeat true 0, markBeat true 1], let s := into (el 2 8 0) true [b]; let x := fx s
      (s.runningAt 0 == some (s.slotOf 0 0) && (x.sl.elems.find? fun e => e.at 2 false && hasOp 8 e) == some x.e) = true ∧ x.s.slotOf x.sl.fld x.sl.idx = x.sl ∧
      x.room 0 = true ∧ x.inPorts = [0] ∧ x.head 3 = none ∧ x.marked 0 = true ∧ ((x.head 0).map (·.word) = some (x.e.rinAt 0) ↔ b = markBeat true 0) := by
  decide +kernel
theorem wit_actors : (let x := fx (into (el 2 8 (2 ^ 227)) true [headerBeat 0 0]); 0 < x.e.cin 0 ∧ x.e.iq.toList.getD 0 0 = 0 ∧ (∀ d ∈ x.sl.elems, d.same x.e = true → d = x.e) ∧
      (x.gateIn 0).any (fun y => y.e.iq.toList.getD 0 0 == 0) = true) ∧
    0 < ({ el 2 8 (2 ^ 227) with iq := #v[2, 0, 0, 0] } : Elem).iq.toList.getD 0 0 := by decide +kernel

/-- A memory element with capability 0 for the sectors of local0's scratchpad, and words on channels to its inputs 0 and 1. -/
def memEl (op p : Nat) (ws : List W32) (q0 q1 : List Beat) : State :=
  let e := { el 0 op (p + 4 * 2 ^ 2) with words := ws }
  let s := fab .running .none [e] [ch 1 false (pt 3 0) (pt 0 0) q0, ch 2 false (pt 3 1) (pt 0 1) q1]
  { local0 with slots := s.slots.map fun q => { q with capTab := [local0.creg 3] }, chans := s.chans }
def hasM (op : Nat) (e : Elem) : Bool := e.isM && e.op = op
/-- A memory element of round 7 with a homed object, and the scope that its waiting access has captured. -/
def homedEl (k : Option (Nat × Nat × Nat)) : State :=
  let s := fab .running .none [{ el 0 1 (2 ^ 4) with rin := Vector.replicate 4 7, captured := k }] []
  { s with slots := s.slots.map fun q => { q with capTab := [homed.creg 3] } }
theorem wit_elementAccesses : let x := fx (memEl 1 0 [] [] [])
    x.e.waive = 0 ∧ (x.s.ctxOf x.sl.ctx).scopeOk (x.e.p 4 5) = true ∧ (∀ n ∈ [1, 2, 4, 8], checkCap (x.s.ownObj 0) x.accCap pR 0x40 n = none) ∧
      (∀ n ∈ [4, 8], checkCap (x.s.ownObj 0) x.accCap pW 0x40 n = none) ∧ (checkCap (x.s.ownObj 0) x.accCap pR (-1) 4).isSome = true ∧
      x.inSram 0x40 8 ∧ x.inSram (step512 - 8) 8 ∧ x.s.poison.contains (spKey 0 0x40 / 16) = false ∧ x.s.Canonical ∧
      x.e.captured = none ∧ x.e.passed = false ∧ (x.s.ctxOf x.sl.ctx).scopeOk 9 = false ∧
      (∀ k ∈ [none, some (1, 0, 0x100)], let y := fx (homedEl k)
        y.s.roundOpen y.sl.ctx (y.e.rinAt 0) = false ∧ checkCap (y.s.ownObj 0) y.accCap pR 0x40 4 = none ∧ y.accCap.obj < localObj ∧ y.e.captured = k ∧
          (y.s.ctxOf y.sl.ctx).scopeOk (y.e.p 4 5) = true) := by
  unfold Fx.inSram State.Canonical; decide +kernel
/-- A read or a write of the element answers. -/
def answers (a : ElAcc) : Bool :=
  match a with
  | .val _ _ => true
  | _ => false
def answersAll {α β : Type} (a : Sum α (Fx × β)) : Bool :=
  match a with
  | .inr (y, _) => (y.gateIn 0).isSome
  | _ => false
theorem wit_memory :
    (∀ m ∈ [0, 2], let s := memEl 1 (m * 2 ^ 9) [] [natBeat 0] []; let x := fx s
      there s 0 false (hasM 1) = true ∧ x.head 0 = some (natBeat 0) ∧ (x.gateIn 0).isSome = true ∧ x.room 0 = true ∧
        answersAll (x.reads [(0, if m = 2 then 8 else 4)]) = true) ∧
    (let s := memEl 1 (2 ^ 9) [] [natBeat 0] []; let x := fx s
      there s 0 false (hasM 1) = true ∧ answersAll (x.reads (vectorReads x.e.fmt 0)) = true) ∧
    (∀ q ∈ [(0, []), (2, []), (2, [5])], let s := memEl 2 (q.1 * 2 ^ 9) q.2 [natBeat 0] [natBeat 7]; let x := fx s
      there s 0 false (hasM 2) = true ∧ x.head 1 = some (natBeat 7) ∧ ((x.gateIn 0).bind (·.gateIn 1)).isSome = true ∧
        answers (x.access 0 (if q.1 = 2 then 8 else 4) (.write 7)) = true) ∧
    (∀ q ∈ [([], 0), ([0, 3], 0), ([4, 3], 0), ([4, 3], 3)], let s := memEl 3 (q.2 * 2 ^ 45) q.1 [natBeat 0] []; let x := fx s
      there s 0 false (hasM 3) = true ∧ x.e.p 45 16 = q.2 ∧ x.e.p 61 32 = 0 ∧ x.e.p 41 4 = 0 ∧ x.room 0 = true ∧ answersAll (x.reads [(4, 4)]) = true) ∧
    (∀ q ∈ [([], 0), ([1, 3], 0), ([1, 4], 0), ([1, 3], 1)], let s := memEl 4 (2 ^ 41 + 16 * 2 ^ 57 + q.2 * 2 ^ 73) q.1 [natBeat 0] [natBeat 9]; let x := fx s
      there s 0 false (hasM 4) = true ∧ x.e.p 57 16 = 16 ∧ x.room 0 = true ∧ answers (x.access 28 4 (if q.2 = 1 then .write 9 else .read)) = true) := by
  decide +kernel

/-- A generator at site 1. -/
def gen (op p tok : Nat) (closing : Bool) (hold : Bool) (q : List Beat) : State :=
  into { el 1 op p with ramped := true, tok := tok, closing := closing, hold := hold } false q
theorem wit_generators : (let s := gen 3 0 0 false false [natBeat 5]; there s 1 false (fun e => e.isA && e.op = 3) = true ∧ (fx s).head 0 = some (natBeat 5)) ∧
    (∀ q ∈ [(0, false, false), (1, false, false), (0, true, false), (0, false, true)],
      let s := gen 1 0 q.1 q.2.1 q.2.2 []; let t := gen 2 (2 ^ 112 + 2 ^ 80 + 2 ^ 96) q.1 q.2.1 q.2.2 []
      there s 1 false (fun e => e.isA && e.op = 1) = true ∧ there t 1 false (fun e => e.isA && e.op = 2) = true ∧ (fx s).e.ended = false ∧
        ((fx s).e.passLen ≤ (fx s).e.tok ↔ q.1 = 1) ∧ ((fx t).e.p 112 16 ≤ (fx t).e.tok ↔ q.1 = 1) ∧ ((fx s).sends = true ↔ q.2.2 = false)) := by
  decide +kernel

/-- A sequencer port of row 0 with a queue of the strand of slot 0. -/
def sqpSt (p cnt : Nat) (closing : Bool) (words : List W32) (push : Bool) (ents : List W64) (q : List Beat) : State :=
  { into { el 0 6 p with ramped := true, cnt := cnt, closing := closing, words := words } false q with me := (bound push ents).me }
def head0 : Beat := { kind := kHead, v := 0 }
theorem wit_ports :
    (let s := sqpSt 0 0 false [] false [5] []; let x := fx s; there s 0 false (hasM 6) = true ∧ x.closes = false ∧ x.sends = true ∧
      (x.s.portBind 0 0 0).any (fun q => q.2.ents == [5]) = true) ∧
    (∀ p ∈ [0, 2], let s := sqpSt p 0 true [] false [5] []; there s 0 false (hasM 6) = true ∧ (fx s).closes = true) ∧
    (∀ q ∈ [(1, 0), (1 + 4 + 8, 1)], let s := sqpSt q.1 q.2 false [] false [] [natBeat 5]; let x := fx s
      there s 0 false (hasM 6) = true ∧ x.head 0 = some (natBeat 5) ∧ (x.e.p 2 1 = 1 → x.e.cnt = x.e.p 3 5) ∧ (x.gateIn 0).isSome = true ∧
        (x.s.portBind 0 0 0).any (fun q => !q.2.w64 && decide (q.2.ents.length < queueCap)) = true) ∧
    (∀ q ∈ [head0, natBeat 5], let s := sqpSt 3 0 false [] false [] [q]; let x := fx s
      there s 0 false (hasM 6) = true ∧ x.s.exitBusy 0 0 = false ∧ x.head 0 = some q) ∧
    (let s := { sqpSt 3 0 true [0, 5, 0] false [] [] with me := { run0.me with stat := .fabric } }; there s 0 false (hasM 6) = true ∧
      s.pkg = 0 ∧ (s.strandAt 0 0).any (fun t => t.stat == .fabric) = true) := by decide +kernel

/-- An engine port at site 0x80 on engine 0, scope 1, with words of a request and a beat at its input. -/
def engSt (words : List W32) (q : List Beat) : State :=
  let s := into { el 0x80 5 (2 ^ 4) with words := words } false q
  { local0 with slots := s.slots.map fun z => { z with capTab := [local0.creg 3, (local0.creg 3).setCur 0x80] }, chans := s.chans }
/-- The words of a copy of 16 bytes from capability 0 to capability 1. -/
def copyWords : List W32 := [0x20, 0, 16, 0xFFFF0E0E, 0, 0, 1]
theorem wit_engp :
    (∀ w ∈ [0x20, 0x3F], let s := engSt [] [natBeat w]; let x := fx s; there s 0x80 false (fun e => e.isM && e.col = 0 && e.op = 0x05) = true ∧
      (x.e.rs && x.closes) = false ∧ x.head 0 = some (natBeat w) ∧ x.vec 0 = false ∧ (x.gateIn 0).isSome = true ∧
        ((wordZero (x.e.p 0 4) (natBeat w).word).isSome = decide (w = 0x20))) ∧
    (let s := engSt copyWords []; let x := fx s; let ws := copyWords.drop 1
      there s 0x80 false (fun e => e.isM && e.col = 0 && e.op = 0x05) = true ∧ x.head 0 = none ∧ wordZero (x.e.p 0 4) 0x20 = some (64, [32, 48]) ∧
        (wordOffs 64 [32, 48]).length ≤ ws.length ∧
        (let ps := (wordOffs 64 [32, 48]).zip ws; let cs := ps.filter (·.1.2)
         let i := { x.issuer (x.e.p 4 5) (cs.filterMap fun p => match capWord x 0x20 p.1.1 p.2 with
           | some (some c) => some (p.1.1, c)
           | _ => none) (cs.any fun p => capWord x 0x20 p.1.1 p.2 = some none) with waive := x.e.waive }
         let blk := ((List.range (64 / 4)).map fun k => toBytes 4 (match ps.find? fun p => p.1 = (4 * k, false) with
           | some p => p.2.toNat
           | none => 0)).flatten
         let p := wordPlan 0x20 0 0 x.s i blk
         (∀ q ∈ cs, (capWord x 0x20 q.1.1 q.2).isSome = true) ∧ (match x.s.checkReq i blk true p with
           | .inr .ok => true
           | _ => false) = true ∧ x.s.tileTurn i p .ok = true ∧ x.s.streamFull i.src p.eng = false) ∧ x.s.roundOpen x.sl.ctx (x.e.rinAt 0) = true ∧
        (match x.before (x.e.p 4 5) with
          | some (.inr _) => true
          | _ => false) = true) := by decide +kernel
def plain (eng : Nat) : Plan := { total := 1, eng := eng }
/-- A request of a source with a block. -/
def reqOf (src : Src) (major fn imm : Nat) (blk : List Byte) (sink : Sink) : Req :=
  run0.mkReq { run0.issuer 1 [] 0x103 with src := src } major fn imm blk [] sink false (plain 0)
def streamOf (src : Src) (eng : Nat) (rs : List Req) : Stream :=
  { id := 7, src := src, eng := eng, reqs := rs, skip := false, heldWp := false, stall := none, dead := false }
theorem wit_mxp : (∀ c ∈ [0x2000, 0x4000, 0x13F04], let s := into (el 0x40 7 0) false [natBeat c]; let x := fx s
      there s 0x40 false (hasM 7) = true ∧ x.pendingReq = false ∧ x.head 0 = some (natBeat c) ∧ (x.gateIn 0).isSome = true ∧
        (c < 2 ^ 14 ∧ c / 4 % 64 + c / 256 % 64 < 64 ↔ c = 0x2000)) ∧
    (let s := { into (el 0x40 7 0) false [] with streams := [streamOf (.elem 0 0 0x40) 0 [reqOf (.elem 0 0 0x40) majDrain 0 0 [] .none]] }; let x := fx s
      there s 0x40 false (hasM 7) = true ∧ x.pendingReq = true ∧ (s.streams.find? (fun t => t.src = .elem 0 x.sl.idx 0x40)).any (fun st => st.cur.isSome) = true ∧
        s.arrayBusy 0 7 = false) := by decide +kernel
theorem wit_atp : (let s := into { el 0x60 8 0 with ramped := true, closing := true } false []; there s 0x60 false (hasM 8) = true ∧ (fx s).closes = true) ∧
    (let r := { reqOf (.strand 0 0) 0x28 0 0 (List.replicate 128 0) .none with data := List.replicate 128 0 }
     let s := { into { el 0x60 8 0 with ramped := true } true [] with streams := [streamOf (.strand 0 0) (engId 0 9 0) [r]] }; let x := fx s
      there s 0x60 false (hasM 8) = true ∧ x.closes = false ∧ x.sends = true ∧ engId s.pkg 9 0 = engId 0 9 0 ∧ r.data ≠ [] ∧
        16 * (6 + (attnOp r.blk).pt) = 0x60) := by decide +kernel

/-- A switch operation with beats at its inputs 0 and 1. -/
def swSt (e : Elem) (q0 q1 : List Beat) : State :=
  fab .running .none [e] [ch 1 false (pt 3 0) (pt 2 0 true) q0, ch 2 false (pt 3 1) (pt 2 1 true) q1, ch 3 false (pt 2 4 true) (pt 4 0) []]
def opIs (op : Nat) (e : Elem) : Bool := e.op = op
/-- A table that sends pipe 0 on as pipe 3 to output 4; a merge and a join of inputs 0 and 1; a carry with room for one record. -/
def steers : Elem := sw 2 1 (2 ^ 21 + 3 * 2 ^ 5 + 4)
def merges (join : Nat) : Elem := sw 2 2 (4 * 2 ^ 224 + 3 * 2 ^ 205 + join * 2 ^ 204)
def carries (cnt : Nat) : Elem := { sw 2 3 (4 * 2 ^ 224 + 2 ^ 201) with cnt := cnt }
theorem wit_steer : ∀ q ∈ [(steers, head0), (steers, { kind := kHead, v := 9 }), (steers, natBeat 0), ({ steers with lastIn := 5 }, { kind := kTail, v := 0 })],
    let s := swSt q.1 [q.2] []; let x := fx s; there s 2 true (opIs 1) = true ∧ x.head 0 = some q.2 ∧ x.e.steerEntry 0 = some (0, 3, 4) ∧
      (∀ i, i < 8 → i ≠ 0 → x.e.steerEntry i = none) := by decide +kernel
theorem wit_merge : (∀ j ∈ [0, 1], let s := swSt (merges j) [natBeat 5] []; let x := fx s
      there s 2 true (opIs 2) = true ∧ x.e.p 204 1 = j ∧ x.e.mergeIns = [0, 1] ∧ x.e.mergeIns.find? (fun i => (x.head i).isSome) = some 0 ∧ x.e.tok = 0) ∧
    (∀ j ∈ [0, 1], let s := swSt (merges j) [markBeat false 0] [markBeat false 0]; let x := fx s
      (s.runningAt 0 == some (s.slotOf 0 0) && (x.sl.elems.find? fun e => e.at 2 true && opIs 2 e) == some x.e) = true ∧ x.s.slotOf x.sl.fld x.sl.idx = x.sl ∧
        (x.s.chans.map (·.id)).Nodup ∧ (∀ i ∈ [0, 1], x.marked i = true ∧ (x.head i).map (·.word) = some (x.e.rinAt i)) ∧ x.e.outq = [] ∧ x.e.lastIn = 0) := by
  decide +kernel
theorem wit_carry : (∀ q ∈ [([], [head0], 0), ([head0], [], 0), ([head0], [], 1)], let s := swSt (carries q.2.2) q.1 q.2.1; let x := fx s
      there s 2 true (opIs 3) = true ∧ (x.head 1 = none ↔ q.2.1 = []) ∧ x.e.p 201 4 = 1 ∧ x.e.cnt = q.2.2) ∧
    (let s := swSt (carries 0) [markBeat false 0] []; let x := fx s; x.marked 0 = true ∧ x.head 1 = none ∧ x.e.rinAt 0 = x.e.rinAt 1 ∧ x.s.slotOf x.sl.fld x.sl.idx = x.sl) ∧
    (let s := swSt (carries 0) [] [markBeat false 0]; let x := fx s; x.marked 1 = true ∧ (x.head 1).map (·.word) = some (x.e.rinAt 1)) := by
  decide +kernel
/-- A token whose next beat may come, or may not; a marker at one input of a merge beside a token at the other. -/
theorem wit_tokens : (∀ q ∈ [(false, 0, head0, true), (false, 0, { kind := kHead, v := 2 ^ 29 }, false), (true, 0, headerBeat 0 0, true), (true, 0, digitBeat 0 0, false),
      (true, 0, { kind := 3, v := 2 }, false), (true, 1, headerBeat 0 0, false), (true, 1, digitBeat 0 0, true), (true, 1, digitBeat 0 15, false)],
      let x := fx (into { sw 2 4 (4 * 2 ^ 224) with lastIn := q.2.1, sent := q.2.1 } q.1 [q.2.2.1]); x.vec 0 = q.1 ∧ x.head 0 = some q.2.2.1 ∧
        (x.badToken 0 q.2.2.1).isNone = q.2.2.2) ∧
    (let s := swSt (merges 0) [markBeat false 0] [natBeat 5]; let x := fx s; x.e.p 204 1 = 0 ∧ x.e.mergeIns.find? x.marked = some 0 ∧
      x.e.mergeIns.find? x.holdsToken = some 1 ∧ x.tokened 1 = true ∧ x.e.lastIn = 0 ∧ x.e.outq = []) := by decide +kernel
/-- The two ends of a circuit in slot 0. -/
def circuit (held : Nat) : State :=
  let s := swSt (sw 2 4 (2 ^ 223)) [natBeat 5] []
  { s with slots := s.slots.map fun q => { q with elems := q.elems ++ [{ sw 5 4 (2 ^ 223 + 2 ^ 222) with outq := List.replicate held (4, natBeat 0) }] } }
theorem wit_forward : (∀ b ∈ [natBeat 5, markBeat false 0], let s := swSt (sw 2 4 (4 * 2 ^ 224)) [b] []; let x := fx s
      (s.runningAt 0 == some (s.slotOf 0 0) && (x.sl.elems.find? fun e => e.at 2 true && opIs 4 e) == some x.e) = true ∧ x.e.isCircuit = false ∧ x.head 0 = some b ∧
        (b = natBeat 5 → there s 2 true (opIs 4) = true)) ∧
    (∀ k ∈ [63, 64], let s := circuit k; let x := fx s; there s 2 true (opIs 4) = true ∧ x.e.isCircuit = true ∧ x.e.isRecv = false ∧ x.e.stop = false ∧
      x.peer.any (fun p => decide (p.2.outq.length = k)) = true ∧ circuitCap = 64) := by decide +kernel
/-- Entry 0 of a filter in a mode, for elements of 32 bits. -/
def filt (mode n : Nat) : Elem := { sw 2 5 (2 ^ 25 + mode * 2 ^ 23 + (if mode = 0 then 2 ^ 14 else 2 * 2 ^ 21)) with buf := List.replicate n 0 }
theorem wit_filters : (∀ q ∈ [(0, 0), (1, 0), (3, 0), (3, 255)], let s := swSt (filt q.1 q.2) [natBeat 5] []; let x := fx s
      there s 2 true (fun e => decide (e.op = 5) && decide (e.sub = 0)) = true ∧ x.e.vcfMode = q.1 ∧ x.head 0 = some (natBeat 5) ∧ x.e.buf.length = q.2 ∧
        (q.1 = 0 → codeWidth (x.e.vcf 14 4) ≠ 64)) ∧
    (let s := swSt (filt 2 0) [] [natBeat 5]; let x := fx s; there s 2 true (fun e => decide (e.op = 5) && decide (e.sub = 0)) = true ∧ x.e.vcfMode = 2 ∧
      x.head 1 = some (natBeat 5) ∧ x.e.words = []) := by decide +kernel
theorem wit_swapsKills : (∀ q ∈ [({ stat with lfull := true }, swapBeat), (stat, swapBeat), (stat, { kind := 3, v := 2 }), (el 2 1 0, swapBeat)],
      let s := into q.1 true [q.2]; let x := fx s; (s.runningAt 0 == some (s.slotOf 0 0) && (x.sl.elems.find? fun e => e.at 2 false && e.isC) == some x.e) = true ∧
        x.s.slotOf x.sl.fld x.sl.idx = x.sl ∧ x.inPorts = [0] ∧ x.head 0 = some q.2 ∧ x.vec 0 = true ∧ q.2.kind = 3 ∧ x.e.gotAt 0 = []) ∧
    (let c := { ch 1 true (pt 2 0) (pt 3 0) [] with kill := true }; (fab .running .none [] [c]).chan 1 = some c ∧ c.src.fld = 0) ∧
    (let s := { fab .running .none [{ el 2 8 0 with rin := Vector.replicate 4 1 }] [] with ctxs := [{ homed.ctxOf 0 with round := 1 }] };
      roundAfter (s.ctxOf 0).round (s.ctxOf 0).openRound = true ∧ (∀ sl ∈ s.slots, ∀ e ∈ sl.elems, s.elemPast sl e 0 = true) ∧
        (let t := into (el 2 8 0) true []; ∃ sl ∈ t.slots, sl.st = .running ∧ ∃ e ∈ sl.elems, t.elemPast sl e 0 = false)) := by decide +kernel
/-- An empty entry, one of binary32 and exact entries at the edge of 112 bits. -/
theorem wit_accumulators : accKind 0 = 0 ∧ accKind (accIeee 1 0) = 1 ∧ accFmt (accIeee 1 0) = 1 ∧ accFmt (accIeee 1 0) ≠ 0 ∧
    accKind (accFixed false (2 ^ 111 - 1)) = 2 ∧ accOvf (accFixed true 0) = true ∧ accOvf (accFixed false 0) = false ∧ accKind (3 * 2 ^ 126) = 3 ∧
    (accVal (accFixed false (2 ^ 111 - 1)) + 1).natAbs = 2 ^ 111 ∧ (accVal (accFixed false (2 ^ 111 - 2)) + 1).natAbs < 2 ^ 111 := by decide +kernel

/-- local0 with a request block at 0x40 that copies 16 bytes from 0x80 to 0xC0, its first byte b0. -/
def blkSt (b0 : Nat) : State :=
  let c (o : Nat) : Nat := ((local0.creg 3).setCur o).bits.toNat
  { local0 with mem := writeLE local0.mem (spKey 0 0x40) 64 (b0 + 16 * 2 ^ 32 + 0xFFFF0E0E * 2 ^ 64 + c 0x80 * 2 ^ 128 * 2 ^ 128 + c 0xC0 * 2 ^ 192 * 2 ^ 192)
                tags := [spKey 0 0x60 / 16, spKey 0 0x70 / 16] }
def noD : LF := lf 0 3 4 0 1 0 0
theorem wit_requests : IsBlockReq noD (.xcopy noD, 0x20, 64, [], copyPlan false (bits noD.fn.toNat 1 3)) ∧ Admits (blkSt 0) { reads := [] } ∧
    (blkSt 0).sinkUnbound 0 = false ∧ checkRange ((blkSt 0).ownObj 0) ((blkSt 0).creg5 3) pR 0x40 64 = none ∧
    (checkRange ((blkSt 0).ownObj 0) ((blkSt 0).creg5 3) pR (-64) 64).isSome = true ∧ checkRange ((blkSt 0).ownObj 0) ((blkSt 0).creg5 3) pR 0x44 64 = none ∧
    ∀ b ∈ [0, 1], let s := blkSt b; (match s.readRecord (s.strandAccess (s.creg5 3).obj 0x40 16 .capRead 0 1) 4 with
      | .ok t secs =>
        let blk := secBytes secs; let iss := t.issuer 1 (secs.zipIdx.map fun p => (16 * p.2, secCap p.1)) (s.creg5 3).obj
        let p := copyPlan false 0 t iss blk
        fieldLE blk 0 1 == b && !t.me.finder && !t.unperformed && !t.streamFull iss.src p.eng && (match t.checkReq iss blk true p with
          | .inr .ok => b == 0
          | .inl _ => b == 1
          | _ => false)
      | _ => false) = true :=
  ⟨.head _, by unfold Admits; decide +kernel, by decide +kernel, by decide +kernel, by decide +kernel, by decide +kernel, by decide +kernel⟩
theorem wit_fullEngine : ({ run0.me with xpc := 63 } : Strand).full .xp = true ∧ ({ run0.me with tlc := 63 } : Strand).full .tl = true ∧
    run0.me.full .xp = false ∧ run0.me.full .tl = false ∧
    ({ run0 with streams := [streamOf (.strand 0 0) 5 (List.replicate 16 (reqOf (.strand 0 0) 0x20 0 0 [] .none))] } : State).streamFull (.strand 0 0) 5 = true := by
  decide +kernel
theorem wit_matrixRequests : IsPlainReq local0 noD (.accrd noD, 0x26, [3], bits noD.fn.toNat 1 1, local0.rowCheck (rowOp 0 0 (([3].map local0.readReg).getD 0 0)) (noD.fnBits 7 1 = 1)) ∧
    Admits local0 { reads := [3] } ∧ local0.rowCheck (rowOp 0 0 0) false = none ∧ (local0.rowCheck (rowOp 0 0 1) false).isSome = true ∧ Quiet local0 ∧
    ((tiled .ready).fieldOf 0).tileCode 3 ≠ 4 :=
  ⟨.tail _ (.tail _ (.head _)), by unfold Admits; decide +kernel, by decide +kernel, by decide +kernel, by unfold Quiet; decide +kernel, by decide +kernel⟩

/-- The copy as the only request of a stream, from `from_` to `dst`. -/
def copyReq (sink : Sink) (src dst : Nat) : Req :=
  { reqOf (.strand 0 0) 0x20 0 0 (toBytes 64 (16 * 2 ^ 32 + 0xFFFF0E0E * 2 ^ 64)) sink with caps := [(32, (local0.creg 3).setCur src), (48, (local0.creg 3).setCur dst)] }
def copying (r : Req) : State := { local0 with streams := [streamOf (.strand 0 0) 0 [r]] }
theorem wit_copies : let r := copyReq .none 0x80 0xC0; let st := streamOf (.strand 0 0) 0 [r]
    (copying r).streamAt 7 = some st ∧ MayPerform (copying r) st r ∧ (copying r).kvBusy 7 = false ∧ (copying r).ports = [] ∧ r.next = 0 ∧ r.total = 1 ∧ r.toElem = false ∧ r.pend = [] ∧ r.b 8 1 = 14 ∧ r.b 9 1 = 14 ∧ r.b 4 4 = 16 ∧
      localObj ≤ (r.cap 32).obj ∧ (r.cap 32).cur + 16 ≤ (r.cap 48).cur ∧ (r.cap 48).cur + 16 ≤ ((copying r).fieldOf 0).n * step512 ∧
      (copying r).Canonical ∧ (copying r).poison = [] := by unfold MayPerform State.Canonical; decide +kernel
/-- Work that ends well, work that faults and goes (a remote source), work that faults and stays (outside the scratchpad, a tile that is
not defined), and work that waits at a port (an object that is not there). -/
theorem wit_work :
    (let r := copyReq .none 0x80 0xC0; match copyBody r (startWork (copying r) r) with
      | .ok (e, w) => e.fault.isNone && e.note.isNone && !e.more && (w.s.streamAt 7).isSome
      | _ => false) = true ∧
    (let r := { copyReq .none 0x80 0xC0 with caps := [(32, capOf 0x108 0 0 64 255), (48, capOf 0x108 0 0 64 255)] }; match copyBody r (startWork (copying r) r) with
      | .error (.fault k _ _) => k.code == 0x16
      | _ => false) = true ∧
    (let r := { reqOf (.strand 0 0) 0x27 0 0 [] .none with ops := [BitVec.ofNat 64 step512] }; match accwrBody r (startWork (copying r) r) with
      | .error (.fault k _ _) => arrayHolds k
      | _ => false) = true ∧
    (let r := { reqOf (.strand 0 0) 0x24 0 (2 ^ 8 + 2 ^ 12 + 1 + 2 ^ 4) [] .none with ops := [0, 0, 0, 0, 0x43] }; let s := copying r; (s.shadowed 7 ≠ s) ∧ (match mmaBody r (startWork (s.shadowed 7) r) with
      | .error (.fault k _ _) => arrayHolds k
      | _ => false) = true) ∧
    (let r := { copyReq .none 0x80 0xC0 with caps := [(32, capOf 0x100 0x10000 0 0x3000 255), (48, capOf 0x100 0x10000 0 64 255)] }
     match copyBody r (startWork (copying r) r) with
      | .error (.wait (some _)) => true
      | _ => false) = true := by decide +kernel

/-- A response or none, a follow-on, a pin, tiles being filled and drained. -/
def done1 (r : Req) : Req := { r with next := 1 }
/-- A pop queue for responses at register s24 with n entries. -/
def kindQ (n : Nat) : State :=
  { run0 with me := { run0.me with binds := [{ q := 0, kind1 := true, push := false, row := 0, slot := 0, w64 := true, ents := List.replicate n 5, removed := false }] } }
theorem wit_deliveries : (∀ k ∈ [Sink.none, .queue 0, .lost], let r := { copyReq k 0x80 0xC0 with resps := [5] }; let st := streamOf (.strand 0 0) 0 [r]
      ({ kindQ 14 with streams := [st] } : State).streamAt 7 = some st ∧ st.reqs.find? (fun r => !r.resps.isEmpty || !r.data.isEmpty) = some r ∧ st.dead = false) ∧
    ((kindQ 14).strandAt 0 0).any (fun t => (t.binds.find? fun b => b.q = 0 && b.kind1 && (!b.push) && !b.removed).any fun b => decide (b.ents.length + 2 ≤ queueCap)) = true ∧
    (let r := done1 (copyReq .none 0x80 0xC0); r.total ≤ r.next ∧ r.resps = [] ∧ r.data = [] ∧ r.follow = none) ∧
    (copyReq .none 0x80 0xC0).next < (copyReq .none 0x80 0xC0).total ∧
    (∀ bad ∈ [false, true], let q := reqOf (.strand 0 0) 0x24 0 0 [] .none; let r := { done1 (copyReq .none 0x80 0xC0) with follow := some q.id, bad := bad }; let st := streamOf (.strand 0 0) 0 [r]
      let s := { copying r with follows := [q] }
      s.streamAt 7 = some st ∧ st.reqs.find? (fun r => r.follow.isSome && decide (r.next = r.total)) = some r ∧ r.follow = some q.id ∧ r.bad = bad) ∧
    (let r := { copyReq .none 0x80 0xC0 with toPin := [(0x100, 0, true)] }; (copying r).streamAt 7 = some (streamOf (.strand 0 0) 0 [r]) ∧
      (streamOf (.strand 0 0) 0 [r]).cur = some r ∧ (copying r).pinsAt 0 < pinCap ∧ (copying r).engWaits r (r.access 0x100 0 1 (.write 0) false true) = false ∧ (match (copying r).translate 0 0x100 0 true with
        | .ok _ _ _ => true
        | _ => false) = true) ∧
    ((tiled .filling).fieldOf 0).tileCode 3 = 1 ∧ (tiled .filling).tileBusy 0 3 true = false ∧ ((tiled .draining).fieldOf 0).tileCode 3 = 3 ∧
    (tiled .draining).tileBusy 0 3 false = false ∧ ({ copying { copyReq .none 0x80 0xC0 with blk := toBytes 64 (3 * 2 ^ 80 + 3 * 2 ^ 88) } with turn := 0 } : State).tileBusy 0 3 true = true := by
  decide +kernel
/-- A pair of context 0, with a completion to take. -/
def paired : State := { (local0.setSreg 4 1024) with host := { local0.host with nvqb := [(1024, 1)] }, nvcomps := [(1024, 5, [])] }
/-- A ring of two slots at 0x40 with wr and rd. -/
def ringSt (wr rd : Nat) : State := { local0 with mem := writeLE local0.mem (spKey 0 0x40) 16 (1 + wr * 2 ^ 32 + rd * 2 ^ 64) }
theorem wit_taking : Admits paired { reads := [4] } ∧ paired.pairBound 6 = none ∧ paired.scopeFault 0 1 = none ∧ paired.pairOf 1024 0 = true ∧ paired.pairOf 0 0 = false ∧
    paired.nvcomps.find? (fun p => p.1 = 1024) = some (1024, 5, []) ∧ ({ paired with nvcomps := [] } : State).nvcomps.find? (fun p => p.1 = 1024) = none ∧
    checkRange (local0.ownObj 0) (local0.creg5 3) (pR + pW) 0x40 64 = none ∧ local0.unperformed = false ∧
    (∀ q ∈ [(3, 3), (4, 3)], let s := ringSt q.1 q.2; let c := s.creg5 3
      (match s.readRecord { s.strandAccess c.obj 0x50 16 .capRead 0 1 with exempt := true } 3 with
        | .ok t rest => (match t.performSync (t.strandAccess c.obj 0x40 16 .read 1 1) with
          | (u, .val v _ _, _) => ringHeader v (rest.map (·.1)) == some (1, q.1, q.2) &&
              (checkRange (u.ownObj 0) c (pR + pW) (ringSlot 0x40 1 3) 16 == none) && (match u.perform (u.strandAccess c.obj (ringSlot 0x40 1 3) 16 .read 0 1) with
                | (v, .val _ _ _) => (v.consume (v.readRels (u.strandAccess c.obj (ringSlot 0x40 1 3) 16 .read 0 1))).any fun y => !y.unperformed && y.me.relFence.isEmpty && y.l1.isEmpty && (match y.performSync (y.strandAccess c.obj 0x48 4 (.write 4) 2 1) with
                  | (_, .val _ _ _, _) => true
                  | _ => false)
                | _ => false)
          | _ => false)
        | _ => false) = true) ∧
    (∀ n ∈ [0, 1], let s := { local0 with mem := writeLE local0.mem (spKey 0 0x40) 64 (1 + n * 2 ^ 160) }; (match s.bindSecs (s.bindAccess (local0.creg5 3).obj 0x40) 4 with
      | .ok t secs => descOk (secBytes secs) && fieldLE (secBytes secs) 20 4 == n && (match t.performSync (t.strandAccess (local0.creg5 3).obj 0x54 4 .read 1 1) with
        | (_, .val _ _ _, _) => true
        | _ => false)
      | _ => false) = true) := by
  unfold Admits; decide +kernel

/-- A command of the strand with a page pinned for its data. -/
def cmd : NvCmd := { pair := 5, cid := 3, opc := 2, nsid := 1, who := some (0, 0), ctx := 0, flush := false, swap := none, sqe := [], pins := [{ obj := 0x100, page := 0, frame := 0x30 }]
                     data := [(0x100, 0, 512)], fld := 0, party := 0, round := 0, status := 0, done := false }
/-- A completion queue with room, and one that is full; its first entry lies in it. -/
theorem wit_queueRoom (p : Nat) : let q (tail : Nat) : NvQueue := { pair := p, sqTail := 0, sqHead := 0, cqTail := tail, cqHead := 0 }
    (q 0).cqFull = false ∧ (q (cqSize p - 1)).cqFull = true ∧ inQueue p (cqBase p) 16 = true := by
  have h : 2 ≤ cqSize p := by unfold cqSize queueSize; omega
  refine ⟨?_, ?_, ?_⟩
  · simp only [NvQueue.cqFull, decide_eq_false_iff_not, Nat.zero_add]
    rw [Nat.mod_eq_of_lt h]; decide
  · simp only [NvQueue.cqFull, decide_eq_true_eq]
    rw [show cqSize p - 1 + 1 = cqSize p by omega, Nat.mod_self]
  · simp only [inQueue, Bool.or_eq_true, Bool.and_eq_true, decide_eq_true_eq]; omega
def bf : Backfill := { mount := 1, req := reqOf (.strand 0 0) 0x34 0 0 [] .none, pool := [], poolCaps := [], seqId := 1, pos := 0, layer := 0, h := Cap.null, moved := false }
theorem wit_storage : (∀ c ∈ [cmd, { cmd with flush := true }, { cmd with data := [] }, { cmd with swap := some 0 }],
      ({ run0 with nvcmds := [c] } : State).nvcmds.find? (fun c => c.pair = 5 && c.cid = 3 && c.sent && !c.done) = some c) ∧
    (let s := { run0 with nvcmds := [cmd], host := { run0.host with nvqb := [(5, 1)] } }; s.host.nvqb = [(cmd.pair, 1)] ∧ (1 : W64).toNat % 2 = 1 ∧
      bits (1 : W64).toNat 1 2 = 0 ∧ bits (1 : W64).toNat 3 16 = 0 ∧ (0x30 * 65536) % 2 ^ 48 / 65536 = 0x30 ∧ 0x100 % 8 = 0x30 * 65536 / 2 ^ 48) ∧
    ({ run0 with backfills := [bf] } : State).nextBackfill 1 = some bf ∧ (∀ b ∈ [bf], b.mount ≠ 0) ∧
    (match backfillBody bf { s := run0, r := bf.req, fl := 0, wq := [] } with
      | .error (.fault k _ _) => k.code == ccEngine
      | _ => false) = true := by decide +kernel

theorem wit_resumes : IsResume (.resumeSite 4) 4 ∧ handler.me.mode = true ∧ locOk 5 = false ∧ locOk (2 ^ 60 + 1) = false ∧
    locOk 2 = true ∧ (locOf 2).pkg = handler.pkg ∧ handler.foreign 0 (locOf 2) = false ∧ handler.foreign 1 (locOf 2) = true ∧
    locOk (2 + 31 * 8) = true ∧ (locOf (2 + 31 * 8)).pkg ≠ handler.pkg :=
  ⟨.head _, by decide +kernel⟩
def stalled : Elem := { el 2 8 0 with stall := some { cause := 0x0B, why := 0x20, inp := 0, stage := 0, rcv := 0, obj := 0, off := 0 } }
/-- A record of context 0 at mount 0 for a page of object 0x100, with a load held for it. -/
def portSt : State :=
  { flying (.held 0) .read (.reg 7) with flights := (flying (.held 0) .read (.reg 7)).flights.map fun f => { f with cause := 8, acc := { f.acc with obj := 0x100 } }, ports := [{ ctx := 0, mount := 0, obj := 0x100, page := 0, cause := 8, why := 1, seq := some 3, cnt := 1, srcs := [0x8000] }] }
theorem wit_resumed : homed.saved = [] ∧ (fab .running .none [stalled] []).slots.any (fun q => q.elems.any fun e => e.stall.isSome) = true ∧
    stalledAt (fab .running .none [stalled] []).slots 0 0 2 = true ∧ stalledAt (fab .running .none [el 2 8 0] []).slots 0 0 2 = false ∧
    (portSt.ports.all fun p => p.ctx == 0 && p.mount == 0 && p.seq.any fun q => decide (q.toNat % 2 ^ 16 = 3)) = true ∧ (portSt.flights.all fun f => f.cause == 8 && (portSt.portAccess f.acc).obj == 0x100) = true ∧
    (let r := reqOf (.strand 0 0) 0x24 0 0 [] .none; let st := { streamOf (.strand 0 0) (engId 0 8 0) [r] with stall := some (mkTrap 0x0F 0 0 0) }
      st.stall.isSome = true ∧ st.cur = some r ∧ homed.arrayEng (locOf 2) st.eng = true ∧
        (let s := { homed with streams := [st] }; s.streams.filter (fun st => s.arrayEng (locOf 2) st.eng && st.stall.isSome) = [st] ∧ r.mat.isSome = true)) ∧
    (let s := { homed with me := { homed.me with stat := .stopped, ldc := 1 } }; (s.strandAt 0 0).any (fun u => u.stat == .stopped && !u.idle) = true) ∧
    (let s := { homed with me := { homed.me with stat := .stopped } }; (s.strandAt 0 0).any (fun u => u.stat == .stopped && u.idle && u.drained) = true) ∧
    (homed.strandAt 0 0).any (fun u => u.stat == .running) = true := by decide +kernel
theorem wit_watchpoints : Admits homed { reads := [4] } ∧ checkCap (homed.ownObj 0) (homed.creg 3) pR 0x40 16 = none ∧ (homed.creg 3).obj < localObj ∧
    (checkCap (homed.ownObj 0) (homed.creg 5) pR 0 16).isSome = true ∧ checkCap (local0.ownObj 0) (local0.creg 3) pR 0x40 16 = none ∧ localObj ≤ (local0.creg 3).obj ∧
    (∀ v ∈ [3 + 2 ^ 16, 0xFFFF0000], v / 4 % 2 ^ 14 = 0 ∧ v / 2 ^ 32 = 0 ∧ v / 2 ^ 16 ≠ 0) ∧ (8 : Nat) / 8 ≠ 0 ∧ (7 : Nat) / 8 = 0 ∧ (4 : Nat) / 4 = 1 := by
  unfold Admits; decide +kernel
/-- A fault queue of sixteen records in the page, with wr and rd, and a record to post. -/
def fqSt (wr rd : Nat) : State :=
  let s := inPage 0x800 16 (4 + wr * 2 ^ 32 + rd * 2 ^ 64)
  { s with ctxs := [{ s.ctxOf 0 with fq := capOf 0x100 0x800 0 0x1000 255 }], posts := [Record.blank 0 2] }
theorem wit_faultQueue : (∀ q ∈ [(15, 0), (16, 0), (0, 0)], let s := fqSt q.1 q.2; s.fqHeader 0 = some (4, q.1, q.2) ∧ s.posts.find? (fun r => r.ctx = 0) = some (Record.blank 0 2) ∧
      s.ports = [] ∧ ((q.1 + 2 ^ 32 - q.2) % 2 ^ 32 = 2 ^ 4 ↔ q.1 = 16) ∧ Admits s { reads := [4], writes := [4] }) ∧
    homed.fqHeader 0 = none ∧ homed.posts.find? (fun r => r.ctx = 0) = none ∧
    (let s := fqSt 5 3; (match s.performSync (s.strandAccess 0x100 0x800 16 .read 1 4) with
      | (t, .val _ _ _, _) => !t.unperformed && t.l1.all (fun e => e.dirty == 0) && (match t.performSync (t.strandAccess 0x100 0x808 4 (.write 5) 2 4) with
        | (_, .val _ _ _, _) => true
        | _ => false)
      | _ => false) = true) ∧
    (Record.blank 0 2).kind < 256 ∧ (Record.blank 0 2).obj < 2 ^ 32 := by unfold Admits; decide +kernel
theorem wit_watchdog : (fab .running .none [el 2 8 0] []).regionIdle ((fab .running .none [el 2 8 0] []).slotOf 0 0) = true ∧
    (fab .installed .none [] []).regionIdle ((fab .installed .none [] []).slotOf 0 0) = false ∧
    ((fab .running .none [el 2 8 0] []).fxAt 0 2 false fun _ => true).any (fun x => x.e.stall.isNone) = true ∧ ((fab .running .none [] []).fxAt 0 2 false fun _ => true).isNone = true ∧
    (homed.fieldOf 0).fenced = false ∧ homed.taskAt 5 = none ∧ ((fab .running .none [] []).unitAt 0 2).any (fun x => x.e.stall.isNone) = true ∧
    (let s := fab .running .none [el 2 8 0] []; let t := s.setField { s.fieldOf 0 with runs := [((2, 7), s.firings 0 2, 16)] }
      t.replayRun 0 2 7 = 16 ∧ s.replayRun 0 2 7 = 0 ∧ (t.unitAt 0 2).isSome = true ∧ s.runningAt 5 = none) ∧ (homed.taskAt 0).any (fun k => k.phase == .running) = true := by decide +kernel
/-- A load of another die's field in flight, arriving or held. -/
def farLoad (ph : Phase) : State :=
  { homed with flights := [{ id := 1, who := .strand 0 0, acc := { homed.strandAccess 0x106 0x40 4 .read 0 1 with fld := 0 }, dst := .reg 7, sext := true, phase := ph, num := 0 }] }
/-- A memory element of field 0 whose capability names an object of another die, and a copy stream that does. -/
def farElem : State :=
  let s := fab .running .none [el 15 1 0] []
  { s with slots := s.slots.map fun q => { q with capTab := [capOf 0x106 0 0 0x1000 255] } }
def farStream : Stream := streamOf (.strand 0 0) 1 [{ reqOf (.strand 0 0) 0x20 0 0 [] .none with caps := [(32, capOf 0x106 0 0 0x1000 255)] }]
theorem wit_timeouts : (∀ ph ∈ [Phase.arriving, .held 6], ((farLoad ph).flights.find? (fun f => f.id = 1 && f.ofStrand && f.acc.offDie)).isSome = true) ∧
    ((farLoad .arriving).flights.map fun f => { f with snap := some homed.me }).any (fun f => f.id == 1 && f.ofStrand && f.acc.offDie && f.unchecked && f.snap.isSome) = true ∧
    (∀ u ∈ homed.me :: homed.others, u.at 0 0 = true → u.trap = none) ∧ homed.flights = [] ∧
    (farElem.fxAt 0 15 false fun e => e.isM && e.col = 15).any (fun x => x.e.stall == none && !x.sl.dead &&
      Machine.offDie 0 (x.sl.capTab.getD (x.e.p 0 3) Cap.null).obj) = true ∧ farElem.ports = [] ∧
    (let s := { homed with streams := [farStream] }; s.streamAt farStream.id = some farStream ∧ farStream.cur.any (fun r => !r.bad && Machine.offDie r.fld 0x106 &&
      r.caps == [(32, capOf 0x106 0 0 0x1000 255)]) = true ∧ !farStream.heldWp ∧ farStream.stall = none ∧ farStream.reqs.all (·.resps.isEmpty) = true) := by decide +kernel
/-- A pool of one frame for context 0 and a task that is stalled, at rest, or has a waiting head that contends with it. -/
def pooled : State := { homed with ctxs := [{ homed.ctxOf 0 with fpool := capOf 0x100 0x1000 0 0x2000 255, nfr := 1, nfmax := 1, sth := 1 }] }
def theTask : Task := (homed.taskOf 0).getD { tno := 0, die := 0, q := 0, ctx := 0, body := TaskRec.blank, fields := [], phase := .running, yielded := false, owner := none, frame := Cap.null }
def waitingRec : TaskRec := { TaskRec.blank with quantum := 1 }
def contender : State := { pooled with mqs := [{ pooled.mqOf 0 1 with en := true, recs := [waitingRec] }] }
theorem wit_preemption : homed.taskOf 0 = some theTask ∧ theTask.phase = .running ∧ contender.contended theTask = true ∧ pooled.contended theTask = false ∧
    (pooled.poolFrame 0 1).isSome = true ∧ (match pooled.flushTask theTask with
      | (_, .ok) => true
      | _ => false) = true ∧
    pooled.saveKind theTask = some false ∧ ({ pooled with me := { pooled.me with ldc := 1 } } : State).saveKind theTask = none ∧
    ({ pooled with me := { pooled.me with stat := .stopped } } : State).saveKind theTask = some true ∧
    (let s : State := { pooled with ports := portSt.ports, me := { pooled.me with ldc := 1 } }; s.stalled theTask = true ∧ s.saveKind theTask = some true ∧
      (match s.flushTask theTask with
        | (_, .ok) => true
        | _ => false) = true ∧ (s.poolFrame 0 1).isSome = true) ∧ (pooled.ctxOf 0).sth ≠ 0 ∧ (homed.ctxOf 0).sth = 0 := by decide +kernel
def savedOne (qs : List Slot) : Saved :=
  { tno := 0, full := true, rbase := 0, obj := 0x100, off := 0, check := 0, home := [0], strands := [], slots := qs, chans := [], fields := [], cells := [], tags := []
    flights := [], fills := [], streams := [] }
theorem wit_escalated : (∀ l ∈ [[], [stalled]], let v := savedOne [{ Slot.blank 0 0 with elems := l }]; ({ homed with saved := [v] } : State).saved.find? (fun v => v.tno = 0) = some v ∧
      homed.recordOpen v 0 = decide (l ≠ [])) := by decide +kernel
theorem wit_frames : Config.frames > 0x30 ∧ homed.frameErr 0 0x30 = 0 ∧ homed.pagesIn 0 0x30 = [(0, 0x100, 0)] ∧ homed.framePinned [(0, 0x100, 0)] = false ∧
    homed.reserveNext 0 = (none, 0) ∧ homed.migs = [] ∧ ({ homed with migs := [(0, 0x30, 0x31)] } : State).migs.find? (fun m => m.1 = 0 && m.2.1 = 0x30) = some (0, 0x30, 0x31) ∧ homed.frameErr 0 0x30 < 8 ∧
    (let s := { inPage 0xC00 8 0x31 with frameErrs := [(0, 0x30, 7)], host := { homed.host with rrsv := homed.host.rrsv.set 0 (BitVec.ofNat 64 (0x30 * 65536 + 0xC00 + 2 ^ 48)) } };
      s.frameErr 0 0x30 = 7 ∧ (s.reserveNext 0).1.isSome = true ∧ s.Canonical) := by unfold State.Canonical; decide +kernel

/-! Meridian, the host and the links -/

/-- A die's queue with a waiting head, bring-up at its end. -/
def mqSt (lvl base : Nat) (recs : List TaskRec) : State := { homed with mqs := [{ homed.mqOf 0 2 with en := true, lvl := lvl, base := base, recs := recs }] }
theorem wit_queueRegisters : homed.host.st = 6 ∧ State.reset.host.st ≠ 6 ∧ (homed.mqOf 0 0).subs = [] ∧ (homed.mqOf 3 63).en = false ∧
    (let u := (spawner.hartGets (some 0)).setMQ { spawner.mqOf 0 0 with dn := false, subs := [0x100 + 0x11 * 2 ^ 32] };
      (∀ p ∈ [(0x11, 1), (0x12, 2), (0x400, 3), (0x13, 4)], (match ({ u with poison := match u.translate 0 0x100 0x4C0 false with
          | .ok k _ _ => [k / 16]
          | _ => [] } : State).bindHost (u.submitAccess 0 0x100 (p.1 * 64)) 4 with
        | .ok _ secs => p.2 == if (parseTask secs 0 [hostParty]).isSome then 1 else 2
        | .wait _ => p.2 == 3
        | .raise _ _ => p.2 == 4) = true)) ∧
    ((mqSt 6 0 [waitingRec]).mqOf 0 2).recs = [waitingRec] ∧ (∀ x ∈ (mqSt 6 0 [waitingRec]).mqs, x.rsv = []) ∧
    (placement 0 1 (((List.range 32).map (32 * 0 + ·)).filter fun f => !((mqSt 6 0 [waitingRec]).fieldOf f).fenced)).isSome = true ∧ placement 0 4 [1, 2, 3] = none := by
  decide +kernel
theorem wit_placement : ([0, 1, 2, 3, 9] : List Nat).Nodup ∧ (placement 0 4 [0, 1, 2, 3, 9]).isSome = true ∧ (placement 0 32 (List.range 32)).isSome = true := by decide +kernel
theorem wit_selection : (homed.selects 0).isNone = true ∧ (mqSt 0 0 [waitingRec]).selects 0 = some ((mqSt 0 0 [waitingRec]).mqOf 0 2, waitingRec, [1]) ∧
    waitingRec.saved = none ∧ waitingRec.image = Cap.null ∧ (capOf 0x100 0x410 0 0x1000 255).cur % 32 ≠ 0 ∧ (mqSt 0 0 [waitingRec]).strandAt 1 0 = none ∧ ∀ m ∈ (mqSt 0 0 [waitingRec]).mqs, m.subs = [] := by decide +kernel
def taskAs (ph : TaskPhase) (body : TaskRec) : Task := { theTask with phase := ph, body := body }
theorem wit_tasks : (homed.setTask (taskAs .installing TaskRec.blank)).taskOf 0 = some (taskAs .installing TaskRec.blank) ∧ TaskRec.blank.image = Cap.null ∧
    homed.me.pcc ≠ Cap.null ∧ ((fab .installed .none [] []).slotOf 0 0).st = .installed ∧ ((fab .installing .install [] []).slotOf 0 0).pend ≠ .none ∧
    homed.taskIdle theTask = true ∧ ({ homed with me := { homed.me with ldc := 1 } } : State).taskIdle theTask = false ∧
    (match homed.flushFields theTask with
      | (_, .ok) => true
      | _ => false) = true ∧
    (homed.setTask (taskAs (.posting 0 0 []) { TaskRec.blank with cmp := 2 ^ 32 - 1 })).taskOf 0 = some (taskAs (.posting 0 0 []) { TaskRec.blank with cmp := 2 ^ 32 - 1 }) ∧
    theTask.owner = none ∧ (homed.completionWord (taskAs (.posting 0 0 []) { TaskRec.blank with cmp := 2 ^ 32 - 1 }) 0 0 []).isSome = true ∧
    (homed.completionWord (taskAs (.posting 0 0 []) { TaskRec.blank with args := capOf 0x200 0x400 0 0x1000 255, cmp := 0 }) 0 0 []).isNone = true ∧
    (let c := capOf localObj 0 0 0x1000 255; checkCap localObj c pW 0x40 4 = none ∧ localObj ≤ c.obj ∧ local0.Canonical ∧ local0.poison.contains (spKey 0 0x40 / 16) = false) ∧
    (let c := capOf 0x100 0x400 0 0x1000 255; checkCap localObj c pW 0x404 4 = none ∧ c.obj < localObj ∧ c.obj / 8 % 32 = homed.pkg ∧
      (match homed.translate 0 0x100 0x404 true with
        | .ok _ _ _ => true
        | _ => false) = true ∧ (checkCap localObj Cap.null pW 0 4).isSome = true) := by unfold State.Canonical; decide +kernel
/-- `ctxsave` and `ctxload` in handler mode, with a second task on field 1 that runs or is parked, and its frame at offset 0 of the page. -/
def framed (ph : TaskPhase) : State :=
  let s := { homed with me := { homed.me with mode := true } }.setCreg 3 (capOf 0x100 0 0 0x1000 255)
  { (s.setTask { theTask with tno := 5, fields := [1], phase := ph }).setSreg 4 5 with saved := [{ savedOne [] with tno := 5, full := false }] }
theorem wit_contextFrames : (framed .running).tasks.find? (fun t => t.die = bits 5 21 2 && t.tno % 2 ^ 16 = bits 5 0 16) = some { theTask with tno := 5, fields := [1] } ∧
    checkRange ((framed .running).ownObj 0) (capOf 0x100 0 0 0x3000 255 : Cap) (pR + pW) 0 4096 = none ∧
    (checkRange ((framed .running).ownObj 0) Cap.null (pR + pW) 0 4096).isSome = true ∧ (0 : Nat) % 4096 = 0 ∧ (5 : Nat) / 2 ^ 23 = 0 ∧ (2 ^ 23 : Nat) / 2 ^ 23 ≠ 0 ∧
    (framed .running).tasks.find? (fun t => t.die = bits 6 21 2 && t.tno % 2 ^ 16 = bits 6 0 16) = none ∧ (5 : Nat) ≠ (framed .running).me.task ∧
    (framed .running).me.full .xp = false ∧ (64 : Nat) / 64 ≠ 0 ∧
    (match (framed .parked).readRecord ((framed .parked).recordAccess ((framed .parked).creg 3)) 8 with
      | .ok t secs => t.me == (framed .parked).me && bits (secs.headD (0, false)).1 0 16 == 0 &&
          (t.savedIn ((framed .parked).creg 3) 5 0).any fun p => p.1.phase == .parked
      | _ => false) = true ∧ (framed .parked).savedIn ((framed .parked).creg 3) 6 0 = none := by decide +kernel
/-- A frame's own sectors pass its check, whatever the check word is; none of them do not. -/
theorem wit_checkWord (v : Saved) (hv : v.full = false) (hr : v.rbase = 0) :
    frameGood theTask v (frameSectors { theTask with fields := List.replicate theTask.body.nf 0 } v.full v.rbase (Config.frameCheck v.check)) = true ∧
      frameGood theTask v [] = false := by
  constructor
  · simp only [frameGood, Bool.and_eq_true, decide_eq_true_eq, and_true]
    have h : theTask.ctx = 0 ∧ theTask.tno = 0 ∧ theTask.body.nf = 1 := by decide +kernel
    simp only [frameSectors, List.headD_cons, hv, hr, h.1, h.2.1, h.2.2, List.length_replicate]
    have := (Config.frameCheck v.check).isLt
    simp
    omega
  · simp [frameGood, frameSectors]
def linked (lanes replays : Nat) (flits : Nat) : State :=
  { homed with links := [{ port := 6, lanes := lanes, expect := 0, replays := 0, laneReplays := replays, flits := flits, narrowing := false }] }
theorem wit_links : homed.linkOf 6 = none ∧ (∀ n ∈ [0, 1, 2, 4], (linked n 17 0).linkOf 6 = (linked n 17 0).links.head?) ∧
    ((linked 4 16 (2 ^ 30 - 1)).linkOf 6).any (fun l => decide (l.laneReplays ≤ 16) && !l.narrowing) = true := by decide +kernel
/-- Bring-up ended, with aperture 0 to object 0x100 for reads and writes, and aperture 1 for reads. -/
def hostSt : State := { homed with host := { homed.host with aper := [(0, 0x7000000000100), (1, 0), (2, 0x3000000000100), (3, 0)], caphi := (capOf 0x100 0 0 16 255).bits.extractLsb' 64 64, caplo := (capOf 0x100 0 0 16 255).bits.setWidth 64 } }
theorem wit_windows : hregOf 0x3F00000003 = none ∧ hregOf 0x3F00000008 = some .bstate ∧ hregOf 0x3F00000000 = some .pkgid ∧ hregOf 0x3F00000010 = some .ctxt ∧
    homed.host.st = 6 ∧ State.reset.host.st ≠ 6 ∧ (regIn homed.host.nvqb 5).getLsbD 0 = false ∧
    (let s := { homed with host := { homed.host with nvqb := [(5, 1)] }, nvcmds := [cmd] }; (regIn s.host.nvqb 5).getLsbD 0 = true ∧ s.pairBusy 5 = true) := by decide +kernel
theorem wit_apertures : hregOf 0x4000000040 = none ∧ (hostSt.aperture 0x4000000040).any (fun p => p.obj == 0x100 && p.ctx == 0 && p.off == 0x40 && p.r && p.w) = true ∧
    (hostSt.aperture 0x4040000040).any (fun p => p.r && !p.w) = true ∧ (hostSt.aperture 0x4080000000).isNone = true ∧ 16 < 0x4C % 16 + 8 ∧ 0x48 % 16 + 8 ≤ 16 ∧
    (∀ op ∈ [AccOp.read, .write 5, .atomic 0 5], (hostSt.aperture 0x4000000048).any (fun p => match hostSt.performSync (hostSt.hostAccess p 8 op) with
      | (_, .val _ _ _, _) => true
      | _ => false) = true) ∧
    (hostSt.aperture 0x4000010000).any (fun p => match hostSt.performSync (hostSt.hostAccess p 8 .read) with
      | (_, .hold _ _, _) => true
      | _ => false) = true ∧
    (let c : Cap := { bits := hostSt.host.caphi ++ hostSt.host.caplo, tag := true }; c.ok = true ∧ (hostSt.aperture 0x4000000040).any (fun p =>
      match ({ hostSt with host := { hostSt.host with capst := 2, hart := some 0 } } : State).performSync (hostSt.hostAccess p 16 (.capWrite c)) with
        | (_, .val _ _ _, _) => true
        | _ => false) = true) := by decide +kernel
theorem wit_bringUp : State.reset.host.st ≤ 1 ∧ 1 < homed.host.st ∧ homed.host.st = 6 := by decide +kernel
end Sys2Proof.Tests
end

section
/-!
PROOF. The reset state (R31), operands and queue registers (R14, R17), and the entry of a trap (R27).
-/
namespace Sys2Proof.Machine

/-! ### The reset state -/

theorem State.strandAt_free {s : State} (hm : s.me = Strand.empty) (ho : s.others = []) (f i : Nat) : s.strandAt f i = none := by
  simp [State.strandAt, Strand.at, hm, ho, Strand.empty]

theorem State.fieldOf_cycle_blank {s : State} (h : s.fields = []) (f : Nat) : (s.fieldOf f).cycle = 0 := by
  simp [State.fieldOf, h, Field.blank]

/-- Settles O5: the reset state lists no strand, no field and no task, and the reset event answers it but for counters of the
model and what the outside has still to do. -/
theorem resetState : Obligations.ResetState := by
  refine ⟨State.strandAt_free rfl rfl, ?_, State.fieldOf_cycle_blank rfl, rfl, rfl, fun s => ⟨_, rfl, ?_⟩⟩
  · intro t ht
    obtain rfl : t = Strand.empty := by simpa [State.reset] using ht
    exact ⟨rfl, rfl⟩
  · exact ⟨State.strandAt_free rfl rfl, State.fieldOf_cycle_blank rfl, rfl, rfl⟩

/-! ### Operands and queue registers (R14, R17) -/

theorem State.readReg_unbound {s : State} {r : RegF} (h : s.bindOf r = none) : s.readReg r = s.sreg r := by
  simp [State.readReg, h]
theorem State.readReg_bound {s : State} {r : RegF} {b : Bind} (h : s.bindOf r = some b) : s.readReg r = b.ents.headD 0 := by
  simp [State.readReg, h]
theorem State.putReg_unbound {s : State} {r : RegF} (v : W64) (h : s.bindOf r = none) : s.putReg r v = s.setSreg r v := by
  simp [State.putReg, h]
theorem State.putReg_bound {s : State} {r : RegF} {b : Bind} (v : W64) (h : s.bindOf r = some b) :
    s.putReg r v = s.updBind b.q fun b => { b with ents := b.ents ++ [v] } := by
  simp [State.putReg, h]

/-- A field names the rewritten binding where it named the binding before. -/
theorem State.bindOf_updBind {s : State} {r : RegF} {b : Bind} {g : Bind → Bind} (hg : ∀ b, (g b).q = b.q)
    (h : s.bindOf r = some b) : (s.updBind b.q g).bindOf r = some (g b) := by
  unfold State.bindOf at h ⊢
  split at h
  · cases h
  · next hr =>
    have same : ((fun c : Bind => decide (c.q + 24 = r.toNat)) ∘ fun c => if c.q = b.q then g c else c) =
        fun c => decide (c.q + 24 = r.toNat) := by
      funext c
      by_cases hc : c.q = b.q <;> simp [hc, hg]
    rw [if_neg hr]
    simp only [State.updBind, List.find?_map, same, h, Option.map_some, if_true]

/-- With its operands admitted, an instruction of two sources is one operation on their values (R97). -/
theorem exec_twoSource {d a b : RegF} {x y : W64} {p : Instr × W64} (hp : p ∈ twoSource d a b x y) :
    ∃ f, ∀ s, exec p.1 s = alu2 d a b f s := by
  simp only [twoSource, List.mem_cons, List.not_mem_nil, or_false] at hp
  rcases hp with rfl | rfl | rfl | rfl | rfl | rfl | rfl | rfl | rfl | rfl | rfl | rfl | rfl | rfl | rfl | rfl | rfl | rfl | rfl | rfl | rfl
  exacts [⟨_, exec_add d a b⟩, ⟨_, exec_sub d a b⟩, ⟨_, exec_mul d a b⟩, ⟨_, exec_mulh d a b⟩, ⟨_, exec_mulhu d a b⟩,
    ⟨_, exec_div d a b⟩, ⟨_, exec_divu d a b⟩, ⟨_, exec_rem d a b⟩, ⟨_, exec_remu d a b⟩, ⟨_, exec_and d a b⟩, ⟨_, exec_or d a b⟩,
    ⟨_, exec_xor d a b⟩, ⟨_, exec_andn d a b⟩, ⟨_, exec_shl d a b⟩, ⟨_, exec_shr d a b⟩, ⟨_, exec_sar d a b⟩, ⟨_, exec_rot d a b⟩,
    ⟨_, exec_min d a b⟩, ⟨_, exec_max d a b⟩, ⟨_, exec_minu d a b⟩, ⟨_, exec_maxu d a b⟩]

/-- Settles O8: registers read back what was put there, a bound queue takes the entry at its end, and the frame of an
instruction answers a wrong or a waiting queue before the body runs. -/
theorem operandRegisters : Obligations.OperandRegisters := by
  refine ⟨fun s => if_pos rfl, fun s v => if_pos rfl, ?_, ?_, ?_, ?_, ?_, ?_, ?_⟩
  · intro s r v hr
    rw [State.sreg_setSreg, if_neg hr, if_pos rfl]
  · intro s r q v hrq
    rw [State.sreg_setSreg, if_neg (Ne.symm hrq)]
    split
    · next h => rw [h]; exact (if_pos rfl).symm
    · rfl
  · exact fun s r v h => ⟨State.readReg_unbound h, State.putReg_unbound v h⟩
  · intro s r b e l h he
    rw [State.readReg_bound h, he]; rfl
  · intro s r b v h
    rw [State.putReg_bound v h]
    exact ⟨State.bindOf_updBind (fun _ => rfl) h, rfl⟩
  · intro s d a b r _ hq p hp
    obtain ⟨f, hf⟩ := exec_twoSource hp
    rw [hf]
    exact run_badQueue (by simp) hq
  · intro s d a b hq hw p hp
    obtain ⟨f, hf⟩ := exec_twoSource hp
    rw [hf]
    exact run_queueWaits (by simp) hq hw

/-! ### Taking a trap (R27) -/

/-- The masks of a vector atomic reach a scalar register and nothing else (R290). -/
theorem Strand.maskOut_eq (t : Strand) : t.maskOut = { t with vmask := t.maskOut.vmask, regs := t.maskOut.regs } := by
  unfold Strand.maskOut
  split <;> rfl
theorem Strand.maskOut_regs {t : Strand} (h : t.vmask = none) : t.maskOut.regs = t.regs := by
  simp [Strand.maskOut, h]

/-- A strand with the cause of a trap in its registers, before it stops or goes on. -/
def Strand.caused (t : Strand) (k : TrapInfo) : Strand :=
  { t with
    vmask := t.maskOut.vmask, regs := t.maskOut.regs, epc := t.pcc, code := BitVec.ofNat 8 k.code, sub := BitVec.ofNat 8 k.sub
    fobj := k.fobj, faddr := k.faddr, trap := none, waiting := false, timedOut := false, bound := none, unwatched := false }

/-- A trap in handler mode, or with an ECAP that fails its checks, stops the strand; any other goes on at ECAP (R27). -/
theorem Strand.trapped_eq (t : Strand) (k : TrapInfo) (ok : Bool) :
    t.trapped k ok = if t.mode || !ok then { t.caused k with dflt := true, stat := .stopped }
      else { t.caused k with pmode := t.mode, mode := true, pcc := t.ecap } := by
  unfold Strand.trapped Strand.caused
  rw [Strand.maskOut_eq]
theorem Strand.trapped_stops {t : Strand} {k : TrapInfo} {ok : Bool} (h : t.mode = true ∨ ok = false) :
    t.trapped k ok = { t.caused k with dflt := true, stat := .stopped } := by
  rw [t.trapped_eq, if_pos (by rcases h with h | h <;> simp [h])]
theorem Strand.trapped_enters {t : Strand} {k : TrapInfo} {ok : Bool} (h : t.mode = false) (hok : ok = true) :
    t.trapped k ok = { t.caused k with pmode := false, mode := true, pcc := t.ecap } := by
  rw [t.trapped_eq, h, hok]
  rfl

/-- What a trap leaves of the strand, whether it stops it or not. -/
theorem Strand.trapped_keeps (t : Strand) (k : TrapInfo) (ok : Bool) :
    t.trapped k ok = { t.caused k with
      dflt := (t.trapped k ok).dflt, stat := (t.trapped k ok).stat, pmode := (t.trapped k ok).pmode
      mode := (t.trapped k ok).mode, pcc := (t.trapped k ok).pcc } := by
  rw [t.trapped_eq]
  split <;> rfl

theorem State.takeTrap_me (s : State) (k : TrapInfo) : (s.takeTrap k).me = s.me.trapped k (s.entryOk s.me.fld s.me.ecap) := by
  unfold State.takeTrap
  dsimp only
  split <;> rfl
theorem State.takeTrap_mem (s : State) (k : TrapInfo) : (s.takeTrap k).mem = s.mem := by
  unfold State.takeTrap
  dsimp only
  split <;> rfl
/-- Only a strand that stops has a record posted. -/
theorem State.takeTrap_posts {s : State} {k : TrapInfo} (h : (s.takeTrap k).me.stat ≠ .stopped) :
    (s.takeTrap k).posts = s.posts := by
  rw [s.takeTrap_me] at h
  unfold State.takeTrap
  dsimp only
  rw [if_neg (by exact h)]
  rfl

/-- Settles O17: what `State.raise` does by its cases, and what a trap leaves of the strand where it stops and where it goes on. -/
theorem trapEntry : Obligations.TrapEntry := by
  intro s k t m
  have hm : m = s.me.trapped k (s.entryOk s.me.fld s.me.ecap) := s.takeTrap_me k
  have keeps {β : Type} (g : Strand → β) := congrArg g (hm.trans (s.me.trapped_keeps k _))
  have stops : s.me.mode = true ∨ s.entryOk s.me.fld s.me.ecap = false →
      m = { s.me.caused k with dflt := true, stat := .stopped } := fun h => hm.trans (Strand.trapped_stops h)
  have enters : s.me.mode = false → s.entryOk s.me.fld s.me.ecap = true →
      m = { s.me.caused k with pmode := false, mode := true, pcc := s.me.ecap } :=
    fun h hok => hm.trans (Strand.trapped_enters h hok)
  have raised := s.raise_cases k
  refine ⟨?_, ?_, ?_, ?_⟩
  · intro hf hl
    rw [raised, if_neg (by simp [hf]), if_pos hl]
  · intro hf hl
    rw [raised, if_neg (by simp [hf]), if_neg hl]
  · intro hf
    rw [raised, if_pos hf]
    rfl
  · refine ⟨keeps Strand.epc, (keeps (·.code.toNat)).trans (BitVec.toNat_ofNat ..),
      (keeps (·.sub.toNat)).trans (BitVec.toNat_ofNat ..), keeps Strand.fobj, keeps Strand.faddr,
      fun h => (keeps Strand.regs).trans (Strand.maskOut_regs h), keeps Strand.preds, keeps Strand.caps,
      keeps Strand.ecap, keeps Strand.frm, keeps Strand.fflags, keeps Strand.binds,
      keeps Strand.ldc, keeps Strand.stc, keeps Strand.xpc, keeps Strand.tlc,
      s.takeTrap_mem k, ?_, ?_⟩
    · intro h
      have e {β : Type} (g : Strand → β) := congrArg g (stops h)
      exact ⟨e Strand.dflt, e Strand.stat, e Strand.mode, e Strand.pmode, e Strand.pcc⟩
    · intro h hok hr
      have e {β : Type} (g : Strand → β) := congrArg g (enters h hok)
      have stat : m.stat = .running := (e Strand.stat).trans hr
      exact ⟨e Strand.pmode, e Strand.mode, e Strand.pcc, stat, e Strand.dflt,
        State.takeTrap_posts (by rw [show (s.takeTrap k).me.stat = .running from stat]; decide)⟩

end Sys2Proof.Machine
end

section
/-!
PROOF. The frame of an instruction that completes, the system registers (R18 to R20, R125) and the system group (R26, R28, R29,
R126).
-/
namespace Sys2Proof.Machine

/-! ### Completion, traps taken at once, and the device's own writes -/

/-- Popping queues changes their entries only (R17). -/
theorem State.popAll_eq (s : State) (reads : List RegF) :
    s.popAll reads = { s with me := { s.me with binds := (s.popAll reads).me.binds } } := by
  unfold State.popAll
  split <;> rfl
theorem State.popAll_unbound {s : State} (reads : List RegF) (h : s.me.binds = []) : s.popAll reads = s := by
  simp [State.popAll, h]

/-- A strand's instruction that completes leaves its queues popped and pcc moved on, and all else as its body left it. -/
theorem State.retire_eq {s : State} (len : Nat) (reads : List RegF) (h : s.me.finder = false) :
    s.retire len reads = { s with me := { s.me with
      binds := (s.popAll reads).me.binds, pcc := s.me.pcc.setCur (s.pc + len), unwatched := false } } := by
  unfold State.retire
  rw [if_neg (by simp [h]), s.popAll_eq]
  rfl
theorem State.retire_unbound {s : State} (len : Nat) (reads : List RegF) (h : s.me.finder = false) (hb : s.me.binds = []) :
    s.retire len reads = { s with me := { s.me with pcc := s.me.pcc.setCur (s.pc + len), unwatched := false } } := by
  rw [s.retire_eq len reads h, s.popAll_unbound reads hb]

/-- A strand with no load outstanding takes its trap at once (R27). -/
theorem State.raise_takes {s : State} (k : TrapInfo) (hf : s.me.finder = false) (hl : s.me.ldc = 0) :
    s.raise k = .next (s.takeTrap k) := by
  rw [s.raise_cases, if_neg (by simp [hf]), if_pos hl]

theorem State.portRaw_eq (s : State) (key kind side off : Nat) :
    ∃ m p, s.portRaw key kind side off = { s with mem := m, poison := p } := by
  unfold State.portRaw
  split
  · exact ⟨_, _, rfl⟩
  · dsimp only
    split
    · exact ⟨_, _, rfl⟩
    · split <;> exact ⟨_, _, rfl⟩
/-- A store of bytes of a sector reaches memory, tags and poison only. -/
theorem State.storeSector_eq (s : State) (key kind side off data mask : Nat) (tag : Bool) :
    ∃ m t p, s.storeSector key kind side off data mask tag = { s with mem := m, tags := t, poison := p } := by
  obtain ⟨m, p, hr⟩ := s.portRaw_eq (key - off % 16) kind side (off - off % 16)
  unfold State.storeSector
  simp only [hr]
  split
  · exact ⟨_, _, _, rfl⟩
  · split <;> exact ⟨_, _, _, rfl⟩
/-- A write of the device itself reaches memory, the copies in L1s and the arms (R300). -/
theorem State.devWrite_eq (s : State) (ctx obj off n v : Nat) (tag : Bool) :
    ∃ l m t p a, s.devWrite ctx obj off n v tag = { s with l1 := l, mem := m, tags := t, poison := p, arms := a } := by
  unfold State.devWrite
  split
  · next k kind side _ =>
    obtain ⟨m, t, p, hs⟩ := (s.dropCopies ctx obj (off / 16) 128).storeSector_eq k kind side off (inSector off n v).1 (inSector off n v).2 tag
    exact ⟨_, m, t, p, _, by simp only [hs]; rfl⟩
  · exact ⟨_, _, _, _, _, rfl⟩

/-! ### System registers (R18 to R20, R125) -/

theorem sysAccess_run {i : Instr} {n : BitVec 12} {kind : Kind} {o : Opnds} {body : State → Act} {s : State}
    (hl : sysListed n.toNat = true) (hH : sysIsH n.toNat = true → s.me.mode = true) :
    sysAccess i n true kind o body s = run kind 4 o body s := by
  unfold sysAccess
  rw [if_neg (by simp [hl]), if_neg]
  cases h : sysIsH n.toNat <;> simp_all
theorem sysAccess_illegal {i : Instr} {n : BitVec 12} {legal : Bool} {kind : Kind} {o : Opnds} {body : State → Act} {s : State}
    (hl : sysListed n.toNat = false) : sysAccess i n legal kind o body s = s.raise (illegalOf i) := by
  unfold sysAccess
  rw [if_pos (by simp [hl])]
theorem sysAccess_priv {i : Instr} {n : BitVec 12} {kind : Kind} {o : Opnds} {body : State → Act} {s : State}
    (hl : sysListed n.toNat = true) (hH : sysIsH n.toNat = true) (hm : s.me.mode = false) :
    sysAccess i n true kind o body s = s.raise (mkTrap ccPriv 0 0 0) := by
  unfold sysAccess
  rw [if_neg (by simp [hl]), if_pos (by simp [hH, hm])]

/-- Registers with a field marked H are listed in R18. -/
theorem sysListed_of_isH {n : Nat} (h : sysIsH n = true) : sysListed n = true := by
  simp only [sysIsH, sysListed, Bool.or_eq_true, decide_eq_true_eq] at h ⊢
  omega

/-- Only a read of CYCLE moves the clock on. -/
theorem State.tickClock_of_ne {s : State} {n : Nat} (h : n ≠ 0x11) : s.tickClock n = s := if_neg h

theorem exec_sysr_reads {s : State} {d : RegF} {n : BitVec 12} (hn : n.toNat ≤ 0x10)
    (hH : sysIsH n.toNat = true → s.me.mode = true) (ha : Admits s { writes := [d] }) :
    Writes s (.sysr d n) d (s.sysVal n.toNat) 4 [] := by
  have listed : sysListed n.toNat = true := by simp only [sysListed, decide_eq_true_eq]; omega
  unfold Writes
  rw [exec_sysr, execSysr, sysAccess_run listed hH]
  exact run_done (by simp) ha.1 ha.2 (by rw [State.tickClock_of_ne (by omega)])

theorem exec_sysrC_reads {s : State} {c : CapF} {n : BitVec 12} (hl : sysListed n.toNat = true) (hc : sysIsCap n.toNat = true)
    (hm : s.me.mode = true) : WritesC s (.sysrC c n) c (s.sysCap n.toNat) [] := by
  unfold WritesC
  rw [exec_sysrC, execSysrC, hc, sysAccess_run hl fun _ => hm]
  exact run_done (by simp) rfl rfl rfl

/-- A scalar write of a register that the context record does not hold. -/
theorem exec_sysw_writes {s : State} {a : RegF} {n : BitVec 12} (hf : s.me.finder = false) (hl : sysListed n.toNat = true)
    (hc : sysIsCap n.toNat = false) (hH : sysIsH n.toNat = true → s.me.mode = true) (hn : n.toNat ≠ 0xE)
    (ha : Admits s { reads := [a] }) :
    exec (.sysw a n) s = .next ((s.sysPut n.toNat (s.readReg a)).retire 4 [a]) := by
  rw [exec_sysw, execSysw, hc, Bool.not_false, sysAccess_run hl hH]
  exact run_done (by simp [hf]) ha.1 ha.2 (by simp [State.sysWrite, hn])

/-- The write of FRM takes a mode of R64 only. -/
theorem State.sysPut_frm (s : State) (v : W64) : s.sysPut 0xB v =
    { s with me := if (v.extractLsb' 0 3).toNat ≤ 4 then { s.me with frm := v.extractLsb' 0 3 } else s.me } := by
  simp only [State.sysPut]
  split <;> rfl

/-- A context register's record is written where its port lets the write pass (R454, R248). -/
theorem State.putRec_done {s t : State} {at_ n v : Nat} {tag : Bool}
    (h : s.host.ctxt = 0 ∨ ∃ k kind side, s.translate 0 (s.ctxRec s.me.ctx).1 ((s.ctxRec s.me.ctx).2 + at_) true = .ok k kind side) :
    ∃ u, s.putRec t at_ n v tag = .done u ∧ u.me = t.me ∧ u.ctxs = t.ctxs := by
  unfold State.putRec
  by_cases h0 : s.host.ctxt = 0
  · exact ⟨t, if_pos h0, rfl, rfl⟩
  · obtain ⟨k, kind, side, ht⟩ := h.resolve_left h0
    obtain ⟨l, m, tg, p, a, hw⟩ := t.devWrite_eq 0 (s.ctxRec s.me.ctx).1 ((s.ctxRec s.me.ctx).2 + at_) n v tag
    refine ⟨t.devWrite 0 (s.ctxRec s.me.ctx).1 ((s.ctxRec s.me.ctx).2 + at_) n v tag, (if_neg h0).trans ?_, ?_, ?_⟩
    · simp only [State.ctxRec] at ht ⊢
      rw [ht]
    · rw [hw]
    · rw [hw]

/-- A context that has been set is found. -/
theorem find?_upsert {α : Type} {p : α → Bool} {x : α} (hx : p x = true) (l : List α) : (upsert p x l).find? p = some x := by
  induction l with
  | nil => simp [upsert, hx]
  | cons a r ih =>
    by_cases ha : p a = true
    · simp [upsert, ha, hx]
    · simp [upsert, ha, ih]
theorem State.ctxOf_no (s : State) (n : Nat) : (s.ctxOf n).no = n := by
  unfold State.ctxOf
  cases h : s.ctxs.find? (·.no = n) with
  | none => rfl
  | some c => simpa using List.find?_some h
theorem State.ctxOf_setCtx {s : State} {c : Ctx} {n : Nat} (h : c.no = n) : (s.setCtx c).ctxOf n = c := by
  subst h
  simp only [State.setCtx, State.ctxOf]
  rw [find?_upsert (by simp)]
  rfl
theorem State.ctxOf_congr {s t : State} (h : t.ctxs = s.ctxs) (n : Nat) : t.ctxOf n = s.ctxOf n := by
  simp only [State.ctxOf, h]

theorem exec_syswC_writes {s u : State} {c : CapF} {n : BitVec 12} (hf : s.me.finder = false) (hl : sysListed n.toNat = true)
    (hc : sysIsCap n.toNat = true) (hm : s.me.mode = true) (hu : s.sysWriteCap n.toNat (s.creg c) = .done u) :
    exec (.syswC c n) s = .next (u.retire 4 []) := by
  rw [exec_syswC, execSyswC, hc, sysAccess_run hl fun _ => hm]
  exact run_done (by simp [hf]) rfl rfl hu

/-- `sysw.c` of ECAP changes the strand's copy and the context's (R18). -/
theorem exec_syswC_ecap {s : State} {c : CapF} (hf : s.me.finder = false) (hm : s.me.mode = true)
    (h : s.host.ctxt = 0 ∨ ∃ k kind side, s.translate 0 (s.ctxRec s.me.ctx).1 ((s.ctxRec s.me.ctx).2 + 16) true = .ok k kind side) :
    ∃ t, exec (.syswC c 5) s = .next t ∧ t.me.ecap = s.creg c ∧ (t.ctxOf s.me.ctx).ecap = s.creg c := by
  obtain ⟨u, hu, hme, hctxs⟩ := State.putRec_done (t := s.sysPutCap 5 (s.creg c)) (n := 16) (v := (s.creg c).bits.toNat) (tag := (s.creg c).tag) h
  have hme' : u.me = { s.me with ecap := s.creg c } := hme
  have hr := u.retire_eq 4 [] (by rw [hme']; exact hf)
  have hctx : (u.retire 4 []).ctxs = (s.sysPutCap 5 (s.creg c)).ctxs := by rw [hr]; exact hctxs
  refine ⟨_, exec_syswC_writes hf rfl rfl hm hu, ?_, ?_⟩
  · rw [hr]; exact congrArg Strand.ecap hme'
  · rw [State.ctxOf_congr hctx]
    exact congrArg Ctx.ecap (State.ctxOf_setCtx (c := { s.ctxOf s.me.ctx with ecap := s.creg c }) (s.ctxOf_no s.me.ctx))

/-- CAUSE holds the cause below its sub-cause (R19). -/
theorem State.sysVal_cause (s : State) : (s.sysVal 0x1).extractLsb' 0 16 = s.me.sub ++ s.me.code := by
  apply BitVec.eq_of_toNat_eq
  have hc := s.me.code.isLt
  have hs := s.me.sub.isLt
  simp only [State.sysVal, cat_toNat, BitVec.extractLsb'_toNat, BitVec.toNat_ofNat, Nat.shiftRight_eq_div_pow]
  omega
/-- A field of n bits that stands at the bottom of a register reads back. -/
theorem extract_setWidth {n : Nat} (x : BitVec n) (h : n ≤ 64) : (x.setWidth 64).extractLsb' 0 n = x := by
  apply BitVec.eq_of_toNat_eq
  have : 2 ^ n ≤ 2 ^ 64 := Nat.pow_le_pow_right (by decide) h
  simp only [BitVec.extractLsb'_toNat, BitVec.toNat_setWidth, Nat.shiftRight_zero]
  rw [Nat.mod_eq_of_lt (Nat.lt_of_lt_of_le x.isLt this), Nat.mod_eq_of_lt x.isLt]

/-- Settles O18: the checks of R125 by the number's classes, then the one access that each form makes. -/
theorem systemRegisters : Obligations.SystemRegisters := by
  intro s hf
  refine ⟨?_, ?_, ?_, ?_, ?_, ?_, rfl, s.sysVal_cause, extract_setWidth _ (by decide), extract_setWidth _ (by decide),
    extract_setWidth _ (by decide)⟩
  · exact fun d n hn hH ha => exec_sysr_reads hn hH ha
  · intro d n hn
    exact sysAccess_illegal (by simp only [sysListed, decide_eq_false_iff_not]; omega)
  · intro a n hH hc hm
    rw [exec_sysw, execSysw, hc]
    exact sysAccess_priv (sysListed_of_isH hH) hH hm
  · exact fun c hm => ⟨exec_sysrC_reads rfl rfl hm, exec_sysrC_reads rfl rfl hm, exec_sysrC_reads rfl rfl hm⟩
  · intro a ha v writes
    have task (n : BitVec 12) (hl : sysListed n.toNat = true) (hc : sysIsCap n.toNat = false) (hH : sysIsH n.toNat = false) :
        exec (.sysw a n) s = .next ((s.sysPut n.toNat v).retire 4 [a]) :=
      exec_sysw_writes hf hl hc (by simp [hH]) (by intro h; rw [h] at hH; cases hH) ha
    refine ⟨?_, task 0xC rfl rfl rfl, task 0xD rfl rfl rfl, ?_, ?_⟩
    · exact (task 0xB rfl rfl rfl).trans (congrArg (fun t : State => Host.Outcome.next (t.retire 4 [a])) (s.sysPut_frm v))
    · intro n hn
      simp only [List.mem_cons, List.not_mem_nil, or_false] at hn
      rcases hn with rfl | rfl | rfl | rfl | rfl | rfl | rfl <;> exact task _ rfl rfl rfl
    · intro hm
      have handler (n : BitVec 12) (hl : n.toNat < 4) : exec (.sysw a n) s = .next ((s.sysPut n.toNat v).retire 4 [a]) :=
        exec_sysw_writes hf (by simp only [sysListed, decide_eq_true_eq]; omega)
          (by simp only [sysIsCap, Bool.or_eq_false_iff, decide_eq_false_iff_not]; omega) (fun _ => hm) (by omega) ha
      exact ⟨handler 0x0 (by decide), handler 0x1 (by decide), handler 0x2 (by decide), handler 0x3 (by decide)⟩
  · exact fun c hm => ⟨exec_syswC_writes hf rfl rfl hm rfl, exec_syswC_ecap hf hm⟩

/-! ### The system group -/

/-- IDENT's number: the variant and the revision of R20, and the step of the silicon above them. -/
theorem identVal_toNat : identVal.toNat = 0x0007B140 + 2 ^ 36 * Config.step.toNat := by
  unfold identVal
  have := Config.step.isLt
  generalize Config.step.toNat = k at this ⊢
  rw [BitVec.toNat_ofNat, show Config.variant = 0 from rfl]
  omega
theorem identVal_low : identVal.extractLsb' 0 32 = 0x0007B140#32 := by
  apply BitVec.eq_of_toNat_eq
  rw [BitVec.extractLsb'_toNat, identVal_toNat, Nat.shiftRight_eq_div_pow, BitVec.toNat_ofNat]
  omega
theorem identVal_high : identVal.extractLsb' 44 20 = 0#20 := by
  have := Config.step.isLt
  apply BitVec.eq_of_toNat_eq
  rw [BitVec.extractLsb'_toNat, identVal_toNat, Nat.shiftRight_eq_div_pow, BitVec.toNat_ofNat]
  omega
theorem identVal_step : identVal.extractLsb' 36 8 = Config.step := by
  have := Config.step.isLt
  apply BitVec.eq_of_toNat_eq
  rw [BitVec.extractLsb'_toNat, identVal_toNat, Nat.shiftRight_eq_div_pow]
  omega

/-- The privileged instructions of R26 with one or two operands. -/
def privileged (d c : CapF) (b : RegF) : List Instr :=
  [.eret, .cmake d b, .ctxsave c b, .ctxload c b, .resumeSite b, .abandonRegion b, .resumePort b, .resumeArray b, .abandonArray b,
    .resumeStrand b, .endStrand b, .resumeEngine b]
theorem exec_privileged_task {s : State} {d c : CapF} {b : RegF} {i : Instr} (hi : i ∈ privileged d c b) (hm : s.me.mode = false) :
    exec i s = s.raise (mkTrap ccPriv 0 0 0) := by
  simp only [privileged, List.mem_cons, List.not_mem_nil, or_false] at hi
  rcases hi with rfl | rfl | rfl | rfl | rfl | rfl | rfl | rfl | rfl | rfl | rfl | rfl
  · exact runPriv_task hm
  · exact runPriv_task hm
  · exact if_pos (by simp [hm])
  · exact if_pos (by simp [hm])
  all_goals exact runPriv_task hm

/-- A cause that waited is taken by the strand whose turn it is once its loads have landed (R27). -/
theorem exec_trapEntry_me {s : State} {k : TrapInfo} (hf : s.me.finder = false) (hr : s.me.stat = .running) (hl : s.me.ldc = 0)
    (hk : s.me.trap = some k) : exec (.trapEntry s.me.fld s.me.slot) s = .next (s.takeTrap k) := by
  have hat : s.me.at s.me.fld s.me.slot = true := by simp [Strand.at, hf, hr]
  simp [exec_trapEntry, execTrapEntry, State.strandAt, State.asStrand, hat, hk, hl, hr]

theorem trapInstructions : Claim.TrapInstructions := by
  refine ⟨?_, fun s k hf hr hl hk => exec_trapEntry_me hf hr hl hk⟩
  intro s hf hl
  have taken (k : TrapInfo) := s.raise_takes k hf hl
  have raises {k : TrapInfo} : run .other 4 {} (fun s => .raise k s) s = .next (s.takeTrap k) :=
    (run_raise (by simp [hf]) rfl rfl rfl hf).trans (taken k)
  refine ⟨raises, raises, ?_, ?_, ?_⟩
  · intro w0 w1 hw
    rw [exec_illegalOp, execIllegalOp, if_pos hw]
    exact taken _
  · intro w0 w1 hw
    rw [exec_illegalOp, execIllegalOp, if_neg (by simp [hw]), taken]
    simp [illegalTrap, ccIllegal]
  · exact fun hm d b c i hi => (exec_privileged_task hi hm).trans (taken _)

theorem returnAndPlainSystem : Claim.ReturnAndPlainSystem := by
  refine ⟨?_, ?_, ?_, ⟨identVal_low, identVal_high, identVal_step⟩, fun s hf hb => s.retire_unbound 4 [] hf hb⟩
  · intro s hf hm
    rw [exec_eret, execEret, runPriv_handler hm]
    have jumps : run .other 4 {} (fun s => .jump s.eret) s = _ := run_jump (by simp [hf]) rfl rfl rfl
    exact jumps.trans (congrArg _ (if_neg (Bool.eq_false_iff.1 hf)))
  · intro s
    rw [exec_nop, execNop]
    exact run_done (by simp) rfl rfl rfl
  · intro s d ha
    unfold Writes
    rw [exec_ident, execIdent]
    exact run_done (by simp) ha.1 ha.2 rfl

theorem State.leave_eq (s : State) (t : Strand) : ∃ l, s.leave t = { s with left := l } := by
  unfold State.leave
  split
  · exact ⟨_, rfl⟩
  · exact ⟨_, rfl⟩

/-- What the end of the strand whose turn it is leaves: an empty slot, without its Finder, its arm and its streams (R126, R154,
R300); its registers and its task are noted apart. -/
theorem State.endStrand_eq {s : State} {f i : Nat} (hat : s.me.at f i = true) :
    ∃ l ts, s.endStrand f i = { s with
      me := Strand.empty, left := l, tasks := ts
      others := (s.others.filter fun t => !(t.finder && t.fld = f && t.slot = i)).filter fun u => u.stat ≠ .free || u.finder
      arms := s.arms.filter fun a => !(a.fld = f && a.slot = i)
      streams := s.streams.filter fun st => st.src ≠ .strand f i } := by
  obtain ⟨l, hl⟩ := s.leave_eq s.me
  unfold State.endStrand
  simp only [State.strandAt, if_pos hat, hl, State.endFinder, State.updStrand]
  split
  · exact ⟨l, _, rfl⟩
  · split
    · split
      · exact ⟨l, _, rfl⟩
      · exact ⟨l, _, rfl⟩
    · exact ⟨l, _, rfl⟩

theorem haltEndsStrand : Claim.HaltEndsStrand := by
  intro s hf hfree
  have hat : s.me.at s.me.fld s.me.slot = true := by simp [Strand.at, hf, hfree]
  have halt : exec .halt s = if s.me.idle && s.me.drained then .next (s.endStrand s.me.fld s.me.slot) else .next s :=
    if_neg (by simp [hf])
  refine ⟨?_, ?_⟩
  · intro h
    rw [halt, if_neg]
    simp only [Strand.idle, Bool.and_eq_true, decide_eq_true_eq]
    omega
  · intro hl hs hx ht hb
    obtain ⟨l, ts, he⟩ := State.endStrand_eq hat
    refine ⟨_, (halt.trans (if_pos ?_)).trans (congrArg _ he), rfl, ?_, ?_, rfl⟩
    · simp [Strand.idle, Strand.drained, hl, hs, hx, ht, hb]
    · intro a ha
      have := (List.mem_filter.1 ha).2
      simpa only [Bool.not_eq_true', Bool.and_eq_false_iff, decide_eq_false_iff_not, not_and_or] using this
    · intro u hu
      have := (List.mem_filter.1 (List.mem_filter.1 hu).1).2
      simpa only [Bool.not_eq_true', Bool.and_eq_false_iff, decide_eq_false_iff_not, not_and_or, or_assoc, Bool.not_eq_true] using this

/-- Settles O20: the three parts of the system group. -/
theorem trapsAndSystem : Obligations.TrapsAndSystem := ⟨trapInstructions, returnAndPlainSystem, haltEndsStrand⟩

end Sys2Proof.Machine
end

section
/-!
PROOF. Accesses in flight (R15, R16, R95, R249, R286), reads of the scratchpad (R231) and the checks of R24 at short loads.
-/
namespace Sys2Proof.Machine

/-- The first element that a test picks is the first that passes a further test too, where it passes that one. -/
theorem find?_and_of_find? {α : Type} {p q : α → Bool} {a : α} {l : List α} (h : l.find? p = some a) (hq : q a = true) :
    l.find? (fun x => p x && q x) = some a := by
  rw [List.find?_eq_some_iff_append] at h ⊢
  obtain ⟨hp, as, bs, hl, has⟩ := h
  exact ⟨by simp [hp, hq], as, bs, hl, fun b hb => by simp [show p b = false by simpa using has b hb]⟩

/-! ### Replies (R15, R16, R102) -/

/-- The data of a reply changes no counter. -/
theorem Strand.deliver_counts (t : Strand) (id : Nat) (dst : Dst) (v : W64) (c : Cap) :
    (t.deliver id dst v c).ldc = t.ldc ∧ (t.deliver id dst v c).stc = t.stc := by
  unfold Strand.deliver
  split
  · cases dst <;> exact ⟨rfl, rfl⟩
  · exact ⟨rfl, rfl⟩
/-- A register that no instruction has written since takes the data (R16). -/
theorem Strand.deliver_reg {t : Strand} {id : Nat} {r : RegF} (v : W64) (c : Cap) (h : t.dests.contains (id, .reg r) = true) :
    (t.deliver id (.reg r) v c).regs = t.regs.set r.toNat v := by
  unfold Strand.deliver
  rw [if_pos h]
theorem Strand.deliver_written {t : Strand} {id : Nat} {dst : Dst} (v : W64) (c : Cap) (h : t.dests.contains (id, dst) = false) :
    t.deliver id dst v c = t := if_neg (by rw [h]; exact Bool.false_ne_true)
theorem Strand.deliver_drop (t : Strand) (id : Nat) (v : W64) (c : Cap) : (t.deliver id .drop v c).regs = t.regs := by
  unfold Strand.deliver
  split <;> rfl

/-- The strand after a reply: the data delivered, the flags raised, the class counter down. -/
def Strand.replied (t : Strand) (f : Flight) (v : Nat) (tag : Bool) : Strand :=
  let u := t.deliver f.id f.dst (f.result v) { bits := BitVec.ofNat 128 v, tag := tag }
  ({ u with fflags := u.fflags ||| BitVec.ofNat 6 f.num } : Strand).down f.cls

/-- A reply completes for the strand whose turn it is: its flight is gone, and the others stay but for what their strand would go
back to. -/
theorem State.complete_me {s : State} {f : Flight} {v : Nat} {tag : Bool} (hw : f.who = .strand s.me.fld s.me.slot)
    (hat : s.me.at s.me.fld s.me.slot = true) (hp : f.phase = .done v tag) (hm : s.me.mayPush f.id f.dst = true) :
    (s.complete f).me = s.me.replied f v tag ∧ (s.complete f).mem = s.mem ∧
      (s.complete f).flights.map settledSnap = (s.flights.filter (·.id ≠ f.id)).map settledSnap := by
  have hs : s.strandAt s.me.fld s.me.slot = some s.me := if_pos hat
  have settles (g : Flight) (got : Strand → Strand) (b : Prop) [Decidable b] :
      settledSnap (if b then { g with snap := g.snap.map got } else g) = settledSnap g := by split <;> rfl
  have sameId (g : Flight) (got : Strand → Strand) (b : Prop) [Decidable b] :
      (if b then { g with snap := g.snap.map got } else g).id = g.id := by split <;> rfl
  unfold State.complete
  rw [hw, hp]
  simp only [hs, hm, if_true, State.dropFlight, State.updStrand, if_pos hat]
  refine ⟨rfl, trivial, ?_⟩
  rw [List.filter_map, List.map_map]
  simp only [Function.comp_def, settles, sameId]

theorem Flight.replied_ldc (t : Strand) {f : Flight} (v : Nat) (tag : Bool) (h : f.acc.op.reads = true) :
    (t.replied f v tag).ldc = t.ldc - 1 := by
  have hc : f.cls = .ld := if_pos h
  simp only [Strand.replied, hc]
  exact congrArg (· - 1) (t.deliver_counts _ _ _ _).1
theorem Flight.replied_stc (t : Strand) {f : Flight} (v : Nat) (tag : Bool) (h : f.acc.op.reads = false) :
    (t.replied f v tag).stc = t.stc - 1 := by
  have hc : f.cls = .st := if_neg (by simp [h])
  simp only [Strand.replied, hc]
  exact congrArg (· - 1) (t.deliver_counts _ _ _ _).2
theorem Flight.replied_regs (t : Strand) (f : Flight) (v : Nat) (tag : Bool) :
    (t.replied f v tag).regs = (t.deliver f.id f.dst (f.result v) { bits := BitVec.ofNat 128 v, tag := tag }).regs := by
  unfold Strand.replied Strand.down Strand.setCount
  cases f.cls <;> rfl

theorem State.withFlight_next {s : State} {id : Nat} {ok : Flight → Bool} {go : Flight → State} {f : Flight}
    (h : s.flights.find? (fun g => g.id = id && ok g) = some f) : s.withFlight id ok go = .next (go f) := by
  simp only [State.withFlight, h]

/-- A load's reply to a register of the strand whose turn it is. -/
theorem exec_loadComplete_reg {s : State} {id : Nat} {f : Flight} {v : Nat} {tag : Bool} {r : RegF}
    (hf : s.flights.find? (fun g => g.id = id && (g.isDone && g.ofStrand && g.acc.op.reads)) = some f)
    (hw : f.who = .strand s.me.fld s.me.slot) (hat : s.me.at s.me.fld s.me.slot = true) (hp : f.phase = .done v tag)
    (hop : f.acc.op = .read) (hd : f.dst = .reg r) :
    ∃ t, exec (.loadComplete id) s = .next t ∧ t.me.ldc = s.me.ldc - 1 ∧
      t.flights.map settledSnap = (s.flights.filter (·.id ≠ id)).map settledSnap ∧ t.mem = s.mem ∧
      (s.me.dests.contains (id, .reg r) = true → t.me.regs = s.me.regs.set r.toNat (extend (8 * f.acc.n) f.sext v)) ∧
      (s.me.dests.contains (id, .reg r) = false → t.me.regs = s.me.regs) := by
  have picked := List.find?_some hf
  simp only [Bool.and_eq_true, decide_eq_true_eq] at picked
  obtain ⟨rfl, _⟩ := picked
  have result : f.result v = extend (8 * f.acc.n) f.sext v := by simp [Flight.result, hop]
  obtain ⟨hme, hmem, hfl⟩ := State.complete_me hw hat hp (by simp [hd, Strand.mayPush])
  refine ⟨_, State.withFlight_next hf, ?_, hfl, hmem, fun h => ?_, fun h => ?_⟩
  · rw [hme, Flight.replied_ldc _ _ _ (by simp [hop, AccOp.reads])]
  · rw [hme, Flight.replied_regs, hd, Strand.deliver_reg _ _ h, result]
  · rw [hme, Flight.replied_regs, hd, Strand.deliver_written _ _ h]

/-- A store's reply, which brings nothing. -/
theorem exec_storeComplete_drop {s : State} {id : Nat} {f : Flight} {v : Nat} {tag : Bool}
    (hf : s.flights.find? (fun g => g.id = id && (g.isDone && g.ofStrand && !g.acc.op.reads)) = some f)
    (hw : f.who = .strand s.me.fld s.me.slot) (hat : s.me.at s.me.fld s.me.slot = true) (hp : f.phase = .done v tag)
    (hd : f.dst = .drop) :
    ∃ t, exec (.storeComplete id) s = .next t ∧ t.me.stc = s.me.stc - 1 ∧ t.me.regs = s.me.regs ∧
      t.flights.map settledSnap = (s.flights.filter (·.id ≠ id)).map settledSnap ∧ t.mem = s.mem := by
  have picked := List.find?_some hf
  simp only [Bool.and_eq_true, decide_eq_true_eq, Bool.not_eq_true'] at picked
  obtain ⟨rfl, _, hreads⟩ := picked
  obtain ⟨hme, hmem, hfl⟩ := State.complete_me hw hat hp (by simp [hd, Strand.mayPush])
  refine ⟨_, State.withFlight_next hf, ?_, ?_, hfl, hmem⟩
  · rw [hme, Flight.replied_stc _ _ _ hreads]
  · rw [hme, Flight.replied_regs, hd, Strand.deliver_drop]

/-! ### Accesses that waited (R95, R249, R286) -/

theorem State.noteReply_eq (s : State) (id : Nat) (a : Access) (v : Nat) : ∃ r, s.noteReply id a v = { s with replies := r } := by
  unfold State.noteReply
  split
  · exact ⟨_, rfl⟩
  · exact ⟨_, rfl⟩
theorem State.updStrand_eq (s : State) (f i : Nat) (g : Strand → Strand) :
    ∃ m o, s.updStrand f i g = { s with me := m, others := o } := by
  unfold State.updStrand
  split
  · exact ⟨_, _, rfl⟩
  · exact ⟨_, _, rfl⟩
theorem State.noteRels_eq (s : State) (f : Flight) (rs : List Rel) : ∃ m o, s.noteRels f rs = { s with me := m, others := o } := by
  unfold State.noteRels
  split
  · split
    · exact s.updStrand_eq _ _ _
    · exact ⟨_, _, rfl⟩
  · exact ⟨_, _, rfl⟩

/-- An access that performs when it is tried again has its reply at hand. -/
theorem State.tryFlight_performs {s u : State} {f : Flight} {v : Nat} {tag : Bool} {fl : Nat} {rs : List Rel}
    (hr : s.replyOf f.id f.acc = none) (hw : f.who ≠ .host) (hp : s.performSync f.acc = (u, .val v tag fl, rs)) :
    (s.tryFlight f).mem = u.mem ∧
      (s.tryFlight f).flights = u.flights.map fun g => if g.id = f.id then { g with phase := .done v tag, num := fl, snap := none } else g := by
  obtain ⟨r, hn⟩ := u.noteReply_eq f.id f.acc v
  obtain ⟨m, o, hrel⟩ := ({ u with replies := r } : State).noteRels_eq f rs
  unfold State.tryFlight State.hostDone
  simp only [hr, hp, if_neg hw, State.updFlight, hn, hrel]
  exact ⟨trivial, trivial⟩

/-- Settles O21: a reply goes to the strand whose turn it is; an access that waited performs, and its flight holds the reply. -/
theorem flightsComplete : Obligations.FlightsComplete := by
  refine ⟨?_, ?_, ?_⟩
  · exact fun s id f v tag hf hw hat hp hop r hd => exec_loadComplete_reg hf hw hat hp hop hd
  · exact fun s id f v tag hf hw hat hp hd => exec_storeComplete_drop hf hw hat hp hd
  · intro s u i id f v tag fl rs hi hf _ hb hr hw hp
    obtain rfl : f.id = id := by simpa using List.find?_some hf
    obtain ⟨hmem, hfl⟩ := State.tryFlight_performs hr hw hp
    refine ⟨s.tryFlight f, ?_, hmem, hfl⟩
    rcases hi with ⟨rfl, hph, ha⟩ | ⟨rfl, hph, ha⟩ | ⟨rfl, hph⟩
    · exact State.withFlight_next (find?_and_of_find? hf (by simp [hph, hb, ha]))
    · exact State.withFlight_next (find?_and_of_find? hf (by simp [hph, hb, ha]))
    · exact State.withFlight_next (find?_and_of_find? hf (by simp [hph, hb]))

/-! ### Reads of the scratchpad (R231) -/

/-- An access to a task-local object goes to the scratchpad port, and reads the releases noted there (R229, R262). -/
theorem State.perform_local {s : State} {a : Access} (h : localObj ≤ a.obj) : s.perform a = s.spPerform a := if_pos h
theorem State.readRels_local {s : State} {a : Access} (h : localObj ≤ a.obj) :
    s.readRels a = s.relsAt a.ctx (2 ^ 32 + a.fld) a.off a.n := by
  unfold State.readRels Access.relObj
  rw [if_pos (by simp [h]), if_pos h]

/-- An access without an acquire has no effect but its own (R261). -/
theorem State.performSync_plain {s u : State} {a : Access} {v : Nat} {tag : Bool} {fl : Nat} (ha : a.acq = [])
    (hp : s.perform a = (u, .val v tag fl)) :
    s.performSync a = (u, .val v tag fl, if a.op.reads then u.readRels a else []) := by
  simp only [State.performSync, hp, ha, List.foldl_nil]

/-- The field's counters as the scratchpad port leaves them (R233). -/
def Field.counted (f : Field) (off : Nat) : Field :=
  if off / step512 + 1 = f.n && f.n ≥ f.nmin + 1 then { f with ls := f.ls + 1 } else f

/-- A read of bytes that the scratchpad's SRAM holds (R231). -/
theorem State.spPerform_read {s : State} {a : Access} (hop : a.op = .read) (hmove : (s.fieldOf a.fld).moving = none)
    (hn : 0 < a.n) (hin : a.off + a.n ≤ (s.fieldOf a.fld).n * step512) (hmax : (s.fieldOf a.fld).n ≤ (s.fieldOf a.fld).nmax) :
    s.spPerform a = (s.setField ((s.fieldOf a.fld).counted a.off),
      .val (readLE s.mem (spKey a.fld a.off) a.n) (s.tags.contains ((spKey a.fld a.off - a.off % 16) / 16)) 0) := by
  have inMax : ¬ a.off + a.n > (s.fieldOf a.fld).nmax * step512 :=
    Nat.not_lt.2 (hin.trans (Nat.mul_le_mul_right step512 hmax))
  have still : (s.fieldOf a.fld).inMove a.off = false := by simp [Field.inMove, hmove]
  have size : ((s.fieldOf a.fld).counted a.off).n = (s.fieldOf a.fld).n := by unfold Field.counted; split <;> rfl
  unfold State.spPerform
  simp only [if_neg inMax, still, Bool.false_eq_true, if_false]
  refine (if_pos (show a.off < ((s.fieldOf a.fld).counted a.off).n * step512 by rw [size]; omega)).trans ?_
  rw [hop]
  rfl

theorem scratchpadReads : Claim.ScratchpadReads := by
  intro s c o n ⟨_, hobj, ho, hin, hmax, hmove⟩ _ hn
  have pos : 0 < n := by
    simp only [List.mem_cons, List.not_mem_nil, or_false] at hn
    omega
  have hread := State.spPerform_read (s := s) (a := s.strandAccess c.obj o.toNat n .read 0 1) rfl hmove pos
    (show o.toNat + n ≤ (s.fieldOf s.me.fld).n * step512 by omega) hmax
  have hsync := State.performSync_plain rfl ((State.perform_local hobj).trans hread)
  rw [State.readRels_local (a := s.strandAccess c.obj o.toNat n .read 0 1) hobj] at hsync
  exact ⟨_, _, hsync, rfl, rfl, rfl, rfl⟩

/-! ### The checks of R24 at a short load -/

theorem exec_shortLoad {s : State} {d : RegF} {h : BitVec 1} {c : CapF} {imm : BitVec 14} {p : Instr × Nat × Bool}
    (hp : p ∈ shortLoads d h c imm) : exec p.1 s = ldShort p.2.1 p.2.2 d h c imm s := by
  simp only [shortLoads, List.mem_cons, List.not_mem_nil, or_false] at hp
  rcases hp with rfl | rfl | rfl | rfl | rfl | rfl | rfl
  exacts [exec_ldB .., exec_ldBu .., exec_ldH .., exec_ldHu .., exec_ldW .., exec_ldWu .., exec_ldD ..]

/-- The offset of a short load (R102). -/
theorem effAddr_sext (c : Cap) (imm : BitVec 14) : effAddr c (sext imm) = (c.cur : Int) + imm.toInt := by
  simp only [effAddr, sext]
  rw [BitVec.toInt_signExtend_of_le (by decide)]

/-- A load whose capability fails a check raises the check's cause, with the object and the offset, and does nothing else. -/
theorem ldShort_raises {s : State} {n : Nat} {sgn : Bool} {d : RegF} {h : BitVec 1} {c : CapF} {imm : BitVec 14} {code : Nat}
    (hf : s.me.finder = false) (ha : Admits s { loads := [d] })
    (hk : checkCap (s.ownObj s.me.fld) (s.creg c) pR ((s.creg c).cur + imm.toInt) n = some code) :
    ldShort n sgn d h c imm s = s.raise (mkTrap code 0 (s.creg c).obj (((s.creg c).cur + imm.toInt) % 2 ^ 64).toNat) := by
  refine run_raise (by simp [hf]) ha.1 ha.2 ?_ hf
  rw [effAddr_sext]
  simp only [State.load, State.checkAccess, hk]
  rfl

theorem Cap.has_pR (c : Cap) : c.has pR = decide (c.perm % 2 = 1) := by
  simp only [Cap.has, pR, Nat.and_one_is_mod]

/-- The object may be named by the field: it is homed, or the field's own (R24). -/
theorem checkCap_bounds {own : Nat} {c : Cap} {rights n : Nat} {o : Int} (ht : c.tag = true) (hr : c.has rights = true)
    (hobj : c.obj < localObj ∨ c.obj = own) :
    checkCap own c rights o n =
      if o < c.base || o + n > c.top then some ccCapBounds else if o % n ≠ 0 then some ccAlign else none := by
  unfold checkCap
  rw [if_neg (by simp [ht]), if_neg (by simp [hr]), if_neg]
  simp only [Bool.and_eq_true, decide_eq_true_eq]
  omega

theorem accessChecks : Claim.AccessChecks := by
  intro s d h c imm hf ha x o p hp faults
  have raises {code : Nat} (hk : checkCap (s.ownObj s.me.fld) x pR o p.2.1 = some code) : faults code :=
    (exec_shortLoad hp).trans (ldShort_raises hf ha hk)
  refine ⟨?_, ?_, ?_, ?_, ?_⟩
  · intro ht
    exact raises (if_pos (by simp [ht]))
  · intro ht hr
    exact raises ((if_neg (by simp [ht])).trans (if_pos (by simp [Cap.has_pR, hr])))
  · intro ht hr hl hown
    exact raises ((if_neg (by simp [ht])).trans ((if_neg (by simp [Cap.has_pR, hr])).trans (if_pos (by simp [hl, hown]))))
  · intro ht hr hobj hb
    refine raises ((checkCap_bounds ht (by simp [Cap.has_pR, hr]) hobj).trans (if_pos ?_))
    simp only [Bool.or_eq_true, decide_eq_true_eq]
    omega
  · intro ht hr hobj hlo hhi hal
    refine raises ((checkCap_bounds ht (by simp [Cap.has_pR, hr]) hobj).trans ((if_neg ?_).trans (if_pos hal)))
    simp only [Bool.or_eq_true, decide_eq_true_eq]
    omega

/-- Settles O23: the port reads its SRAM, and the checks of R24 come in their order before the load leaves. -/
theorem scratchpadAccesses : Obligations.ScratchpadAccesses := ⟨scratchpadReads, accessChecks⟩

end Sys2Proof.Machine
end

section
/-!
PROOF. A firing with nothing but the element's own operation due (R135, R136, R155), address generators (R182) and sequencer ports
(R180, R206, R209).
-/
namespace Sys2Proof.Machine

/-! ### The frame of a firing where nothing else is due -/

theorem Fx.discard_none {x : Fx} (h : ∀ c ∈ x.s.chans, c.discard = 0) : x.discard = none := by
  unfold Fx.discard
  rw [List.findSome?_eq_none_iff]
  intro i _
  split
  · rfl
  · next c hc =>
    split
    · rfl
    · rw [if_pos (by simp [h c (List.mem_of_find?_eq_some hc)])]

theorem Fx.fillTile_none {x : Fx} (h : x.e.isC = true → x.head 3 = none) : x.fillTile = none := by
  unfold Fx.fillTile
  split
  · next b hb =>
    have notC : x.e.isC = false := by
      by_contra hc
      rw [h (by simpa using hc)] at hb
      cases hb
    rw [if_pos (by simp [notC])]
  · rfl

theorem Fx.control_none {x : Fx} (hc : x.e.isC = true → x.e.lastIn = 0) (hd : ∀ i b, x.head i = some b → b.isData (x.vec i) = true) :
    x.control = none := by
  have noSwap : (x.e.lastIn ≠ 0 && x.e.isC && x.e.hasSt && x.e.idle 0) = false := by
    cases h : x.e.isC with
    | false => simp
    | true => simp [hc h]
  unfold Fx.control
  simp only [noSwap, Bool.false_eq_true, if_false]
  split
  · rfl
  · rw [List.findSome?_eq_none_iff]
    intro i _
    split
    · rfl
    · next b hb =>
      have : b.isCtl (x.vec i) = false := by
        have := hd i b hb
        simp only [Beat.isData, Bool.and_eq_true, Bool.not_eq_true'] at this
        exact this.2
      rw [if_pos (by simp [this])]

/-- Data at an input is no marker (R131, R132). -/
theorem Fx.marked_false {x : Fx} {i : Nat} (hd : ∀ b, x.head i = some b → b.isData (x.vec i) = true) : x.marked i = false := by
  unfold Fx.marked
  cases h : x.head i with
  | none => rfl
  | some b =>
    have := hd b h
    simp only [Beat.isData, Bool.and_eq_true, Bool.not_eq_true'] at this
    simp [this.1]

theorem Fx.markers_none {x : Fx} (outs : List Nat) (hd : ∀ i b, x.head i = some b → b.isData (x.vec i) = true) :
    x.markers outs = none := by
  have none_marked (i : Nat) : x.marked i = false := Fx.marked_false (hd i)
  unfold Fx.markers
  cases h : x.inPorts with
  | nil => rfl
  | cons i r =>
    have all : (i :: r).all x.marked = false := by simp [none_marked]
    have found : ((i :: r).filter (· < 3)).find? x.marked = none := List.find?_eq_none.2 fun j _ => by simp [none_marked]
    simp only [List.isEmpty_cons, all, found, Bool.false_eq_true, if_false]

/-- With nothing else due, a firing is the element's own operation. -/
theorem Fx.fire_of_clear {x : Fx} (h : x.clear) (outs : List Nat) (st : Bool) (body : Fx → Option State) :
    x.fire outs st body = (body x).map fun t => x.s.markLeft t x.sl.ctx := by
  obtain ⟨hstall, hdead, hpost, helems, hdisc, houtq, hc, hd⟩ := h
  have quiet : (x.sl.elems.any fun d => d.site = x.e.site && d.sw && x.e.sw && d.stall.isSome) = false := by
    rw [List.any_eq_false]
    intro d hdm
    simp [helems d hdm]
  unfold Fx.fire
  rw [if_neg (by simp [hstall, hdead, hpost, quiet]), Fx.discard_none hdisc, houtq, Fx.fillTile_none fun e => (hc e).1,
    Fx.control_none (fun e => (hc e).2) hd, Fx.markers_none outs hd]
  simp

/-! ### Which element fires, and what its firing answers -/

theorem State.fxAt_some {s : State} {f site : Nat} {sw : Bool} {p : Elem → Bool} {x : Fx} (h : s.fxAt f site sw p = some x) :
    x.s = s ∧ p x.e = true := by
  unfold State.fxAt at h
  split at h
  · obtain ⟨e, he, rfl⟩ := Option.map_eq_some_iff.1 h
    have picked := List.find?_some he
    exact ⟨rfl, (Bool.and_eq_true_iff.1 picked).2⟩
  · cases h

/-- An element found by a test is found by a narrower one that it passes. -/
theorem State.fxAt_and {s : State} {f site : Nat} {sw : Bool} {p q : Elem → Bool} {x : Fx} (h : s.fxAt f site sw p = some x)
    (hq : q x.e = true) : s.fxAt f site sw (fun e => p e && q e) = some x := by
  unfold State.fxAt at h ⊢
  split at h
  · obtain ⟨e, he, rfl⟩ := Option.map_eq_some_iff.1 h
    have := find?_and_of_find? he hq
    simp only [Bool.and_assoc] at this
    rw [this]
    rfl
  · cases h

/-- Leave to consume counts at the element's inputs and outputs, and nothing else of it (R137). -/
theorem Fx.actorFire_keeps {x y : Fx} (h : x.actorFire = some y) : y.sl = x.sl ∧ y.e = { x.e with iq := y.e.iq, oq := y.e.oq } := by
  unfold Fx.actorFire at h
  dsimp only at h
  split at h
  · cases h
    exact ⟨rfl, rfl⟩
  · cases h
theorem Fx.gateIn_keeps {x y : Fx} {i : Nat} (h : x.gateIn i = some y) : y.sl = x.sl ∧ y.e = { x.e with iq := y.e.iq, oq := y.e.oq } := by
  unfold Fx.gateIn at h
  split at h
  · cases h
    exact ⟨rfl, rfl⟩
  · split at h
    · cases h
      exact ⟨rfl, rfl⟩
    · obtain ⟨z, hz, rfl⟩ := Option.map_eq_some_iff.1 h
      obtain ⟨hsl, he⟩ := Fx.actorFire_keeps hz
      exact ⟨hsl, by dsimp only; rw [he]⟩

@[simp] theorem Fx.drop_sl (x : Fx) (i : Nat) : (x.drop i).sl = x.sl := by
  unfold Fx.drop
  split <;> rfl
@[simp] theorem Fx.drop_e (x : Fx) (i : Nat) : (x.drop i).e = x.e := by
  unfold Fx.drop
  split <;> rfl
@[simp] theorem Fx.queue_sl (x : Fx) (l : List (Nat × Beat)) : (x.queue l).sl = x.sl := rfl
@[simp] theorem Fx.token_sl (x : Fx) : x.token.sl = x.sl := rfl
@[simp] theorem Fx.closeRound_sl (x : Fx) : x.closeRound.sl = x.sl := by
  unfold Fx.closeRound
  dsimp only
  split <;> rfl

/-- The word at the head of a word input (R132). -/
theorem Fx.wordAt_word {x : Fx} {i : Nat} {b : Beat} (hb : x.head i = some b) (hk : b.kind = 0)
    (hd : b.isData (x.vec i) = true) : x.wordAt i = some (.inr b.word) := by
  simp only [Beat.isData, Bool.and_eq_true, Bool.not_eq_true'] at hd
  simp [Fx.wordAt, hb, hk, hd.1]

theorem sends_of_exec {s : State} {i : Instr} {z : Fx} (h : exec i s = stepOf s (z.fired.map fun t => s.markLeft t z.sl.ctx)) :
    Sends s i z := by
  constructor
  · intro hn
    rw [h, hn]; rfl
  · intro t ht
    rw [h, ht]; rfl

/-- The step of an element whose only due work is its operation. -/
theorem stepOf_fire {s : State} {x : Fx} (hs : x.s = s) (hc : x.clear) (outs : List Nat) (st : Bool) (body : Fx → Option State) :
    stepOf s (x.fire outs st body) = stepOf s ((body x).map fun t => s.markLeft t x.sl.ctx) := by
  rw [Fx.fire_of_clear hc, hs]
theorem sends_of_fire {s : State} {i : Instr} {x z : Fx} {outs : List Nat} {st : Bool} {body : Fx → Option State} (hs : x.s = s)
    (hc : x.clear) (hi : exec i s = stepOf s (x.fire outs st body)) (hb : body x = z.fired) (hz : z.sl = x.sl) : Sends s i z := by
  apply sends_of_exec
  rw [hi, stepOf_fire hs hc, hb, hz]
theorem fires_of_fire {s : State} {i : Instr} {x u : Fx} {outs : List Nat} {st : Bool} {body : Fx → Option State} (hs : x.s = s)
    (hc : x.clear) (hi : exec i s = stepOf s (x.fire outs st body)) (hb : body x = some u.done) (hu : u.sl = x.sl) :
    Fires s i u := by
  unfold Fires
  rw [hi, stepOf_fire hs hc, hb, hu]
  rfl
theorem stalls_of_fire {s u : State} {i : Instr} {x : Fx} {outs : List Nat} {st : Bool} {body : Fx → Option State} (hs : x.s = s)
    (hc : x.clear) (hi : exec i s = stepOf s (x.fire outs st body)) (hb : body x = some u) : Stalls s i x u := by
  unfold Stalls
  rw [hi, stepOf_fire hs hc, hb]
  rfl
theorem stays_of_fire {s : State} {i : Instr} {x : Fx} {outs : List Nat} {st : Bool} {body : Fx → Option State} (hs : x.s = s)
    (hc : x.clear) (hi : exec i s = stepOf s (x.fire outs st body)) (hb : body x = none) : exec i s = .next s := by
  rw [hi, stepOf_fire hs hc, hb]
  rfl

/-! ### Address generators (R141, R182) -/

/-- The element after its round has closed, and ended after its last (R141). -/
theorem Fx.closeRound_endRounds {x : Fx} (hq : x.e.outq = []) (he : x.e.ended = false) (nr : Nat) :
    x.closeRound.endRounds nr = { x with e := { x.e with
      outq := if x.e.rs then x.outPorts.map fun o => (o, markBeat ((x.outC o).any (·.vec)) x.e.round) else []
      round := x.e.round + 1, rounds := x.e.rounds + 1, tok := 0, closing := false
      ended := Decidable.decide (nr ≠ 0 ∧ nr ≤ x.e.rounds + 1) } } := by
  have closed : x.closeRound = { x with e := { x.e with
      outq := if x.e.rs then x.outPorts.map fun o => (o, markBeat ((x.outC o).any (·.vec)) x.e.round) else []
      round := x.e.round + 1, rounds := x.e.rounds + 1, tok := 0, closing := false } } := by
    unfold Fx.closeRound
    cases x.e.rs <;> simp [Fx.queue, hq]
  rw [closed]
  unfold Fx.endRounds
  by_cases h : nr ≠ 0 ∧ nr ≤ x.e.rounds + 1
  · rw [if_pos (by simpa using h)]
    simp [h]
  · rw [if_neg (by simpa using h)]
    simp [h, he]

/-- The offset of a token, dimension by dimension. -/
theorem affOff_four (e : Elem) (t : Nat) : let c (k : Nat) : Nat := max (e.dim k).1 1; let d (k : Nat) : Int := (e.dim k).2
    affOff e 4 0 t = (t % c 0 : Nat) * d 0 + ((t / c 0 % c 1 : Nat) * d 1 +
      ((t / c 0 / c 1 % c 2 : Nat) * d 2 + (t / c 0 / c 1 / c 2 % c 3 : Nat) * d 3)) := by
  simp only [affOff, add_zero]

/-- A source's next word, formed and counted. -/
theorem Fx.queue_token {x : Fx} (hq : x.e.outq = []) (b : Nat × Beat) :
    (x.queue [b]).token = { x with e := { x.e with outq := [b], tok := x.e.tok + 1, tokAll := x.e.tokAll + 1 } } := by
  simp [Fx.queue, Fx.token, hq]

theorem addressGenerators : Claim.AddressGenerators := by
  intro s f site x hc
  have hq : x.e.outq = [] := by obtain ⟨_, _, _, _, _, hq, _⟩ := hc; exact hq
  have data : ∀ i b, x.head i = some b → b.isData (x.vec i) = true := by obtain ⟨_, _, _, _, _, _, _, hd⟩ := hc; exact hd
  refine ⟨?_, ?_⟩
  · intro b y hx hb hk hy
    refine sends_of_fire (State.fxAt_some hx).1 hc (by rw [exec_agidx, execAgidx, fireAgidx, hx, Option.bind_some]) ?_ ?_
    · simp only [Fx.wordAt_word hb hk (data 0 b hb), hy, Option.bind_some]
    · simp [(Fx.gateIn_keeps hy).1]
  · intro hr he marks e closed sent
    have closes (nr : Nat) : closed nr = x.closeRound.endRounds nr := (Fx.closeRound_endRounds hq he nr).symm
    have sends (v : Int) : sent v = (x.queue [(0, wordBeat (BitVec.ofInt 32 v))]).token := (Fx.queue_token hq _).symm
    have goes : ¬ (!x.e.ramped || x.e.ended) = true := by simp [hr, he]
    refine ⟨fun hx => ⟨?_, ?_, ?_⟩, fun hx => ⟨?_, ?_⟩⟩
    · intro h
      refine sends_of_fire (State.fxAt_some hx).1 hc (by rw [exec_agaff, execAgaff, fireAgaff, hx, Option.bind_some]) ?_ rfl
      rw [closes]
      exact (if_neg goes).trans (if_pos (by simpa using h))
    · intro hcl ht hsd c d t
      refine sends_of_fire (State.fxAt_some hx).1 hc (by rw [exec_agaff, execAgaff, fireAgaff, hx, Option.bind_some]) ?_ rfl
      rw [sends, ← affOff_four]
      exact (if_neg goes).trans ((if_neg (by simp [hcl]; omega)).trans (if_neg (by simp [hsd])))
    · intro hcl ht hsd
      refine stays_of_fire (State.fxAt_some hx).1 hc (by rw [exec_agaff, execAgaff, fireAgaff, hx, Option.bind_some]) ?_
      exact (if_neg goes).trans ((if_neg (by simp [hcl]; omega)).trans (if_pos (by simp [hsd])))
    · intro h
      refine sends_of_fire (State.fxAt_some hx).1 hc (by rw [exec_agmod, execAgmod, fireAgmod, hx, Option.bind_some]) ?_ rfl
      rw [closes]
      exact (if_neg goes).trans (if_pos (by simpa using h))
    · intro hcl ht hsd
      refine sends_of_fire (State.fxAt_some hx).1 hc (by rw [exec_agmod, execAgmod, fireAgmod, hx, Option.bind_some]) ?_ rfl
      rw [sends]
      exact (if_neg goes).trans ((if_neg (by simp [hcl]; omega)).trans (if_neg (by simp [hsd])))

/-! ### Sequencer ports (R180, R206, R209) -/

theorem exec_sqp_in {s : State} {f site : Nat} {x : Fx}
    (hx : s.fxAt f site false (fun e => e.isM && e.col = 0 && e.op = 0x06) = some x) (hm : x.e.p 0 2 = 0) :
    exec (.sqp f site) s = stepOf s (x.fire [0] true Fx.queueIn) := by
  rw [exec_sqp, execSqp, fireSqp, hx, Option.bind_some, hm]
  rfl
theorem exec_sqp_out {s : State} {f site : Nat} {x : Fx}
    (hx : s.fxAt f site false (fun e => e.isM && e.col = 0 && e.op = 0x06) = some x) (hm : x.e.p 0 2 = 1) :
    exec (.sqp f site) s = stepOf s (x.fire [] false Fx.queueOut) := by
  rw [exec_sqp, execSqp, fireSqp, hx, Option.bind_some, hm]
  rfl
theorem exec_sqp_round {s : State} {f site : Nat} {x : Fx}
    (hx : s.fxAt f site false (fun e => e.isM && e.col = 0 && e.op = 0x06) = some x) (hm : x.e.p 0 2 = 2) :
    exec (.sqp f site) s = stepOf s (x.fire [0] true fun x => if x.closes then x.closeRound.fired else none) := by
  rw [exec_sqp, execSqp, fireSqp, hx, Option.bind_some, hm]
  rfl
theorem exec_sqp_exit {s : State} {f site : Nat} {x : Fx}
    (hx : s.fxAt f site false (fun e => e.isM && e.col = 0 && e.op = 0x06) = some x) (hm : x.e.p 0 2 = 3) :
    exec (.sqp f site) s = stepOf s (x.fire [] false Fx.exitPort) := by
  rw [exec_sqp, execSqp, fireSqp, hx, Option.bind_some, hm]
  rfl

/-- ROUND is a number of the context: its advance changes no strand and no memory (R141). -/
theorem State.advanceRound_eq (s : State) (ctx : Nat) (rounds : List W32) : ∃ l, s.advanceRound ctx rounds = { s with ctxs := l } := by
  unfold State.advanceRound
  dsimp only
  split
  · exact ⟨_, rfl⟩
  · split
    · exact ⟨_, rfl⟩
    · exact ⟨_, rfl⟩
theorem State.syncRounds_eq (s : State) : ∃ l, s.syncRounds = { s with ctxs := l } := by
  suffices h : ∀ (cs : List Nat) (t : State), ∃ l, cs.foldl State.syncRound t = { t with ctxs := l } from h _ s
  intro cs
  induction cs with
  | nil => exact fun t => ⟨_, rfl⟩
  | cons c r ih =>
    intro t
    obtain ⟨l, hl⟩ := t.advanceRound_eq c ((t.counting c).map (·.2.srcRound))
    obtain ⟨l', hl'⟩ := ih (t.syncRound c)
    exact ⟨l', by rw [List.foldl_cons, hl', State.syncRound, hl]⟩

/-- The strand found in a slot sits there. -/
theorem State.strandAt_at {s : State} {f i : Nat} {t : Strand} (h : s.strandAt f i = some t) : t.at f i = true := by
  unfold State.strandAt at h
  split at h
  · next hat => cases h; exact hat
  · have picked := List.find?_some h
    exact picked
/-- A strand rewritten is found where it was, unless its slot becomes free. -/
theorem State.strandAt_updStrand {s : State} {f i : Nat} {t : Strand} {g : Strand → Strand} (h : s.strandAt f i = some t)
    (hg : ∀ u, u.at f i = true → (g u).at f i = true) : (s.updStrand f i g).strandAt f i = some (g t) := by
  unfold State.strandAt State.updStrand at *
  by_cases hme : s.me.at f i = true
  · rw [if_pos hme] at h ⊢
    cases h
    exact if_pos (hg _ hme)
  · rw [if_neg hme] at h ⊢
    have sits : ((fun u : Strand => u.at f i) ∘ fun u => if u.at f i = true then g u else u) = fun u => u.at f i := by
      funext u
      by_cases hu : u.at f i = true
      · simp [hu, hg u hu]
      · simp [hu]
    simp only [if_neg hme, List.find?_map, sits, h, Option.map_some, State.strandAt_at (s := s) (by unfold State.strandAt; rw [if_neg hme]; exact h), if_true]

/-- The record at an exit port resumes the strand that its head names (R140, R209). -/
theorem exec_recordAtExit_resumes {s : State} {f row : Nat} {x : Fx} {h : W32} {ds : List W32} {t : Strand}
    (hx : s.fxAt f (16 * row) false (fun e => e.isM && e.col = 0 && e.op = 0x06) = some x) (hm : x.e.p 0 2 = 3)
    (hw : x.e.words = h :: ds) (hcl : x.e.closing = true) (hf : h.toNat / 2 ^ 11 % 2 ^ 7 = f) (hp : h.toNat / 2 ^ 18 % 2 ^ 5 = s.pkg)
    (ht : s.strandAt f (h.toNat / 2 ^ 8 % 8) = some t) (hst : t.stat = .fabric) :
    ∃ u, exec (.recordAtExit f row) s = .next u ∧ u.mem = s.mem ∧
      u.strandAt f (h.toNat / 2 ^ 8 % 8) = some { t with stat := .running, exitRec := some (row, ds) } := by
  have hs : x.s = s := (State.fxAt_some hx).1
  have hx' := State.fxAt_and (q := fun e => e.p 0 2 = 3) hx (by simp [hm])
  let cleared := s.setElem x.sl.fld x.sl.idx { x.e with words := [], closing := false }
  let resumed := cleared.updStrand f (h.toNat / 2 ^ 8 % 8) fun t => { t with stat := .running, exitRec := some (row, ds) }
  have hfire : fireExit f row s = some resumed := by
    unfold fireExit
    rw [hx', Option.bind_some]
    simp only [hw, hs, hcl, bits, hf, hp]
    rw [if_neg (by simp)]
    simp only [show (2 : Nat) ^ 3 = 8 from rfl, ht, hst, if_true]
    rfl
  obtain ⟨l, hl⟩ := resumed.syncRounds_eq
  obtain ⟨m, o, hr⟩ := cleared.updStrand_eq f (h.toNat / 2 ^ 8 % 8) fun t => { t with stat := .running, exitRec := some (row, ds) }
  refine ⟨resumed.syncRounds, ?_, ?_, ?_⟩
  · rw [exec_recordAtExit, execRecordAtExit, hfire]
    rfl
  · rw [hl]
    show resumed.mem = s.mem
    rw [show resumed = _ from hr]
    rfl
  · rw [hl]
    have : cleared.strandAt f (h.toNat / 2 ^ 8 % 8) = some t := ht
    refine State.strandAt_updStrand this fun u hu => ?_
    simp only [Strand.at, Bool.and_eq_true] at hu ⊢
    obtain ⟨⟨⟨notFinder, _⟩, hfld⟩, hslot⟩ := hu
    exact ⟨⟨⟨notFinder, rfl⟩, hfld⟩, hslot⟩

theorem sequencerPorts : Claim.SequencerPorts := by
  intro s f site x hc hx port
  have hs : x.s = s := (State.fxAt_some hx).1
  have data : ∀ i b, x.head i = some b → b.isData (x.vec i) = true := by obtain ⟨_, _, _, _, _, _, _, hd⟩ := hc; exact hd
  refine ⟨?_, ?_, ?_, ?_, ?_⟩
  · intro hm hcl hsd t b v r hp hb y
    refine sends_of_fire hs hc (exec_sqp_in hx hm) ?_ rfl
    simp only [Fx.queueIn, hcl, hsd, Bool.false_eq_true, if_false, Bool.not_true, show x.s.portBind x.sl.fld (x.e.site / 16) x.sl.idx = _ from hp, hb]
    rfl
  · intro hm hcl
    rcases hm with hm | hm
    · exact sends_of_fire hs hc (exec_sqp_in hx hm) (if_pos hcl) (by simp)
    · exact sends_of_fire hs hc (exec_sqp_round hx hm) (if_pos hcl) (by simp)
  · intro hm t b w y hp ⟨bt, hb, hk, hbw⟩ hy absorb enter
    obtain ⟨hsl, he⟩ := Fx.gateIn_keeps hy
    have hword : x.wordAt 0 = some (.inr w) := hbw ▸ Fx.wordAt_word hb hk (data 0 bt hb)
    have hport : x.s.portBind x.sl.fld (x.e.site / 16) x.sl.idx = some (t, b) := hp
    have group : y.e.p 2 1 = x.e.p 2 1 ∧ y.e.p 3 5 = x.e.p 3 5 ∧ y.e.cnt = x.e.cnt ∧ y.e.nval = x.e.nval ∧ y.e.tok = x.e.tok := by
      rw [he]
      exact ⟨rfl, rfl, rfl, rfl, rfl⟩
    obtain ⟨h21, h35, hcnt, hnval, htok⟩ := group
    have notGroup (h : x.e.p 2 1 = 0 ∨ x.e.cnt ≠ x.e.p 3 5) : ¬ (y.e.p 2 1 = 1 && y.e.cnt = y.e.p 3 5) = true := by
      simp only [h21, h35, hcnt, Bool.and_eq_true, decide_eq_true_eq]
      omega
    have fires {u : Fx} (hu : u.sl = x.sl) (hb : x.queueOut = some u.done) : Fires s (.sqp f site) u :=
      fires_of_fire hs hc (exec_sqp_out hx hm) hb hu
    refine ⟨fun h2 h3 => ?_, fun h => ⟨fun h64 hroom => ?_, fun h64 hn => ?_, fun h64 hn hroom => ?_⟩⟩
    · refine fires (by simp [hsl]) ?_
      simp only [Fx.queueOut, hport, hword, hy, Option.bind_some]
      exact if_pos (by simp [h21, h35, hcnt, h2, h3])
    · refine fires (by simp [hsl]) ?_
      simp only [Fx.queueOut, hport, hword, hy, Option.bind_some]
      refine (if_neg (notGroup h)).trans ((if_neg (by simp [h64])).trans ((if_neg (Nat.not_le.2 hroom)).trans ?_))
      rw [h64]
      rfl
    · refine fires (by simp [hsl]) ?_
      simp only [Fx.queueOut, hport, hword, hy, Option.bind_some]
      exact (if_neg (notGroup h)).trans (if_pos (by simp [h64, hnval, hn]))
    · refine fires (by simp [hsl]) ?_
      simp only [Fx.queueOut, hport, hword, hy, Option.bind_some]
      refine (if_neg (notGroup h)).trans ((if_neg (by simp [h64, hnval, hn])).trans ((if_neg (Nat.not_le.2 hroom)).trans ?_))
      rw [h64, htok]
      rfl
  · intro hm b hcl hbusy hb
    refine ⟨fun h => ?_, fun hw hk => ?_⟩
    · refine fires_of_fire hs hc (exec_sqp_exit hx hm) ?_ (by simp)
      simp only [Fx.exitPort, hcl, hbusy, hb, Bool.or_self, Bool.false_eq_true, if_false]
      exact if_neg (by simpa [imp_iff_not_or] using h)
    · refine stalls_of_fire hs hc (exec_sqp_exit hx hm) ?_
      simp only [Fx.exitPort, hcl, hbusy, hb, Bool.or_self, Bool.false_eq_true, if_false]
      exact if_pos (by simp [hw, hk])
  · intro row h ds t hsite hm hw hcl hf hp ht hst
    subst hsite
    exact exec_recordAtExit_resumes hx hm hw hcl hf hp ht hst

/-- Settles O42: with nothing else due, a generator or a port does its own operation. -/
theorem generatorsAndPorts : Obligations.GeneratorsAndPorts := ⟨addressGenerators, sequencerPorts⟩

end Sys2Proof.Machine
end

section
/-!
PROOF. A store that its home slice has no room for (R445) leaves its sequencer and performs later, whatever the statement on
stores to homed memory says: a state with 64 requests outstanding there.
-/
namespace Sys2Proof.Machine

/-- A flight that begins changes neither memory nor L1, and its strand stays what it is. -/
theorem State.addFlight_frame (s : State) (a : Access) (dst : Dst) (sx : Bool) (ph : Phase) (fl : Nat) (cls : Cls) :
    (s.addFlight a dst sx ph fl cls).mem = s.mem ∧ (s.addFlight a dst sx ph fl cls).l1 = s.l1 ∧
      (s.addFlight a dst sx ph fl cls).me.finder = s.me.finder := by
  refine ⟨rfl, rfl, ?_⟩
  cases cls <;> rfl

/-- An access that waits behind another request, or for room at its home slice, leaves and has not performed (R95, R445). -/
theorem State.issue_behind {s : State} {a : Access} (dst : Dst) (sx : Bool) (cls : Cls) (hacq : s.acquiring = false)
    (hb : s.behind s.meWho a = true) :
    ∃ t, s.issue a dst sx cls = .done t ∧ t.mem = s.mem ∧ t.l1 = s.l1 ∧ t.me.finder = s.me.finder := by
  obtain ⟨hmem, hl1, hfin⟩ := s.addFlight_frame { s.onItsWay a with late := false } dst sx .arriving 0 cls
  unfold State.issue
  simp only [hacq, Bool.false_eq_true, if_false, hb, if_true]
  refine ⟨_, rfl, ?_⟩
  generalize s.addFlight _ dst sx .arriving 0 cls = t at hmem hl1 hfin ⊢
  cases a.op.writes <;> cases a.op.reads <;> exact ⟨hmem, hl1, hfin⟩

/-- A plain store without an earlier fence releases nothing: it only leaves (R261). -/
theorem State.store_leaves {s : State} {c : Cap} {o : Int} {n x : Nat} {v : Nat} {t : State} (hk : s.checkAccess c pW o n x = none)
    (hw : s.watchStore c o.toNat n = none) (hfull : s.me.stc < 63) (hrel : s.me.relFence = [])
    (ht : s.issue (s.strandAccess c.obj o.toNat n (.write v) 0 x) .drop false .st = .done t) :
    s.store c o n pW (.write v) 0 x .drop false .st = .done t := by
  have room : s.me.full .st = false := by simp [Strand.full, Strand.count, hfull]
  have fresh : s.staleFence = none := by simp [State.staleFence, hrel]
  have noRel : (s.strandAccess c.obj o.toNat n (.write v) 0 x).rel = [] := by
    simp [State.strandAccess, hrel, AccOp.writes, ordRel]
  unfold State.store
  simp only [hk, AccOp.isAtomic, Bool.false_eq_true, if_false, hw, room, fresh, noRel, State.release, List.isEmpty_nil, if_true, ht]

/-- A short store to a home slice that has no room for it changes neither memory nor L1. -/
theorem stShort_behind {s : State} {n : Nat} {d : RegF} {h : BitVec 1} {c : CapF} {imm : BitVec 14} (hf : s.me.finder = false)
    (ha : Admits s { reads := [d] }) (hk : s.checkAccess (s.creg c) pW (effAddr (s.creg c) (sext imm)) n (hintScope h) = none)
    (hw : s.watchStore (s.creg c) (effAddr (s.creg c) (sext imm)).toNat n = none) (hfull : s.me.stc < 63) (hrel : s.me.relFence = [])
    (hacq : s.acquiring = false)
    (hb : s.behind s.meWho (s.strandAccess (s.creg c).obj (effAddr (s.creg c) (sext imm)).toNat n (.write (s.readReg d).toNat) 0
      (hintScope h)) = true) :
    ∃ t, stShort n d h c imm s = .next t ∧ t.mem = s.mem ∧ t.l1 = s.l1 := by
  obtain ⟨t, ht, hmem, hl1, hfin⟩ := State.issue_behind .drop false .st hacq hb
  have runs : stShort n d h c imm s = .next (t.retire 4 [d]) :=
    run_done (by simp [hf]) ha.1 ha.2 (State.store_leaves hk hw hfull hrel ht)
  have ret := t.retire_eq 4 [d] (hfin.trans hf)
  exact ⟨_, runs, by rw [ret]; exact hmem, by rw [ret]; exact hl1⟩

/-- A strand of field 0, which is on die 0, with a capability to 64 bytes of object 2, whose mount is on die 1. -/
def remoteStrand : Strand :=
  { Strand.empty with stat := .running, caps := (Vector.replicate 16 Cap.null).set 1 (Cap.make 2 0 0 0 64 255), ldc := 2, stc := 62 }
/-- The strand's request number i there: the first two are loads, the others stores. All have performed; none is complete. -/
def remoteFlight (i : Nat) : Flight :=
  { id := i, who := .strand 0 0, dst := .drop, sext := false, phase := .done 0 false, num := 0
    acc := ({ State.reset with me := remoteStrand } : State).strandAccess 2 0 1 (if i < 2 then .read else .write 0) 0 1 }
/-- The home slice has as many requests of the strand outstanding as it takes (R445): LDC is 2 and STC is 62. -/
def fullSlice : State := { State.reset with me := remoteStrand, flights := (List.range 64).map remoteFlight, ids := 64 }

theorem fullSlice_checks : fullSlice.checkAccess (fullSlice.creg 1) pW 0 1 1 = none := by decide +kernel
theorem fullSlice_unperformed : fullSlice.unperformed = false := by decide +kernel
theorem fullSlice_behind :
    fullSlice.behind fullSlice.meWho (fullSlice.strandAccess 2 0 1 (.write 0) 0 1) = true := by decide +kernel

/-- Refutes O24: with 64 requests outstanding at the home slice, a plain store at scope 1 leaves and waits for room there (R445),
so L1 holds no dirty bytes of it yet. -/
theorem not_stores : ¬ Obligations.Stores := by
  rintro ⟨_, homedStores, _, _⟩
  obtain ⟨t, ht, _, hl1⟩ := stShort_behind (s := fullSlice) (n := 1) (d := 0) (h := 0) (c := 1) (imm := 0) rfl
    ⟨by decide +kernel, by decide +kernel⟩ fullSlice_checks (by decide +kernel) (by decide) rfl (by decide +kernel) fullSlice_behind
  have claim := homedStores fullSlice 0 0 1 0 rfl rfl rfl (.stB 0 0 1 0, 1) (by decide +kernel) fullSlice_checks (by decide +kernel)
    (by decide +kernel) (by decide) fullSlice_unperformed rfl (by decide +kernel) (by decide +kernel)
  obtain ⟨u, e, hu, _, he, _⟩ := claim.2 rfl (by decide +kernel)
  have same : u = t := by
    have : exec (.stB 0 0 1 0) fullSlice = .next t := (exec_stB ..).trans ht
    exact Host.Outcome.next.inj (hu.symm.trans this)
  rw [same, State.l1At, hl1] at he
  cases he

end Sys2Proof.Machine
end

section
/-!
PROOF. Instruction words (R32 to R47): encoding undoes decoding, and decoding undoes encoding.
-/
namespace Sys2Proof

/-! ### Fields inside a field -/

theorem p5_lo3 {r : RegF} (h : hi2 r = 0) : p5 (lo3 r) = r := by revert r; decide
theorem q5_lo3 {r : RegF} (h : hi2 r = 3) : q5 (lo3 r) = r := by revert r; decide
theorem c5_lo4 {r : RegF} (h : hi1 r = 0) : c5 (lo4 r) = r := by revert r; decide
theorem hi1_lo4 (r : RegF) : hi1 r ++ lo4 r = r := by revert r; decide
@[simp] theorem hi2_p5 (p : PredF) : hi2 (p5 p) = 0 := by revert p; decide
@[simp] theorem lo3_p5 (p : PredF) : lo3 (p5 p) = p := by revert p; decide
@[simp] theorem hi2_q5 (p : PredF) : hi2 (q5 p) = 3 := by revert p; decide
@[simp] theorem lo3_q5 (p : PredF) : lo3 (q5 p) = p := by revert p; decide
@[simp] theorem hi1_c5 (c : CapF) : hi1 (c5 c) = 0 := by revert c; decide
@[simp] theorem lo4_c5 (c : CapF) : lo4 (c5 c) = c := by revert c; decide
@[simp] theorem hi1_cat (h : BitVec 1) (c : CapF) : hi1 (h ++ c) = h := by revert h c; decide
@[simp] theorem lo4_cat (h : BitVec 1) (c : CapF) : lo4 (h ++ c) = c := by revert h c; decide

/-- Two neighbouring fields joined again, where the upper one is known. -/
theorem cat_of_high {n m : Nat} {x : BitVec (n + m)} {k : BitVec n} (h : x.extractLsb' m n = k) : k ++ x.extractLsb' 0 m = x :=
  h ▸ BitVec.extractLsb'_append_extractLsb'

/-! ### A word is made of its fields -/

theorem word_mkRR {w : W32} {c : BitVec 2} {m : BitVec 6} (hc : fCls w = c) (hm : fMaj w = m) :
    mkRR c m (fD w) (fA w) (fB w) (fFn w) = w := by
  subst hc hm
  apply BitVec.eq_of_toNat_eq
  have := w.isLt
  simp only [mkRR_toNat, fCls, fMaj, fD, fA, fB, fFn, BitVec.extractLsb'_toNat, Nat.shiftRight_eq_div_pow]
  omega
theorem word_mkRI {w : W32} {c : BitVec 2} {m : BitVec 6} (hc : fCls w = c) (hm : fMaj w = m) :
    mkRI c m (fD w) (fA w) (fI14 w) = w := by
  subst hc hm
  apply BitVec.eq_of_toNat_eq
  have := w.isLt
  simp only [mkRI_toNat, fCls, fMaj, fD, fA, fI14, BitVec.extractLsb'_toNat, Nat.shiftRight_eq_div_pow]
  omega
theorem word_mkCP {w : W32} {c : BitVec 2} {m : BitVec 6} (hc : fCls w = c) (hm : fMaj w = m) :
    mkCP c m (cD w) (cA w) (cB w) (cFn w) = w := by
  subst hc hm
  apply BitVec.eq_of_toNat_eq
  have := w.isLt
  simp only [mkCP_toNat, fCls, fMaj, cD, cA, cB, cFn, BitVec.extractLsb'_toNat, Nat.shiftRight_eq_div_pow]
  omega
theorem word_mkMovi {w : W32} (hc : fCls w = 0#2) (hm : fMaj w = 0x08#6) : mkMovi (fD w) (fI19 w) = w := by
  apply BitVec.eq_of_toNat_eq
  have := w.isLt
  have hc := congrArg BitVec.toNat hc
  have hm := congrArg BitVec.toNat hm
  simp only [fCls, fMaj, BitVec.extractLsb'_toNat, Nat.shiftRight_eq_div_pow, BitVec.toNat_ofNat] at hc hm
  simp only [mkMovi_toNat, fD, fI19, BitVec.extractLsb'_toNat, Nat.shiftRight_eq_div_pow]
  omega
theorem word_mkBR {w : W32} {m : BitVec 6} (hc : fCls w = 0#2) (hm : fMaj w = m) : mkBR m (fP w) (fN w) (fOff w) = w := by
  subst hm
  apply BitVec.eq_of_toNat_eq
  have := w.isLt
  have hc := congrArg BitVec.toNat hc
  simp only [fCls, BitVec.extractLsb'_toNat, Nat.shiftRight_eq_div_pow, BitVec.toNat_ofNat] at hc
  simp only [mkBR_toNat, fMaj, fP, fN, fOff, BitVec.extractLsb'_toNat, Nat.shiftRight_eq_div_pow]
  omega
theorem word_mkWait {w : W32} (hc : fCls w = 1#2) (hm : fMaj w = 0x03#6) :
    mkWait (w.extractLsb' 18 6) (w.extractLsb' 12 6) (w.extractLsb' 6 6) (w.extractLsb' 0 6) = w := by
  apply BitVec.eq_of_toNat_eq
  have := w.isLt
  have hc := congrArg BitVec.toNat hc
  have hm := congrArg BitVec.toNat hm
  simp only [fCls, fMaj, BitVec.extractLsb'_toNat, Nat.shiftRight_eq_div_pow, BitVec.toNat_ofNat] at hc hm
  simp only [mkWait_toNat, BitVec.extractLsb'_toNat, Nat.shiftRight_eq_div_pow]
  omega
theorem word_mkTail {w : W32} (hc : fCls w = 3#2) : mkTail (tX w) (tG w) (tImm w) = w := by
  apply BitVec.eq_of_toNat_eq
  have := w.isLt
  have hc := congrArg BitVec.toNat hc
  simp only [fCls, BitVec.extractLsb'_toNat, Nat.shiftRight_eq_div_pow, BitVec.toNat_ofNat] at hc
  simp only [mkTail_toNat, tX, tG, tImm, BitVec.extractLsb'_toNat, Nat.shiftRight_eq_div_pow]
  omega

/-! ### What decodes is made of the words it was decoded from (R37) -/

/-- What a decoder may answer for the words ws: a rejection, or a well-formed instruction whose words are ws. -/
structure Sound (r : Except Reject Instr) (ws : List W32) : Prop where
  of_ok : ∀ i, r = .ok i → i.wf = true ∧ encode i = ws

theorem Sound.error (e : Reject) (ws : List W32) : Sound (.error e) ws := ⟨nofun⟩
theorem accept_eq_ok {ok : Bool} {i j : Instr} : accept ok i = .ok j ↔ ok = true ∧ i.wf = true ∧ i = j := by
  unfold accept
  cases ok <;> cases i.wf <;> simp
theorem Sound.accept {ok : Bool} {i : Instr} {ws : List W32} (h : ok = true → encode i = ws) :
    Sound (Sys2Proof.accept ok i) ws := by
  refine ⟨fun j hj => ?_⟩
  obtain ⟨hok, hwf, rfl⟩ := accept_eq_ok.1 hj
  exact ⟨hwf, h hok⟩

/-- A form without unused fields. -/
theorem Sound.plain {i : Instr} {ws : List W32} (h : encode i = ws) : Sound (Sys2Proof.accept true i) ws := .accept fun _ => h
theorem Sound.of_word {r : Except Reject Instr} {w v : W32} (hw : v = w) (h : Sound r [v]) : Sound r [w] := hw ▸ h

theorem decInt_sound (d a b : RegF) (fn : BitVec 9) : Sound (decInt d a b fn) [mkRR 0 0 d a b fn] := by
  unfold decInt
  split
  · next h => exact .plain (congrArg (fun fn => [mkRR 0 0 d a b fn]) (cat_of_high (n := 6) (m := 3) h))
  · split
    any_goals exact .error _ _
    any_goals exact .plain rfl
    all_goals
      refine .accept fun h => ?_
      simp only [Bool.and_eq_true, decide_eq_true_eq] at h
    -- `pand` and `por`, `pnot`, the comparisons; what is left has b = 0
    case h_37 | h_38 =>
      obtain ⟨⟨hd, ha⟩, hb⟩ := h
      show [mkRR 0 0 (p5 (lo3 d)) (p5 (lo3 a)) (p5 (lo3 b)) _] = _
      rw [p5_lo3 hd, p5_lo3 ha, p5_lo3 hb]
      rfl
    case h_39 =>
      obtain ⟨⟨hd, ha⟩, rfl⟩ := h
      show [mkRR 0 0 (p5 (lo3 d)) (p5 (lo3 a)) 0 _] = _
      rw [p5_lo3 hd, p5_lo3 ha]
      rfl
    case h_31 | h_32 | h_33 | h_34 | h_35 | h_36 => exact congrArg (fun d => [mkRR 0 0 d a b _]) (p5_lo3 h)
    all_goals
      subst h
      rfl

theorem decFloat_sound (f : BitVec 2) (d a b : RegF) (op : BitVec 6) (rm : BitVec 3) :
    Sound (decFloat f d a b op rm) [mkRR 0 ((0x0a#4) ++ f) d a b (op ++ rm)] := by
  unfold decFloat
  split
  any_goals exact .error _ _
  any_goals exact .plain rfl
  any_goals
    refine .accept fun h => ?_
    simp only [Bool.and_eq_true, decide_eq_true_eq] at h
  -- forms with b = 0 or rm = 0, with both, and the comparisons
  any_goals
    subst h
    rfl
  any_goals
    obtain ⟨rfl, rfl⟩ := h
    rfl
  all_goals
    obtain ⟨h, rfl⟩ := h
    exact congrArg (fun d => [mkRR 0 _ d a b _]) (p5_lo3 h)

/-- The fields of a word of the floating-point majors (R45). -/
theorem word_float {w : W32} {f : BitVec 2} (hc : fCls w = 0) (hm : fMaj w = (0x0a#4) ++ f) :
    mkRR 0 ((0x0a#4) ++ f) (fD w) (fA w) (fB w) ((fFn w).extractLsb' 3 6 ++ (fFn w).extractLsb' 0 3) = w := by
  rw [BitVec.extractLsb'_append_extractLsb' (w := 6) (len := 3) (x := fFn w)]
  exact word_mkRR hc hm

/-- A system register's number below the two bits that say which kind it is. -/
theorem sysNumber {n : BitVec 14} {k : BitVec 2} (hk : n.extractLsb' 12 2 = k) : k ++ n.extractLsb' 0 12 = n :=
  cat_of_high (n := 2) (m := 12) hk

theorem decA_sound {w : W32} (hc : fCls w = 0) : Sound (decA w) [w] := by
  unfold decA
  split
  case h_1 => exact .of_word (word_mkRR hc ‹_›) (decInt_sound ..)
  -- the immediate forms, then the shifts, whose upper bits are zero
  case h_2 | h_3 | h_4 | h_5 => exact .of_word (word_mkRI hc ‹_›) (.plain rfl)
  case h_6 | h_7 | h_8 =>
    refine .of_word (word_mkRI hc ‹_›) (.accept fun h => ?_)
    exact congrArg (fun i => [mkRI 0 _ (fD w) (fA w) i]) (cat_of_high (n := 8) (m := 6) (of_decide_eq_true h))
  -- `movi` and `loop`
  case h_9 => exact .of_word (word_mkMovi hc ‹_›) (.plain rfl)
  case h_10 => exact .of_word (word_mkRI hc ‹_›) (.accept fun h => by rw [of_decide_eq_true h]; rfl)
  -- loads and stores: the hint and the capability share one field
  case h_11 | h_12 | h_13 | h_14 | h_15 | h_16 | h_17 | h_18 | h_19 | h_20 | h_21 =>
    exact .of_word (word_mkRI hc ‹_›) (.plain (congrArg (fun a => [mkRI 0 _ (fD w) a (fI14 w)]) (hi1_lo4 (fA w))))
  -- `bp`, `call`, and the jumps through a capability
  case h_22 => exact .of_word (word_mkBR hc ‹_›) (.plain rfl)
  case h_23 =>
    refine .of_word (word_mkBR hc ‹_›) (.accept fun h => ?_)
    simp only [Bool.and_eq_true, decide_eq_true_eq] at h
    rw [h.1, h.2]
    rfl
  case h_24 =>
    refine .of_word (word_mkCP hc ‹_›) ?_
    generalize cFn w = fn
    split
    any_goals exact .error _ _
    all_goals
      refine .accept fun h => ?_
      simp only [Bool.and_eq_true, decide_eq_true_eq] at h
    case h_3 => rw [h.1, h.2]; rfl
    all_goals rw [h]; rfl
  case h_25 => exact .of_word (word_float (f := 0) hc ‹_›) (decFloat_sound ..)
  case h_26 => exact .of_word (word_float (f := 1) hc ‹_›) (decFloat_sound ..)
  case h_27 => exact .of_word (word_float (f := 2) hc ‹_›) (decFloat_sound ..)
  case h_28 => exact .of_word (word_float (f := 3) hc ‹_›) (decFloat_sound ..)
  -- `sysr` and `sysw`: the two bits above the number say whether it is a capability register
  case h_29 =>
    refine .of_word (word_mkRI hc ‹_›) ?_
    split
    · exact .error _ _
    next ha =>
    rw [Decidable.not_not.1 ha]
    generalize fI14 w = n
    split
    · next hk => exact .plain (congrArg (fun n => [mkRI 0 0x30 (fD w) 0 n]) (sysNumber hk))
    · next hk =>
      refine .accept fun h => ?_
      show [mkRI 0 0x30 (c5 (lo4 (fD w))) 0 _] = _
      rw [c5_lo4 (of_decide_eq_true h), sysNumber hk]
      rfl
    · exact .error _ _
  case h_30 =>
    refine .of_word (word_mkRI hc ‹_›) ?_
    split
    · exact .error _ _
    next hd =>
    rw [Decidable.not_not.1 hd]
    generalize fI14 w = n
    split
    · next hk => exact .plain (congrArg (fun n => [mkRI 0 0x31 0 (fA w) n]) (sysNumber hk))
    · next hk =>
      refine .accept fun h => ?_
      show [mkRI 0 0x31 0 (c5 (lo4 (fA w))) _] = _
      rw [c5_lo4 (of_decide_eq_true h), sysNumber hk]
      rfl
    · exact .error _ _
  -- the system group
  case h_31 =>
    refine .of_word (word_mkRR hc ‹_›) ?_
    split
    · exact .error _ _
    next hab =>
    simp only [Bool.or_eq_true, decide_eq_true_eq, not_or, Decidable.not_not] at hab
    rw [hab.1, hab.2]
    generalize fFn w = fn
    split
    case h_6 => exact .plain rfl
    any_goals exact .error _ _
    all_goals exact .accept fun h => by rw [of_decide_eq_true h]; rfl
  case h_32 => exact .error _ _

theorem decCap_sound (d c : CapF) (b : RegF) (fn : BitVec 11) : Sound (decCap d c b fn) [mkCP 1 0 d c b fn] := by
  unfold decCap
  split
  any_goals exact .error _ _
  any_goals exact .plain rfl
  all_goals
    refine .accept fun h => ?_
    simp only [Bool.and_eq_true, decide_eq_true_eq] at h
  -- `cnull` and `ctest`; what is left has one field that is zero
  case h_12 =>
    obtain ⟨rfl, rfl⟩ := h
    rfl
  case h_15 =>
    obtain ⟨rfl, hb⟩ := h
    exact congrArg (fun b => [mkCP 1 0 0 c b _]) (p5_lo3 hb)
  all_goals
    subst h
    rfl

theorem decFab_sound (d a b : RegF) (fn : BitVec 9) : Sound (decFab d a b fn) [mkRR 1 1 d a b fn] := by
  unfold decFab
  split
  · exact .error _ _
  next hb =>
  obtain rfl := Decidable.not_not.1 hb
  split
  any_goals exact .error _ _
  any_goals exact .plain rfl
  all_goals
    refine .accept fun h => ?_
    simp only [Bool.and_eq_true, decide_eq_true_eq] at h
  -- the bindings of queues, `qunbind`, `qpeek`, `tdone` and `yield`; what is left has d = 0
  case h_11 | h_12 => exact congrArg (fun d => [mkRR 1 1 d a 0 _]) (q5_lo3 h)
  case h_13 =>
    obtain ⟨hd, rfl⟩ := h
    exact congrArg (fun d => [mkRR 1 1 d 0 0 _]) (q5_lo3 hd)
  case h_14 => exact congrArg (fun a => [mkRR 1 1 d a 0 _]) (q5_lo3 h)
  case h_15 | h_16 =>
    obtain ⟨rfl, rfl⟩ := h
    rfl
  all_goals
    subst h
    rfl

theorem decB_sound {w : W32} (hc : fCls w = 1) : Sound (decB w) [w] := by
  unfold decB
  split
  · exact .of_word (word_mkCP hc ‹_›) (decCap_sound ..)
  · exact .of_word (word_mkRR hc ‹_›) (decFab_sound ..)
  · refine .of_word (word_mkCP hc ‹_›) ?_
    generalize cFn w = fn
    split
    case h_6 => exact .error _ _
    all_goals exact .accept fun h => by rw [of_decide_eq_true h]; rfl
  · exact .of_word (word_mkWait hc ‹_›) (.plain rfl)
  · refine .of_word (word_mkCP hc ‹_›) ?_
    generalize cFn w = fn
    split
    case h_7 => exact .error _ _
    all_goals
      refine .accept fun h => ?_
      simp only [Bool.and_eq_true, decide_eq_true_eq] at h
    -- `wpclr`, `resume` and `fltq` name no capability
    case h_2 | h_5 | h_6 => rw [h.1, h.2]; rfl
    all_goals rw [h]; rfl
  · exact .error _ _

/-- The constant of a long instruction, put together from b[0], fn and imm (R35). -/
theorem encK_fields {b : RegF} (hb : b.extractLsb' 1 4 = 0#4) (m : BitVec 6) (d a : RegF) (fn : BitVec 9) (imm : BitVec 22)
    (g : PredF) : encK m d a (b.extractLsb' 0 1 ++ fn ++ imm) g = [mkRR 2 m d a b fn, mkTail 0 g imm] := by
  have hi : (b.extractLsb' 0 1 ++ fn ++ imm).extractLsb' 31 1 = b.extractLsb' 0 1 := by
    apply BitVec.eq_of_toNat_eq
    have := fn.isLt; have := imm.isLt
    simp only [BitVec.extractLsb'_toNat, cat_toNat, Nat.shiftRight_eq_div_pow]
    omega
  have mid : (b.extractLsb' 0 1 ++ fn ++ imm).extractLsb' 22 9 = fn := by
    apply BitVec.eq_of_toNat_eq
    have := fn.isLt; have := imm.isLt
    simp only [BitVec.extractLsb'_toNat, cat_toNat, Nat.shiftRight_eq_div_pow]
    omega
  unfold encK
  rw [hi, mid, BitVec.extractLsb'_append_eq_right, cat_of_high (n := 4) (m := 1) hb]

theorem decL_sound (m : BitVec 6) (w : LF) : Sound (decL m w) (encL m w) := by
  unfold decL
  split
  any_goals exact .error _ _
  any_goals exact .plain rfl
  -- `movi.l` and `movhi`, then the fences and the majors that fn divides
  case h_1 =>
    refine .accept fun h => ?_
    simp only [Bool.and_eq_true, decide_eq_true_eq] at h
    obtain ⟨⟨ha, hb⟩, hx⟩ := h
    unfold encL
    rw [ha, hx]
    exact encK_fields hb ..
  case h_2 =>
    refine .accept fun h => ?_
    simp only [Bool.and_eq_true, decide_eq_true_eq] at h
    obtain ⟨hb, hx⟩ := h
    unfold encL
    rw [hx]
    exact encK_fields hb ..
  case h_9 => split <;> exact .plain rfl
  all_goals
    split
    any_goals exact .error _ _
    all_goals exact .plain rfl

theorem lfOf_words {w0 w1 : W32} {m : BitVec 6} (hc : fCls w0 = 2) (hm : fMaj w0 = m) (ht : fCls w1 = 3) :
    encL m (lfOf w0 w1) = [w0, w1] := by
  unfold encL lfOf
  rw [word_mkRR hc hm, word_mkTail ht]

theorem isHead_of_cls {w : W32} {c : BitVec 2} (h : fCls w = c) : isHead w = decide (c = 2) := by simp [isHead, h]

/-- The words of an instruction are the word it starts with and, if that is a head, the next (R32). -/
theorem decodeWords_sound (w0 w1 : W32) : Sound (decodeWords w0 w1) (if isHead w0 then [w0, w1] else [w0]) := by
  unfold decodeWords
  split
  · next hc => rw [isHead_of_cls hc]; exact decA_sound hc
  · next hc => rw [isHead_of_cls hc]; exact decB_sound hc
  · next hc =>
    rw [isHead_of_cls hc]
    split
    · next ht => rw [← lfOf_words hc rfl ht]; exact decL_sound ..
    · exact .error _ _
  · exact .error _ _

/-- Settles O2: every decoder answers only what has the words it was given. -/
theorem encodeOfDecode : Obligations.EncodeOfDecode := by
  intro w0 w1 i h
  obtain ⟨hwf, he⟩ := (decodeWords_sound w0 w1).of_ok i h
  exact ⟨hwf, fun hh => by rw [he, hh]; rfl, fun hh => by rw [he, hh]; rfl⟩

end Sys2Proof

namespace Sys2Proof.Machine

/-! ### What is encoded decodes (R32 to R47) -/

theorem accept_ok {i : Instr} (hw : i.wf = true) : accept true i = .ok i := accept_eq_ok.2 ⟨rfl, hw, rfl⟩

theorem DecodesBack.none {i : Instr} (he : encode i = []) : DecodesBack i := by simp only [DecodesBack, he]
theorem DecodesBack.shortA {i : Instr} {w : W32} (he : encode i = [w]) (hc : fCls w = 0) (hd : decA w = .ok i.core) :
    DecodesBack i := by
  simp only [DecodesBack, he, decodeWords, hc]
  exact fun _ => hd
theorem DecodesBack.shortB {i : Instr} {w : W32} (he : encode i = [w]) (hc : fCls w = 1) (hd : decB w = .ok i.core) :
    DecodesBack i := by
  simp only [DecodesBack, he, decodeWords, hc]
  exact fun _ => hd
theorem DecodesBack.long {i : Instr} {m : BitVec 6} {w : LF} (he : encode i = encL m w) (hd : decL m w = .ok i.core) :
    DecodesBack i := by
  simp only [DecodesBack, he, encL, decodeWords, fCls_mkRR, fCls_mkTail, fMaj_mkRR, lfOf, fD_mkRR, fA_mkRR, fB_mkRR, fFn_mkRR,
    tX_mkTail, tG_mkTail, tImm_mkTail]
  exact hd

/-! The majors that have a decoder of their own. -/
theorem DecodesBack.int {i : Instr} {d a b : RegF} {fn : BitVec 9} (he : encode i = [mkRR 0 0 d a b fn])
    (hd : decInt d a b fn = .ok i.core) : DecodesBack i := by
  refine .shortA he (fCls_mkRR ..) ?_
  unfold decA
  rw [fMaj_mkRR, fD_mkRR, fA_mkRR, fB_mkRR, fFn_mkRR]
  exact hd
theorem DecodesBack.cap {i : Instr} {d c : CapF} {b : RegF} {fn : BitVec 11} (he : encode i = [mkCP 1 0 d c b fn])
    (hd : decCap d c b fn = .ok i.core) : DecodesBack i := by
  refine .shortB he (fCls_mkCP ..) ?_
  unfold decB
  rw [fMaj_mkCP, cD_mkCP, cA_mkCP, cB_mkCP, cFn_mkCP]
  exact hd
theorem DecodesBack.fab {i : Instr} {d a b : RegF} {fn : BitVec 9} (he : encode i = [mkRR 1 1 d a b fn])
    (hd : decFab d a b fn = .ok i.core) : DecodesBack i := by
  refine .shortB he (fCls_mkRR ..) ?_
  unfold decB
  rw [fMaj_mkRR, fD_mkRR, fA_mkRR, fB_mkRR, fFn_mkRR]
  exact hd

theorem bitVec2_cases (k : BitVec 2) : k = 0 ∨ k = 1 ∨ k = 2 ∨ k = 3 := by revert k; decide
theorem bitVec3_cases (k : BitVec 3) : k = 0 ∨ k = 1 ∨ k = 2 ∨ k = 3 ∨ k = 4 ∨ k = 5 ∨ k = 6 ∨ k = 7 := by revert k; decide

theorem DecodesBack.float {i : Instr} {f : BitVec 2} {d a b : RegF} {op : BitVec 6} {rm : BitVec 3}
    (he : encode i = [mkRR 0 ((0x0a#4) ++ f) d a b (op ++ rm)]) (hd : decFloat f d a b op rm = .ok i.core) : DecodesBack i := by
  refine .shortA he (fCls_mkRR ..) ?_
  unfold decA
  rw [fMaj_mkRR, fD_mkRR, fA_mkRR, fB_mkRR, fFn_mkRR, BitVec.extractLsb'_append_eq_right (w := 6),
    BitVec.extractLsb'_append_eq_left (w := 6)]
  rcases bitVec2_cases f with rfl | rfl | rfl | rfl <;> exact hd

/-! What well-formedness says of the fields of fn that choose the instruction. -/
theorem fnBits_eq (w : LF) (lo n : Nat) : w.fnBits lo n = (w.fn.extractLsb' lo n).toNat := by
  rw [LF.fnBits, BitVec.extractLsb'_toNat, Nat.shiftRight_eq_div_pow]
theorem atomOk_op {w : LF} {op : Nat} (h : w.atomOk op = true) : w.fn.extractLsb' 5 4 = BitVec.ofNat 4 op := by
  simp only [LF.atomOk, fnBits_eq, Bool.and_eq_true, decide_eq_true_eq] at h
  obtain ⟨⟨⟨_, hop⟩, _⟩, _⟩ := h
  rw [← hop, BitVec.ofNat_toNat, BitVec.setWidth_eq]
theorem fenceOk_st {w : LF} {st : Nat} (h : w.fenceOk st = true) : w.fn.extractLsb' 5 1 = BitVec.ofNat 1 st := by
  simp only [LF.fenceOk, fnBits_eq, Bool.and_eq_true, decide_eq_true_eq] at h
  obtain ⟨⟨⟨_, hst⟩, _⟩, _⟩ := h
  rw [← hst, BitVec.ofNat_toNat, BitVec.setWidth_eq]

/-! The words whose fields are joined from parts (R35, R46). -/
theorem encK_eq (m : BitVec 6) (d a : RegF) (k : W32) (g : PredF) :
    encK m d a k g = encL m ⟨d, a, (0#4) ++ k.extractLsb' 31 1, k.extractLsb' 22 9, 0, g, k.extractLsb' 0 22⟩ := rfl
theorem cat_const (k : W32) : k.extractLsb' 31 1 ++ k.extractLsb' 22 9 ++ k.extractLsb' 0 22 = k := by
  apply BitVec.eq_of_toNat_eq
  have := k.isLt
  simp only [cat_toNat, BitVec.extractLsb'_toNat, Nat.shiftRight_eq_div_pow]
  omega
theorem wait_fields (l s c t : BitVec 6) : (mkWait l s c t).extractLsb' 18 6 = l ∧ (mkWait l s c t).extractLsb' 12 6 = s ∧
    (mkWait l s c t).extractLsb' 6 6 = c ∧ (mkWait l s c t).extractLsb' 0 6 = t := by
  have := mkWait_toNat l s c t
  have := l.isLt; have := s.isLt; have := c.isLt; have := t.isLt
  simp only [← BitVec.toNat_inj, BitVec.extractLsb'_toNat, Nat.shiftRight_eq_div_pow]
  omega

/-- Settles O1: case by case, the words of an instruction have the class, the major and the function code that its decoder asks
for, and their fields read back. -/
theorem decodeOfEncode : Obligations.DecodeOfEncode := by
  intro i hw
  cases i with
  -- the integer major
  | add | sub | mul | mulh | mulhu | div | divu | rem | remu | and | or | xor | andn | shl | shr | sar | rot | min | max | minu
  | maxu | clz | ctz | popc | sextB | sextH | sextW | zextB | zextH | zextW => exact .int rfl rfl
  | sel d p a b =>
    refine .int rfl ?_
    unfold decInt
    rw [BitVec.extractLsb'_append_eq_left (w := 6) (w' := 3), BitVec.extractLsb'_append_eq_right (w := 6) (w' := 3)]
    rfl
  | cmpEq | cmpNe | cmpLt | cmpGe | cmpLtu | cmpGeu =>
    refine .int rfl ?_
    unfold decInt
    rw [hi2_p5, lo3_p5]
    rfl
  | pand | por =>
    refine .int rfl ?_
    unfold decInt
    rw [hi2_p5, lo3_p5, hi2_p5, lo3_p5, hi2_p5, lo3_p5]
    rfl
  | pnot =>
    refine .int rfl ?_
    unfold decInt
    rw [hi2_p5, lo3_p5, hi2_p5, lo3_p5]
    rfl
  -- immediates, loads and stores, branches
  | addi | andi | ori | xori =>
    refine .shortA rfl (fCls_mkRI ..) ?_
    unfold decA
    rw [fMaj_mkRI, fD_mkRI, fA_mkRI, fI14_mkRI]
    rfl
  | shli | shri | sari =>
    refine .shortA rfl (fCls_mkRI ..) ?_
    unfold decA
    rw [fMaj_mkRI, fD_mkRI, fA_mkRI, fI14_mkRI, BitVec.extractLsb'_append_eq_left (w := 8) (w' := 6),
      BitVec.extractLsb'_append_eq_right (w := 8) (w' := 6)]
    rfl
  | movi =>
    refine .shortA rfl (fCls_mkMovi ..) ?_
    unfold decA
    rw [fMaj_mkMovi, fD_mkMovi, fI19_mkMovi]
    rfl
  | loop =>
    refine .shortA rfl (fCls_mkRI ..) ?_
    unfold decA
    rw [fMaj_mkRI, fD_mkRI, fA_mkRI, fI14_mkRI]
    exact accept_ok hw
  | ldB | ldBu | ldH | ldHu | ldW | ldWu | ldD | stB | stH | stW | stD =>
    refine .shortA rfl (fCls_mkRI ..) ?_
    unfold decA
    rw [fMaj_mkRI, fD_mkRI, fA_mkRI, fI14_mkRI, hi1_cat, lo4_cat]
    rfl
  | bp | call =>
    refine .shortA rfl (fCls_mkBR ..) ?_
    unfold decA
    rw [fMaj_mkBR, fP_mkBR, fN_mkBR, fOff_mkBR]
    exact accept_ok hw
  | jr | callr | ret =>
    refine .shortA rfl (fCls_mkCP ..) ?_
    unfold decA
    rw [fMaj_mkCP, cD_mkCP, cA_mkCP, cB_mkCP, cFn_mkCP]
    rfl
  -- the floating-point majors
  | fmin | fmax | fabs | fneg | fclass => exact .float rfl rfl
  | fcmpEq | fcmpNe | fcmpLt | fcmpLe | fcmpUn =>
    refine .float rfl ?_
    unfold decFloat
    rw [hi2_p5, lo3_p5]
    rfl
  | fadd | fsub | fmul | ffma | fdiv | fscale | fsqrt | frsqrt | fexp2 | flog2 | fround | fcvtFromI64 | fcvtFromU64 | fcvtFromI32
  | fcvtFromU32 => exact .float rfl (accept_ok hw)
  | fcvtFromIeee f d a k rm =>
    refine .float rfl ?_
    rcases bitVec2_cases k with rfl | rfl | rfl | rfl <;> exact accept_ok hw
  | fcvtFromNarrow f d a k rm | fcvtToNarrow f d a k rm =>
    refine .float rfl ?_
    have hk : k.toNat ≤ 2 := of_decide_eq_true ((Bool.and_eq_true _ _).mp hw).2
    rcases bitVec2_cases k with rfl | rfl | rfl | rfl
    · exact accept_ok hw
    · exact accept_ok hw
    · exact accept_ok hw
    · exact absurd hk (by decide)
  | fcvtToInt f d a k rm =>
    refine .float rfl ?_
    rcases bitVec3_cases k with rfl | rfl | rfl | rfl | rfl | rfl | rfl | rfl <;> exact accept_ok hw
  -- the system majors
  | sysr | sysw =>
    refine .shortA rfl (fCls_mkRI ..) ?_
    unfold decA
    rw [fMaj_mkRI, fD_mkRI, fA_mkRI, fI14_mkRI, BitVec.extractLsb'_append_eq_left (w := 2) (w' := 12),
      BitVec.extractLsb'_append_eq_right (w := 2) (w' := 12)]
    rfl
  | sysrC | syswC =>
    refine .shortA rfl (fCls_mkRI ..) ?_
    unfold decA
    rw [fMaj_mkRI, fD_mkRI, fA_mkRI, fI14_mkRI, hi1_c5, lo4_c5, BitVec.extractLsb'_append_eq_left (w := 2) (w' := 12),
      BitVec.extractLsb'_append_eq_right (w := 2) (w' := 12)]
    rfl
  | nop | halt | trap | brk | eret | ident =>
    refine .shortA rfl (fCls_mkRR ..) ?_
    unfold decA
    rw [fMaj_mkRR, fD_mkRR, fA_mkRR, fB_mkRR, fFn_mkRR]
    rfl
  -- space B
  | cgetObj | cgetCur | cgetBase | cgetTop | cgetPerm | cgetTag | cgetG | csetc | cadd | cbound | cperm | cnull | cmov | csub
  | cld | cst => exact .cap rfl rfl
  | cmake => exact .cap rfl (accept_ok hw)
  | ctest =>
    refine .cap rfl ?_
    unfold decCap
    rw [hi2_p5, lo3_p5]
    rfl
  | cfgsw | cfgdrop | rgrun | rgstop | enter | await | mark | rwait | stswap | rgstat | tdone | yield => exact .fab rfl rfl
  | qbindIn | qbindOut | qunbind | qpeek =>
    refine .fab rfl ?_
    unfold decFab
    rw [hi2_q5, lo3_q5]
    rfl
  | cfgld | cfgpart | spawnStrand | spawnTask | finder | stld | wpset | ctxsave | ctxload | wpclr | resumeSite | abandonRegion
  | resumePort | resumeArray | abandonArray | resumeStrand | endStrand | resumeEngine | fltq =>
    refine .shortB rfl (fCls_mkCP ..) ?_
    unfold decB
    rw [fMaj_mkCP, cD_mkCP, cA_mkCP, cB_mkCP, cFn_mkCP]
    rfl
  | wait l s c t =>
    refine .shortB rfl (fCls_mkWait ..) ?_
    obtain ⟨hl, hs, hc, ht⟩ := wait_fields l s c t
    unfold decB
    rw [fMaj_mkWait, hl, hs, hc, ht]
    rfl
  -- space L
  | moviL | movhi =>
    refine .long (encK_eq ..) ?_
    unfold decL
    dsimp only
    rw [BitVec.extractLsb'_append_eq_right (w := 4), BitVec.extractLsb'_append_eq_left (w := 4), cat_const]
    rfl
  | ldx | stx | atomcas | vatom | vatomcas | cbsync | xcopy | xcopy2 | xgather | xscatter | mma | mmx | accrd | accwr | attn | xcodec
  | xcksum | coll | nvsub | nvcmp | kvlook | kvapp | kvfork | kvfree | kvpol | xtest | bfenq | bfsync | evscore | sqevict | eresp =>
    exact .long rfl (accept_ok hw)
  | atomAdd | atomMin | atomMax | atomMinu | atomMaxu | atomAnd | atomOr | atomXor | atomSwp | atomFadd =>
    refine .long rfl ?_
    unfold decL
    rw [atomOk_op hw]
    exact accept_ok hw
  | atomInc =>
    refine .long rfl ?_
    unfold decL
    rw [atomOk_op ((Bool.and_eq_true _ _).mp hw).1]
    exact accept_ok hw
  | fence | fenceSt =>
    refine .long rfl ?_
    unfold decL
    rw [fenceOk_st hw]
    exact accept_ok hw
  | scset | scget | scinv | barinit | bararr | barwait | monarm | monwait | monsig | tcfg | trel | tstate | twait | cwb | cinv | cpf
  | objq | carve =>
    refine .long rfl (Eq.trans ?_ (accept_ok hw))
    unfold Instr.wf at hw
    simp only [Bool.and_eq_true, decide_eq_true_eq, and_assoc] at hw
    obtain ⟨hfn, _⟩ := hw
    unfold decL
    rw [hfn]
    rfl
  -- the steps of other units have no words
  | _ => exact .none rfl

end Sys2Proof.Machine
end

section
/-!
PROOF. What a step fetches and runs (R38, R222).
-/
namespace Sys2Proof.Machine

/-- A choice that falls past the steps of the units falls on a sequencer. -/
theorem step_of_choice {s u t : State} (h0 : s.shutdown = false) (h1 : s.inputs = []) (h2 : s.ended = none)
    (h3 : s.turns.isEmpty = false) (hc : s.choose (s.moves.length + 1) = (s.moves.length, u)) (ht : u.takeTurn exec = some t) :
    step s = t.attempt exec := by
  simp [step, h0, h1, h2, h3, hc, issueNext, ht]

/-- Once its words are there, an instruction is fetched: the word at pcc and, if that is a head, the next (R38). -/
theorem State.fetch_words {s : State} {w0 w1 : W32} (h0 : s.fetchOne s.pc = .word w0)
    (h1 : isHead w0 = true → s.fetchOne (s.pc + 4) = .word w1) : s.fetch = s.gate w0 (if isHead w0 then w1 else 0) := by
  unfold State.fetch
  rw [h0]
  cases hh : isHead w0 with
  | false => simp [hh]
  | true => simp [hh, h1 hh]

theorem instrOf_ok {w0 w1 : W32} {i : Instr} (h : decodeWords w0 w1 = .ok i) : instrOf w0 w1 = i := by simp [instrOf, h]
theorem instrOf_error {w0 w1 : W32} {e : Reject} (h : decodeWords w0 w1 = .error e) : instrOf w0 w1 = .illegalOp w0 w1 := by
  simp [instrOf, h]

theorem State.attempt_stays {s : State} {w0 w1 : W32} (hf : s.fetch = s.gate w0 w1) (hm : s.mayLeave w0 = false) :
    s.attempt exec = .next s := by simp [State.attempt, hf, State.gate, hm]
theorem State.attempt_runs {s : State} {w0 w1 : W32} (hf : s.fetch = s.gate w0 w1) (hm : s.mayLeave w0 = true) :
    s.attempt exec = exec (instrOf w0 w1) s := by simp [State.attempt, hf, State.gate, hm]

/-- Settles O6: the choice falls on a sequencer, which runs what the words at pcc decode to. -/
theorem stepRunsDecoded : Obligations.StepRunsDecoded := by
  intro s u t w0 w1 h0 h1 h2 h3 hc ht hw0 hw1
  have hs := step_of_choice h0 h1 h2 h3 hc ht
  have hf := State.fetch_words hw0 hw1
  refine ⟨fun hm => hs.trans (State.attempt_stays hf hm), fun hm => ⟨fun i hd hd' => ?_, fun e he => ?_⟩⟩
  · refine hs.trans ((State.attempt_runs hf hm).trans ?_)
    cases hh : isHead w0 with
    | false => rw [if_neg (by simp), instrOf_ok (hd' hh)]
    | true => rw [if_pos rfl, instrOf_ok hd]
  · rw [hs, State.attempt_runs hf hm, instrOf_error he]

end Sys2Proof.Machine
end

section
/-!
PROOF. Branches, calls and loops (R40, R106 to R109).
-/
namespace Sys2Proof.Machine

@[simp] theorem State.setSreg_finder (s : State) (r : RegF) (v : W64) : (s.setSreg r v).me.finder = s.me.finder := by
  unfold State.setSreg
  split <;> rfl
@[simp] theorem State.setCreg_finder (s : State) (c : CapF) (v : Cap) : (s.setCreg c v).me.finder = s.me.finder := by
  unfold State.setCreg
  split <;> rfl

/-- An instruction without scalar operands is let go. -/
theorem admits_none (s : State) : Admits s {} := ⟨rfl, rfl⟩
/-- A field that names no bound queue holds nothing back. -/
theorem admits_unbound {s : State} {o : Opnds} (h : ∀ r ∈ o.reads ++ o.writes ++ o.loads, s.bindOf r = none) : Admits s o := by
  have wrong (push : Bool) : ∀ r ∈ o.reads ++ o.writes ++ o.loads, s.wrongQueue push r = false :=
    fun r hr => by simp [State.wrongQueue, h r hr]
  constructor
  · have reads : o.reads.find? (s.wrongQueue false) = none := by
      simp only [List.find?_eq_none]; intro r hr; simp [wrong false r (by simp [hr])]
    have writes : (o.writes ++ o.loads).find? (s.wrongQueue true) = none := by
      simp only [List.find?_eq_none]; intro r hr; simp [wrong true r (by simp at hr ⊢; tauto)]
    simp [State.badQueue, reads, writes]
  · have reads : o.reads.any s.emptyQueue = false := by
      simp only [List.any_eq_false]; intro r hr; simp [State.emptyQueue, h r (by simp [hr])]
    have writes : o.writes.any s.fullQueue = false := by
      simp only [List.any_eq_false]; intro r hr; simp [State.fullQueue, h r (by simp [hr])]
    simp [State.queueWaits, reads, writes]

/-! ### Targets -/

/-- A target passes the checks of R40. -/
theorem State.checkTarget_ok {s : State} {c : Cap} {t : Int} (h : Reachable s c t) : s.checkTarget c t = .ok := by
  obtain ⟨range, aligned, w, fetched, notTail⟩ := h
  simp only [State.checkTarget, range, aligned, fetched, ne_eq, not_true_eq_false, if_false, if_neg notTail]
theorem State.branchTo_ok {s : State} {c : Cap} {t : Int} (also : State → State) (h : Reachable s c t) :
    s.branchTo c t also = .jump ((also s).jump (c.setCur t.toNat)) := by simp only [State.branchTo, State.checkTarget_ok h]
/-- A target that fails with a cause other than POISON raises it and leaves nothing. -/
theorem State.branchTo_raise {s : State} {c : Cap} {t : Int} {code : Nat} (also : State → State)
    (h : s.checkTarget c t = .raise (capTrap code c t)) (hc : code ≠ ccPoison) : s.branchTo c t also = .raise (capTrap code c t) s := by
  have left : s.fetchFailed s.me.fld s.me.ctx c t.toNat (capTrap code c t) = s := if_neg hc
  simp only [State.branchTo, h, left]

/-- An instruction whose body branches to a target that passes. -/
theorem jumps_of_run {i : Instr} {s : State} {o : Opnds} {body : State → Act} {c : Cap} {t : Int} {also : State → State}
    (he : exec i s = run .plain 4 o body s) (ha : Admits s o) (hb : body s = s.branchTo c t also) (hr : Reachable s c t)
    (hf : (also s).me.finder = s.me.finder) : Jumps s i (also s) c t o.reads := by
  have := run_jump (kind := .plain) (len := 4) (by simp) ha.1 ha.2 (hb.trans (State.branchTo_ok also hr))
  unfold Jumps
  rw [he, this, show ((also s).jump (c.setCur t.toNat)).me.finder = s.me.finder from hf]

theorem branchesTaken : Claim.BranchesTaken := by
  intro s
  refine ⟨?_, ?_, ?_, ?_, ?_⟩
  · intro p n off t
    refine ⟨fun hp hr => jumps_of_run (also := id) (exec_bp ..) (admits_none s) (if_pos hp) hr rfl, fun hp => ?_⟩
    rw [exec_bp, execBp]
    exact run_done (by simp) rfl rfl (if_neg (by simpa using hp))
  · intro off t hr
    exact jumps_of_run (also := fun t => t.setCreg 15 s.link) (exec_call ..) (admits_none s) rfl hr (by simp)
  · intro d off _ hd t v
    have ha : Admits s { reads := [d], writes := [d] } := admits_unbound (by simp [hd])
    have hv : s.readReg d - 1 = v := by rw [State.readReg_unbound hd]
    refine ⟨fun hnz hr => ?_, fun hz => ?_⟩
    · exact jumps_of_run (also := fun t => t.setSreg d v) (exec_loop ..) ha (by simp only [hv]; exact if_neg hnz) hr (by simp)
    · rw [exec_loop, execLoop]
      exact run_done (by simp) ha.1 ha.2 (by simp only [hv, hz, if_true])
  · intro c b ha t hr
    exact ⟨jumps_of_run (also := id) (exec_jr ..) ha rfl hr rfl,
      jumps_of_run (also := fun t => t.setCreg 15 s.link) (exec_callr ..) ha rfl hr (by simp)⟩
  · intro c hr
    exact jumps_of_run (also := id) (exec_ret ..) (admits_none s) rfl hr rfl

/-- The object may be named by the field, and the bounds are what is left to check (R24). -/
theorem checkRange_bounds {own : Nat} {c : Cap} {rights n : Nat} {o : Int} (ht : c.tag = true) (hr : c.has rights = true)
    (hobj : c.obj < localObj) : checkRange own c rights o n = if o < c.base || o + n > c.top then some ccCapBounds else none := by
  unfold checkRange
  rw [if_neg (by simp [ht]), if_neg (by simp [hr]), if_neg (by simp [hobj])]

/-- A jump through a register whose target fails a check. -/
theorem exec_jump_raises {s : State} {c : CapF} {b : RegF} {code : Nat} (ha : Admits s { reads := [b] }) (hf : s.me.finder = false)
    (hl : s.me.ldc = 0) (hc : code ≠ ccPoison) {t : Int} (ht : t = effAddr (s.creg c) (s.readReg b))
    (h : s.checkTarget (s.creg c) t = .raise (capTrap code (s.creg c) t)) :
    ∀ i ∈ [Instr.jr c b, .callr c b], exec i s = .next (s.takeTrap (capTrap code (s.creg c) t)) := by
  subst ht
  have raises (also : State → State) := State.branchTo_raise also h hc
  simp only [List.mem_cons, List.not_mem_nil, or_false, forall_eq_or_imp, forall_eq]
  constructor
  · rw [exec_jr, execJr]
    exact (run_raise (by simp) ha.1 ha.2 (raises id) hf).trans (s.raise_takes _ hf hl)
  · rw [exec_callr, execCallr]
    exact (run_raise (by simp) ha.1 ha.2 (raises fun t => t.setCreg 15 s.link) hf).trans (s.raise_takes _ hf hl)

theorem branchTargetFaults : Claim.BranchTargetFaults := by
  intro s c b ha hf hl x t faults
  have raises {code : Nat} (hc : code ≠ ccPoison) (h : s.checkTarget x t = .raise (capTrap code x t)) : faults code :=
    exec_jump_raises ha hf hl hc rfl h
  have ranges {code : Nat} (hc : code ≠ ccPoison) (h : checkRange (s.ownObj s.me.fld) x pX t 4 = some code) : faults code :=
    raises hc (by simp only [State.checkTarget, h])
  refine ⟨fun ht => ?_, fun ht hx => ?_, fun ht hx hobj hb => ?_, fun hr hal => ?_, fun w hr hal hw htail => ?_⟩
  · exact ranges (by decide) (if_pos (by simp [ht]))
  · exact ranges (by decide) ((if_neg (by simp [ht])).trans (if_pos (by simp [hx])))
  · refine ranges (by decide) ((checkRange_bounds ht hx hobj).trans (if_pos ?_))
    simp only [Bool.or_eq_true, decide_eq_true_eq]
    exact hb
  · exact raises (by decide) (by simp [State.checkTarget, hr, hal, ccMisTarget])
  · exact raises (by decide) (by simp [State.checkTarget, hr, hal, hw, htail, ccMisTarget])

end Sys2Proof.Machine

namespace Sys2Proof

/-- Settles O19: a target that passes its checks is jumped to, and one that fails raises the check's cause. -/
theorem branches : Obligations.Branches := ⟨Machine.branchesTaken, Machine.branchTargetFaults⟩

end Sys2Proof
end

section
/-!
PROOF. Loads (R41, R102 to R104, R114): they leave with their data at hand.
-/
namespace Sys2Proof.Machine

/-! ### What a read changes below the issuing units (R231, R238, R240, R271) -/

/-- Memory, and the strand whose turn it is, are as they were. -/
def KeepsMem (s t : State) : Prop := t.me = s.me ∧ t.mem = s.mem
/-- Where a strand sits, and whether it is a Finder. -/
def Strand.seat (t : Strand) : Nat × Nat × Bool := (t.fld, t.slot, t.finder)
/-- The strand whose turn it is still sits in its slot. -/
def KeepsSeat (s t : State) : Prop := t.me.seat = s.me.seat

theorem KeepsMem.rfl {s : State} : KeepsMem s s := ⟨Eq.refl _, Eq.refl _⟩
theorem KeepsMem.trans {s t u : State} (h : KeepsMem s t) (h' : KeepsMem t u) : KeepsMem s u :=
  ⟨h'.1.trans h.1, h'.2.trans h.2⟩
theorem KeepsSeat.of_me {s t : State} (h : t.me = s.me) : KeepsSeat s t := congrArg Strand.seat h
theorem KeepsMem.seat {s t : State} (h : KeepsMem s t) : KeepsSeat s t := .of_me h.1
theorem KeepsSeat.trans {s t u : State} (h : KeepsSeat s t) (h' : KeepsSeat t u) : KeepsSeat s u := Eq.trans h' h
theorem KeepsSeat.meWho {s t : State} (h : KeepsSeat s t) : t.meWho = s.meWho :=
  congrArg (fun x : Nat × Nat × Bool => Who.strand x.1 x.2.1) h
theorem KeepsSeat.finder {s t : State} (h : KeepsSeat s t) : t.me.finder = s.me.finder :=
  congrArg (fun x : Nat × Nat × Bool => x.2.2) h

/-- A strand rewritten keeps its seat where the rewriting does. -/
theorem KeepsSeat.updStrand (s : State) (f i : Nat) {g : Strand → Strand} (hg : ∀ t, (g t).seat = t.seat) :
    KeepsSeat s (s.updStrand f i g) := by
  unfold State.updStrand
  split
  · exact hg s.me
  · exact .of_me rfl

theorem AccOp.apply_read {op : AccOp} (h : op.writes = false) (n old : Nat) : op.apply n old = (none, 0) := by
  cases op with
  | read => rfl
  | capRead => rfl
  | _ => cases h

/-- A race check that passes changes the race metadata only (R271). -/
theorem State.checkRace_keeps {s u : State} {a : Access} {w : Bool} (h : s.checkRace a w = .ok u) : KeepsMem s u := by
  unfold State.checkRace at h
  dsimp only at h
  split at h
  · cases h; exact .rfl
  · split at h
    · cases h; exact ⟨rfl, rfl⟩
    · split at h
      · split at h
        · cases h
        · split at h <;> cases h <;> exact ⟨rfl, rfl⟩
      · cases h; exact ⟨rfl, rfl⟩

theorem State.poisonChunk_keeps (s : State) (key off : Nat) : KeepsMem s (s.poisonChunk key off) := by
  constructor <;> simp only [State.poisonChunk]

/-- A read at its home slice changes no memory. -/
theorem State.homePerform_keeps (s : State) {a : Access} (h : a.op.writes = false) : KeepsMem s (s.homePerform a).1 := by
  have raced {u : State} (hu : KeepsMem s u) (b : Bool) (k : TrapInfo) (w : Bool) (r : State → Res) :
      KeepsMem s (if b = true then (u, .raise k) else match u.checkRace a w with
        | .error k => (u, .raise k)
        | .ok v => (v, r v)).1 := by
    split
    · exact hu
    · split
      · exact hu
      · next hr => exact hu.trans (State.checkRace_keeps hr)
  unfold State.homePerform
  simp only [AccOp.apply_read h]
  split
  · exact .rfl
  · split
    · exact .rfl
    · split
      · exact .rfl
      · split
        · exact .rfl
        · split
          · exact .rfl
          · next hr => exact State.checkRace_keeps hr
      · split
        · exact raced .rfl ..
        · exact raced (s.poisonChunk_keeps ..) ..

/-- A read through L1 changes no memory: what it fills is a copy. -/
theorem State.l1Read_keeps (s : State) (a : Access) : KeepsMem s (s.l1Read a).1 := by
  have filled := s.homePerform_keeps (a := a.fill) rfl
  unfold State.l1Read
  split
  · exact .rfl
  · dsimp only
    split
    · exact .rfl
    · split
      · exact .rfl
      · split
        · next hp => rw [hp] at filled; exact filled
        · next hp => rw [hp] at filled; exact filled

theorem State.storeSector_me (s : State) (key kind side off data mask : Nat) (tag : Bool) :
    (s.storeSector key kind side off data mask tag).me = s.me := by
  obtain ⟨m, t, p, h⟩ := s.storeSector_eq key kind side off data mask tag
  rw [h]
/-- Dirty bytes that arrive at home change nothing of the strand whose turn it is. -/
theorem State.writeBack_me (s : State) (e : L1Sec) : (s.writeBack e).1.me = s.me := by
  unfold State.writeBack
  split
  · rfl
  · split
    · rfl
    · rfl
    · next key kind side _ =>
      dsimp only
      exact (State.storeSector_me ..).trans (by split <;> rfl)

theorem State.keepRace_seat (s : State) (e : L1Sec) (other : Nat) : KeepsSeat s (s.keepRace e other) := by
  unfold State.keepRace
  dsimp only
  split
  · refine .updStrand s _ _ fun t => ?_
    split
    · split <;> rfl
    · rfl
  · split
    · split <;> exact .of_me rfl
    · exact .of_me rfl

theorem State.flushAt_seat (s : State) (f ctx obj sec : Nat) : KeepsSeat s (s.flushAt f ctx obj sec).1 := by
  unfold State.flushAt
  split
  · exact .of_me rfl
  · next e _ =>
    have arrived := s.writeBack_me e
    split
    · next hw => rw [hw] at arrived; exact .of_me arrived
    · next hw => rw [hw] at arrived; exact (KeepsSeat.of_me arrived).trans (State.keepRace_seat ..)
    · exact .of_me arrived

/-- A homed read without an acquire changes no memory; with one, it may write back a copy first (R238). -/
theorem State.homedAccess_keeps (s : State) {a : Access} (h : a.op.writes = false) (hacq : a.acq = []) :
    KeepsMem s (s.homedAccess a).1 := by
  unfold State.homedAccess
  simp only [h, hacq, Bool.not_false, if_true, List.isEmpty_nil, Bool.not_true, Bool.false_and, Bool.false_eq_true, if_false]
  split
  · exact .rfl
  · exact s.l1Read_keeps a
theorem State.homedAccess_seat (s : State) {a : Access} (h : a.op.writes = false) : KeepsSeat s (s.homedAccess a).1 := by
  unfold State.homedAccess
  simp only [h, Bool.not_false, if_true]
  split
  · exact .of_me rfl
  · split
    · have flushed := s.flushAt_seat a.fld a.ctx a.obj (a.off / 16)
      split
      · next hf => rw [State.flushSec] at hf; rw [hf] at flushed; exact flushed
      · next hf => rw [State.flushSec] at hf; rw [hf] at flushed; exact flushed
      · next hf => rw [State.flushSec] at hf; rw [hf] at flushed; exact flushed.trans (State.l1Read_keeps _ a).seat
    · exact (s.l1Read_keeps a).seat

/-- A read of the scratchpad object changes no memory, where it goes to the backing too (R233). -/
theorem State.spPerform_keeps (s : State) {a : Access} (h : a.op.writes = false) : KeepsMem s (s.spPerform a).1 := by
  have forwarded (f : Field) : KeepsMem s ((s.setField f).homedAccess (a.backed f)).1 :=
    .trans ⟨rfl, rfl⟩ (State.homedAccess_keeps _ h rfl)
  unfold State.spPerform
  extract_lets f g
  clear_value g
  split
  · exact .rfl
  · split
    · exact .rfl
    · simp only [AccOp.apply_read h]
      split
      · exact ⟨rfl, rfl⟩
      · have kept := forwarded (if a.off / step512 = g.n then { g with gs := g.gs + 1 } else g)
        split
        · next hf => rw [hf] at kept; exact kept
        · exact kept

theorem State.perform_keeps (s : State) {a : Access} (h : a.op.writes = false) (hacq : a.acq = []) : KeepsMem s (s.perform a).1 := by
  unfold State.perform
  split
  · exact s.spPerform_keeps h
  · split
    · exact s.homePerform_keeps h
    · exact s.homedAccess_keeps h hacq
theorem State.perform_seat (s : State) {a : Access} (h : a.op.writes = false) : KeepsSeat s (s.perform a).1 := by
  unfold State.perform
  split
  · exact (s.spPerform_keeps h).seat
  · split
    · exact (s.homePerform_keeps h).seat
    · exact s.homedAccess_seat h

/-- An acquire enters parties into a table, and that is all it does to a strand (R270). -/
theorem State.acquireFrom_seat {s u : State} {ctx party set unit fld : Nat} {rs : List Rel}
    (h : s.acquireFrom ctx party set rs unit fld = some u) : KeepsSeat s u := by
  unfold State.acquireFrom State.enter at h
  dsimp only at h
  split at h
  · cases h; exact .of_me rfl
  · split at h
    · cases h
    · split at h
      · cases h; exact .updStrand s _ _ fun t => rfl
      · cases h; exact .of_me rfl

/-- A read that performs keeps the strand in its slot, and memory as it was where it acquires nothing. -/
theorem State.performSync_seat {s u : State} {a : Access} {v : Nat} {tag : Bool} {fl : Nat} {rs : List Rel} (h : a.op.writes = false)
    (hp : s.performSync a = (u, .val v tag fl, rs)) : KeepsSeat s u := by
  have performed := s.perform_seat h
  unfold State.performSync at hp
  split at hp
  · next t v' tag' fl' ht =>
    rw [ht] at performed
    dsimp only at hp
    split at hp
    · next w hw =>
      cases hp
      refine List.foldlRecOn (motive := fun o => ∀ w, o = some w → KeepsSeat s w) a.acq _ ?_ ?_ u hw
      · rintro w ⟨⟩
        exact performed
      · intro o ih set _ w hw
        obtain ⟨x, hx, hw⟩ := Option.bind_eq_some_iff.1 hw
        obtain ⟨y, hy, rfl⟩ := Option.map_eq_some_iff.1 hw
        exact ((ih x hx).trans (State.acquireFrom_seat hy)).trans (.of_me rfl)
    · cases hp
  · next hno _ =>
    cases hp
    exact (hno _ _ _ rfl).elim
theorem State.performSync_keeps {s u : State} {a : Access} {v : Nat} {tag : Bool} {fl : Nat} {rs : List Rel} (h : a.op.writes = false)
    (hacq : a.acq = []) (hp : s.performSync a = (u, .val v tag fl, rs)) : KeepsMem s u := by
  have performed := s.perform_keeps h hacq
  unfold State.performSync at hp
  split at hp
  · next ht =>
    rw [ht] at performed
    simp only [hacq, List.foldl_nil] at hp
    cases hp
    exact performed
  · next hno _ =>
    cases hp
    exact (hno _ _ _ rfl).elim

/-! ### A load that leaves (R15, R16, R102) -/

theorem mem_addDest {ds : List (Nat × Dst)} {id : Nat} {dst : Dst} (h : dst ≠ .drop) : (id, dst) ∈ addDest ds id dst := by
  cases dst with
  | drop => exact absurd rfl h
  | _ => exact List.mem_append_right _ (List.mem_singleton.2 rfl)
/-- The newest load alone delivers to a register (R16). -/
theorem addDest_newest {ds : List (Nat × Dst)} {id : Nat} {dst : Dst} (h : dst ≠ .drop) (hq : ∀ q, dst ≠ .queue q) :
    ∀ d ∈ addDest ds id dst, d.2 = dst → d.1 = id := by
  have newest : ∀ d ∈ ds.filter (·.2 ≠ dst) ++ [(id, dst)], d.2 = dst → d.1 = id := by
    rintro ⟨i, e⟩ hd rfl
    simpa using hd
  cases dst with
  | drop => exact absurd rfl h
  | queue q => exact absurd rfl (hq q)
  | _ => exact newest
theorem mem_addDest_of_ne {ds : List (Nat × Dst)} {id : Nat} {dst : Dst} : ∀ d ∈ ds, d.2 ≠ dst → d ∈ addDest ds id dst := by
  intro d hd hne
  cases dst with
  | drop => exact hd
  | queue q => exact List.mem_append_left _ hd
  | _ => exact List.mem_append_left _ (List.mem_filter.2 ⟨hd, by simpa using hne⟩)

/-- What a load leaves that has performed: the access's own effect, a flight with the data, and the note of the last load. -/
def State.loaded (s u : State) (a : Access) (dst : Dst) (sx : Bool) (v : Nat) (tag : Bool) (fl : Nat) (rs : List Rel) : State :=
  let t := (u.noteReply u.ids a v).addFlight a dst sx (.done v tag) fl .ld
  { t with me := { t.me with lastLd := s.ids, lastRels := rs, lastAt := (a.obj, a.off) } }

/-- A load that nothing keeps back performs as it leaves (R102). -/
theorem State.issue_loads {s u : State} {a : Access} (dst : Dst) (sx : Bool) {v : Nat} {tag : Bool} {fl : Nat} {rs : List Rel}
    (hr : a.op.reads = true) (hw : a.op.writes = false) (hlate : a.late = false) (hacq : s.acquiring = false)
    (hb : s.behind s.meWho a = false) (hp : s.performSync a = (u, .val v tag fl, rs)) :
    s.issue a dst sx .ld = .done (s.loaded u a dst sx v tag fl rs) := by
  unfold State.issue
  simp only [hacq, hb, hp, hr, hw, hlate, Bool.false_eq_true, if_false, if_true]
  rfl

/-- A load that has left, once pcc has moved on. -/
theorem loadLeft_of_loaded {s u : State} {i : Instr} {len : Nat} {reads : List RegF} {a : Access} {dst : Dst} {sx : Bool} {v : Nat}
    {tag : Bool} {fl : Nat} {rs : List Rel} (hf : s.me.finder = false) (hs : KeepsSeat s u)
    (h : exec i s = .next ((s.loaded u a dst sx v tag fl rs).retire len reads)) : LoadLeft s i len u a dst sx v tag := by
  have running : (s.loaded u a dst sx v tag fl rs).me.finder = false := by
    obtain ⟨r, hn⟩ := u.noteReply_eq u.ids a v
    simp only [State.loaded, hn]
    exact hs.finder.trans hf
  rw [State.retire_eq len reads running] at h
  obtain ⟨r, hn⟩ := u.noteReply_eq u.ids a v
  simp only [State.loaded, hn] at h
  refine ⟨_, h, rfl, rfl, rfl, rfl, rfl, rfl, ⟨_, rfl, hs.meWho, rfl, rfl, rfl, rfl⟩, fun hd => ⟨mem_addDest hd, fun hq => ?_, ?_⟩⟩
  · exact addDest_newest hd hq
  · exact mem_addDest_of_ne

theorem Strand.full_ld (t : Strand) : t.full .ld = decide (63 ≤ t.ldc) := rfl

/-- A strand's load whose checks pass is issued, or waits for a lower LDC (R15, R24). -/
theorem State.load_issues {s : State} {c : Cap} {o : Int} {n : Nat} {sgn : Bool} {d : RegF} {ord x : Nat} (hf : s.me.finder = false)
    (hk : s.checkAccess c pR o n x = none) (hl : s.me.ldc < 63) :
    s.load c o n sgn d ord x = s.issue (s.strandAccess c.obj o.toNat n .read ord x) (s.loadDst d) sgn .ld := by
  simp only [State.load, hk, hf, Strand.full_ld, Nat.not_le.2 hl, decide_false, Bool.false_eq_true, if_false]
theorem State.loadCap_issues {s : State} {c : Cap} {o : Int} {d : CapF} (hf : s.me.finder = false)
    (hk : s.checkAccess c pR o 16 1 = none) (hl : s.me.ldc < 63) :
    s.loadCap c o d = s.issue (s.strandAccess c.obj o.toNat 16 .capRead 0 1) (if d = 0 then .drop else .cap d) false .ld := by
  simp only [State.loadCap, hk, hf, Strand.full_ld, Nat.not_le.2 hl, decide_false, Bool.false_eq_true, if_false]
/-- With LDC at 63, or with an acquire outstanding, a load waits (R15, R261). -/
theorem State.load_waits {s : State} {c : Cap} {o : Int} {n : Nat} {sgn : Bool} {d : RegF} {ord x : Nat} (hf : s.me.finder = false)
    (hk : s.checkAccess c pR o n x = none) (hw : 63 ≤ s.me.ldc ∨ s.acquiring = true) : s.load c o n sgn d ord x = .wait s := by
  by_cases hl : 63 ≤ s.me.ldc
  · simp only [State.load, hk, hf, Strand.full_ld, hl, decide_true, Bool.false_eq_true, if_false, if_true]
  · rw [State.load_issues hf hk (Nat.not_le.1 hl)]
    exact if_pos (hw.resolve_left hl)

/-- The access of a load of any kind may not take its time: that is for stores and atomics (log 26). -/
theorem State.strandAccess_prompt (s : State) (obj off n ord x : Nat) {op : AccOp} (h : op.slow = false) :
    (s.strandAccess obj off n op ord x).late = false := by
  simp [State.strandAccess, State.mayBeLate, h]

/-- An instruction that issues a read leaves with its data at hand, where nothing keeps the read back. -/
theorem loadLeft_of_issue {s u : State} {i : Instr} {len : Nat} {o : Opnds} {body : State → Act} {a : Access} {dst : Dst} {sx : Bool}
    {v : Nat} {tag : Bool} {fl : Nat} {rs : List Rel} (hf : s.me.finder = false) (ha : Admits s o)
    (hi : exec i s = run .load len o body s) (hbody : body s = s.issue a dst sx .ld) (hr : a.op.reads = true) (hw : a.op.writes = false)
    (hlate : a.late = false) (hacq : s.acquiring = false) (hb : s.behind s.meWho a = false)
    (hp : s.performSync a = (u, .val v tag fl, rs)) : LoadLeft s i len u a dst sx v tag :=
  loadLeft_of_loaded hf (State.performSync_seat hw hp)
    (hi.trans (run_done (by simp [hf]) ha.1 ha.2 (hbody.trans (State.issue_loads dst sx hr hw hlate hacq hb hp))))

theorem loadsLeave : Claim.LoadsLeave := by
  intro s hf
  constructor
  · intro d h c imm ha x o sc p hp hk a
    have runs : exec p.1 s = ldShort p.2.1 p.2.2 d h c imm s := exec_shortLoad hp
    have off : effAddr x (sext imm) = o := effAddr_sext x imm
    refine ⟨fun hl hacq hb u v tag fl rs hps => ⟨?_, fun k => ?_⟩, fun hw => ?_⟩
    · refine loadLeft_of_issue hf ha runs ?_ rfl rfl (s.strandAccess_prompt _ _ _ _ _ rfl) hacq hb hps
      rw [off]
      exact State.load_issues hf hk hl
    · rw [(State.performSync_keeps rfl rfl hps).2]
    · refine runs.trans (run_wait (by simp [hf]) ha.1 ha.2 ?_)
      rw [off]
      exact State.load_waits hf hk hw
  · intro d c b ha hu x o hk a hl hacq hb u v tag fl rs hps
    refine loadLeft_of_issue hf ha (exec_cld d c b s) ?_ rfl rfl (s.strandAccess_prompt _ _ _ _ _ rfl) hacq hb hps
    rw [State.readReg_unbound hu]
    exact State.loadCap_issues hf hk hl

/-- The bytes of a size code (R104), as a table. -/
theorem sizeOf_eq {k : Nat} (h : k < 8) : sizeOf k = [1, 1, 2, 2, 4, 4, 8].getD k 8 := by
  interval_cases k <;> rfl

/-- The offset of an indexed load (R104). -/
theorem idxAddr_eq (c : Cap) (w : LF) (b : W64) (n : Nat) : idxAddr c w b n = (c.cur : Int) + w.imm.toInt + b.toInt * n := by
  simp only [idxAddr, effAddr, sext]
  rw [BitVec.toInt_signExtend_of_le (by decide)]

theorem indexedLoads : Claim.IndexedLoads := by
  intro s w hf _ hu ha k n x o a
  refine ⟨fun hg => (exec_ldx w s).trans (runL_false hg), fun hg hk hl hacq hb u v tag fl rs hps => ?_⟩
  have code : w.fnBits 0 3 = k := by simp [LF.fnBits, k]
  have size : sizeOf k = n := sizeOf_eq (Nat.mod_lt _ (by decide))
  have off : idxAddr x w (s.sreg w.b) n = o := idxAddr_eq ..
  refine loadLeft_of_issue hf ha ((exec_ldx w s).trans (runL_true hg)) ?_ rfl rfl (s.strandAccess_prompt _ _ _ _ _ rfl) hacq hb hps
  simp only [State.readReg_unbound hu, code, size]
  rw [show s.creg5 w.a = x from rfl, off]
  exact State.load_issues hf hk hl

/-- Settles O22: a load whose access performs leaves with a flight that holds its data, to its destination alone. -/
theorem loads : Obligations.Loads := ⟨loadsLeave, indexedLoads⟩

end Sys2Proof.Machine
end

section
/-!
PROOF. New strands and task records (R30, R190, R191, R212, R469), the end of a task and `wait` (R46, R194, R214, R215).
-/
namespace Sys2Proof.Machine

/-! ### Hand-offs (R469) -/

theorem addParties_contains {l xs : List Nat} {x : Nat} (h : x ∈ l) : x ∈ addParties l xs := by
  refine List.foldlRecOn (motive := fun l => x ∈ l) xs _ h fun l hl y _ => ?_
  split
  · exact hl
  · exact List.mem_append_left _ hl

/-- A strand of which nothing waits releases at once (R261). -/
theorem State.release_quiet {s : State} (h : Quiet s) (sets : List Nat) : s.release sets = .ok s := by
  obtain ⟨hun, _, hrace, hl1⟩ := h
  have clean (set : Nat) : s.relDirty s.me.ctx s.me.fld set = [] :=
    List.filter_eq_nil_iff.2 fun e he => by simp [hl1 e he]
  have written : ∀ sets, s.relWrites s.me.ctx s.me.fld sets = (s, .ok) := by
    intro sets
    induction sets with
    | nil => rfl
    | cons set r ih => simp only [State.relWrites, clean, State.writeBacks, ih]
  unfold State.release
  split
  · rfl
  · simp only [hun, written, hrace, Bool.false_eq_true, if_false]

/-- A hand-off hands the start record to the new party: it names the strand that hands off. -/
theorem State.handoff_ok {s : State} (h : MayStart s) : ∃ start, s.handoff = .ok s start ∧ s.myParty ∈ start := by
  obtain ⟨hq, hlen⟩ := h
  refine ⟨addParties [s.myParty] ((s.tables s.me.ctx s.myParty).1 ++ (s.tables s.me.ctx s.myParty).2), ?_,
    addParties_contains (List.mem_singleton.2 rfl)⟩
  unfold State.handoff
  dsimp only
  rw [if_neg (Nat.not_lt.2 hlen), State.release_quiet hq]

/-- A record kept for the next try of an instruction is nothing that a hand-off looks at. -/
theorem MayStart.bound {s : State} (h : MayStart s) (r : Option TaskRec) : MayStart { s with me := { s.me with bound := r } } := by
  have tables (ctx p : Nat) : ({ s with me := { s.me with bound := r } } : State).tables ctx p = s.tables ctx p := by
    have same (f i : Nat) : ({ s.me with bound := r } : Strand).at f i = s.me.at f i := rfl
    unfold State.tables State.strandAt
    dsimp only
    rw [same]
    cases s.me.at (bits p 3 7) (bits p 0 3) <;> rfl
  obtain ⟨hq, hlen⟩ := h
  refine ⟨hq, ?_⟩
  rw [tables]
  exact hlen

/-! ### `spawn` (R212) -/

theorem exec_spawn {s : State} {c : CapF} {b : RegF} {i : Instr} (hi : i ∈ [Instr.spawnStrand c b, .spawnTask c b]) :
    exec i s = run .other 4 { reads := [b] } (fun s => s.spawn c b) s := by
  simp only [List.mem_cons, List.not_mem_nil, or_false] at hi
  obtain rfl | rfl := hi
  · exact exec_spawnStrand c b s
  · exact exec_spawnTask c b s

theorem bits_one_six {v : Nat} (h : v < 2 ^ 7) : bits v 1 6 = v / 2 := by
  simp only [bits]
  omega

/-- A new strand of the task starts in the lowest free slot of the field that the word names (R30, R212). -/
theorem State.spawnStrand_starts {s : State} {c : Cap} {v f k : Nat} (hm : MayStart s) (hr : Reachable s c c.cur) (hv : v < 2 ^ 7)
    (hf : s.taskField (v / 2) = some f) (hk : s.freeSlot f = some k) :
    ∃ start, s.spawnStrand c v = .done (s.addStrand (s.newStrand f k s.me.ctx s.me.task c (s.creg 1) start)) ∧ s.myParty ∈ start := by
  obtain ⟨start, hs, hmem⟩ := State.handoff_ok hm
  refine ⟨start, ?_, hmem⟩
  have small : ¬ v / 2 ^ 7 ≠ 0 := by omega
  simp only [State.spawnStrand, State.checkTarget_ok hr, if_neg small, bits_one_six hv, hf, hk, hs]
/-- A word that names no field of the task (R212). -/
theorem State.spawnStrand_raises {s : State} {c : Cap} {v : Nat} (hr : Reachable s c c.cur)
    (hv : 2 ^ 7 ≤ v ∨ s.taskField (v / 2 % 64) = none) : s.spawnStrand c v = .raise (cfgInv 0x0B) s := by
  have unnamed : (if v / 2 ^ 7 ≠ 0 then none else s.taskField (bits v 1 6)) = none := by
    split
    · rfl
    · exact hv.resolve_left (by omega)
  simp only [State.spawnStrand, State.checkTarget_ok hr, unnamed]

/-- A queue is where its die and its number say. -/
theorem State.mqOf_id (s : State) (die q : Nat) : (s.mqOf die q).die = die ∧ (s.mqOf die q).q = q := by
  unfold State.mqOf
  cases h : s.mqs.find? fun m => m.die = die && m.q = q with
  | none => exact ⟨rfl, rfl⟩
  | some m => simpa using List.find?_some h
theorem State.mqOf_setMQ (s : State) (m : MQ) : (s.setMQ m).mqOf m.die m.q = m := by
  simp only [State.mqOf, State.setMQ]
  rw [find?_upsert (p := fun x : MQ => decide (x.die = m.die) && decide (x.q = m.q)) (by simp)]
  rfl
theorem State.mqOf_retire {s : State} (len : Nat) (reads : List RegF) (h : s.me.finder = false) (die q : Nat) :
    (s.retire len reads).mqOf die q = s.mqOf die q := by
  rw [State.retire_eq len reads h]
  rfl

/-- A queue with one more record, and no record kept for another try. -/
def State.joined (s : State) (m : MQ) (r : TaskRec) (start : List Nat) : State :=
  ({ s with me := { s.me with bound := none } } : State).setMQ { m with recs := m.recs ++ [{ r with start := start }] }
theorem State.joined_me {s t : State} {m : MQ} (r : TaskRec) (start : List Nat) (h : s.me = t.me) (hb : t.me.bound = none) :
    (s.joined m r start).me = t.me := by
  show ({ s.me with bound := none } : Strand) = t.me
  rw [h, ← hb]
theorem State.joined_recs (s : State) {m : MQ} {die q : Nat} (r : TaskRec) (start : List Nat) (hd : m.die = die) (hq : m.q = q) :
    ((s.joined m r start).mqOf die q).recs = m.recs ++ [{ r with start := start }] := by
  subst hd hq
  exact congrArg MQ.recs (State.mqOf_setMQ _ { m with recs := m.recs ++ [{ r with start := start }] })

/-- A record joins a queue that has room (R190). -/
theorem State.appendTask_joins {s : State} {m : MQ} {r : TaskRec} (hm : MayStart s) (hroom : m.recs.length < 256) :
    ∃ start, s.appendTask m r =
        .done (s.joined m r start) ∧
      s.myParty ∈ start := by
  obtain ⟨start, hs, hmem⟩ := State.handoff_ok (hm.bound (some r))
  refine ⟨start, ?_, hmem⟩
  unfold State.appendTask
  dsimp only
  rw [if_neg (show ¬ m.recs.length ≥ mqCap from Nat.not_le.2 hroom), hs]
  rfl

/-- A task record that R191 admits is read and joins its queue. -/
theorem State.spawnTask_joins {s u : State} {c : Cap} {v : Nat} {secs : List (Nat × Bool)} {r : TaskRec} (hv : v < 2 ^ 7)
    (hk : checkCap (s.ownObj s.me.fld) c pR c.cur 64 = none) (hb : s.me.bound = none)
    (hq : (s.mqOf (s.me.fld / 32) (v / 2)).hq = true → s.me.mode = true) (hc : (s.mqOf (s.me.fld / 32) (v / 2)).ctx = s.me.ctx)
    (hen : (s.mqOf (s.me.fld / 32) (v / 2)).en = true) (hread : s.bindSecs (s.bindAccess c.obj c.cur) 4 = .ok u secs)
    (hparse : parseTask secs (s.mqOf (s.me.fld / 32) (v / 2)).base [] = some r) :
    s.spawnTask c v = u.appendTask (s.mqOf (s.me.fld / 32) (v / 2)) r := by
  have small : ¬ v / 2 ^ 7 ≠ 0 := by omega
  have allowed : ((s.mqOf (s.me.fld / 32) (v / 2)).hq && !s.me.mode) = false := by
    cases h : (s.mqOf (s.me.fld / 32) (v / 2)).hq with
    | false => rfl
    | true => simp [hq h]
  simp only [State.spawnTask, bits_one_six hv, hb, hk, if_neg small, allowed, hc, hen, hread, hparse, ne_eq, not_true_eq_false,
    decide_false, Bool.not_true, Bool.or_self, Bool.false_eq_true, if_false]
/-- In task mode a handler's queue takes no record (R190). -/
theorem State.spawnTask_priv {s : State} {c : Cap} {v : Nat} (hv : v < 2 ^ 7)
    (hk : checkCap (s.ownObj s.me.fld) c pR c.cur 64 = none) (hb : s.me.bound = none)
    (hq : (s.mqOf (s.me.fld / 32) (v / 2)).hq = true) (hmode : s.me.mode = false) :
    s.spawnTask c v = .raise (mkTrap ccPriv 0 0 0) s := by
  have small : ¬ v / 2 ^ 7 ≠ 0 := by omega
  simp only [State.spawnTask, bits_one_six hv, hb, hk, if_neg small, hq, hmode, Bool.not_false, Bool.and_self, if_true]

/-- An instruction whose body leaves the strand as it was has only gone on. -/
theorem wentOn_retire {s t : State} {len : Nat} {reads : List RegF} (hme : t.me = s.me) (hmem : t.mem = s.mem)
    (hf : s.me.finder = false) : WentOn s (t.retire len reads) len := by
  rw [State.retire_eq len reads (by rw [hme]; exact hf)]
  exact ⟨by simp only [State.pc, hme], by simp only [hme], by simp only [hme], by simp only [hme], hmem⟩

theorem spawning : Claim.Spawning := by
  intro s c b ⟨hf, hu⟩ hm v x i hi
  have ha : Admits s { reads := [b] } := admits_unbound (by simp [hu])
  have word : (s.readReg b).toNat = v := by rw [State.readReg_unbound hu]
  have runs := exec_spawn (s := s) hi
  have strand (h : v % 2 = 0) : s.spawn c b = s.spawnStrand x v := by
    simp only [State.spawn, word, h, if_true]
    rfl
  have task (h : v % 2 = 1) : s.spawn c b = s.spawnTask x v := by
    simp only [State.spawn, word, h, one_ne_zero, if_false]
    rfl
  refine ⟨fun f k hev hv hr hfld hk => ?_, fun hev hr hv => ?_, fun u secs r hodd hv hk => ?_,
    fun hodd hv hk hq hmode hb => ?_⟩
  · obtain ⟨start, hs, hparty⟩ := State.spawnStrand_starts hm hr hv hfld hk
    refine ⟨_, s.newStrand f k s.me.ctx s.me.task x (s.creg 1) start,
      runs.trans (run_done (by simp [hf]) ha.1 ha.2 ((strand hev).trans hs)), wentOn_retire rfl rfl hf, ?_⟩
    rw [State.retire_eq _ _ (show (s.addStrand _).me.finder = false from hf)]
    exact ⟨rfl, rfl, rfl, rfl, rfl, rfl, rfl, rfl, fun r => by simp [State.newStrand, Strand.empty], rfl, rfl, rfl, hparty⟩
  · exact runs.trans (run_raise (by simp [hf]) ha.1 ha.2 ((strand hev).trans (State.spawnStrand_raises hr hv)) hf)
  · intro m hq hc hen hroom hb hread hme hmem hmu hparse
    obtain ⟨start, hs, hparty⟩ := State.appendTask_joins (r := r) hmu hroom
    have joins := (task hodd).trans ((State.spawnTask_joins hv hk hb hq hc hen hread hparse).trans hs)
    have same := State.joined_me (m := m) r start hme hb
    have hrun : (u.joined m r start).me.finder = false := by rw [same]; exact hf
    refine ⟨_, start, runs.trans (run_done (by simp [hf]) ha.1 ha.2 joins), ?_, ?_, hparty⟩
    · exact wentOn_retire same hmem hf
    · obtain ⟨hdie, hnum⟩ := s.mqOf_id (s.me.fld / 32) (v / 2)
      rw [State.mqOf_retire _ _ hrun, State.joined_recs _ _ _ hdie hnum]
  · exact runs.trans (run_raise (by simp [hf]) ha.1 ha.2 ((task hodd).trans (State.spawnTask_priv hv hk hb hq hmode)) hf)

theorem taskEndsAndWaits : Claim.TaskEndsAndWaits := by
  intro s hf
  have ha := admits_none s
  have done {k : Kind} {body : State → Act} {t : State} (h : body s = .done t) : run k 4 {} body s = .next (t.retire 4 []) :=
    run_done (by simp [hf]) ha.1 ha.2 h
  have waits {k : Kind} {body : State → Act} (h : body s = .wait s) : run k 4 {} body s = .next s :=
    run_wait (by simp [hf]) ha.1 ha.2 h
  refine ⟨fun k hi hk => ?_, fun hi => ?_, fun k hk => ?_, fun l st c t => ⟨fun ok => ?_, fun ok => ?_⟩⟩
  · exact (exec_tdone s).trans (done (by simp only [hi, State.myTask, hk]; rfl))
  · exact (exec_tdone s).trans (waits (by simp only [hi]; rfl))
  · exact (exec_yield s).trans (done (by simp only [State.myTask, hk]))
  · exact (exec_wait l st c t s).trans (done (if_pos (by simpa [and_assoc] using ok)))
  · exact (exec_wait l st c t s).trans (waits (if_neg (by simpa [and_assoc] using ok)))

/-- Settles O35: a hand-off with nothing outstanding goes through, so what `spawn` names starts or joins its queue. -/
theorem spawnsAndTaskEnds : Obligations.SpawnsAndTaskEnds := ⟨spawning, taskEndsAndWaits⟩

end Sys2Proof.Machine
end

section
/-!
PROOF. Elements that work on lanes (R69, R74, R132, R135, R136, R142, R170): how one beat is taken, what a firing reads, and
how a value leaves beat by beat.
-/
namespace Sys2Proof.Machine

/-! ### Channels under the taking of a beat (R135) -/

@[simp] theorem Fx.keep_sl (x : Fx) (i : Nat) : (x.keep i).sl = x.sl := by
  unfold Fx.keep
  split <;> rfl
@[simp] theorem Fx.keep_e (x : Fx) (i : Nat) : (x.keep i).e = x.e := by
  unfold Fx.keep
  split <;> rfl

/-- A search does not see entries replaced that it passes over before and after. -/
theorem find?_map_replaced {α : Type} {p : α → Bool} {r : α → Prop} [DecidablePred r] {d : α} (hd : p d = false) {l : List α}
    (hr : ∀ a ∈ l, r a → p a = false) : (l.map fun a => if r a then d else a).find? p = l.find? p := by
  induction l with
  | nil => rfl
  | cons a l ih =>
    have rest := ih fun b hb => hr b (List.mem_cons_of_mem _ hb)
    have first := hr a List.mem_cons_self
    by_cases h : r a
    · simp only [List.map_cons, if_pos h, List.find?_cons, hd, first h, rest]
    · simp only [List.map_cons, if_neg h, List.find?_cons, rest]

theorem Fx.inIx_inj {x : Fx} {i j : Nat} (h : x.inIx i = x.inIx j) : i = j := by
  unfold Fx.inIx at h
  split at h <;> omega

theorem Fx.inC_some {x : Fx} {i : Nat} {c : Chan} (h : x.inC i = some c) : c ∈ x.s.chans ∧ c.dst = x.port (x.inIx i) := by
  have := List.find?_some h
  simp only [Bool.and_eq_true, decide_eq_true_eq] at this
  exact ⟨List.mem_of_find?_eq_some h, this.2⟩

/-- The channel of an input rewritten: that of another input stays. -/
theorem Fx.inC_setChan_other {x : Fx} {c d : Chan} {i j : Nat} (hn : (x.s.chans.map (·.id)).Nodup) (hc : x.inC i = some c)
    (hid : d.id = c.id) (hdst : d.dst = c.dst) (hij : i ≠ j) : ({ x with s := x.s.setChan d } : Fx).inC j = x.inC j := by
  obtain ⟨hmem, hto⟩ := Fx.inC_some hc
  have other : c.dst ≠ x.port (x.inIx j) := by
    rw [hto]
    intro h
    exact hij (Fx.inIx_inj (congrArg Port.ix h))
  refine find?_map_replaced (p := fun b : Chan => b.slot = x.sl.idx && b.dst = x.port (x.inIx j)) (by simp [hdst, other]) fun a ha hr => ?_
  have : a = c := List.inj_on_of_nodup_map hn ha hmem (hr.trans hid)
  simp [this, other]

theorem State.setChan_ids (s : State) (d : Chan) : (s.setChan d).chans.map (·.id) = s.chans.map (·.id) := by
  rw [State.setChan, List.map_map]
  refine List.map_congr_left fun c _ => ?_
  by_cases h : c.id = d.id <;> simp [h]

theorem Fx.drop_ids (x : Fx) (i : Nat) : (x.drop i).s.chans.map (·.id) = x.s.chans.map (·.id) := by
  unfold Fx.drop
  split
  · exact State.setChan_ids _ _
  · rfl

theorem Fx.inC_drop_other {x : Fx} {i j : Nat} (hn : (x.s.chans.map (·.id)).Nodup) (hij : i ≠ j) : (x.drop i).inC j = x.inC j := by
  unfold Fx.drop
  split
  · next c hc => exact Fx.inC_setChan_other hn hc rfl rfl hij
  · rfl

theorem Fx.inC_keep_other {x : Fx} {i j : Nat} (hn : (x.s.chans.map (·.id)).Nodup) (hij : i ≠ j) : (x.keep i).inC j = x.inC j := by
  unfold Fx.keep
  split
  · next c hc => exact Fx.inC_setChan_other hn hc rfl rfl hij
  · rfl

/-- Leave of the actor counts, and moves no beat (R137). -/
theorem Fx.gateIn_chans {x y : Fx} {i : Nat} (h : x.gateIn i = some y) : y.s.chans = x.s.chans := by
  unfold Fx.gateIn at h
  split at h
  · cases h; rfl
  · split at h
    · cases h; rfl
    · obtain ⟨z, hz, rfl⟩ := Option.map_eq_some_iff.1 h
      unfold Fx.actorFire at hz
      dsimp only at hz
      split at hz
      · cases hz; rfl
      · cases hz

theorem Fx.gateIn_inC {x y : Fx} {i : Nat} (h : x.gateIn i = some y) (j : Nat) : y.inC j = x.inC j := by
  obtain ⟨hsl, he⟩ := Fx.gateIn_keeps h
  have hport : y.port (y.inIx j) = x.port (x.inIx j) := by
    unfold Fx.port Fx.inIx
    rw [hsl, he]
  simp only [Fx.inC, Fx.gateIn_chans h, hsl, hport]

/-! ### One beat taken (R69, R132, R142) -/

/-- What takes a header, with leave of the actor: nothing more of an earlier value is awaited. -/
theorem Fx.takeBeat_header {x y : Fx} {i : Nat} {b : Beat} (hb : x.head i = some b) (hg : x.e.gotAt i = []) (hk : b.kind = 1)
    (hy : x.gateIn i = some y) : x.takeBeat i = some (.inr { (y.drop i).keep i with e := y.e.setGot i [b] true }) := by
  simp [Fx.takeBeat, hb, hg, hk, hy]

/-- What takes a digit beat; the first one's tag is that of the round. -/
theorem Fx.takeBeat_digit {x y : Fx} {i : Nat} {b : Beat} (hb : x.head i = some b) (hg : x.e.gotAt i ≠ []) (hk : b.kind = 0)
    (ht : (x.e.gotAt i).length = 1 → BitVec.ofNat 4 b.tag = (x.e.rinAt i).setWidth 4) (hy : x.gateIn i = some y) :
    x.takeBeat i = some (.inr { y.drop i with e := y.e.setGot i (x.e.gotAt i ++ [b]) (!b.allTail) }) := by
  have tagged : ((x.e.gotAt i).length = 1 && BitVec.ofNat 4 b.tag ≠ (x.e.rinAt i).setWidth 4) = false := by simpa using ht
  simp only [Fx.takeBeat, hb, List.isEmpty_eq_false_iff.2 hg, hk, tagged, hy, Bool.false_eq_true, if_false, if_true, Option.map_some,
    Fx.drop_e]

/-- The first digit beat of another round stalls the element (R142). -/
theorem Fx.takeBeat_tag {x : Fx} {i : Nat} {b : Beat} (hb : x.head i = some b) (hg : (x.e.gotAt i).length = 1) (hk : b.kind = 0)
    (ht : BitVec.ofNat 4 b.tag ≠ (x.e.rinAt i).setWidth 4) :
    x.takeBeat i = some (.inl (x.stallAt ccRoundTag 0x31 i (BitVec.ofNat 32 b.tag))) := by
  have begun : (x.e.gotAt i).isEmpty = false := List.isEmpty_eq_false_iff.2 (List.ne_nil_of_length_pos (by omega))
  simp [Fx.takeBeat, hb, begun, hg, hk, ht]

/-- A digit without a header, or a header inside a value, stalls the element (R132). -/
theorem Fx.takeBeat_order {x : Fx} {i : Nat} {b : Beat} (hb : x.head i = some b)
    (h : x.e.gotAt i = [] ∧ b.kind = 0 ∨ x.e.gotAt i ≠ [] ∧ b.kind = 1) : x.takeBeat i = some (.inl (x.stallAt ccCfg 0x22 i)) := by
  rcases h with ⟨hg, hk⟩ | ⟨hg, hk⟩ <;> simp [Fx.takeBeat, hb, hg, hk]

theorem Fx.takeBeat_none {x : Fx} {i : Nat} (h : x.head i = none) : x.takeBeat i = none := by
  simp [Fx.takeBeat, h]

/-- A beat taken comes off its own input, with leave of the actor. -/
theorem Fx.takeBeat_some {x y : Fx} {i : Nat} (h : x.takeBeat i = some (.inr y)) :
    ∃ z g l, x.gateIn i = some z ∧
      (y = { (z.drop i).keep i with e := z.e.setGot i g l } ∨ y = { z.drop i with e := z.e.setGot i g l }) := by
  unfold Fx.takeBeat at h
  split at h
  · cases h
  · dsimp only at h
    split at h
    · split at h
      · obtain ⟨z, hz, ⟨⟩⟩ := Option.map_eq_some_iff.1 h
        exact ⟨z, _, _, hz, .inl (by rw [Fx.keep_e, Fx.drop_e])⟩
      · split at h <;> cases h
    · split at h
      · split at h
        · cases h
        · obtain ⟨z, hz, ⟨⟩⟩ := Option.map_eq_some_iff.1 h
          exact ⟨z, _, _, hz, .inr (by rw [Fx.drop_e])⟩
      · cases h

theorem Fx.takeBeat_sl {x y : Fx} {i : Nat} (h : x.takeBeat i = some (.inr y)) : y.sl = x.sl := by
  obtain ⟨z, g, l, hz, rfl | rfl⟩ := Fx.takeBeat_some h <;> simp [(Fx.gateIn_keeps hz).1]

/-- What stands at another input stays there. -/
theorem Fx.takeBeat_head_other {x y : Fx} {i j : Nat} (hn : (x.s.chans.map (·.id)).Nodup) (h : x.takeBeat i = some (.inr y))
    (hij : i ≠ j) : y.head j = x.head j := by
  obtain ⟨z, g, l, hz, hy⟩ := Fx.takeBeat_some h
  have hnz : (z.s.chans.map (·.id)).Nodup := by rwa [Fx.gateIn_chans hz]
  have dropped : (z.drop i).inC j = x.inC j := (Fx.inC_drop_other hnz hij).trans (Fx.gateIn_inC hz j)
  have kept : ((z.drop i).keep i).inC j = x.inC j :=
    (Fx.inC_keep_other (by rwa [Fx.drop_ids]) hij).trans dropped
  -- what has been got at an input is not part of where its channel is
  have place (u : Fx) (hu : u.e = z.e) : ({ u with e := z.e.setGot i g l } : Fx).inC j = u.inC j := by
    cases u; cases hu; rfl
  unfold Fx.head
  rcases hy with rfl | rfl
  · rw [place _ (by simp), kept]
  · rw [place _ (by simp), dropped]

/-! ### What a firing reads (R136) -/

theorem Fx.badBeat_first {x : Fx} {u : State} {i : Nat} {l : List Nat} (hi : i ∈ l) (hs : l.Pairwise (· < ·))
    (h : x.takeBeat i = some (.inl u)) (hj : ∀ j ∈ l, j < i → ∀ u, x.takeBeat j ≠ some (.inl u)) : x.badBeat l = some u := by
  unfold Fx.badBeat
  induction l with
  | nil => cases hi
  | cons k r ih =>
    rw [List.pairwise_cons] at hs
    rcases List.mem_cons.1 hi with rfl | hr
    · simp [h]
    · have good := hj k List.mem_cons_self (hs.1 i hr)
      have rest := ih hr hs.2 fun j hm => hj j (List.mem_cons_of_mem _ hm)
      cases ht : x.takeBeat k with
      | none => simpa [List.findSome?_cons, ht] using rest
      | some w =>
        cases w with
        | inl v => exact absurd ht (good v)
        | inr y => simpa [List.findSome?_cons, ht] using rest

theorem Fx.badBeat_none {x : Fx} {l : List Nat} (h : ∀ i ∈ l, ∀ u, x.takeBeat i ≠ some (.inl u)) : x.badBeat l = none := by
  unfold Fx.badBeat
  rw [List.findSome?_eq_none_iff]
  intro i hi
  cases ht : x.takeBeat i with
  | none => rfl
  | some w =>
    cases w with
    | inl u => exact absurd ht (h i hi u)
    | inr y => rfl

/-- The first bad beat is what a firing reads. -/
theorem Fx.readIn_bad {x : Fx} {ins : List Nat} {u : State} {i : Nat} (hi : i ∈ x.unended ins) (h : x.badBeat (x.unended ins) = some u) :
    x.readIn ins = some (.inl u) := by
  simp [Fx.readIn, List.isEmpty_eq_false_iff.2 (List.ne_nil_of_mem hi), h]

/-- Without a bad beat, a firing reads one beat at each input whose value has not ended. -/
theorem Fx.readIn_good {x : Fx} {ins : List Nat} {i : Nat} (hi : i ∈ x.unended ins)
    (h : ∀ i ∈ x.unended ins, ∀ u, x.takeBeat i ≠ some (.inl u)) : x.readIn ins = x.takeEach (x.unended ins) := by
  simp [Fx.readIn, List.isEmpty_eq_false_iff.2 (List.ne_nil_of_mem hi), Fx.badBeat_none h]

/-- With one input whose value has not ended, a firing reads there. -/
theorem Fx.readIn_one {x y : Fx} {ins : List Nat} {i : Nat} (hu : x.unended ins = [i]) (h : x.takeBeat i = some (.inr y)) :
    x.readIn ins = some (.inr y) := by
  rw [Fx.readIn_good (i := i) (by simp [hu]) (by simp [hu, h]), hu]
  simp [Fx.takeEach, h]

/-- With two such inputs, a firing reads at both. -/
theorem Fx.readIn_both {x y z : Fx} {ins : List Nat} {i j : Nat} (hu : x.unended ins = [i, j]) (hi : x.takeBeat i = some (.inr y))
    (good : ∀ u, x.takeBeat j ≠ some (.inl u)) (hj : y.takeBeat j = some (.inr z)) : x.readIn ins = some (.inr z) := by
  rw [Fx.readIn_good (i := i) (by simp [hu]) (by simpa [hu, hi] using good), hu]
  simp [Fx.takeEach, hi, hj]

/-- The inputs whose value has not ended, of an operation of one or two operands. -/
theorem Fx.unended_cases (x : Fx) (two : Bool) :
    x.unended (x.e.valIns two) = [] ∨ (∃ i, x.unended (x.e.valIns two) = [i]) ∨ x.unended (x.e.valIns two) = [0, 1] := by
  unfold Fx.unended Elem.valIns
  cases h0 : x.e.whole 0 <;> cases h1 : x.e.whole 1 <;> split <;> simp [h0, h1]

theorem Fx.unended_sorted (x : Fx) (two : Bool) : (x.unended (x.e.valIns two)).Pairwise (· < ·) := by
  refine List.Pairwise.filter _ ?_
  unfold Elem.valIns
  split <;> decide

/-- Where nothing has come at an input whose value has not ended, a firing reads at none (R136). -/
theorem Fx.takeEach_none {x : Fx} {two : Bool} (hn : (x.s.chans.map (·.id)).Nodup) {i : Nat} (hi : i ∈ x.unended (x.e.valIns two))
    (hh : x.head i = none) (h : ∀ i ∈ x.unended (x.e.valIns two), ∀ u, x.takeBeat i ≠ some (.inl u)) :
    x.takeEach (x.unended (x.e.valIns two)) = none := by
  have empty : x.takeBeat i = none := Fx.takeBeat_none hh
  rcases x.unended_cases two with hu | ⟨j, hu⟩ | hu <;> rw [hu] at hi h ⊢
  · cases hi
  · obtain rfl := List.mem_singleton.1 hi
    simp [Fx.takeEach, empty]
  · cases h0 : x.takeBeat 0 with
    | none => simp [Fx.takeEach, h0]
    | some w =>
      cases w with
      | inl u => exact absurd h0 (h 0 (by simp) u)
      | inr y =>
        obtain rfl : i = 1 := by
          rcases List.mem_pair.1 hi with rfl | rfl
          · rw [empty] at h0; cases h0
          · rfl
        have still : y.takeBeat 1 = none := Fx.takeBeat_none ((Fx.takeBeat_head_other hn h0 (by decide)).trans hh)
        simp [Fx.takeEach, h0, still]

/-! ### The body of an operation on values -/

/-- While some operand has not begun, a body does nothing but read. -/
def Fx.OnlyReads (x : Fx) (ins : List Nat) (body : Fx → Option State) : Prop :=
  (∀ u, x.readIn ins = some (.inl u) → body x = some u) ∧
  (∀ y, x.readIn ins = some (.inr y) → (∃ i ∈ ins, (y.e.gotAt i).length < 2) → body x = some y.done) ∧
  (x.readIn ins = none → body x = none)

theorem Elem.started_all_false {e : Elem} {ins : List Nat} (h : ∃ i ∈ ins, (e.gotAt i).length < 2) : ins.all e.started = false := by
  obtain ⟨i, hi, hlt⟩ := h
  exact List.all_eq_false.2 ⟨i, hi, by simpa [Elem.started] using hlt⟩

theorem Fx.streamTo_onlyReads {x : Fx} {needs : Fx → Nat → Bool} {ins outs : List Nat} {res : Fx → List LaneRes}
    (hk : x.killed outs = false) (h : ∃ i ∈ ins, (x.e.gotAt i).length < 2) :
    x.OnlyReads ins fun x => x.streamTo needs ins outs res := by
  have waits := Elem.started_all_false h
  refine ⟨fun u hu => ?_, fun y hy more => ?_, fun hn => ?_⟩
  · simp only [Fx.streamTo, hk, waits, hu, Bool.false_eq_true, if_false, Option.map_some]
  · simp only [Fx.streamTo, hk, waits, hy, Elem.started_all_false more, Bool.false_eq_true, if_false, Option.map_some]
  · simp only [Fx.streamTo, hk, waits, hn, Bool.false_eq_true, if_false, Option.map_none]

/-- The lanes of an answer are those of the element that fires. -/
theorem Fx.streamTo_congr {x : Fx} {needs : Fx → Nat → Bool} {ins outs : List Nat} {res res' : Fx → List LaneRes}
    (h : res x = res' x) : x.streamTo needs ins outs res = x.streamTo needs ins outs res' := by
  unfold Fx.streamTo
  rw [h]

theorem Fx.decide_onlyReads {x : Fx} {ins : List Nat} {words : Fx → Option (List W32 × Nat)} :
    x.OnlyReads ins fun x => x.decide ins words := by
  refine ⟨fun u hu => ?_, fun y hy more => ?_, fun hn => ?_⟩
  · simp [Fx.decide, hu]
  · simp [Fx.decide, hy, Elem.started_all_false more]
  · simp [Fx.decide, hn]

/-- The inputs of an operation with two operands: the second is at input 1 when none is stationary (R170). -/
theorem Elem.valIns_two (e : Elem) : e.valIns true = if e.hasSt then [0] else [0, 1] := by
  cases h : e.hasSt <;> simp [Elem.valIns, h]
theorem Elem.valIns_one (e : Elem) : e.valIns false = [0] := rfl

section
variable {s : State} {f site op : Nat} {w : Instr} {x : Fx} {two : Bool}

theorem fireLane1_streams {g : Elem → LaneIn → LaneRes} {res : Fx → List LaneRes} (hw : exec w s = stepOf s (fireLane1 f site op g s))
    (hx : s.computeAt f site op = some x) (hr : res x = lanes1 (g x.e) x) : ∃ body needs, exec w s = stepOf s (x.fire [0] false body) ∧
      body x = x.streamTo needs (x.e.valIns false) [0] res :=
  ⟨_, fun _ _ => true, by rw [hw, fireLane1, hx, Option.bind_some], Fx.streamTo_congr hr.symm⟩

theorem fireLane2_streams {g : LaneIn → LaneIn → LaneRes} (hw : exec w s = stepOf s (fireLane2 f site op g s))
    (hx : s.computeAt f site op = some x) : ∃ body needs, exec w s = stepOf s (x.fire [0] false body) ∧
      body x = x.streamTo needs (x.e.valIns true) [0] (lanes2 g) :=
  ⟨_, _, by rw [hw, fireLane2, hx, Option.bind_some], by rw [Elem.valIns_two]; rfl⟩

theorem fireMax_streams {mn : Bool} (hw : exec w s = stepOf s (fireMax f site op mn s)) (hx : s.computeAt f site op = some x) :
    ∃ body needs, exec w s = stepOf s (x.fire [0] false body) ∧
      body x = x.streamTo needs (x.e.valIns true) [0] (lanes2 (laneMax mn)) :=
  ⟨_, _, by rw [hw, fireMax, hx, Option.bind_some], by rw [Elem.valIns_two]⟩

/-- An operation that turns values into values answers while it reads (R170). -/
theorem exec_laneOp {res : Fx → List LaneRes} (h : IsLaneOp f site (w, op, two, res)) (hx : s.computeAt f site op = some x) :
    ∃ body needs, exec w s = stepOf s (x.fire (valOuts op) false body) ∧
      body x = x.streamTo needs (x.e.valIns two) (valOuts op) res := by
  simp only [IsLaneOp, List.mem_cons, Prod.mk.injEq, List.not_mem_nil, or_false] at h
  rcases h with ⟨rfl, rfl, rfl, rfl⟩ | ⟨rfl, rfl, rfl, rfl⟩ | ⟨rfl, rfl, rfl, rfl⟩ | ⟨rfl, rfl, rfl, rfl⟩ | ⟨rfl, rfl, rfl, rfl⟩ |
    ⟨rfl, rfl, rfl, rfl⟩ | ⟨rfl, rfl, rfl, rfl⟩ | ⟨rfl, rfl, rfl, rfl⟩ | ⟨rfl, rfl, rfl, rfl⟩ | ⟨rfl, rfl, rfl, rfl⟩ |
    ⟨rfl, rfl, rfl, rfl⟩ | ⟨rfl, rfl, rfl, rfl⟩ | ⟨rfl, rfl, rfl, rfl⟩
  · exact fireLane2_streams (exec_oadd f site s) hx
  · exact fireLane2_streams (exec_osub f site s) hx
  · exact fireLane2_streams (exec_omul f site s) hx
  · exact fireLane2_streams (exec_odiv f site s) hx
  · exact fireLane1_streams (g := fun _ => laneSqrt) (exec_osqrt f site s) hx rfl
  · exact fireLane1_streams (g := fun _ => laneExp2) (exec_oexp2 f site s) hx rfl
  · exact fireLane1_streams (g := fun _ => laneLog2) (exec_olog2 f site s) hx rfl
  · exact fireLane1_streams (g := fun _ => laneNeg) (exec_oneg f site s) hx rfl
  · exact fireLane1_streams (g := fun _ => laneAbs) (exec_oabs f site s) hx rfl
  · exact fireLane1_streams (g := fun e => laneScl (toSigned 16 (e.p 0 16))) (exec_oscl f site s) hx rfl
  · exact fireMax_streams (exec_omax f site s) hx
  · exact fireMax_streams (exec_omin f site s) hx
  · exact ⟨_, _, by rw [exec_ofan, execOfan, fireOfan, hx, Option.bind_some]; rfl, rfl⟩

/-- An operation whose result leaves as words reads until every lane has decided (R170, R173). -/
theorem exec_wordOp {res : Fx → Option (List W32 × Nat)} (h : IsWordOp f site (w, op, two, res)) (hx : s.computeAt f site op = some x) :
    ∃ body, exec w s = stepOf s (x.fire [0] false body) ∧ body x = x.decide (x.e.valIns two) res := by
  simp only [IsWordOp, List.mem_cons, Prod.mk.injEq, List.not_mem_nil, or_false] at h
  rcases h with ⟨rfl, rfl, rfl, rfl⟩ | ⟨rfl, rfl, rfl, rfl⟩ | ⟨rfl, rfl, rfl, rfl⟩ | ⟨rfl, rfl, rfl, rfl⟩
  · exact ⟨_, by rw [exec_ocmp, execOcmp, fireOcmp, hx, Option.bind_some], by rw [Elem.valIns_two]; rfl⟩
  · exact ⟨_, by rw [exec_osgn, execOsgn, fireOsgn, hx, Option.bind_some], rfl⟩
  · exact ⟨_, by rw [exec_settle, execSettle, fireSettle, hx, Option.bind_some], rfl⟩
  · exact ⟨_, by rw [exec_thresh, execThresh, fireThresh, hx, Option.bind_some], rfl⟩

/-- Every operation on values only reads while some operand has not begun. -/
theorem exec_valueOp_reads (h : IsValueOp f site w op two) (hx : s.computeAt f site op = some x)
    (hk : x.killed (valOuts op) = false) (more : ∃ i ∈ x.e.valIns two, (x.e.gotAt i).length < 2) :
    ∃ outs body, exec w s = stepOf s (x.fire outs false body) ∧ x.OnlyReads (x.e.valIns two) body := by
  rcases h with ⟨res, hl⟩ | ⟨res, hl⟩
  · obtain ⟨body, needs, hw, hb⟩ := exec_laneOp hl hx
    refine ⟨_, body, hw, ?_⟩
    simpa only [Fx.OnlyReads, hb] using Fx.streamTo_onlyReads (needs := needs) (res := res) hk more
  · obtain ⟨body, hw, hb⟩ := exec_wordOp hl hx
    refine ⟨_, body, hw, ?_⟩
    simpa only [Fx.OnlyReads, hb] using Fx.decide_onlyReads (words := res)

end

theorem elementsRead : Claim.ElementsRead := by
  refine ⟨fun x i b hb => ⟨fun y hg hk hy => Fx.takeBeat_header hb hg hk hy, fun y hg hk ht hy => Fx.takeBeat_digit hb hg hk ht hy,
    fun hg hk ht => Fx.takeBeat_tag hb hg hk ht, fun h => Fx.takeBeat_order hb h⟩, ?_⟩
  intro s f site x w op two hop hx hhere hc hk ins hmore un more good
  obtain ⟨outs, body, hw, hbad, hgood, hnone⟩ := exec_valueOp_reads hop hx hk hmore
  have hs : x.s = s := (State.fxAt_some hx).1
  obtain ⟨_, hids⟩ := hhere
  refine ⟨fun i u hi ht hj => ?_, fun i y hu ht hm => ?_, fun y z hu h0 h1 hz hm => ?_, fun ⟨i, hi, hh⟩ hg => ?_⟩
  · exact stalls_of_fire hs hc hw (hbad u (Fx.readIn_bad hi (Fx.badBeat_first hi (x.unended_sorted two) ht hj)))
  · exact fires_of_fire hs hc hw (hgood y (Fx.readIn_one hu ht) hm) (Fx.takeBeat_sl ht)
  · exact fires_of_fire hs hc hw (hgood z (Fx.readIn_both hu h0 h1 hz) hm) ((Fx.takeBeat_sl hz).trans (Fx.takeBeat_sl h0))
  · exact stays_of_fire hs hc hw (hnone ((Fx.readIn_good hi hg).trans (Fx.takeEach_none hids hi hh hg)))

/-! ### A value sent beat by beat (R69, R74, R135, R146) -/

@[simp] theorem Fx.push_sl (x : Fx) (o : Nat) (b : Beat) : (x.push o b).sl = x.sl := rfl
@[simp] theorem Fx.put_sl (x : Fx) (outs : List Nat) (b : Beat) : (x.put outs b).sl = x.sl := by
  unfold Fx.put
  induction outs generalizing x with
  | nil => rfl
  | cons o r ih => exact ih (x.push o b)
@[simp] theorem Fx.close_sl (x : Fx) (outs : List Nat) : (x.close outs).sl = x.sl := by
  show (outs.foldl Fx.endOut x).sl = x.sl
  induction outs generalizing x with
  | nil => rfl
  | cons o r ih => exact ih (x.endOut o)
@[simp] theorem Fx.killIn_sl (x : Fx) (i : Nat) (seen : Bool) : (x.killIn i seen).sl = x.sl := by
  unfold Fx.killIn
  split <;> rfl
@[simp] theorem Fx.finish_sl (x : Fx) (ins : List Nat) : (x.finish ins).sl = x.sl := by
  unfold Fx.finish
  induction ins generalizing x with
  | nil => rfl
  | cons i r ih =>
    refine (ih _).trans ?_
    dsimp only
    split <;> simp

theorem Fx.gateOut_sl {x y : Fx} {o : Nat} (h : x.gateOut o = some y) : y.sl = x.sl := by
  unfold Fx.gateOut at h
  split at h
  · cases h; rfl
  · split at h
    · cases h; rfl
    · obtain ⟨z, hz, rfl⟩ := Option.map_eq_some_iff.1 h
      exact (Fx.actorFire_keeps hz).1

theorem leaveEach_sl {sl : Slot} {y : Fx} {outs : List Nat} {a : Option Fx} (ha : ∀ z, a = some z → z.sl = sl)
    (h : outs.foldl (fun a o => a.bind (·.gateOut o)) a = some y) : y.sl = sl := by
  induction outs generalizing a with
  | nil => exact ha y h
  | cons o r ih =>
    refine ih (fun z hz => ?_) h
    obtain ⟨u, hu, hz⟩ := Option.bind_eq_some_iff.1 hz
    exact (Fx.gateOut_sl hz).trans (ha u hu)
theorem Fx.leave_sl {x y : Fx} {outs : List Nat} (h : x.leave outs = some y) : y.sl = x.sl :=
  leaveEach_sl (fun _ hz => by cases hz; rfl) h

section
variable {x y : Fx} {outs : List Nat} {rs : List LaneRes} {round : W32} {after : Fx → Fx}

/-- The header leaves first, on the outputs where the value goes on (R74). -/
theorem Fx.sendValue_opens {E : Int} {c : Nat} (hb : x.e.busy = false) (hh : header rs = .ok E c)
    (hr : ∀ o ∈ x.goesOn outs, x.room o = true) (hy : x.leave (x.goesOn outs) = some y) :
    x.sendValue outs rs round after = some (some (y.opened (x.goesOn outs) E c rs).done) := by
  have room : (outs.filter fun o => !x.stoppedOn o).all x.room = true := List.all_eq_true.2 hr
  have leave : (outs.filter fun o => !x.stoppedOn o).foldl (fun a o => a.bind (·.gateOut o)) (some x) = some y := hy
  simp only [Fx.sendValue, hb, hh, room, leave, Bool.not_false, if_true, Option.map_some]
  rfl

/-- An exponent that does not fit stalls the element (R74). -/
theorem Fx.sendValue_bad (hb : x.e.busy = false) (hh : header rs = .bad) :
    x.sendValue outs rs round after = some (some (x.stallAt ccCfg 0x20 noInput)) := by
  simp only [Fx.sendValue, hb, hh, Bool.not_false, if_true]

/-- A digit beat that is determined leaves; the one that shows every zero tail ends the value (R69). -/
theorem Fx.sendValue_digit {b : Beat} (hb : x.e.busy = true) (hd : digits rs x.e.sent round = some b)
    (hr : ∀ o ∈ x.goesOn outs, x.room o = true) (hy : x.leave (x.goesOn outs) = some y) :
    x.sendValue outs rs round after = some (some (let z := y.put (x.goesOn outs) b
      if b.allTail then after (z.close outs) else { z with e := { z.e with sent := z.e.sent + 1 } } : Fx).done) := by
  have room : (outs.filter fun o => !x.stoppedOn o).all x.room = true := List.all_eq_true.2 hr
  have leave : (outs.filter fun o => !x.stoppedOn o).foldl (fun a o => a.bind (·.gateOut o)) (some x) = some y := hy
  simp only [Fx.sendValue, hb, hd, room, leave, Bool.not_true, Bool.false_eq_true, if_false, if_true, Option.map_some]
  rfl

end

/-- Once every operand has begun, an operator sends what can be sent of its answer (R74). -/
theorem Fx.streamTo_sends {x : Fx} {needs : Fx → Nat → Bool} {ins outs : List Nat} {res : Fx → List LaneRes} {r : Option State}
    (hk : x.killed outs = false) (hst : ∀ i ∈ ins, 2 ≤ (x.e.gotAt i).length)
    (h : x.sendValue outs (res x) (x.e.rinAt (ins.headD 0)) (·.finish ins) = some r) : x.streamTo needs ins outs res = r := by
  have started : ins.all x.e.started = true := List.all_eq_true.2 fun i hi => by simpa [Elem.started] using hst i hi
  simp only [Fx.streamTo, hk, started, h, Bool.false_eq_true, if_false, if_true]

/-- The first operand is at input 0. -/
theorem Elem.valIns_head (e : Elem) (two : Bool) : (e.valIns two).headD 0 = 0 := by
  unfold Elem.valIns
  split <;> rfl

theorem laneOperations : Claim.LaneOperations := by
  intro s f site x w op two res hop hx hc ins outs on rs hk hst hroom
  obtain ⟨body, needs, hw, hb⟩ := exec_laneOp hop hx
  have hs : x.s = s := (State.fxAt_some hx).1
  have sends {r : Option State} (h : x.sendValue outs rs (x.e.rinAt 0) (·.finish ins) = some r) : body x = r := by
    rw [← x.e.valIns_head two] at h
    exact hb.trans (Fx.streamTo_sends hk hst h)
  refine ⟨fun E c y hbusy hh hy => ?_, fun hbusy hh => ?_, fun b y hbusy hd hy => ?_⟩
  · exact fires_of_fire hs hc hw (sends (Fx.sendValue_opens hbusy hh hroom hy)) ((Fx.put_sl y on _).trans (Fx.leave_sl hy))
  · exact stalls_of_fire hs hc hw (sends (Fx.sendValue_bad hbusy hh))
  · have sent := sends (Fx.sendValue_digit hbusy hd hroom hy)
    refine ⟨fun ht => ?_, fun ht => ?_⟩
    · refine fires_of_fire hs hc hw ?_ ((Fx.put_sl y on b).trans (Fx.leave_sl hy))
      simpa only [ht, Bool.false_eq_true, if_false] using sent
    · refine fires_of_fire hs hc hw ?_ (by simp [Fx.leave_sl hy])
      simpa only [ht, if_true] using sent

/-- Settles O37: a firing takes one beat at each operand that has not ended, and answers with the next beat that is determined. -/
theorem laneElements : Obligations.LaneElements := ⟨elementsRead, laneOperations⟩

end Sys2Proof.Machine
end

section
/-!
PROOF. The one rounding (R64, R65) and the operations that take their exact result through it (R117): a rounding cuts the
magnitude into a count of equal spacings and a rest, and no value of the format lies between two successive counts.
-/
namespace Sys2Proof.Machine

/-! ### Fractions of naturals as rationals -/

theorem scaleFrac_pos {n d : Nat} (hn : 0 < n) (hd : 0 < d) (e : Int) : 0 < (scaleFrac n d e).1 ∧ 0 < (scaleFrac n d e).2 := by
  unfold scaleFrac
  split <;> simp [hn, hd]

theorem scaleFrac_rat (n d : Nat) (e : Int) : ((scaleFrac n d e).1 : ℚ) / (scaleFrac n d e).2 = n / d * 2 ^ e := by
  unfold scaleFrac
  split
  · next he =>
    have : (2 : ℚ) ^ e = 2 ^ e.toNat := by rw [← zpow_natCast, Int.toNat_of_nonneg he]
    rw [this]
    push_cast
    ring
  · next he =>
    have : (2 : ℚ) ^ e = (2 ^ (-e).toNat)⁻¹ := by
      rw [← zpow_natCast, Int.toNat_of_nonneg (by omega), ← zpow_neg, neg_neg]
    rw [this]
    push_cast
    rw [div_mul_eq_div_div, div_eq_mul_inv]

/-- The exponent of the leading bit of a positive fraction. -/
theorem log2Frac_eq {n d : Nat} (hn : 0 < n) (hd : 0 < d) : log2Frac n d = Int.log 2 (n / d : ℚ) := by
  have hn' : (0 : ℚ) < n := by exact_mod_cast hn
  have hd' : (0 : ℚ) < d := by exact_mod_cast hd
  have two : (2 : ℚ) ≠ 0 := by norm_num
  have hx : (0 : ℚ) < n / d := div_pos hn' hd'
  have nlo : (2 : ℚ) ^ (n.log2 : ℤ) ≤ n := by exact_mod_cast Nat.log2_self_le (by omega)
  have nhi : (n : ℚ) < 2 ^ (n.log2 + 1 : ℤ) := by exact_mod_cast Nat.lt_log2_self
  have dlo : (2 : ℚ) ^ (d.log2 : ℤ) ≤ d := by exact_mod_cast Nat.log2_self_le (by omega)
  have dhi : (d : ℚ) < 2 ^ (d.log2 + 1 : ℤ) := by exact_mod_cast Nat.lt_log2_self
  -- the quotient lies within a factor of two of the quotient of the leading bits
  have lo : (2 : ℚ) ^ ((n.log2 : ℤ) - d.log2 - 1) ≤ n / d := by
    rw [le_div_iff₀ hd']
    calc (2 : ℚ) ^ ((n.log2 : ℤ) - d.log2 - 1) * d ≤ 2 ^ ((n.log2 : ℤ) - d.log2 - 1) * 2 ^ (d.log2 + 1 : ℤ) := by gcongr
      _ = 2 ^ (n.log2 : ℤ) := by rw [← zpow_add₀ two]; congr 1; ring
      _ ≤ n := nlo
  have hi : (n / d : ℚ) < 2 ^ ((n.log2 : ℤ) - d.log2 + 1) := by
    rw [div_lt_iff₀ hd']
    calc (n : ℚ) < 2 ^ (n.log2 + 1 : ℤ) := nhi
      _ = 2 ^ ((n.log2 : ℤ) - d.log2 + 1) * 2 ^ (d.log2 : ℤ) := by rw [← zpow_add₀ two]; congr 1; ring
      _ ≤ 2 ^ ((n.log2 : ℤ) - d.log2 + 1) * d := by gcongr
  rw [← Nat.cast_ofNat (R := ℚ), Int.zpow_le_iff_le_log (by norm_num) hx] at lo
  rw [← Nat.cast_ofNat (R := ℚ), Int.lt_zpow_iff_log_lt (by norm_num) hx] at hi
  -- the comparison of the scaled fraction decides between the two exponents that are left
  obtain ⟨-, posb⟩ := scaleFrac_pos hn hd (-((n.log2 : ℤ) - d.log2))
  have less : (scaleFrac n d (-((n.log2 : ℤ) - d.log2))).1 < (scaleFrac n d (-((n.log2 : ℤ) - d.log2))).2 ↔
      Int.log 2 (n / d : ℚ) < (n.log2 : ℤ) - d.log2 := by
    rw [← Int.lt_zpow_iff_log_lt (by norm_num) hx, ← Nat.cast_lt (α := ℚ), ← div_lt_one (by exact_mod_cast posb), scaleFrac_rat, zpow_neg,
      ← div_eq_mul_inv, div_lt_one (by positivity)]
    norm_num
  simp only [log2Frac, less]
  split <;> omega

/-! ### The magnitude cut into counts of the spacing (R64) -/

/-- The result of a rounding whose magnitude is q + r / b spacings of 2^qe: up or down by the mode, then over to R65. -/
def Fmt.roundCut (f : Fmt) (md : RMode) (neg : Bool) (qe : Int) (q r b : Nat) (st : Bool) : FRes :=
  let inex := r ≠ 0 || st
  let q' := if roundUp md neg q r b st then q + 1 else q
  let code := (qe - f.qmin).toNat * 2 ^ f.mb + q'
  if q' = 0 then (f.pack neg 0, flNX)
  else if code > f.maxCode then
    let big : Bool := match md with
      | .rne | .rna => true
      | .rtz => false
      | .rup => !neg
      | .rdn => neg
    (f.pack neg (if f.ieee && big then f.infCode else f.maxCode), flOF + flNX)
  else (f.pack neg code, if inex then flNX + (if code < 2 ^ f.mb then flUF else 0) else 0)

/-- The exponent of the spacing at a magnitude. -/
def Fmt.spacing (f : Fmt) (x : ℚ) : Int := max (Int.log 2 x - f.mb) f.qmin

theorem Fmt.round_eq {f : Fmt} {md : RMode} {neg st : Bool} {n d : Nat} (hn : 0 < n) (hd : 0 < d) :
    f.round md neg n d st = f.roundCut md neg (f.spacing (n / d)) ((scaleFrac n d (-f.spacing (n / d))).1 / (scaleFrac n d (-f.spacing (n / d))).2)
      ((scaleFrac n d (-f.spacing (n / d))).1 % (scaleFrac n d (-f.spacing (n / d))).2) (scaleFrac n d (-f.spacing (n / d))).2 st := by
  simp only [Fmt.spacing, ← log2Frac_eq hn hd]
  rfl

theorem roundUp_mul {k : Nat} (hk : 0 < k) (md : RMode) (neg : Bool) (q r b : Nat) (st : Bool) :
    roundUp md neg q (k * r) (k * b) st = roundUp md neg q r b st := by
  have rest : k * r ≠ 0 ↔ r ≠ 0 := by simp [hk.ne']
  have above : 2 * (k * r) > k * b ↔ 2 * r > b := by rw [Nat.mul_left_comm]; exact Nat.mul_lt_mul_left hk
  have tie : 2 * (k * r) = k * b ↔ 2 * r = b := by rw [Nat.mul_left_comm]; exact Nat.mul_right_inj hk.ne'
  simp only [roundUp, rest, above, tie]

theorem Fmt.roundCut_mul {k : Nat} (hk : 0 < k) (f : Fmt) (md : RMode) (neg : Bool) (qe : Int) (a b : Nat) (st : Bool) :
    f.roundCut md neg qe (k * a / (k * b)) (k * a % (k * b)) (k * b) st = f.roundCut md neg qe (a / b) (a % b) b st := by
  have rest : k * (a % b) ≠ 0 ↔ a % b ≠ 0 := by simp [hk.ne']
  simp only [Fmt.roundCut, Nat.mul_div_mul_left _ _ hk, Nat.mul_mod_mul_left, roundUp_mul hk, rest]

/-- A rounding depends on the value of its fraction alone. -/
theorem Fmt.round_congr {f : Fmt} {md : RMode} {neg st : Bool} {n d n' d' : Nat} (hn : 0 < n) (hd : 0 < d) (hn' : 0 < n') (hd' : 0 < d')
    (h : (n / d : ℚ) = n' / d') : f.round md neg n d st = f.round md neg n' d' st := by
  rw [Fmt.round_eq hn hd, Fmt.round_eq hn' hd', h]
  obtain ⟨-, hb⟩ := scaleFrac_pos hn hd (-f.spacing (n' / d'))
  obtain ⟨-, hb'⟩ := scaleFrac_pos hn' hd' (-f.spacing (n' / d'))
  have same := (scaleFrac_rat n d (-f.spacing (n' / d'))).trans ((congrArg (· * _) h).trans (scaleFrac_rat n' d' (-f.spacing (n' / d'))).symm)
  generalize scaleFrac n d _ = p at hb same ⊢
  generalize scaleFrac n' d' _ = p' at hb' same ⊢
  rw [div_eq_div_iff (by exact_mod_cast hb.ne') (by exact_mod_cast hb'.ne')] at same
  have cross : p'.2 * p.1 = p.2 * p'.1 := by
    rw [mul_comm, mul_comm p.2]
    exact_mod_cast same
  rw [← Fmt.roundCut_mul hb', cross, mul_comm p'.2 p.2, Fmt.roundCut_mul hb]

/-! ### The exact results of R117 -/

theorem natAbs_div_den (v : ℚ) : (v.num.natAbs / v.den : ℚ) = |v| := by
  rw [Nat.cast_natAbs, Int.cast_abs]
  conv_rhs => rw [← Rat.num_div_den v, abs_div, Nat.abs_cast]

theorem Fmt.round_eq_roundRat {f : Fmt} {md : RMode} {neg : Bool} {n d : Nat} (hn : 0 < n) (hd : 0 < d) :
    f.round md neg n d false = f.roundRat md ((if neg then -1 else 1) * (n / d)) := by
  have hx : (0 : ℚ) < n / d := div_pos (by exact_mod_cast hn) (by exact_mod_cast hd)
  generalize hv : (if neg then -1 else 1) * (n / d : ℚ) = v
  have sign : decide (v < 0) = neg := by
    cases neg
    · simpa [← hv] using hx.le
    · simpa [← hv] using hx
  have abs : |v| = n / d := by cases neg <;> simp [← hv, hx.le]
  have hv0 : v ≠ 0 := by
    rw [← abs_pos, abs]
    exact hx
  unfold Fmt.roundRat
  rw [sign]
  refine Fmt.round_congr hn hd (Int.natAbs_pos.2 (Rat.num_ne_zero.2 hv0)) v.den_pos ?_
  rw [← abs, natAbs_div_den]

theorem Fmt.roundDy_eq {f : Fmt} {md : RMode} {neg : Bool} {m : Nat} {e : Int} (hm : 0 < m) :
    f.roundDy md neg m e = f.roundRat md (FVal.fin neg m e).rat := by
  obtain ⟨hn, hd⟩ := scaleFrac_pos hm Nat.one_pos e
  refine (Fmt.round_eq_roundRat hn hd).trans ?_
  rw [scaleFrac_rat, Nat.cast_one, div_one, ← mul_assoc]
  rfl

theorem Fmt.roundInt_eq {f : Fmt} {md : RMode} {i e : Int} (hi : i ≠ 0) : f.roundInt md i e = f.roundRat md (i * 2 ^ e) := by
  rw [Fmt.roundInt, if_neg hi, Fmt.roundDy_eq (Int.natAbs_pos.2 hi), FVal.rat]
  congr 2
  rw [Nat.cast_natAbs, Int.cast_abs]
  rcases lt_or_gt_of_ne hi with h | h
  · have : (i : ℚ) < 0 := by exact_mod_cast h
    simp [h, abs_of_neg this]
  · have : (0 : ℚ) < i := by exact_mod_cast h
    simp [not_lt.2 h.le, abs_of_pos this]

theorem FVal.scaled_rat {v : FVal} {e : Int} (h : e ≤ v.exp) : (v.scaled e : ℚ) * 2 ^ e = v.rat := by
  cases v with
  | fin neg m g =>
    have split : (2 : ℚ) ^ g = 2 ^ (g - e).toNat * 2 ^ e := by
      have h : e ≤ g := h
      rw [← zpow_natCast, Int.toNat_of_nonneg (by omega), ← zpow_add₀ (by norm_num), sub_add_cancel]
    simp only [FVal.scaled, FVal.rat, split]
    cases neg <;> push_cast <;> ring
  | _ => simp [FVal.scaled, FVal.rat]

theorem Fmt.addV_eq {f : Fmt} {md : RMode} {u v : FVal} (hu : u.isFin = true) (hv : v.isFin = true) (h : u.rat + v.rat ≠ 0) :
    f.addV md u v = f.roundRat md (u.rat + v.rat) := by
  -- the sum as one integer times a power of two
  have sum {i e : Int} (hi : (i * 2 ^ e : ℚ) = u.rat + v.rat) : f.roundInt md i e = f.roundRat md (u.rat + v.rat) := by
    rw [Fmt.roundInt_eq, hi]
    rintro rfl
    simp [← hi] at h
  cases u with
  | nan q => cases hu
  | inf a => cases hu
  | zero a =>
    cases v with
    | nan q => cases hv
    | inf b => cases hv
    | zero b => simp [FVal.rat] at h
    | fin b n g => exact sum ((FVal.scaled_rat le_rfl).trans (zero_add _).symm)
  | fin a m e =>
    cases v with
    | nan q => cases hv
    | inf b => cases hv
    | zero b => exact sum ((FVal.scaled_rat le_rfl).trans (add_zero _).symm)
    | fin b n g =>
      refine sum ?_
      rw [Int.cast_add, add_mul, FVal.scaled_rat (min_le_left _ _), FVal.scaled_rat (min_le_right _ _)]

theorem FVal.isFin_iff {v : FVal} : v.isFin = true ↔ v.isNan = false ∧ v.isInf = false := by
  simp [FVal.isFin]
theorem FVal.isSnan_of_isFin {v : FVal} (h : v.isFin = true) : v.isSnan = false := by
  cases v with
  | nan q => cases h
  | _ => rfl
theorem FVal.badMul_of_isFin {u v : FVal} (hu : u.isFin = true) (hv : v.isFin = true) : u.badMul v = false := by
  simp [FVal.badMul, (FVal.isFin_iff.1 hu).2, (FVal.isFin_iff.1 hv).2]

theorem FVal.neg_isFin (v : FVal) : v.neg.isFin = v.isFin := by cases v <;> rfl
theorem FVal.neg_rat (v : FVal) : v.neg.rat = -v.rat := by
  cases v with
  | fin neg m e => cases neg <;> simp [FVal.neg, FVal.rat]
  | _ => simp [FVal.neg, FVal.rat]

/-- The product of two finite values is exact. -/
theorem FVal.mulV_exact {u v : FVal} (hu : u.isFin = true) (hv : v.isFin = true) :
    (u.mulV v).isFin = true ∧ (u.mulV v).rat = u.rat * v.rat := by
  cases u with
  | nan q => cases hu
  | inf a => cases hu
  | zero a =>
    cases v with
    | nan q => cases hv
    | inf b => cases hv
    | _ => simp [FVal.mulV, FVal.isFin, FVal.isNan, FVal.isInf, FVal.rat]
  | fin a m e =>
    cases v with
    | nan q => cases hv
    | inf b => cases hv
    | zero b => simp [FVal.mulV, FVal.isFin, FVal.isNan, FVal.isInf, FVal.rat]
    | fin b n g =>
      refine ⟨rfl, ?_⟩
      simp only [FVal.mulV, FVal.rat, FVal.sign, zpow_add₀ (two_ne_zero (α := ℚ)), Nat.cast_mul]
      cases a <;> cases b <;> simp <;> ring

/-- A value that is not zero as a rational is finite, with a magnitude. -/
theorem FVal.fin_of_rat {v : FVal} (h : v.rat ≠ 0) : ∃ neg m e, 0 < m ∧ v = .fin neg m e := by
  cases v with
  | fin neg m e =>
    refine ⟨neg, m, e, Nat.pos_of_ne_zero ?_, rfl⟩
    rintro rfl
    simp [FVal.rat] at h
  | _ => exact absurd rfl h

theorem Fmt.ofVal_eq {f : Fmt} {md : RMode} {v : FVal} (h : v.rat ≠ 0) : f.ofVal md v = f.roundRat md v.rat := by
  obtain ⟨neg, m, e, hm, rfl⟩ := FVal.fin_of_rat h
  exact Fmt.roundDy_eq hm

theorem Fmt.div_eq {f : Fmt} {md : RMode} {x y : Nat} (hu : (f.val x).rat ≠ 0) (hv : (f.val y).rat ≠ 0) :
    f.div md x y = f.roundRat md ((f.val x).rat / (f.val y).rat) := by
  obtain ⟨a, m, e, hm, hx⟩ := FVal.fin_of_rat hu
  obtain ⟨b, n, g, hn, hy⟩ := FVal.fin_of_rat hv
  obtain ⟨hp, hq⟩ := scaleFrac_pos hm hn (e - g)
  have quotient : ((if a != b then -1 else 1) * (m / n * 2 ^ (e - g)) : ℚ) = (FVal.fin a m e).rat / (FVal.fin b n g).rat := by
    simp only [FVal.rat, zpow_sub₀ (two_ne_zero (α := ℚ))]
    cases a <;> cases b <;> simp <;> field_simp
  rw [hx, hy, ← quotient, ← scaleFrac_rat, ← Fmt.round_eq_roundRat hp hq]
  simp only [Fmt.div, hx, hy]
  rfl

theorem exactThenRounded : Claim.ExactThenRounded := by
  intro k md x y z f hx hy hz u v w
  have nx := (FVal.isFin_iff.1 hx).1
  have ny := (FVal.isFin_iff.1 hy).1
  have nz := (FVal.isFin_iff.1 hz).1
  obtain ⟨hfin, hprod⟩ := FVal.mulV_exact hx hy
  refine ⟨fun h => ?_, fun h => ?_, fun h => ?_, fun hu hv => Fmt.div_eq hu hv, fun h => ?_⟩
  · rw [Fmt.add, if_neg (by simp [nx, ny])]
    exact Fmt.addV_eq hx hy h
  · have sub : u - v = u + (f.val y).neg.rat := by rw [FVal.neg_rat, sub_eq_add_neg]
    rw [Fmt.sub, if_neg (by simp [nx, ny]), sub]
    exact Fmt.addV_eq hx ((FVal.neg_isFin _).trans hy) (sub ▸ h)
  · rw [Fmt.mul, if_neg (by simp [nx, ny]), if_neg (by simp [FVal.badMul_of_isFin hx hy]), Fmt.ofVal_eq (hprod ▸ h), hprod]
  · rw [Fmt.fma, Fmt.fmaV, if_neg (by simp [FVal.isSnan_of_isFin hx, FVal.isSnan_of_isFin hy, FVal.isSnan_of_isFin hz]),
      if_neg (by simp [FVal.badMul_of_isFin hx hy]), if_neg (by simp [nx, ny, nz]), Fmt.addV_eq hfin hz (hprod ▸ h), hprod]

/-! ### The values of a format (R55, R59) -/

/-- A finite value of a format has at most mb + 1 bits and no finer spacing than the subnormals. -/
theorem Fmt.val_bits {f : Fmt} {c : Nat} (h : (f.val c).isFin = true) :
    ∃ (M : Nat) (E : Int), M < 2 ^ (f.mb + 1) ∧ f.qmin ≤ E ∧ |(f.val c).rat| = M * 2 ^ E := by
  have mag (neg : Bool) (m : Nat) (e : Int) : |(FVal.fin neg m e).rat| = m * 2 ^ e := by
    cases neg <;> simp [FVal.rat, abs_mul]
  have low : c % 2 ^ (f.eb + f.mb) % 2 ^ f.mb < 2 ^ f.mb := Nat.mod_lt _ (by positivity)
  generalize hv : f.val c = v at h ⊢
  unfold Fmt.val at hv
  dsimp only at hv
  split at hv
  · split at hv <;> subst hv <;> cases h
  · split at hv
    · subst hv; cases h
    · split at hv
      · subst hv
        exact ⟨0, f.qmin, by positivity, le_rfl, by simp [FVal.rat]⟩
      · split at hv <;> subst hv
        · exact ⟨_, _, by omega, le_rfl, mag _ _ _⟩
        · next he =>
          have normal : (1 : ℤ) ≤ (c % 2 ^ (f.eb + f.mb) / 2 ^ f.mb : ℕ) := by exact_mod_cast Nat.pos_of_ne_zero he
          exact ⟨_, _, by omega, by linarith, mag _ _ _⟩

/-- The magnitude of a code. -/
def Fmt.mag (f : Fmt) (code : Nat) : ℚ :=
  if code / 2 ^ f.mb = 0 then code * 2 ^ f.qmin else (2 ^ f.mb + code % 2 ^ f.mb : Nat) * 2 ^ (f.qmin + ((code / 2 ^ f.mb : Nat) - 1))

/-- The codes of finite magnitudes leave the sign free, and the largest exponent to infinities and NaNs (R55). -/
theorem Fmt.code_finite {f : Fmt} (he : 0 < f.eb) {code : Nat} (hc : code ≤ f.maxCode) :
    code < 2 ^ (f.eb + f.mb) ∧ (f.ieee = true → code / 2 ^ f.mb < 2 ^ f.eb - 1) := by
  have two : 2 ≤ 2 ^ f.eb := Nat.le_self_pow he.ne' 2
  have top : 0 < (2 ^ f.eb - 1) * 2 ^ f.mb := Nat.mul_pos (by omega) (by positivity)
  have under : (2 ^ f.eb - 1) * 2 ^ f.mb ≤ 2 ^ (f.eb + f.mb) := by
    rw [pow_add]
    exact Nat.mul_le_mul_right _ (Nat.sub_le _ _)
  unfold Fmt.maxCode at hc
  cases hi : f.ieee with
  | true =>
    rw [hi, if_pos rfl] at hc
    exact ⟨by omega, fun _ => Nat.div_lt_of_lt_mul (by rw [mul_comm]; omega)⟩
  | false =>
    rw [hi, if_neg Bool.false_ne_true] at hc
    have : 0 < 2 ^ (f.eb + f.mb) := by positivity
    exact ⟨by omega, fun h => by cases h⟩

/-- The parts of a packed code. -/
theorem Fmt.pack_parts {f : Fmt} {neg : Bool} {code : Nat} (hc : code < 2 ^ (f.eb + f.mb)) :
    f.pack neg code % 2 ^ (f.eb + f.mb) = code ∧
      decide (f.pack neg code / 2 ^ (f.eb + f.mb) % 2 = 1) = (neg && (f.ieee || code ≠ 0)) := by
  have pos : 0 < 2 ^ (f.eb + f.mb) := by positivity
  unfold Fmt.pack
  generalize (neg && (f.ieee || code ≠ 0)) = g
  cases g with
  | true => simp [Nat.mod_eq_of_lt hc, Nat.add_div_left _ pos, Nat.div_eq_of_lt hc]
  | false => simp [Nat.mod_eq_of_lt hc, Nat.div_eq_of_lt hc]

/-- The value of a code as it is packed. -/
theorem Fmt.val_pack {f : Fmt} (he : 0 < f.eb) (neg : Bool) {code : Nat} (hc : code ≤ f.maxCode) :
    (f.val (f.pack neg code)).isFin = true ∧ (f.val (f.pack neg code)).rat = (if neg then -1 else 1) * f.mag code := by
  obtain ⟨hlt, htop⟩ := Fmt.code_finite he hc
  obtain ⟨hcode, hneg⟩ := Fmt.pack_parts (neg := neg) hlt
  have notTop : (f.ieee && decide (code / 2 ^ f.mb = 2 ^ f.eb - 1)) = false := by
    cases hi : f.ieee with
    | true => simpa using (htop hi).ne
    | false => rfl
  by_cases h0 : code = 0
  · subst h0
    have zero : f.val (f.pack neg 0) = .zero (neg && f.ieee) := by
      simp only [Fmt.val, hcode, hneg, notTop]
      cases f.ieee <;> simp
    rw [zero]
    exact ⟨rfl, by simp [FVal.rat, Fmt.mag]⟩
  · have value : f.val (f.pack neg code) = if code / 2 ^ f.mb = 0 then .fin neg (code % 2 ^ f.mb) f.qmin
        else .fin neg (2 ^ f.mb + code % 2 ^ f.mb) (f.qmin + ((code / 2 ^ f.mb : Nat) - 1)) := by
      simp only [Fmt.val, hcode, hneg, notTop]
      simp [h0]
    unfold Fmt.mag
    rw [value]
    split
    · next hs =>
      rw [Nat.mod_eq_of_lt ((Nat.div_eq_zero_iff_lt (by positivity)).1 hs)]
      exact ⟨rfl, by rw [FVal.rat, mul_assoc]⟩
    · exact ⟨rfl, by rw [FVal.rat, mul_assoc]⟩

/-- Codes go on from one exponent to the next: a count of spacings is worth what its code stands for, up to the carry into the
next exponent. -/
theorem Fmt.mag_count (f : Fmt) {k q : Nat} (hlo : k ≠ 0 → 2 ^ f.mb ≤ q) (hhi : q ≤ 2 ^ (f.mb + 1)) :
    f.mag (k * 2 ^ f.mb + q) = q * 2 ^ (f.qmin + k) := by
  have pos : 0 < 2 ^ f.mb := by positivity
  rw [pow_succ] at hhi
  -- a code with exponent field j + 1 and mantissa m
  have normal (j m : Nat) (hm : m < 2 ^ f.mb) : f.mag ((j + 1) * 2 ^ f.mb + m) = (2 ^ f.mb + m : Nat) * 2 ^ (f.qmin + j) := by
    have hdiv : ((j + 1) * 2 ^ f.mb + m) / 2 ^ f.mb = j + 1 := by
      rw [mul_comm, Nat.mul_add_div pos, Nat.div_eq_of_lt hm, add_zero]
    have hmod : ((j + 1) * 2 ^ f.mb + m) % 2 ^ f.mb = m := by
      rw [mul_comm, Nat.mul_add_mod, Nat.mod_eq_of_lt hm]
    rw [Fmt.mag, hdiv, hmod, if_neg (Nat.succ_ne_zero j), Nat.cast_succ, add_sub_cancel_right]
  rcases lt_trichotomy q (2 ^ f.mb) with hq | rfl | hq
  · obtain rfl : k = 0 := by_contra fun h => absurd (hlo h) (by omega)
    rw [zero_mul, zero_add, Fmt.mag, if_pos (Nat.div_eq_of_lt hq), Nat.cast_zero, add_zero]
  · have := normal k 0 pos
    rwa [add_zero, add_zero, Nat.add_mul, one_mul] at this
  · rcases Nat.lt_or_ge q (2 ^ f.mb * 2) with h | h
    · have := normal k (q - 2 ^ f.mb) (by omega)
      rw [Nat.add_mul, one_mul, add_assoc, Nat.add_sub_cancel' hq.le] at this
      exact this
    · obtain rfl : q = 2 ^ f.mb * 2 := by omega
      have := normal (k + 1) 0 pos
      rw [add_zero, add_zero] at this
      rw [show k * 2 ^ f.mb + 2 ^ f.mb * 2 = (k + 1 + 1) * 2 ^ f.mb by ring, this]
      push_cast
      rw [← add_assoc, zpow_add_one₀ two_ne_zero]
      ring

/-! ### One rounding is to a neighbour (R64) -/

/-- The cut of a positive fraction at its spacing: a count of at most mb + 1 bits, full above the subnormals, and a rest. -/
theorem Fmt.round_cut (f : Fmt) {n d : Nat} (hn : 0 < n) (hd : 0 < d) :
    ∃ (qe : Int) (q r b : Nat), f.qmin ≤ qe ∧ q < 2 ^ (f.mb + 1) ∧ (f.qmin < qe → 2 ^ f.mb ≤ q) ∧ r < b ∧
      (n / d : ℚ) = (q + r / b) * 2 ^ qe ∧ ∀ md neg, f.round md neg n d false = f.roundCut md neg qe q r b false := by
  have hx : (0 : ℚ) < n / d := div_pos (by exact_mod_cast hn) (by exact_mod_cast hd)
  have cut := fun md neg => Fmt.round_eq (f := f) (md := md) (neg := neg) (st := false) hn hd
  have spaced : Int.log 2 (n / d : ℚ) - f.mb ≤ f.spacing (n / d) := le_max_left _ _
  have full (h : f.qmin < f.spacing (n / d)) : f.spacing (n / d) = Int.log 2 (n / d : ℚ) - f.mb := by
    unfold Fmt.spacing at h ⊢
    omega
  have least : f.qmin ≤ f.spacing (n / d) := le_max_right _ _
  generalize f.spacing (n / d) = qe at cut spaced full least
  obtain ⟨-, hb⟩ := scaleFrac_pos hn hd (-qe)
  have scaled : ((scaleFrac n d (-qe)).1 / (scaleFrac n d (-qe)).2 : ℚ) * 2 ^ qe = n / d := by
    rw [scaleFrac_rat, mul_assoc, ← zpow_add₀ two_ne_zero, neg_add_cancel, zpow_zero, mul_one]
  generalize (scaleFrac n d (-qe)).1 = a at cut scaled
  generalize (scaleFrac n d (-qe)).2 = b at cut scaled hb
  have hb' : (0 : ℚ) < b := by exact_mod_cast hb
  have unit : (0 : ℚ) < 2 ^ qe := by positivity
  have whole : (a / b : ℚ) = (a / b : ℕ) + (a % b : ℕ) / b := by
    rw [eq_comm, add_div_eq_mul_add_div _ _ hb'.ne', mul_comm]
    congr 1
    exact_mod_cast Nat.div_add_mod a b
  refine ⟨qe, a / b, a % b, b, least, ?_, fun h => ?_, Nat.mod_lt _ hb, by rw [← scaled, whole], cut⟩
  · -- less than the leading bit's double
    have : (a / b : ℚ) * 2 ^ qe < 2 ^ (f.mb + 1) * 2 ^ qe := by
      rw [scaled]
      calc (n / d : ℚ) < 2 ^ (Int.log 2 (n / d : ℚ) + 1) := Int.lt_zpow_succ_log_self (b := 2) (by norm_num) _
        _ ≤ 2 ^ (((f.mb + 1 : ℕ) : ℤ) + qe) := zpow_le_zpow_right₀ (by norm_num) (by push_cast; omega)
        _ = 2 ^ (f.mb + 1) * 2 ^ qe := by rw [zpow_add₀ two_ne_zero, zpow_natCast]
    have : (a : ℚ) < 2 ^ (f.mb + 1) * b := (div_lt_iff₀ hb').1 (lt_of_mul_lt_mul_right this unit.le)
    exact Nat.div_lt_of_lt_mul (by rw [mul_comm]; exact_mod_cast this)
  · -- the leading bit is at least the top one of the count
    have : (2 : ℚ) ^ f.mb * 2 ^ qe ≤ a / b * 2 ^ qe := by
      rw [scaled, ← zpow_natCast, ← zpow_add₀ two_ne_zero, full h, add_sub_cancel]
      exact Int.zpow_log_le_self (b := 2) (by norm_num) hx
    have : (2 : ℚ) ^ f.mb * b ≤ a := (le_div_iff₀ hb').1 (le_of_mul_le_mul_right this unit)
    exact (Nat.le_div_iff_mul_le hb).2 (by exact_mod_cast this)

/-- No finite value of a format has a magnitude between two successive counts of the spacing. -/
theorem Fmt.val_outside {f : Fmt} {qe : Int} {q c : Nat} (hq : f.qmin < qe → 2 ^ f.mb ≤ q) (hc : (f.val c).isFin = true) :
    |(f.val c).rat| ≤ q * 2 ^ qe ∨ (q + 1) * 2 ^ qe ≤ |(f.val c).rat| := by
  obtain ⟨M, E, hM, hE, hrat⟩ := Fmt.val_bits hc
  rw [hrat]
  rcases le_or_gt qe E with h | h
  · -- a whole number of spacings
    have split : (2 : ℚ) ^ E = 2 ^ (E - qe).toNat * 2 ^ qe := by
      rw [← zpow_natCast, Int.toNat_of_nonneg (by omega), ← zpow_add₀ two_ne_zero, sub_add_cancel]
    rw [split, ← mul_assoc]
    rcases Nat.lt_or_ge q (M * 2 ^ (E - qe).toNat) with hlt | hge
    · right
      gcongr
      exact_mod_cast hlt
    · left
      gcongr
      exact_mod_cast hge
  · -- of a lower exponent
    left
    calc (M : ℚ) * 2 ^ E ≤ 2 ^ (f.mb + 1) * 2 ^ (qe - 1) := by
          gcongr
          · exact_mod_cast hM.le
          · norm_num
          · omega
      _ = 2 ^ f.mb * 2 ^ qe := by rw [pow_succ, zpow_sub_one₀ two_ne_zero]; ring
      _ ≤ q * 2 ^ qe := by
          gcongr
          exact_mod_cast hq (by omega)

/-- Where it does not overflow, a rounding answers the code of its count. -/
theorem Fmt.roundCut_value {f : Fmt} (he : 0 < f.eb) {md : RMode} {neg : Bool} {qe : Int} {q r b : Nat} (hmin : f.qmin ≤ qe)
    (hhi : q < 2 ^ (f.mb + 1)) (hlo : f.qmin < qe → 2 ^ f.mb ≤ q) (hof : (f.roundCut md neg qe q r b false).2 &&& flOF = 0) :
    (f.val (f.roundCut md neg qe q r b false).1).isFin = true ∧ (f.val (f.roundCut md neg qe q r b false).1).rat =
      (if neg then -1 else 1) * ((q + (roundUp md neg q r b false).toNat) * 2 ^ qe) := by
  have worth : f.mag ((qe - f.qmin).toNat * 2 ^ f.mb + (q + (roundUp md neg q r b false).toNat)) =
      (q + (roundUp md neg q r b false).toNat : Nat) * 2 ^ qe := by
    have up := Bool.toNat_le (roundUp md neg q r b false)
    rw [f.mag_count (fun h => (hlo (by omega)).trans (Nat.le_add_right _ _)) (by omega), Int.toNat_of_nonneg (by omega), add_sub_cancel]
  have count : (if roundUp md neg q r b false then q + 1 else q) = q + (roundUp md neg q r b false).toNat := by
    cases roundUp md neg q r b false <;> rfl
  unfold Fmt.roundCut at hof ⊢
  simp only [count] at hof ⊢
  rw [← Nat.cast_add]
  by_cases h0 : q + (roundUp md neg q r b false).toNat = 0
  · obtain ⟨hfin, hrat⟩ := Fmt.val_pack he neg (Nat.zero_le f.maxCode)
    rw [if_pos h0, h0]
    exact ⟨hfin, by rw [hrat, Fmt.mag]; simp⟩
  · by_cases hbig : (qe - f.qmin).toNat * 2 ^ f.mb + (q + (roundUp md neg q r b false).toNat) > f.maxCode
    · rw [if_neg h0, if_pos hbig] at hof
      exact absurd hof (show ¬(flOF + flNX) &&& flOF = 0 by decide)
    · rw [if_neg h0, if_neg hbig, ← worth]
      exact Fmt.val_pack he neg (not_lt.1 hbig)

theorem roundUp_exact {b : Nat} (hb : 0 < b) (md : RMode) (neg : Bool) (q : Nat) : roundUp md neg q 0 b false = false := by
  cases md <;> simp [roundUp, hb.ne]
theorem roundUp_rdn {r : Nat} (hr : r ≠ 0) (neg : Bool) (q b : Nat) : roundUp .rdn neg q r b false = neg := by
  simp [roundUp, hr]
theorem roundUp_rup {r : Nat} (hr : r ≠ 0) (neg : Bool) (q b : Nat) : roundUp .rup neg q r b false = !neg := by
  simp [roundUp, hr]

/-- To nearest goes up from the half on, and stays down up to the half. -/
theorem roundUp_nearest {md : RMode} (h : md = .rne ∨ md = .rna) (neg : Bool) (q r b : Nat) :
    (roundUp md neg q r b false = true → b ≤ 2 * r) ∧ (roundUp md neg q r b false = false → 2 * r ≤ b) := by
  rcases h with rfl | rfl <;> simp [roundUp] <;> omega

/-- What a mode names, beside a value c: v rounded is r. -/
def RMode.Names (md : RMode) (v r c : ℚ) : Prop :=
  (md = .rdn → r ≤ v ∧ (c ≤ v → c ≤ r)) ∧ (md = .rup → v ≤ r ∧ (v ≤ c → r ≤ c)) ∧
  (md = .rtz → |r| ≤ |v| ∧ (|c| ≤ |v| → |c| ≤ |r|)) ∧ (md = .rne ∨ md = .rna → |r - v| ≤ |c - v|)

theorem RMode.names_exact (md : RMode) (v c : ℚ) : md.Names v v c :=
  ⟨fun _ => ⟨le_rfl, id⟩, fun _ => ⟨le_rfl, id⟩, fun _ => ⟨le_rfl, id⟩, fun _ => by simp⟩

theorem outside_of_abs {lo hi c : ℚ} (h : -hi ≤ lo) (hc : |c| ≤ lo ∨ hi ≤ |c|) : c ≤ lo ∨ hi ≤ c := by
  rcases hc with hc | hc
  · exact .inl ((le_abs_self c).trans hc)
  · rcases le_abs.1 hc with hc | hc
    · exact .inr hc
    · exact .inl (by linarith)

/-- What is not between two neighbours lies no closer than the nearer of them. -/
theorem min_le_dist {lo x hi c : ℚ} (hc : c ≤ lo ∨ hi ≤ c) : min (x - lo) (hi - x) ≤ |c - x| := by
  rcases hc with h | h
  · exact (min_le_left _ _).trans (le_abs.2 (.inr (by linarith)))
  · exact (min_le_right _ _).trans (le_abs.2 (.inl (by linarith)))

/-- Of two neighbours with a magnitude strictly between them, the mode names the one that it chooses. -/
theorem RMode.names_neighbour {md : RMode} {neg up : Bool} {lo x hi c : ℚ} (h0 : 0 ≤ lo) (hlo : lo < x) (hhi : x < hi)
    (hc : |c| ≤ lo ∨ hi ≤ |c|) (hrdn : md = .rdn → up = neg) (hrup : md = .rup → up = !neg) (hrtz : md = .rtz → up = false)
    (hnear : md = .rne ∨ md = .rna → (up = true → hi - x ≤ x - lo) ∧ (up = false → x - lo ≤ hi - x)) :
    md.Names ((if neg then -1 else 1) * x) ((if neg then -1 else 1) * if up then hi else lo) c := by
  have right : c ≤ lo ∨ hi ≤ c := outside_of_abs (by linarith) hc
  have left : -c ≤ lo ∨ hi ≤ -c := outside_of_abs (by linarith) (by rwa [abs_neg])
  have sign (y : ℚ) : |(if neg then -1 else 1) * y| = |y| := by cases neg <;> simp
  refine ⟨fun h => ?_, fun h => ?_, fun h => ?_, fun h => ?_⟩
  · rw [hrdn h]
    cases neg
    · simp only [Bool.false_eq_true, if_false, one_mul]
      exact ⟨hlo.le, fun hcx => by rcases right with h | h <;> linarith⟩
    · simp only [if_true, neg_one_mul]
      exact ⟨by linarith, fun hcx => by rcases left with h | h <;> linarith⟩
  · rw [hrup h]
    cases neg
    · simp only [Bool.not_false, Bool.false_eq_true, if_true, if_false, one_mul]
      exact ⟨hhi.le, fun hcx => by rcases right with h | h <;> linarith⟩
    · simp only [Bool.not_true, Bool.false_eq_true, if_true, if_false, neg_one_mul]
      exact ⟨by linarith, fun hcx => by rcases left with h | h <;> linarith⟩
  · rw [hrtz h, sign, sign, if_neg Bool.false_ne_true, abs_of_nonneg h0, abs_of_nonneg (h0.trans hlo.le)]
    exact ⟨hlo.le, fun hcx => by rcases hc with h | h <;> linarith⟩
  · obtain ⟨hup, hdown⟩ := hnear h
    have near : |(if up then hi else lo) - x| ≤ min (x - lo) (hi - x) := by
      cases up
      · rw [if_neg Bool.false_ne_true, abs_of_nonpos (by linarith)]
        exact le_min (by linarith) (by linarith [hdown rfl])
      · rw [if_pos rfl, abs_of_nonneg (by linarith)]
        exact le_min (by linarith [hup rfl]) (by linarith)
    rw [← mul_sub, sign]
    cases neg
    · simpa using near.trans (min_le_dist right)
    · have far := near.trans (min_le_dist left)
      rw [← abs_neg (-c - x)] at far
      simpa [add_comm] using far

/-- What a cut magnitude is rounded to is what the mode names. -/
theorem RMode.names_cut {md : RMode} {neg : Bool} {q r b : Nat} {u c : ℚ} (hu : 0 < u) (hr : r < b)
    (hc : |c| ≤ q * u ∨ (q + 1) * u ≤ |c|) :
    md.Names ((if neg then -1 else 1) * ((q + r / b) * u)) ((if neg then -1 else 1) * ((q + (roundUp md neg q r b false).toNat) * u)) c := by
  have hb : (0 : ℚ) < b := by exact_mod_cast (Nat.zero_le r).trans_lt hr
  rcases Nat.eq_zero_or_pos r with rfl | hpos
  · rw [roundUp_exact (by exact_mod_cast hb), Bool.toNat_false, Nat.cast_zero, zero_div]
    exact RMode.names_exact md _ c
  · have rest : (0 : ℚ) < r / b ∧ (r / b : ℚ) < 1 :=
      ⟨div_pos (by exact_mod_cast hpos) hb, (div_lt_one hb).2 (by exact_mod_cast hr)⟩
    have result : ((q + (roundUp md neg q r b false).toNat) * u : ℚ) = if roundUp md neg q r b false then (q + 1) * u else q * u := by
      cases roundUp md neg q r b false <;> simp
    rw [result]
    refine RMode.names_neighbour (by positivity) (by nlinarith) (by nlinarith) hc (fun h => ?_) (fun h => ?_) (fun h => ?_) fun h => ?_
    · rw [h, roundUp_rdn hpos.ne']
    · rw [h, roundUp_rup hpos.ne']
    · rw [h]; rfl
    · obtain ⟨hup, hdown⟩ := roundUp_nearest h neg q r b
      refine ⟨fun h => ?_, fun h => ?_⟩
      · have : (1 : ℚ) ≤ 2 * (r / b) := by
          rw [← mul_div_assoc, one_le_div hb]
          exact_mod_cast hup h
        nlinarith
      · have : 2 * (r / b) ≤ (1 : ℚ) := by
          rw [← mul_div_assoc, div_le_one hb]
          exact_mod_cast hdown h
        nlinarith

/-- A rational by its sign and the fraction of its magnitude. -/
theorem rat_sign_natAbs (v : ℚ) : v = (if decide (v < 0) then -1 else 1) * (v.num.natAbs / v.den) := by
  rw [natAbs_div_den]
  rcases lt_or_ge v 0 with h | h
  · simp [h, abs_of_neg h]
  · simp [not_lt.2 h, abs_of_nonneg h]

theorem allFmts_eb : ∀ f ∈ allFmts, 0 < f.eb := by decide

theorem roundingModes : Claim.RoundingModes := by
  intro f hf md v hv hof r
  obtain ⟨qe, q, rest, b, hmin, hhi, hlo, hrest, hcut, hround⟩ := f.round_cut (Int.natAbs_pos.2 (Rat.num_ne_zero.2 hv)) v.den_pos
  have answer : f.roundRat md v = f.roundCut md (v < 0) qe q rest b false := hround md _
  rw [answer] at hof
  obtain ⟨hfin, hrat⟩ := Fmt.roundCut_value (allFmts_eb f hf) hmin hhi hlo hof
  refine ⟨answer ▸ hfin, fun c hc => ?_⟩
  have names := RMode.names_cut (md := md) (neg := decide (v < 0)) (by positivity : (0 : ℚ) < 2 ^ qe) hrest (Fmt.val_outside hlo hc)
  rw [← hcut, ← rat_sign_natAbs, ← hrat, ← answer] at names
  exact names

/-- Settles O13: no value of the format lies between a rounding's neighbours, and a rounding depends on the exact result alone. -/
theorem floatRounding : Obligations.FloatRounding := ⟨roundingModes, exactThenRounded⟩

end Sys2Proof.Machine
end

section
/-!
PROOF. Elements of words and decisions (R87, R170 to R173, R227): how a first word leaves, and values made of words. The results of
rounds (R92, R94, R144, R174, R175): what is put by until the marker, and what leaves at it.
-/
namespace Sys2Proof.Machine

/-! ### What a firing leaves as it was -/

theorem Fx.gateOut_e {x y : Fx} {o : Nat} (h : x.gateOut o = some y) : y.e = { x.e with iq := y.e.iq, oq := y.e.oq } := by
  unfold Fx.gateOut at h
  split at h
  · cases h; rfl
  · split at h
    · cases h; rfl
    · obtain ⟨z, hz, rfl⟩ := Option.map_eq_some_iff.1 h
      dsimp only
      rw [(Fx.actorFire_keeps hz).2]

theorem Fx.takeBeat_outq {x y : Fx} {i : Nat} (h : x.takeBeat i = some (.inr y)) : y.e.outq = x.e.outq := by
  obtain ⟨z, g, l, hz, hy⟩ := Fx.takeBeat_some h
  have : z.e.outq = x.e.outq := by rw [(Fx.gateIn_keeps hz).2]
  rcases hy with rfl | rfl <;> exact this

theorem Fx.takeEach_keeps {x y : Fx} {ins : List Nat} (h : x.takeEach ins = some (.inr y)) : y.sl = x.sl ∧ y.e.outq = x.e.outq := by
  induction ins generalizing x with
  | nil => cases h; exact ⟨rfl, rfl⟩
  | cons i r ih =>
    unfold Fx.takeEach at h
    split at h
    · next z hz =>
      obtain ⟨hsl, houtq⟩ := ih h
      exact ⟨hsl.trans (Fx.takeBeat_sl hz), houtq.trans (Fx.takeBeat_outq hz)⟩
    · next hno => exact absurd h (hno y)

/-- What is read goes to the operands: nothing of it is formed for the outputs. -/
theorem Fx.readIn_keeps {x y : Fx} {ins : List Nat} (h : x.readIn ins = some (.inr y)) : y.sl = x.sl ∧ y.e.outq = x.e.outq := by
  unfold Fx.readIn at h
  dsimp only at h
  split at h
  · cases h
  · split at h
    · cases h
    · exact Fx.takeEach_keeps h

@[simp] theorem Fx.killIn_e (x : Fx) (i : Nat) (seen : Bool) : (x.killIn i seen).e = x.e := by
  unfold Fx.killIn
  split <;> rfl
@[simp] theorem Fx.finish_outq (x : Fx) (ins : List Nat) : (x.finish ins).e.outq = x.e.outq := by
  unfold Fx.finish
  induction ins generalizing x with
  | nil => rfl
  | cons i r ih =>
    refine (ih _).trans ?_
    dsimp only [Elem.setGot]
    split <;> simp

/-! ### Decisions (R87, R173, R227) -/

theorem wordBeat_isData (w : W32) (vec : Bool) : (wordBeat w).isData vec = true := by
  cases vec <;> rfl

theorem eraseDups_replicate_zero (n : Nat) : (0 :: List.replicate n 0).eraseDups = [0] := by
  rw [List.eraseDups_cons, List.filter_eq_nil_iff.2 (by simp)]
  rfl

/-- Of words formed for output 0, the first leaves with the firing, if the output has room and the actor lets it go. -/
theorem Fx.fired_words {z : Fx} {v : W32} {r : List W32} (h : z.e.outq = (v :: r).map fun w => (0, wordBeat w)) :
    z.fired = if z.room 0 then (z.gateOut 0).map fun u => (u.firstWord v r).done else none := by
  have all_to_0 : z.e.outq.map (·.1) = 0 :: List.replicate r.length 0 := by
    rw [h, List.map_map]
    exact List.map_eq_replicate_iff.2 fun _ _ => rfl
  have outs : (z.e.outq.map (·.1)).eraseDups = [0] := by rw [all_to_0, eraseDups_replicate_zero]
  have first : z.e.outq.find? (·.1 = 0) = some (0, wordBeat v) := by simp [h]
  unfold Fx.fired
  simp only [outs, List.foldl_cons, List.foldl_nil, Option.bind_some, Fx.leaveOn, first, wordBeat_isData, if_true]
  split
  · cases hg : z.gateOut 0 with
    | none => rfl
    | some u =>
      have formed : u.e.outq = (v :: r).map fun w => (0, wordBeat w) := by rw [Fx.gateOut_e hg]; exact h
      simp only [Option.map_some, formed, List.map_cons, List.erase_cons_head]
      rfl
  · rfl

/-- The element with the firing that decides its last lane: what is open at its inputs is killed, and the words are formed (R87). -/
def Fx.decided (y : Fx) (ins : List Nat) (ws : List W32) (st : Nat) : Fx :=
  let z := ((y.finish ins).queue (ws.map fun w => (0, wordBeat w))).withStatus st
  { z with e := { z.e with nval := z.e.nval + 1 } }

theorem Fx.decided_sl (y : Fx) (ins : List Nat) (ws : List W32) (st : Nat) : (y.decided ins ws st).sl = y.sl :=
  y.finish_sl ins
theorem Fx.decided_outq {y : Fx} (h : y.e.outq = []) (ins : List Nat) (ws : List W32) (st : Nat) :
    (y.decided ins ws st).e.outq = ws.map fun w => (0, wordBeat w) := by
  show (y.finish ins).e.outq ++ _ = _
  rw [Fx.finish_outq, h, List.nil_append]

/-- Header and first digit beat of every operand are there (R87). -/
theorem Elem.all_started {e : Elem} {ins : List Nat} (h : ∀ i ∈ ins, 2 ≤ (e.gotAt i).length) : ins.all e.started = true :=
  List.all_eq_true.2 fun i hi => by simpa [Elem.started] using h i hi

section
variable {x y : Fx} {ins : List Nat} {words : Fx → Option (List W32 × Nat)}

theorem Fx.decide_undecided (hr : x.readIn ins = some (.inr y)) (hst : ∀ i ∈ ins, 2 ≤ (y.e.gotAt i).length) (hn : words y = none) :
    x.decide ins words = some y.done := by
  simp only [Fx.decide, hr, Elem.all_started hst, hn, if_true]

theorem Fx.decide_decided {ws : List W32} {st : Nat} (hr : x.readIn ins = some (.inr y))
    (hst : ∀ i ∈ ins, 2 ≤ (y.e.gotAt i).length) (hw : words y = some (ws, st)) :
    x.decide ins words = (y.decided ins ws st).fired := by
  simp only [Fx.decide, hr, Elem.all_started hst, hw, if_true]
  rfl

end

/-! ### Values made of words (R171, R172) -/

/-- The first word at input 0 becomes the word of the element. -/
theorem Fx.takeWord_first {x y : Fx} {b : Beat} (hb : x.head 0 = some b) (hm : b.isMark (x.vec 0) = false)
    (hy : x.gateIn 0 = some y) (hw : x.e.words = []) :
    x.takeWord 0 = some ({ y.drop 0 with e := { y.e with words := [b.word] } } : Fx).done := by
  have none_yet : y.e.words = [] := by rw [(Fx.gateIn_keeps hy).2]; exact hw
  simp only [Fx.takeWord, hb, hm, hy, none_yet, Bool.false_eq_true, if_false, Option.map_some, List.nil_append]

/-- A value begins on output 0, which has not stopped it and has room (R74). -/
theorem Fx.sendValue_first {x y : Fx} {rs : List LaneRes} {round : W32} {after : Fx → Fx} {E : Int} {c : Nat}
    (hst : x.stoppedOn 0 = false) (hroom : x.room 0 = true) (hb : x.e.busy = false) (hy : x.leave [0] = some y)
    (hh : header rs = .ok E c) : x.sendValue [0] rs round after = some (some (y.opened [0] E c rs).done) := by
  have goes : x.goesOn [0] = [0] := by simp [Fx.goesOn, hst]
  have opens := Fx.sendValue_opens (outs := [0]) (round := round) (after := after) hb hh (by simpa [goes] using hroom) (by rwa [goes])
  rwa [goes] at opens

theorem Fx.opened_sl {x y : Fx} (hy : x.leave [0] = some y) (E : Int) (c : Nat) (rs : List LaneRes) :
    (y.opened [0] E c rs).sl = x.sl :=
  (Fx.put_sl y [0] (headerBeat E c)).trans (Fx.leave_sl hy)

theorem Fx.sendWords_first {x y : Fx} {ls : List LaneIn} {E : Int} {c : Nat} (hk : x.killed [0] = false)
    (hst : x.stoppedOn 0 = false) (hroom : x.room 0 = true) (hb : x.e.busy = false) (hy : x.leave [0] = some y)
    (hh : header (ls.map LaneIn.res) = .ok E c) :
    x.sendWords ls = some (y.opened [0] E c (ls.map LaneIn.res)).done := by
  simp only [Fx.sendWords, hk, Bool.false_eq_true, if_false, Fx.sendValue_first hst hroom hb hy hh]

/-- The lanes that `osel` selects with mask m, under the larger of the two header exponents (R171). -/
def Fx.selected (x : Fx) (m : W32) : List LaneRes := (List.range 16).map fun k =>
  match ((if m.getLsbD k then x.operand 1 else x.operand 2))[k]? with
  | some l => laneUnder (max (x.e.expoAt 1) (x.e.expoAt 2)) l
  | none => .wait

section
variable {s : State} {f site : Nat} {x : Fx}

/-- `osel` without a mask takes one, or stalls at one with bits above the lanes (R171). -/
theorem exec_osel_mask {b : Beat} (hx : s.computeAt f site 0x0F = some x) (hw : x.e.words = []) (hb : x.head 0 = some b)
    (hm : b.isMark false = false) : ∃ body, exec (.osel f site) s = stepOf s (x.fire [0] false body) ∧
      body x = if 2 ^ 16 ≤ b.word.toNat then some (x.stallAt ccCfg 0x26 0) else x.takeWord 0 := by
  refine ⟨_, by rw [exec_osel, execOsel, fireOsel, hx, Option.bind_some], ?_⟩
  simp only [hw, hb, hm, Bool.not_false, Bool.true_and, decide_eq_true_eq, ge_iff_le]

/-- `osel` with a mask that selects from both operands sends what they have determined. -/
theorem exec_osel_both {m : W32} {r : Option State} (hx : s.computeAt f site 0x0F = some x) (hw : x.e.words = [m])
    (h0 : 0 < m.toNat) (h1 : m.toNat < 2 ^ 16 - 1) (hc : x.e.cnt = 0) (hk : x.killed [0] = false)
    (hg1 : 2 ≤ (x.e.gotAt 1).length) (hg2 : 2 ≤ (x.e.gotAt 2).length)
    (hr : ∀ after, x.sendValue [0] (x.selected m) (x.e.rinAt 0) after = some r) :
    ∃ body, exec (.osel f site) s = stepOf s (x.fire [0] false body) ∧ body x = r := by
  have neither : (if m.toNat = 2 ^ 16 - 1 then 2 else if m = 0 then 1 else 0) = 0 := by
    rw [if_neg (by omega), if_neg (by rintro rfl; exact absurd h0 (by decide))]
  have started : [1, 2].all x.e.started = true := Elem.all_started (by simp [hg1, hg2])
  refine ⟨_, by rw [exec_osel, execOsel, fireOsel, hx, Option.bind_some], ?_⟩
  simp only [hw, neither, hc, hk, started, Nat.zero_ne_one, ne_eq, not_true_eq_false, decide_false, Bool.false_and,
    Bool.false_eq_true, if_false, if_true, OfNat.zero_ne_ofNat]
  split
  · next q hq => exact Option.some.inj (hq.symm.trans (hr _))
  · next hq => cases hq.symm.trans (hr _)

/-- `oconst` without a word takes one (R172). -/
theorem exec_oconst_empty (hx : s.computeAt f site 0x10 = some x) (hw : x.e.words = []) :
    ∃ body, exec (.oconst f site) s = stepOf s (x.fire [0] false body) ∧ body x = x.takeWord 0 :=
  ⟨_, by rw [exec_oconst, execOconst, fireOconst, hx, Option.bind_some], if_pos (List.isEmpty_iff.2 hw)⟩

/-- `oconst` with a word sends its constant in the lanes of its mask (R172). -/
theorem exec_oconst_word (hx : s.computeAt f site 0x10 = some x) (hw : x.e.words ≠ []) :
    ∃ body, exec (.oconst f site) s = stepOf s (x.fire [0] false body) ∧ body x = x.sendWords (lanesOf ((List.range 16).map fun k =>
      if (x.e.p 64 16).testBit k then fmtD.val (x.e.p 0 64) else .zero false)).2 :=
  ⟨_, by rw [exec_oconst, execOconst, fireOconst, hx, Option.bind_some], if_neg (mt List.isEmpty_iff.1 hw)⟩

/-- `split` without a word takes one (R172). -/
theorem exec_split_empty {b : Beat} (hx : s.computeAt f site 0x11 = some x) (hw : x.e.words = []) (hb : x.head 0 = some b)
    (hm : b.isMark false = false) :
    ∃ body, exec (.split f site) s = stepOf s (x.fire [0] false body) ∧ body x = x.takeWord 0 := by
  refine ⟨_, by rw [exec_split, execSplit, fireSplit, hx, Option.bind_some], ?_⟩
  have short : x.e.words.length < 16 * max 1 (codeWidth x.e.fmt / 32) := by
    simp only [hw, List.length_nil]
    omega
  simp only [short, hb, hm, Bool.false_eq_true, if_true, if_false]

/-- `split` with the words of sixteen elements sends their value (R172). -/
theorem exec_split_words (hx : s.computeAt f site 0x11 = some x) (hw : 16 * max (codeWidth x.e.fmt / 32) 1 ≤ x.e.words.length) :
    ∃ body, exec (.split f site) s = stepOf s (x.fire [0] false body) ∧
      body x = x.sendWords (lanesOf (wordVals x.e.fmt x.e.words)).2 := by
  refine ⟨_, by rw [exec_split, execSplit, fireSplit, hx, Option.bind_some], if_neg ?_⟩
  rw [Nat.max_comm] at hw
  omega

end

theorem wordsAndDecisions : Claim.WordsAndDecisions := by
  intro s f site x hc
  have hq : x.e.outq = [] := by obtain ⟨_, _, _, _, _, hq, _⟩ := hc; exact hq
  have data : ∀ i b, x.head i = some b → b.isData (x.vec i) = true := by obtain ⟨_, _, _, _, _, _, _, hd⟩ := hc; exact hd
  have here {op : Nat} (hx : s.computeAt f site op = some x) : x.s = s := (State.fxAt_some hx).1
  refine ⟨fun w op two res y hop hx hread hst => ?_, fun b y hb hv hy hw => ?_, fun y hk hstop hroom hbusy hy => ?_⟩
  · obtain ⟨body, hexec, hbody⟩ := exec_wordOp hop hx
    obtain ⟨hsl, houtq⟩ := Fx.readIn_keeps hread
    refine ⟨fun hn => ?_, fun v r st hres => ?_⟩
    · exact fires_of_fire (here hx) hc hexec (hbody.trans (Fx.decide_undecided hread hst hn)) hsl
    · have formed := Fx.decided_outq (houtq.trans hq) (x.e.valIns two) (v :: r) st
      have fires := hbody.trans ((Fx.decide_decided hread hst hres).trans (Fx.fired_words formed))
      refine ⟨fun hroom => ?_, fun u hroom hu => ?_⟩
      · exact stays_of_fire (here hx) hc hexec (fires.trans (if_neg (Bool.eq_false_iff.1 hroom)))
      · refine fires_of_fire (here hx) hc hexec (fires.trans ((if_pos hroom).trans (congrArg (Option.map _) hu))) ?_
        exact (Fx.gateOut_sl hu).trans ((Fx.decided_sl y _ (v :: r) st).trans hsl)
  · have notMark : b.isMark (x.vec 0) = false := by
      have := data 0 b hb
      simp only [Beat.isData, Bool.and_eq_true, Bool.not_eq_true'] at this
      exact this.1
    have word := Fx.takeWord_first hb notMark hy hw
    rw [hv] at notMark
    have place : ({ y.drop 0 with e := { y.e with words := [b.word] } } : Fx).sl = x.sl := (y.drop_sl 0).trans (Fx.gateIn_keeps hy).1
    refine ⟨fun hx => ?_, fun hx => ?_, fun hx hlow => ?_, fun hx hhigh => ?_⟩
    · obtain ⟨_, hexec, hbody⟩ := exec_oconst_empty hx hw
      exact fires_of_fire (here hx) hc hexec (hbody.trans word) place
    · obtain ⟨_, hexec, hbody⟩ := exec_split_empty hx hw hb notMark
      exact fires_of_fire (here hx) hc hexec (hbody.trans word) place
    · obtain ⟨_, hexec, hbody⟩ := exec_osel_mask hx hw hb notMark
      exact fires_of_fire (here hx) hc hexec (hbody.trans ((if_neg (Nat.not_le.2 hlow)).trans word)) place
    · obtain ⟨_, hexec, hbody⟩ := exec_osel_mask hx hw hb notMark
      exact stalls_of_fire (here hx) hc hexec (hbody.trans (if_pos hhigh))
  · refine ⟨fun hx hw E c hh => ?_, fun hx hlen E c hh => ?_, fun m hx hw h0 h1 hcnt hg1 hg2 E c hh => ?_⟩
    · obtain ⟨_, hexec, hbody⟩ := exec_oconst_word hx hw
      exact fires_of_fire (here hx) hc hexec (hbody.trans (Fx.sendWords_first hk hstop hroom hbusy hy hh)) (Fx.opened_sl hy E c _)
    · obtain ⟨_, hexec, hbody⟩ := exec_split_words hx hlen
      exact fires_of_fire (here hx) hc hexec (hbody.trans (Fx.sendWords_first hk hstop hroom hbusy hy hh)) (Fx.opened_sl hy E c _)
    · obtain ⟨_, hexec, hbody⟩ := exec_osel_both hx hw h0 h1 hcnt hk hg1 hg2
        fun _ => Fx.sendValue_first (rs := x.selected m) hstop hroom hbusy hy hh
      exact fires_of_fire (here hx) hc hexec hbody (Fx.opened_sl hy E c _)

/-! ### Where an element with a result for each round stands (R143, R144) -/

/-- Nothing is due at such an element but its own operation: it is not stalled, its region goes on, nothing is formed or to be
discarded, and at its inputs there stand neither words of a tile nor control tokens. -/
structure Fx.AtRound (x : Fx) : Prop where
  notSwitch : x.e.sw = false
  stall : x.e.stall = none
  lives : x.sl.dead = false
  posted : x.unposted = false
  kept : ∀ c ∈ x.s.chans, c.discard = 0
  sent : x.e.outq = []
  tile : x.head 3 = none
  swaps : x.e.lastIn = 0
  noCtl : ∀ k b, x.head k = some b → b.isCtl (x.vec k) = false

theorem Fx.AtRound.control {x : Fx} (h : x.AtRound) : x.control = none := by
  have noSwap : (x.e.lastIn ≠ 0 && x.e.isC && x.e.hasSt && x.e.idle 0) = false := by simp [h.swaps]
  unfold Fx.control
  simp only [noSwap, h.notSwitch, Bool.false_eq_true, if_false]
  rw [List.findSome?_eq_none_iff]
  intro i _
  cases hb : x.head i with
  | none => rfl
  | some b => exact if_pos (by simp [h.noCtl i b hb])

/-- Then a firing is the element's own operation, markers included. -/
theorem Fx.AtRound.fire {x : Fx} (h : x.AtRound) (outs : List Nat) (body : Fx → Option State) :
    x.fire outs true body = (body x).map fun t => x.s.markLeft t x.sl.ctx := by
  unfold Fx.fire
  rw [if_neg (by simp [h.stall, h.lives, h.posted, h.notSwitch]), Fx.discard_none h.kept, h.sent, Fx.fillTile_none fun _ => h.tile, h.control]
  simp

/-- The step of such an element, whatever its operation answers. -/
theorem Fx.AtRound.step {s : State} {i : Instr} {x : Fx} {body : Fx → Option State} (h : x.AtRound) (hs : x.s = s)
    (hi : exec i s = stepOf s (x.fire [0] true body)) : exec i s = stepOf s ((body x).map fun t => s.markLeft t x.sl.ctx) := by
  rw [hi, h.fire, hs]

section
variable {s : State} {i : Instr} {x : Fx} {answer : Option State}

theorem fires_of_answer {u : Fx} (h : exec i s = stepOf s (answer.map fun t => s.markLeft t x.sl.ctx)) (ha : answer = some u.done)
    (hu : u.sl = x.sl) : Fires s i u := by
  unfold Fires
  rw [h, ha, hu]
  rfl
theorem stalls_of_answer {u : State} (h : exec i s = stepOf s (answer.map fun t => s.markLeft t x.sl.ctx)) (ha : answer = some u) :
    Stalls s i x u := by
  unfold Stalls
  rw [h, ha]
  rfl
theorem sends_of_answer {z : Fx} (h : exec i s = stepOf s (answer.map fun t => s.markLeft t x.sl.ctx)) (ha : answer = z.fired)
    (hz : z.sl = x.sl) : Sends s i z :=
  sends_of_exec (by rw [h, ha, hz])

end

/-! ### Markers at the one input (R142, R143) -/

@[simp] theorem Fx.pastMarks_sl (x : Fx) (ins outs : List Nat) : (x.pastMarks ins outs).sl = x.sl := by
  show (ins.foldl (fun x i => (x.drop i).keep i) x).sl = x.sl
  induction ins generalizing x with
  | nil => rfl
  | cons i r ih => exact (ih _).trans (by simp)

theorem Fx.badMark_none {x : Fx} (h : (x.head 0).map (·.word) = some (x.e.rinAt 0)) : x.badMark [0] = none := by
  obtain ⟨b, hb, hw⟩ := Option.map_eq_some_iff.1 h
  simp [Fx.badMark, hb, hw]
theorem Fx.badMark_other {x : Fx} {b : Beat} (hb : x.head 0 = some b) (h : b.word ≠ x.e.rinAt 0) : x.badMark [0] = some 0 := by
  simp [Fx.badMark, hb, h]

theorem Fx.stallMark_eq {x : Fx} {b : Beat} (hb : x.head 0 = some b) : x.stallMark 0 = x.stallAt ccRoundTag 0x30 0 b.word := by
  simp [Fx.stallMark, hb]

theorem Fx.ifMarks_agree {x : Fx} {go : Option State} (h : (x.head 0).map (·.word) = some (x.e.rinAt 0)) : x.ifMarks [0] go = go := by
  rw [Fx.ifMarks, Fx.badMark_none h]
/-- A marker with the number of another round stalls the element (R142). -/
theorem Fx.ifMarks_other {x : Fx} {b : Beat} {go : Option State} (hb : x.head 0 = some b) (h : b.word ≠ x.e.rinAt 0) :
    x.ifMarks [0] go = some (x.stallAt ccRoundTag 0x30 0 b.word) := by
  rw [← Fx.stallMark_eq hb, Fx.ifMarks, Fx.badMark_other hb h]
theorem Fx.passMark_agree {x : Fx} (outs : List Nat) (h : (x.head 0).map (·.word) = some (x.e.rinAt 0)) :
    x.passMark [0] outs = (x.pastMarks [0] outs).fired :=
  Fx.ifMarks_agree h

/-! ### One result for each round (R92, R94, R144, R174) -/

/-- A whole value is put by (R144). -/
theorem Fx.gather_whole {x : Fx} (h : x.e.whole 0 = true) :
    x.gather [0] = some ({ x with e := (x.e.setGot 0 [] false).addVal 0 (x.e.gotAt 0) } : Fx).done := by
  simp [Fx.gather, h]

section
variable {x : Fx} {rs : List (List LaneIn) → Option (List LaneRes)} (hin : x.inPorts = [0])
include hin

/-- Until the marker has come, the element gathers the values of the round. -/
theorem Fx.round_gathers (hm : x.marked 0 = false) (hc : x.e.closing = false) (hk : x.killed [0] = false) (hb : x.e.busy = false) :
    x.round rs = x.gather [0] := by
  simp [Fx.round, hin, hm, hc, hk, hb]

theorem Fx.round_badMark {b : Beat} (hm : x.marked 0 = true) (hh : x.head 0 = some b) (hw : b.word ≠ x.e.rinAt 0)
    (hc : x.e.closing = false) (hk : x.killed [0] = false) (hb : x.e.busy = false) :
    x.round rs = some (x.stallAt ccRoundTag 0x30 0 b.word) := by
  simp [Fx.round, hin, hm, hc, hk, hb, Fx.badMark_other hh hw, Fx.stallMark_eq hh]

/-- At the marker, the result of the round begins on output 0. -/
theorem Fx.round_sends {y : Fx} {l : List LaneRes} {E : Int} {c : Nat} (hm : x.marked 0 = true)
    (hh : (x.head 0).map (·.word) = some (x.e.rinAt 0)) (hc : x.e.closing = false) (hk : x.killed [0] = false)
    (hst : x.stoppedOn 0 = false) (hb : x.e.busy = false) (hroom : x.room 0 = true) (hy : x.leave [0] = some y)
    (hl : rs ((x.e.valsAt 0).map lanesIn) = some l) (he : header l = .ok E c) :
    x.round rs = some (y.opened [0] E c l).done := by
  simp [Fx.round, hin, hm, hc, hk, hb, Fx.badMark_none hh, hl, Fx.sendValue_first hst hroom hb hy he]

/-- After the result, the marker passes and nothing of the round is kept. -/
theorem Fx.round_closes (hc : x.e.closing = true) (hh : (x.head 0).map (·.word) = some (x.e.rinAt 0)) :
    x.round rs = (({ x with e := { x.e with closing := false, vals := Vector.replicate 4 [] } } : Fx).pastMarks [0] [0]).fired := by
  unfold Fx.round
  rw [hin]
  exact (if_pos hc).trans (Fx.passMark_agree _ hh)

end

/-- The lanes of a round's result: lane by lane sums (`racc`), one sum (`rsum`) or one extreme (`rmax`) of all lanes (R174). -/
def roundLanes (op : Nat) (x : Fx) (vs : List (List LaneIn)) : Option (List LaneRes) :=
  let least := maxIdent x.e.fmt (x.e.p 0 1 = 1)
  if op = 0x13 then
    if vs.isEmpty then some (List.replicate 16 plusZero)
    else allSome ((List.range 16).map fun k => (sumLanes (vs.filterMap (·[k]?))).map sumRes)
  else if op = 0x14 then
    if vs.isEmpty then some (List.replicate 16 plusZero)
    else (sumLanes vs.flatten).map fun r => sumRes r :: List.replicate 15 plusZero
  else
    if vs.isEmpty then some ((least.lane ((least.expo).getD 0)).res :: List.replicate 15 plusZero)
    else (maxLanes (x.e.p 0 1 = 1) least vs.flatten).map fun r => sumRes r :: List.replicate 15 plusZero

theorem roundLanes_racc (x : Fx) {vs : List (List LaneIn)} (h : vs ≠ []) :
    roundLanes 0x13 x vs = allSome ((List.range 16).map fun k => (sumLanes (vs.filterMap (·[k]?))).map sumRes) :=
  if_neg (mt List.isEmpty_iff.1 h)
theorem roundLanes_rsum (x : Fx) {vs : List (List LaneIn)} (h : vs ≠ []) :
    roundLanes 0x14 x vs = (sumLanes vs.flatten).map fun r => sumRes r :: List.replicate 15 plusZero :=
  if_neg (mt List.isEmpty_iff.1 h)
theorem roundLanes_rmax (x : Fx) {vs : List (List LaneIn)} (h : vs ≠ []) :
    roundLanes 0x15 x vs = (maxLanes (x.e.p 0 1 = 1) (maxIdent x.e.fmt (x.e.p 0 1 = 1)) vs.flatten).map fun r =>
      sumRes r :: List.replicate 15 plusZero :=
  if_neg (mt List.isEmpty_iff.1 h)

/-- An element other than `conf` forms its result from all values of the round (R144, R174). -/
theorem exec_roundOp {s : State} {f site op : Nat} {i : Instr} {x : Fx} (h : IsRoundOp f site i op) (hop : op ≠ 0x17)
    (hx : s.computeAt f site op = some x) :
    (op = 0x13 ∨ op = 0x14 ∨ op = 0x15) ∧
      ∃ body, exec i s = stepOf s (x.fire [0] true body) ∧ body x = x.round (roundLanes op x) := by
  simp only [IsRoundOp, List.mem_cons, Prod.mk.injEq, List.not_mem_nil, or_false] at h
  rcases h with ⟨rfl, rfl⟩ | ⟨rfl, rfl⟩ | ⟨rfl, rfl⟩ | ⟨rfl, rfl⟩
  · exact ⟨.inl rfl, _, by rw [exec_racc, execRacc, fireRacc, hx, Option.bind_some], rfl⟩
  · exact ⟨.inr (.inl rfl), _, by rw [exec_rsum, execRsum, fireRsum, hx, Option.bind_some], rfl⟩
  · exact ⟨.inr (.inr rfl), _, by rw [exec_rmax, execRmax, fireRmax, hx, Option.bind_some], rfl⟩
  · exact absurd rfl hop

/-! ### Rounds without values (R94, R144) -/

/-- Lanes of zeros and infinities have no exponent: the header's is 0 (R74). -/
theorem header_zeros : header (List.replicate 16 plusZero) = .ok 0 (pack2 (List.replicate 16 clZero)) := rfl
theorem header_inf_zeros (d : Int) :
    header (laneInf d :: List.replicate 15 plusZero) = .ok 0 (pack2 (clInf :: List.replicate 15 clZero)) := rfl

theorem inf_zeros_status (d : Int) : (laneInf d :: List.replicate 15 plusZero).foldl (fun a r => a ||| r.status) 0 = 0 := by
  rw [List.foldl_cons, show (laneInf d).status = 0 from rfl]
  rfl

/-- A header raises no more status bits than its lanes do. -/
theorem Fx.opened_quiet (y : Fx) (E : Int) (c : Nat) {rs : List LaneRes} (h : rs.foldl (fun a r => a ||| r.status) 0 = 0) :
    y.opened [0] E c rs = y.opened [0] E c [] := by
  unfold Fx.opened
  rw [h]
  rfl

theorem infinite_lane {v : FVal} (h : v.isInf = true) (E : Int) : ∃ d, (v.lane E).res = laneInf d := by
  cases v with
  | inf n => exact ⟨_, rfl⟩
  | _ => cases h

/-! ### The word of `conf` (R175) -/

/-- The word of `conf`, and the element once it has drawn what no logit decides (R175, log 43). -/
def Fx.confWord (x : Fx) : Nat × Fx :=
  let all := logits (x.e.p 64 16) (x.e.valsAt 0)
  let nan := all.any (·.2.cls = clNan)
  let ls := all.filter (·.2.cls ≠ clNan)
  let drawn : Fx := { x with s := x.s.freeVal.2 }
  match bestLogit ls with
  | none => if nan then (0, x) else (x.s.freeVal.1.toNat % 2 + bits x.s.freeVal.1.toNat 16 16 * 2 ^ 16, drawn)
  | some a =>
    match bestLogit (ls.filter (·.1 ≠ a.1)) with
    | none => if nan then (a.1 * 2 ^ 16, x) else (x.s.freeVal.1.toNat % 2 + a.1 * 2 ^ 16, drawn)
    | some b => ((!nan && marginOk a.2 b.2 (fmtD.val (x.e.p 0 64))).toNat + a.1 * 2 ^ 16, x)

/-- Word w formed, with the status of a NaN among the logits; nothing of the round is kept. -/
def Fx.formWord (x : Fx) (w : Nat) (nan : Bool) : Fx :=
  let z := x.queue [(0, natBeat w)]
  { z with e := { z.e with vals := Vector.replicate 4 [], status := z.e.status ||| BitVec.ofNat 32 (if nan then sbNV else 0) } }
/-- The element with the word of its round formed. -/
def Fx.confFormed (x : Fx) : Fx :=
  x.confWord.2.formWord x.confWord.1 ((logits (x.e.p 64 16) (x.e.valsAt 0)).any (·.2.cls = clNan))

/-- The markers pass at the inputs of the formed element, which are those where its word was queued. -/
theorem Fx.formWord_passes (p : Nat × Fx) (nan : Bool) : (match p with
    | (w, z) => (z.formWord w nan).passMark (z.queue [(0, natBeat w)]).inPorts [0]) =
      (p.2.formWord p.1 nan).passMark (p.2.formWord p.1 nan).inPorts [0] := by
  obtain ⟨w, z⟩ := p
  rfl

/-- `conf` draws at most one value, and only the device keeps count of those. -/
theorem Fx.confWord_draws (x : Fx) : x.confWord.2 = x ∨ x.confWord.2 = { x with s := x.s.freeVal.2 } := by
  unfold Fx.confWord
  dsimp only
  split
  · split
    · exact .inl rfl
    · exact .inr rfl
  · split
    · split
      · exact .inl rfl
      · exact .inr rfl
    · exact .inl rfl

/-- The high half of the word is the number of the largest logit, the low half says whether the margin is reached (R175). -/
theorem Fx.confWord_best (x : Fx) : let all := logits (x.e.p 64 16) (x.e.valsAt 0)
    let ls := all.filter (·.2.cls ≠ clNan)
    ∀ a, bestLogit ls = some a → x.confWord.1 / 2 ^ 16 = a.1 ∧ ∀ b, bestLogit (ls.filter (·.1 ≠ a.1)) = some b →
      x.confWord.1 % 2 ^ 16 = (!all.any (·.2.cls = clNan) && marginOk a.2 b.2 (fmtD.val (x.e.p 0 64))).toNat := by
  intro all ls a ha
  have halves (bit : Nat) (hbit : bit < 2) : (bit + a.1 * 2 ^ 16) / 2 ^ 16 = a.1 ∧ (bit + a.1 * 2 ^ 16) % 2 ^ 16 = bit := by omega
  unfold Fx.confWord
  dsimp only
  split
  · next h => cases ha.symm.trans h
  · next a' h =>
    cases ha.symm.trans h
    split
    · next hb =>
      refine ⟨?_, fun b h => by cases hb.symm.trans h⟩
      split
      · exact Nat.mul_div_cancel _ (by decide)
      · exact (halves _ (Nat.mod_lt _ (by decide))).1
    · next b hb =>
      obtain ⟨high, low⟩ := halves _ (Bool.toNat_lt (!all.any (·.2.cls = clNan) && marginOk a.2 b.2 (fmtD.val (x.e.p 0 64))))
      exact ⟨high, fun b' h => by cases hb.symm.trans h; exact low⟩

/-- A value drawn is of the device: no channel and nothing of the element changes with it. -/
theorem Fx.confFormed_inputs (x : Fx) : x.confFormed.inPorts = x.inPorts ∧ x.confFormed.head 0 = x.head 0 ∧
    x.confFormed.e.rinAt 0 = x.e.rinAt 0 ∧ x.confFormed.sl = x.sl := by
  unfold Fx.confFormed Fx.formWord
  rcases x.confWord_draws with h | h <;> rw [h] <;> exact ⟨rfl, rfl, rfl, rfl⟩

theorem Fx.confFormed_eq {x : Fx} (hq : x.e.outq = []) : x.confFormed = { x.confWord.2 with e := { x.e with
    vals := Vector.replicate 4 [], outq := [(0, natBeat x.confWord.1)]
    status := x.e.status ||| BitVec.ofNat 32 (if (logits (x.e.p 64 16) (x.e.valsAt 0)).any (·.2.cls = clNan) then sbNV else 0) } } := by
  have same : x.confWord.2.e = x.e := by rcases x.confWord_draws with h | h <;> rw [h]
  simp only [Fx.confFormed, Fx.formWord, Fx.queue, same, hq, List.nil_append]

section
variable {s : State} {f site : Nat} {x : Fx}

/-- At the marker `conf` sends its word, and the marker after it. -/
theorem exec_conf_marked (hx : s.computeAt f site 0x17 = some x) (hm : x.marked 0 = true) :
    ∃ body, exec (.conf f site) s = stepOf s (x.fire [0] true body) ∧
      body x = x.ifMarks [0] (x.confFormed.passMark x.confFormed.inPorts [0]) := by
  refine ⟨_, by rw [exec_conf, execConf, fireConf, hx, Option.bind_some], (if_pos hm).trans (congrArg (x.ifMarks [0]) ?_)⟩
  refine Eq.trans ?_ (Fx.formWord_passes x.confWord _)
  rfl

/-- Until then `conf` gathers logits, unless the value has become useless. -/
theorem exec_conf_gathers (hx : s.computeAt f site 0x17 = some x) (hm : x.marked 0 = false) (hu : x.useless (x.e.p 64 16) = false) :
    ∃ body, exec (.conf f site) s = stepOf s (x.fire [0] true body) ∧ body x = x.gather [0] := by
  refine ⟨_, by rw [exec_conf, execConf, fireConf, hx, Option.bind_some], ?_⟩
  simp only [hm, hu, Bool.false_eq_true, if_false]

end

/-! ### The claim -/

theorem State.computeAt_site {s : State} {f site op : Nat} {x : Fx} (h : s.computeAt f site op = some x) : x.e.sw = false := by
  have place := (State.fxAt_some h).2
  simp only [Elem.isC, Bool.and_eq_true, Bool.not_eq_true'] at place
  obtain ⟨⟨⟨notSwitch, _⟩, _⟩, _⟩ := place
  exact notSwitch

theorem IsRoundOp.eq_conf {f site : Nat} {i : Instr} (h : IsRoundOp f site i 0x17) : i = .conf f site := by
  simpa [IsRoundOp] using h

section
variable {s : State} {f site op : Nat} {i : Instr} {x : Fx}

/-- What the round operation of an element other than `conf` answers is its step. -/
theorem Fx.AtRound.step_round (hr : x.AtRound) (h : IsRoundOp f site i op) (hop : op ≠ 0x17) (hx : s.computeAt f site op = some x) :
    exec i s = stepOf s ((x.round (roundLanes op x)).map fun t => s.markLeft t x.sl.ctx) := by
  obtain ⟨_, body, hexec, hbody⟩ := exec_roundOp h hop hx
  rw [← hbody]
  exact hr.step (State.fxAt_some hx).1 hexec

theorem Fx.AtRound.conf_sends (hr : x.AtRound) (hx : s.computeAt f site 0x17 = some x) (hin : x.inPorts = [0])
    (hm : x.marked 0 = true) (hh : (x.head 0).map (·.word) = some (x.e.rinAt 0)) :
    Sends s (.conf f site) (x.confFormed.pastMarks [0] [0]) := by
  obtain ⟨body, hexec, hbody⟩ := exec_conf_marked hx hm
  obtain ⟨hin', hhead, hrin, hsl⟩ := x.confFormed_inputs
  refine sends_of_answer (hr.step (State.fxAt_some hx).1 hexec) ?_ ((Fx.pastMarks_sl _ _ _).trans hsl)
  rw [hbody, Fx.ifMarks_agree hh, hin', hin, Fx.passMark_agree _ (by rw [hhead, hrin]; exact hh)]

theorem Fx.AtRound.conf_badMark {b : Beat} (hr : x.AtRound) (hx : s.computeAt f site 0x17 = some x) (hm : x.marked 0 = true)
    (hb : x.head 0 = some b) (hw : b.word ≠ x.e.rinAt 0) :
    Stalls s (.conf f site) x (x.stallAt ccRoundTag 0x30 0 b.word) := by
  obtain ⟨body, hexec, hbody⟩ := exec_conf_marked hx hm
  refine stalls_of_answer (hr.step (State.fxAt_some hx).1 hexec) ?_
  rw [hbody, Fx.ifMarks_other hb hw]

end

theorem roundResults : Claim.RoundResults := by
  intro s f site x i op hop hx _ hstall hdead hpost hdisc hq htile hswaps hctl hin
  have hr : x.AtRound := ⟨State.computeAt_site hx, hstall, hdead, hpost, hdisc, hq, htile, hswaps, hctl⟩
  have round (h : op ≠ 0x17) := hr.step_round hop h hx
  refine ⟨fun hm hc hk hb hw h => ?_, fun hm hu hw h => ?_, fun b hm hh hw hc hk hb => ?_, fun hm hh h => ?_,
    fun hm hh hc hk hst hb h hroom y hy => ?_, fun hc h hh => ?_⟩
  · exact fires_of_answer (round h) ((Fx.round_gathers (rs := roundLanes op x) hin hm hc hk hb).trans (Fx.gather_whole hw)) rfl
  · subst h
    cases hop.eq_conf
    obtain ⟨_, hexec, hbody⟩ := exec_conf_gathers hx hm hu
    exact fires_of_answer (hr.step (State.fxAt_some hx).1 hexec) (hbody.trans (Fx.gather_whole hw)) rfl
  · by_cases h : op = 0x17
    · subst h
      cases hop.eq_conf
      exact hr.conf_badMark hx hm hh hw
    · exact stalls_of_answer (round h) (Fx.round_badMark hin hm hh hw hc hk hb)
  · subst h
    cases hop.eq_conf
    refine ⟨x.confWord.1, x.confWord.2, x.confWord_draws, x.confWord_best, ?_⟩
    rw [← Fx.confFormed_eq hq]
    exact hr.conf_sends hx hin hm hh
  · have opens {l : List LaneRes} {E : Int} {c : Nat} (hl : roundLanes op x ((x.e.valsAt 0).map lanesIn) = some l)
        (he : header l = .ok E c) : Fires s i (y.opened [0] E c l) :=
      fires_of_answer (round h) (Fx.round_sends hin hm hh hc hk hst hb hroom hy hl he) (Fx.opened_sl hy E c l)
    refine ⟨fun rs E c hop' hvs hrs he => ?_, fun r E c hop' hvs hsum he => ?_, fun r E c hop' hvs hmax he => ?_,
      fun hvs hop' => ?_, fun hvs hop' hinf => ?_⟩
    · subst hop'
      exact opens ((roundLanes_racc x hvs).trans hrs) he
    · subst hop'
      exact opens ((roundLanes_rsum x hvs).trans (congrArg (Option.map _) hsum)) he
    · subst hop'
      exact opens ((roundLanes_rmax x hvs).trans (congrArg (Option.map _) hmax)) he
    · have zeros : roundLanes op x [] = some (List.replicate 16 plusZero) := by
        rcases (exec_roundOp hop h hx).1 with rfl | rfl | rfl
        · rfl
        · rfl
        · exact absurd rfl hop'
      have := opens ((congrArg _ hvs).trans zeros) header_zeros
      rwa [Fx.opened_quiet y _ _ rfl] at this
    · subst hop'
      obtain ⟨d, hd⟩ := infinite_lane hinf (((maxIdent x.e.fmt (x.e.p 0 1 = 1)).expo).getD 0)
      have identity : roundLanes 0x15 x [] = some (laneInf d :: List.replicate 15 plusZero) :=
        congrArg (fun l => some (l :: List.replicate 15 plusZero)) hd
      have := opens ((congrArg _ hvs).trans identity) (header_inf_zeros d)
      rwa [Fx.opened_quiet y _ _ (inf_zeros_status d)] at this
  · exact sends_of_answer (round h) (Fx.round_closes hin hc hh) (Fx.pastMarks_sl _ _ _)

/-- Settles O38: a decision sends its first word with the beat that makes it, and a round's result leaves at its marker. -/
theorem wordElements : Obligations.WordElements := ⟨wordsAndDecisions, roundResults⟩

end Sys2Proof.Machine
end

section
/-!
PROOF. Integer, comparison and predicate instructions, immediates and constants (R97 to R101).
-/
namespace Sys2Proof.Machine

/-! ### Completion of an instruction that writes one register -/

section
variable {i : Instr} {s : State} {d a b : RegF} {v : W64}

/-- An instruction whose body puts a value into d completes with it. -/
theorem writes_of_run {n : Nat} {o : Opnds} {body : State → Act} (he : exec i s = run .plain n o body s) (ha : Admits s o)
    (hb : body s = .done (s.putReg d v)) : Writes s i d v n o.reads :=
  he.trans (run_done (by simp) ha.1 ha.2 hb)
theorem writes_of_alu2 {f : W64 → W64 → W64} (he : exec i s = alu2 d a b f s) (ha : Admits s { reads := [a, b], writes := [d] })
    (hv : f (s.readReg a) (s.readReg b) = v) : Writes s i d v 4 [a, b] :=
  he.trans (hv ▸ alu2_next ha.1 ha.2)
theorem writes_of_alu1 {f : W64 → W64} (he : exec i s = alu1 d a f s) (ha : Admits s { reads := [a], writes := [d] })
    (hv : f (s.readReg a) = v) : Writes s i d v 4 [a] :=
  he.trans (hv ▸ alu1_next ha.1 ha.2)

end

/-! ### The results of the model as the tables of R97 and R98 give them -/

theorem shamt_eq (y : W64) : shamt y = (y.extractLsb' 0 6).toNat := by simp [shamt, BitVec.extractLsb'_toNat]

/-- The low half of a product does not depend on how its factors are extended. -/
theorem mulLow_eq (x y : W64) : x * y = (x.zeroExtend 128 * y.zeroExtend 128).extractLsb' 0 64 := by
  refine BitVec.eq_of_toNat_eq ?_
  simp [BitVec.extractLsb'_toNat, BitVec.toNat_mul]

theorem mulHigh_eq (x y : W64) : mulHigh x y = (x.signExtend 128 * y.signExtend 128).extractLsb' 64 64 := by
  have product : (x.signExtend 128 * y.signExtend 128) = BitVec.ofInt 128 (x.toInt * y.toInt) := by
    refine BitVec.eq_of_toInt_eq ?_
    rw [BitVec.toInt_mul, BitVec.toInt_signExtend_of_le (by decide), BitVec.toInt_signExtend_of_le (by decide), BitVec.toInt_ofInt]
  refine BitVec.eq_of_toNat_eq ?_
  rw [product, mulHigh, BitVec.extractLsb'_toNat, BitVec.toNat_ofInt, BitVec.toNat_ofInt, Nat.shiftRight_eq_div_pow]
  omega

theorem mulHighU_eq (x y : W64) : mulHighU x y = (x.zeroExtend 128 * y.zeroExtend 128).extractLsb' 64 64 := by
  have small : x.toNat * y.toNat < 2 ^ 64 * 2 ^ 64 := Nat.mul_lt_mul'' x.isLt y.isLt
  refine BitVec.eq_of_toNat_eq ?_
  rw [mulHighU, BitVec.extractLsb'_toNat, BitVec.toNat_ofNat, BitVec.toNat_mul, Nat.shiftRight_eq_div_pow,
    BitVec.zeroExtend_eq_setWidth, BitVec.zeroExtend_eq_setWidth, BitVec.toNat_setWidth_of_le (by decide),
    BitVec.toNat_setWidth_of_le (by decide), Nat.mod_eq_of_lt (a := x.toNat * y.toNat) (by omega)]

theorem divS_eq (x y : W64) : divS x y = if y = 0 then -1 else BitVec.ofInt 64 (x.toInt.tdiv y.toInt) := by
  unfold divS
  split
  · decide
  · exact BitVec.eq_of_toInt_eq ((BitVec.toInt_sdiv ..).trans (BitVec.toInt_ofInt ..).symm)
theorem divU_eq (x y : W64) : divU x y = if y = 0 then 0xFFFFFFFFFFFFFFFF else BitVec.ofNat 64 (x.toNat / y.toNat) := by
  unfold divU
  split
  · decide
  · rw [← BitVec.toNat_udiv, BitVec.ofNat_toNat, BitVec.setWidth_eq]
theorem remS_eq (x y : W64) : remS x y = if y = 0 then x else BitVec.ofInt 64 (x.toInt - y.toInt * x.toInt.tdiv y.toInt) := by
  rw [← Int.tmod_def, ← BitVec.toInt_srem, BitVec.ofInt_toInt]
  rfl
theorem remU_eq (x y : W64) : remU x y = if y = 0 then x else BitVec.ofNat 64 (x.toNat - y.toNat * (x.toNat / y.toNat)) := by
  rw [← Nat.mod_def, ← BitVec.toNat_umod, BitVec.ofNat_toNat, BitVec.setWidth_eq]
  rfl

/-- Where equal values give the same, it does not matter whether a comparison is strict. -/
theorem ite_le_eq_ite_lt {α β : Type} [LinearOrder β] {x y : β} {u v : α} (h : x = y → u = v) :
    (if x ≤ y then u else v) = if x < y then u else v := by
  rcases lt_trichotomy x y with hlt | heq | hgt
  · rw [if_pos hlt.le, if_pos hlt]
  · rw [if_pos heq.le, if_neg heq.not_lt, h heq]
  · rw [if_neg hgt.not_ge, if_neg hgt.not_gt]

theorem minS_eq (x y : W64) : minS x y = if x.slt y then x else y := by
  simp only [BitVec.slt_iff_toInt_lt]
  exact ite_le_eq_ite_lt BitVec.eq_of_toInt_eq
theorem maxS_eq (x y : W64) : maxS x y = if x.slt y then y else x := by
  simp only [BitVec.slt_iff_toInt_lt]
  exact ite_le_eq_ite_lt fun h => (BitVec.eq_of_toInt_eq h).symm
theorem minU_eq (x y : W64) : minU x y = if x.ult y then x else y := by
  simp only [BitVec.ult_iff_toNat_lt]
  exact ite_le_eq_ite_lt BitVec.eq_of_toNat_eq
theorem maxU_eq (x y : W64) : maxU x y = if x.ult y then y else x := by
  simp only [BitVec.ult_iff_toNat_lt]
  exact ite_le_eq_ite_lt fun h => (BitVec.eq_of_toNat_eq h).symm

theorem extend_signed {n : Nat} (x : W64) (h : n ≤ 64) : extend n true x.toNat = (x.extractLsb' 0 n).signExtend 64 := by
  have low : x.toNat % 2 ^ n < 2 ^ n := Nat.mod_lt _ (by positivity)
  have width : 2 ^ n ≤ 2 ^ 64 := Nat.pow_le_pow_right (by decide) h
  refine BitVec.eq_of_toNat_eq ?_
  rw [BitVec.toNat_signExtend, BitVec.msb_eq_decide, BitVec.toNat_setWidth_of_le h, BitVec.extractLsb'_toNat, Nat.shiftRight_zero]
  by_cases neg : 2 ^ (n - 1) ≤ x.toNat % 2 ^ n
  · rw [extend, if_pos (by simpa using neg), if_pos (by simpa using neg), BitVec.toNat_ofNat, Nat.mod_eq_of_lt (by omega)]
    omega
  · rw [extend, if_neg (by simpa using neg), if_neg (by simpa using neg), BitVec.toNat_ofNat, Nat.mod_eq_of_lt (by omega), Nat.add_zero]
theorem extend_unsigned (n : Nat) (x : W64) : extend n false x.toNat = (x.extractLsb' 0 n).zeroExtend 64 := by
  refine BitVec.eq_of_toNat_eq ?_
  simp [extend, BitVec.extractLsb'_toNat]

/-! ### Counts of bits (R97) -/

theorem leadZeros_eq {x : W64} {i : Nat} (hi : x.getLsbD i = true) (h : highClear x (i + 1)) :
    leadZeros x = BitVec.ofNat 64 (63 - i) := by
  have ne : x ≠ 0 := by rintro rfl; simp at hi
  have log : x.toNat.log2 = i := (Nat.log2_eq_iff (BitVec.toNat_ne_iff_ne.2 ne)).2 ⟨Nat.ge_two_pow_of_testBit hi, Nat.lt_pow_two_of_testBit _ h⟩
  rw [leadZeros, if_neg ne, log]

theorem trailZeros_zero : trailZeros 0 = 64 := by decide
theorem trailZeros_eq {x : W64} {i : Nat} (hlt : i < 64) (hi : x.getLsbD i = true) (h : lowClear x i) :
    trailZeros x = BitVec.ofNat 64 i := by
  rw [trailZeros, List.find?_range_eq_some.2 ⟨hi, List.mem_range.2 hlt, fun j hj => by simp [h j hj]⟩, Option.getD_some]

theorem countP_eq_sum_toNat {α : Type} (p : α → Bool) (l : List α) : l.countP p = (l.map fun x => (p x).toNat).sum := by
  induction l with
  | nil => rfl
  | cons x l ih => cases h : p x <;> simp [h, ih, Nat.add_comm]
theorem oneBits_eq (x : W64) : oneBits x = BitVec.ofNat 64 ((List.finRange 64).map fun i => (x.getLsbD i.val).toNat).sum := by
  rw [oneBits, ← List.map_coe_finRange_eq_range, List.countP_map, countP_eq_sum_toNat]
  rfl

theorem integerTwoSource : Claim.IntegerTwoSource := by
  intro s d a b ha
  have shift {f : W64 → Nat → W64} (x y : W64) : f x (shamt y) = f x (y.extractLsb' 0 6).toNat := congrArg (f x) (shamt_eq y)
  simp only [twoSource, List.mem_cons, List.not_mem_nil, or_false, forall_eq_or_imp, forall_eq]
  exact ⟨writes_of_alu2 (exec_add ..) ha rfl, writes_of_alu2 (exec_sub ..) ha rfl, writes_of_alu2 (exec_mul ..) ha (mulLow_eq ..),
    writes_of_alu2 (exec_mulh ..) ha (mulHigh_eq ..), writes_of_alu2 (exec_mulhu ..) ha (mulHighU_eq ..),
    writes_of_alu2 (exec_div ..) ha (divS_eq ..), writes_of_alu2 (exec_divu ..) ha (divU_eq ..),
    writes_of_alu2 (exec_rem ..) ha (remS_eq ..), writes_of_alu2 (exec_remu ..) ha (remU_eq ..),
    writes_of_alu2 (exec_and ..) ha rfl, writes_of_alu2 (exec_or ..) ha rfl, writes_of_alu2 (exec_xor ..) ha rfl,
    writes_of_alu2 (exec_andn ..) ha rfl, writes_of_alu2 (exec_shl ..) ha (shift ..), writes_of_alu2 (exec_shr ..) ha (shift ..),
    writes_of_alu2 (exec_sar ..) ha (shift ..), writes_of_alu2 (exec_rot ..) ha (shift ..),
    writes_of_alu2 (exec_min ..) ha (minS_eq ..), writes_of_alu2 (exec_max ..) ha (maxS_eq ..),
    writes_of_alu2 (exec_minu ..) ha (minU_eq ..), writes_of_alu2 (exec_maxu ..) ha (maxU_eq ..)⟩

theorem integerOneSource : Claim.IntegerOneSource := by
  intro s d a ha
  refine ⟨?_, fun hz => ⟨?_, ?_⟩, fun i _ hi h => ?_, fun i hlt hi h => ?_, ?_⟩
  · simp only [oneSource, List.mem_cons, List.not_mem_nil, or_false, forall_eq_or_imp, forall_eq]
    exact ⟨writes_of_alu1 (exec_sextB ..) ha (extend_signed _ (by decide)),
      writes_of_alu1 (exec_sextH ..) ha (extend_signed _ (by decide)),
      writes_of_alu1 (exec_sextW ..) ha (extend_signed _ (by decide)),
      writes_of_alu1 (exec_zextB ..) ha (extend_unsigned ..), writes_of_alu1 (exec_zextH ..) ha (extend_unsigned ..),
      writes_of_alu1 (exec_zextW ..) ha (extend_unsigned ..)⟩
  · exact writes_of_alu1 (exec_clz ..) ha (if_pos hz)
  · exact writes_of_alu1 (exec_ctz ..) ha (hz ▸ trailZeros_zero)
  · exact writes_of_alu1 (exec_clz ..) ha (leadZeros_eq hi h)
  · exact writes_of_alu1 (exec_ctz ..) ha (trailZeros_eq hlt hi h)
  · exact writes_of_alu1 (exec_popc ..) ha (oneBits_eq _)

/-- Settles O10: each integer form is one operation on its sources, whose result is the one of the table. -/
theorem integerForms : Obligations.IntegerForms := ⟨integerTwoSource, integerOneSource⟩

/-! ### Comparison, selection, predicate logic, immediates and constants (R99 to R101) -/

theorem exec_cmp2 {i : Instr} {s : State} {p : PredF} {a b : RegF} {f : W64 → W64 → Bool} {v : Bool} (he : exec i s = cmp2 p a b f s)
    (ha : Admits s { reads := [a, b] }) (hv : f (s.readReg a) (s.readReg b) = v) :
    exec i s = .next ((s.setPred p v).retire 4 [a, b]) :=
  he.trans (hv ▸ cmp2_next ha.1 ha.2)

/-- The comparisons of the model, on integers, as those of words. -/
theorem comparisons_eq (x y : W64) : (decide (x = y) = (x == y) ∧ decide (x ≠ y) = (x != y)) ∧
    (decide (x.toInt < y.toInt) = x.slt y ∧ decide (x.toInt ≥ y.toInt) = !x.slt y) ∧
    decide (x.toNat < y.toNat) = x.ult y ∧ decide (x.toNat ≥ y.toNat) = !x.ult y := by
  refine ⟨⟨(Bool.beq_eq_decide_eq ..).symm, ?_⟩, ⟨rfl, ?_⟩, rfl, ?_⟩
  · rw [bne, Bool.beq_eq_decide_eq, ← decide_not]
  · rw [BitVec.slt, ← decide_not]
    exact decide_eq_decide.2 not_lt.symm
  · rw [BitVec.ult, ← decide_not]
    exact decide_eq_decide.2 not_lt.symm

theorem selectAndCompare : Claim.SelectAndCompare := by
  refine ⟨fun s p a b ha => ?_, fun s p d a b ha => ?_, fun s d a b => ?_, fun s v => ⟨if_pos rfl, if_pos rfl⟩, fun s p v hp => ?_,
    fun s p q v hpq => ?_⟩
  · obtain ⟨⟨eq, ne⟩, ⟨lt, ge⟩, ltu, geu⟩ := comparisons_eq (s.readReg a) (s.readReg b)
    simp only [comparisons, List.mem_cons, List.not_mem_nil, or_false, forall_eq_or_imp, forall_eq]
    exact ⟨exec_cmp2 (exec_cmpEq ..) ha eq, exec_cmp2 (exec_cmpNe ..) ha ne, exec_cmp2 (exec_cmpLt ..) ha lt,
      exec_cmp2 (exec_cmpGe ..) ha ge, exec_cmp2 (exec_cmpLtu ..) ha ltu, exec_cmp2 (exec_cmpGeu ..) ha geu⟩
  · exact writes_of_run (exec_sel ..) ha rfl
  · exact ⟨(exec_pand ..).trans (predOp_next ..), (exec_por ..).trans (predOp_next ..), (exec_pnot ..).trans (predOp_next ..)⟩
  · rw [State.pred_setPred, if_neg hp, if_pos rfl]
  · rw [State.pred_setPred, if_neg hpq.symm]
    split
    · next h => exact (if_pos h).symm
    · rfl

theorem immediatesAndConstants : Claim.ImmediatesAndConstants := by
  refine ⟨fun s d a imm sh ha => ⟨?_, ?_⟩, fun s d k c g ha => ⟨?_, fun hg => ?_⟩, fun s d a k g ha hg => ?_, fun s d a k g hg => ⟨?_, ?_⟩⟩
  · simp only [immediates, List.mem_cons, List.not_mem_nil, or_false, forall_eq_or_imp, forall_eq]
    exact ⟨writes_of_alu1 (exec_addi ..) ha rfl, writes_of_alu1 (exec_andi ..) ha rfl, writes_of_alu1 (exec_ori ..) ha rfl,
      writes_of_alu1 (exec_xori ..) ha rfl⟩
  · simp only [shiftImmediates, List.mem_cons, List.not_mem_nil, or_false, forall_eq_or_imp, forall_eq]
    exact ⟨writes_of_alu1 (exec_shli ..) ha rfl, writes_of_alu1 (exec_shri ..) ha rfl, writes_of_alu1 (exec_sari ..) ha rfl⟩
  · exact writes_of_run (exec_movi ..) ha rfl
  · exact writes_of_run ((exec_moviL ..).trans (if_pos hg)) ha rfl
  · exact writes_of_run ((exec_movhi ..).trans (if_pos hg)) ha rfl
  · exact (exec_moviL ..).trans (if_neg (by simp [hg]))
  · exact (exec_movhi ..).trans (if_neg (by simp [hg]))

/-- Settles O11: with its operands admitted and its guard true, each form completes with its result. -/
theorem selectCompareConstants : Obligations.SelectCompareConstants := ⟨selectAndCompare, immediatesAndConstants⟩

/-! ### What a scalar form leaves as it was -/

/-- An instruction does nothing but put one value into d. -/
def PutsOne (i : Instr) (d : RegF) (o : Opnds) : Prop :=
  ∃ v : State → W64, ∀ s, exec i s = run .plain 4 o (fun s => .done (s.putReg d (v s))) s

theorem scalarForms_putOne {d a b : RegF} {imm : BitVec 14} {sh : BitVec 6} {k : BitVec 19} {p : PredF} :
    ∀ q ∈ scalarForms d a b imm sh k p, PutsOne q.1 d q.2 := by
  simp only [scalarForms, List.forall_mem_append, List.forall_mem_map, List.map_append]
  refine ⟨⟨⟨fun q hq => ?_, ?_⟩, ⟨?_, ?_⟩, ?_⟩, ?_⟩
  · obtain ⟨f, hf⟩ := exec_twoSource hq
    exact ⟨_, hf⟩
  all_goals simp only [oneSource, immediates, shiftImmediates, List.mem_cons, List.not_mem_nil, or_false, forall_eq_or_imp, forall_eq]
  · exact ⟨⟨_, exec_clz d a⟩, ⟨_, exec_ctz d a⟩, ⟨_, exec_popc d a⟩⟩
  · exact ⟨⟨_, exec_sextB d a⟩, ⟨_, exec_sextH d a⟩, ⟨_, exec_sextW d a⟩, ⟨_, exec_zextB d a⟩, ⟨_, exec_zextH d a⟩, ⟨_, exec_zextW d a⟩⟩
  · exact ⟨⟨_, exec_addi d a imm⟩, ⟨_, exec_andi d a imm⟩, ⟨_, exec_ori d a imm⟩, ⟨_, exec_xori d a imm⟩⟩
  · exact ⟨⟨_, exec_shli d a sh⟩, ⟨_, exec_shri d a sh⟩, ⟨_, exec_sari d a sh⟩⟩
  · exact ⟨⟨_, exec_sel d p a b⟩, ⟨_, exec_movi d k⟩⟩

theorem State.bindOf_nil {s : State} (h : s.me.binds = []) (r : RegF) : s.bindOf r = none := by
  simp [State.bindOf, h]

/-- A write of a scalar register reaches the registers and the loads still in flight to it. -/
theorem State.setSreg_eq (s : State) (r : RegF) (v : W64) : s.setSreg r v =
    { s with me := { s.me with regs := (s.setSreg r v).me.regs, dests := (s.setSreg r v).me.dests } } := by
  unfold State.setSreg
  split <;> rfl

theorem State.sreg_setSreg_other (s : State) {r q : RegF} (v : W64) (h : q ≠ r) : (s.setSreg r v).sreg q = s.sreg q := by
  rw [State.sreg_setSreg, if_neg h]
  split
  · next h => exact (if_pos h).symm
  · rfl

/-- Settles O9: each scalar form puts one value into its destination and completes, and a write of a register reaches it alone. -/
theorem scalarFrame : Obligations.ScalarFrame := by
  intro s t d a b imm sh k p hf hb q hq ht
  obtain ⟨v, hv⟩ := scalarForms_putOne q hq
  have free := State.bindOf_nil hb
  have ha : Admits s q.2 := admits_unbound fun r _ => free r
  have eq := s.setSreg_eq d (v s)
  have out : t = (s.setSreg d (v s)).retire 4 q.2.reads := by
    have := writes_of_run (hv s) ha rfl
    rw [Writes, ht, State.putReg_unbound _ (free d)] at this
    exact Host.Outcome.next.inj this
  rw [State.retire_unbound 4 _ (by simpa using hf) (by rw [eq]; exact hb)] at out
  subst out
  refine ⟨?_, fun r hr => ?_, fun h => ?_, ?_, ?_, ?_, fun x => ?_⟩
  · rw [SameButScalars, eq]
  · exact s.sreg_setSreg_other (v s) hr
  · show (s.setSreg d (v s)).me.regs = s.me.regs
    rw [State.setSreg, if_pos h]
  · rw [eq]; rfl
  · rw [eq]
  · rw [eq]
  · rw [eq]

end Sys2Proof.Machine
end

section
/-!
PROOF. Capabilities read, moved, made and derived (R22, R25, R110 to R115).
-/
namespace Sys2Proof

/-! ### The fields of a capability under its operations (R21, R22) -/

theorem extractLsb'_inside {w s l s' l' : Nat} (x : BitVec w) (h : s + l ≤ l') :
    (x.extractLsb' s' l').extractLsb' s l = x.extractLsb' (s' + s) l := by
  refine BitVec.eq_of_getLsbD_eq fun i hi => ?_
  simp only [BitVec.getLsbD_extractLsb', hi, decide_true, Bool.true_and, Nat.add_assoc]
  rw [decide_eq_true (by omega), Bool.true_and]

/-- The bits below the cursor do not move with it. -/
theorem Cap.setCur_low (c : Cap) (v : Nat) {i n : Nat} (h : i + n ≤ 48) :
    (c.setCur v).bits.extractLsb' i n = c.bits.extractLsb' i n := by
  rw [Cap.setCur, BitVec.extractLsb'_append_eq_of_add_le h, BitVec.extractLsb'_extractLsb'_of_le h]
theorem Cap.setCur_obj (c : Cap) (v : Nat) : (c.setCur v).obj = c.obj := by
  rw [Cap.obj, Cap.setCur, BitVec.extractLsb'_append_eq_of_le (by decide), BitVec.extractLsb'_append_eq_of_le (by decide)]
  exact congrArg BitVec.toNat BitVec.extractLsb'_eq_self
theorem Cap.setCur_cur (c : Cap) (v : Nat) : (c.setCur v).cur = v % 2 ^ 48 := by
  rw [Cap.cur, Cap.setCur, BitVec.extractLsb'_append_eq_of_le (by decide), BitVec.extractLsb'_append_eq_of_add_le (by decide),
    BitVec.extractLsb'_eq_self, BitVec.toNat_ofNat]

theorem Cap.make_fields (obj cur g lo hi perm : Nat) : (Cap.make obj cur g lo hi perm).obj = obj % 2 ^ 32 ∧
    (Cap.make obj cur g lo hi perm).cur = cur % 2 ^ 48 ∧ (Cap.make obj cur g lo hi perm).g = g % 2 ^ 6 ∧
    (Cap.make obj cur g lo hi perm).lo = lo % 2 ^ 14 ∧ (Cap.make obj cur g lo hi perm).hi = hi % 2 ^ 14 ∧
    (Cap.make obj cur g lo hi perm).perm = perm % 2 ^ 8 := by
  simp only [Cap.make, Cap.obj, Cap.cur, Cap.g, Cap.lo, Cap.hi, Cap.perm]
  refine ⟨?obj, ?_, ?_, ?_, ?_, ?_⟩
  all_goals repeat rw [BitVec.extractLsb'_append_eq_of_le (by decide)]
  case obj => rw [BitVec.extractLsb'_eq_self, BitVec.toNat_ofNat]
  all_goals rw [BitVec.extractLsb'_append_eq_of_add_le (by decide), BitVec.extractLsb'_eq_self, BitVec.toNat_ofNat]

theorem Cap.obj_lt (c : Cap) : c.obj < 2 ^ 32 := BitVec.isLt _
theorem Cap.cur_lt (c : Cap) : c.cur < 2 ^ 48 := BitVec.isLt _
theorem Cap.perm_lt (c : Cap) : c.perm < 2 ^ 8 := BitVec.isLt _

namespace Machine

theorem setCur_sameButCursor (c : Cap) (v : Nat) : SameButCursor (c.setCur v) c :=
  have low {i n : Nat} (h : i + n ≤ 48) : ((c.setCur v).bits.extractLsb' i n).toNat = (c.bits.extractLsb' i n).toNat :=
    congrArg BitVec.toNat (c.setCur_low v h)
  ⟨rfl, c.setCur_obj v, low (by decide), low (by decide), low (by decide), low (by decide), c.setCur_low v (by decide)⟩

/-- Rights taken away leave every bit above them. -/
theorem permCap_high (c : Cap) (mask : Nat) {i n : Nat} (hi : 14 ≤ i) (hn : i + n ≤ 128) :
    (permCap c mask).bits.extractLsb' i n = c.bits.extractLsb' i n := by
  rw [permCap, BitVec.extractLsb'_append_eq_of_le (by omega), BitVec.extractLsb'_append_eq_of_le (by omega),
    extractLsb'_inside _ (by omega)]
  congr 1
  omega
theorem permCap_perm (c : Cap) (mask : Nat) : (permCap c mask).perm = c.perm &&& mask := by
  rw [Cap.perm, permCap, BitVec.extractLsb'_append_eq_of_le (by decide), BitVec.extractLsb'_append_eq_of_add_le (by decide),
    BitVec.extractLsb'_eq_self, BitVec.toNat_ofNat]
  exact Nat.mod_eq_of_lt (Nat.and_le_left.trans_lt c.perm_lt)

theorem permCap_keeps (c : Cap) (mask : Nat) : (permCap c mask).obj = c.obj ∧ (permCap c mask).cur = c.cur ∧
    (permCap c mask).base = c.base ∧ (permCap c mask).top = c.top := by
  have high {i n : Nat} (hi : 14 ≤ i) (hn : i + n ≤ 128) := congrArg BitVec.toNat (permCap_high c mask hi hn)
  have g : (permCap c mask).g = c.g := high (by decide) (by decide)
  have lo : (permCap c mask).lo = c.lo := high (by decide) (by decide)
  have hi : (permCap c mask).hi = c.hi := high (by decide) (by decide)
  refine ⟨high (by decide) (by decide), high (by decide) (by decide), ?_, ?_⟩
  · rw [Cap.base, lo, g, Cap.base]
  · rw [Cap.top, hi, g, Cap.top]

/-! ### Reading, moving and making (R110, R111, R113, R115) -/

theorem writes_of_capGet {i : Instr} {s : State} {b : RegF} {c : CapF} {f : Cap → Nat} {v : W64} (he : exec i s = capGet b c f s)
    (ha : Admits s { writes := [b] }) (hv : BitVec.ofNat 64 (f (s.creg c)) = v) : Writes s i b v 4 [] :=
  writes_of_run he ha (hv ▸ rfl)

theorem writesC_of_run {i : Instr} {s : State} {d : CapF} {v : Cap} {o : Opnds} {body : State → Act}
    (he : exec i s = run .plain 4 o body s) (ha : Admits s o) (hb : body s = .done (s.setCreg d v)) : WritesC s i d v o.reads :=
  he.trans (run_done (by simp) ha.1 ha.2 hb)

/-- Settles O15: a reading is a field of the register, a moved cursor keeps every other field, and `cmake` takes the bits that are
well-formed. -/
theorem capabilityForms : Obligations.CapabilityForms := by
  refine ⟨fun s b c e ha => ⟨?_, ?_⟩, fun s d c b ha => ?_, fun s d c p => ⟨?_, ?_, ?_⟩, fun s => ⟨if_pos rfl, fun v => if_pos rfl⟩,
    fun s d b hf hm ha => ⟨fun hok => ?_, fun hok => ?_⟩⟩
  · simp only [capReadings, List.mem_cons, List.not_mem_nil, or_false, forall_eq_or_imp, forall_eq]
    exact ⟨writes_of_capGet (exec_cgetObj ..) ha (BitVec.ofNat_toNat ..), writes_of_capGet (exec_cgetCur ..) ha (BitVec.ofNat_toNat ..),
      writes_of_capGet (exec_cgetBase ..) ha rfl, writes_of_capGet (exec_cgetTop ..) ha rfl,
      writes_of_capGet (exec_cgetPerm ..) ha (BitVec.ofNat_toNat ..), writes_of_capGet (exec_cgetTag ..) ha (apply_ite ..),
      writes_of_capGet (exec_cgetG ..) ha (BitVec.ofNat_toNat ..)⟩
  · refine writes_of_run (exec_csub ..) ha (congrArg (fun v => Act.done (s.putReg b v)) ?_)
    rw [sub_eq_add_neg (G := Int), BitVec.ofInt_add, BitVec.ofInt_neg, BitVec.ofInt_natCast, BitVec.ofInt_natCast,
      ← BitVec.sub_eq_add_neg]
  · exact ⟨_, _, writesC_of_run (exec_csetc ..) ha rfl, Cap.setCur_cur _ _, setCur_sameButCursor _ _,
      writesC_of_run (exec_cadd ..) ha rfl, Cap.setCur_cur _ _, setCur_sameButCursor _ _⟩
  · exact writesC_of_run (exec_cnull ..) (admits_none s) rfl
  · exact writesC_of_run (exec_cmov ..) (admits_none s) rfl
  · exact (exec_ctest ..).trans (predOp_next ..)
  · exact ((exec_cmake ..).trans (runPriv_handler hm)).trans (run_done (by simp [hf]) ha.1 ha.2 (if_pos hok))
  · exact ((exec_cmake ..).trans (runPriv_handler hm)).trans
      (run_raise (by simp [hf]) ha.1 ha.2 (if_neg (Bool.eq_false_iff.1 hok)) hf)

/-! ### Derivation (R25, R112) -/

/-- An instruction that a Finder performs as a strand does raises its causes as a strand does. -/
theorem run_plain_raise {len : Nat} {o : Opnds} {body : State → Act} {s t : State} {k : TrapInfo} (ha : Admits s o)
    (hb : body s = .raise k t) : run .plain len o body s = t.raise k := by
  unfold run
  rw [if_neg (by simp), ha.1]
  simp [ha.2, hb]

theorem deriveTrap_untagged {c : Cap} (h : c.tag = false) : deriveTrap c = some (mkTrap ccCapTag 0 c.obj c.cur) := by
  simp [deriveTrap, h]
theorem deriveTrap_noRight {c : Cap} (ht : c.tag = true) (h : c.has pD = false) :
    deriveTrap c = some (mkTrap ccCapPerm 0 c.obj c.cur) := by simp [deriveTrap, ht, h]
theorem deriveTrap_none {c : Cap} (ht : c.tag = true) (h : c.has pD = true) : deriveTrap c = none := by
  simp [deriveTrap, ht, h]

section
variable {s : State} {d c : CapF} {b : RegF}

theorem derivation_raises {k : TrapInfo} (ha : Admits s { reads := [b] }) (h : deriveTrap (s.creg c) = some k) :
    exec (.cbound d c b) s = s.raise k ∧ exec (.cperm d c b) s = s.raise k :=
  ⟨(exec_cbound ..).trans (run_plain_raise ha (by simp only [h])), (exec_cperm ..).trans (run_plain_raise ha (by simp only [h]))⟩
theorem exec_cperm_writes (ha : Admits s { reads := [b] }) (h : deriveTrap (s.creg c) = none) :
    WritesC s (.cperm d c b) d (permCap (s.creg c) ((s.readReg b).toNat % 256)) [b] :=
  writesC_of_run (exec_cperm ..) ha (by simp only [h])
theorem exec_cbound_writes {t : Int} {y : Cap} (ha : Admits s { reads := [b] }) (h : deriveTrap (s.creg c) = none)
    (ht : t = effAddr (s.creg c) (s.readReg b)) (hy : boundCap (s.creg c) (s.creg c).cur t = some y) :
    WritesC s (.cbound d c b) d y [b] :=
  writesC_of_run (exec_cbound ..) ha (by simp only [h, ← ht, hy])
theorem exec_cbound_raises {t : Int} (ha : Admits s { reads := [b] }) (h : deriveTrap (s.creg c) = none)
    (ht : t = effAddr (s.creg c) (s.readReg b)) (hy : boundCap (s.creg c) (s.creg c).cur t = none) :
    exec (.cbound d c b) s = s.raise (mkTrap ccCapBounds 0 (s.creg c).obj (s.creg c).cur) :=
  (exec_cbound ..).trans (run_plain_raise ha (by simp only [h, ← ht, hy]))

end

/-- The top t in granules of 2^g bytes, rounded outwards. -/
def granules (t g : Nat) : Nat := (t + 2 ^ g - 1) / 2 ^ g

/-- g is the first granule in which the top fits (R25). -/
def FirstGranule (t g : Nat) : Prop := granules t g ≤ 16383 ∧ ∀ k, k < g → 16383 < granules t k

theorem granules_le_iff {t g n : Nat} : granules t g ≤ n ↔ t ≤ n * 2 ^ g := by
  rw [granules, ← Nat.ceilDiv_eq_add_pred_div, ceilDiv_le_iff_le_mul (by positivity), mul_comm]
theorem le_granules_mul (t g : Nat) : t ≤ granules t g * 2 ^ g := granules_le_iff.1 le_rfl
/-- A multiple of the granule is rounded to itself. -/
theorem granules_mul_of_dvd {t g : Nat} (h : 2 ^ g ∣ t) : granules t g * 2 ^ g = t := by
  refine le_antisymm ?_ (le_granules_mul t g)
  have : granules t g ≤ t / 2 ^ g := granules_le_iff.2 (Nat.div_mul_cancel h).ge
  exact (Nat.mul_le_mul_right _ this).trans (Nat.div_mul_cancel h).le

/-- The first granule is no larger than one in which the top fits. -/
theorem FirstGranule.le {t g k : Nat} (h : FirstGranule t g) (hk : t ≤ 16383 * 2 ^ k) : g ≤ k :=
  not_lt.1 fun hlt => absurd (granules_le_iff.2 hk) (not_le.2 (h.2 k hlt))
theorem exists_firstGranule {t : Nat} (h : t ≤ 2 ^ 48) : ∃ g, FirstGranule t g := by
  have fits : ∃ g, granules t g ≤ 16383 := ⟨47, granules_le_iff.2 (by omega)⟩
  exact ⟨Nat.find fits, Nat.find_spec fits, fun k hk => not_le.1 (Nat.find_min fits hk)⟩

/-- The search of R25 stops at the first granule, from every one below it. -/
theorem findGranule_eq {b t fuel g k : Nat} (h : FirstGranule t g) (hk : k ≤ g) (hf : g ≤ k + fuel) :
    findGranule b t fuel k = (g, b / 2 ^ g, granules t g) := by
  induction fuel generalizing k with
  | zero => rw [show k = g by omega]; rfl
  | succ fuel ih =>
    rw [findGranule]
    rcases hk.eq_or_lt with rfl | hlt
    · exact if_pos h.1
    · exact (if_neg (not_le.2 (h.2 k hlt))).trans (ih hlt (by omega))

/-- A source with its bounds rounded outwards to granules of 2^g bytes, and all else as it is. -/
def boundTo (x : Cap) (t g : Nat) : Cap := { Cap.make x.obj x.cur g (x.cur / 2 ^ g) (granules t g) x.perm with tag := x.tag }

section
variable {x : Cap} {t g : Nat}

theorem boundCap_eq (hcur : x.cur ≤ t) (ht : t ≤ 2 ^ 48) (hg : FirstGranule t g) : boundCap x x.cur t =
    if x.cur / 2 ^ g * 2 ^ g < x.base ∨ x.top < granules t g * 2 ^ g then none else some (boundTo x t g) := by
  have cur := x.cur_lt
  have search : findGranule x.cur t 47 0 = (g, x.cur / 2 ^ g, granules t g) :=
    findGranule_eq hg (Nat.zero_le g) (by simpa using hg.le (k := 47) (by omega))
  unfold boundCap
  rw [if_neg (by simp; omega), Int.toNat_natCast, Int.toNat_natCast, search]
  simp only [Bool.or_eq_true, decide_eq_true_eq]
  rfl

theorem boundTo_fields (hcur : x.cur ≤ t) (ht : t ≤ 2 ^ 48) (hg : FirstGranule t g) :
    (boundTo x t g).obj = x.obj ∧ (boundTo x t g).cur = x.cur ∧ (boundTo x t g).perm = x.perm ∧ (boundTo x t g).g = g ∧
      (boundTo x t g).lo = x.cur / 2 ^ g ∧ (boundTo x t g).hi = granules t g := by
  have small : g ≤ 47 := hg.le (by omega)
  have below : x.cur / 2 ^ g ≤ granules t g :=
    (Nat.div_le_div_right (hcur.trans (le_granules_mul t g))).trans (Nat.mul_div_cancel _ (by positivity)).le
  have fits := hg.1
  obtain ⟨obj, cur, g', lo, hi, perm⟩ := Cap.make_fields x.obj x.cur g (x.cur / 2 ^ g) (granules t g) x.perm
  exact ⟨obj.trans (Nat.mod_eq_of_lt x.obj_lt), cur.trans (Nat.mod_eq_of_lt x.cur_lt), perm.trans (Nat.mod_eq_of_lt x.perm_lt),
    g'.trans (Nat.mod_eq_of_lt (by omega)), lo.trans (Nat.mod_eq_of_lt (by omega)), hi.trans (Nat.mod_eq_of_lt (by omega))⟩
theorem boundTo_bounds (hcur : x.cur ≤ t) (ht : t ≤ 2 ^ 48) (hg : FirstGranule t g) :
    (boundTo x t g).base = x.cur / 2 ^ g * 2 ^ g ∧ (boundTo x t g).top = granules t g * 2 ^ g := by
  obtain ⟨-, -, -, hg', hlo, hhi⟩ := boundTo_fields hcur ht hg
  rw [Cap.base, Cap.top, hg', hlo, hhi]
  exact ⟨rfl, rfl⟩

/-- Bounds that are multiples of a granule in which the top fits are met exactly. -/
theorem boundCap_exact {t : Int} (hle : x.cur ≤ t) (hmax : t ≤ 2 ^ 48) (hlo : x.base ≤ x.cur) (hhi : t ≤ x.top)
    (hcur : x.cur % 2 ^ 35 = 0) (ht : t % 2 ^ 35 = 0) :
    ∃ y, boundCap x x.cur t = some y ∧ (y.base : Int) = x.cur ∧ (y.top : Int) = t := by
  lift t to Nat using by omega
  obtain ⟨g, hg⟩ := exists_firstGranule (t := t) (by omega)
  have wide : 2 ^ g ∣ 2 ^ 35 := Nat.pow_dvd_pow 2 (hg.le (by omega))
  have low : x.cur / 2 ^ g * 2 ^ g = x.cur := Nat.div_mul_cancel (wide.trans (Nat.dvd_of_mod_eq_zero hcur))
  have high : granules t g * 2 ^ g = t := granules_mul_of_dvd (wide.trans (Nat.dvd_of_mod_eq_zero (by omega)))
  obtain ⟨base, top⟩ := boundTo_bounds (x := x) (by omega) (by omega) hg
  refine ⟨boundTo x t g, (boundCap_eq (by omega) (by omega) hg).trans (if_neg (by omega)), ?_, ?_⟩
  · rw [base, low]
  · rw [top, high]

/-- What R25 answers holds the bounds asked for, and no byte and no right that its source has not. -/
theorem boundCap_within {t : Int} {y : Cap} (hle : x.cur ≤ t) (hmax : t ≤ 2 ^ 48) (hy : boundCap x x.cur t = some y) :
    y.cur = x.cur ∧ y.perm = x.perm ∧ y.obj = x.obj ∧ x.base ≤ y.base ∧ y.base ≤ x.cur ∧ t ≤ y.top ∧ y.top ≤ x.top := by
  lift t to Nat using by omega
  obtain ⟨g, hg⟩ := exists_firstGranule (t := t) (by omega)
  obtain ⟨base, top⟩ := boundTo_bounds (x := x) (by omega) (by omega) hg
  obtain ⟨obj, cur, perm, -⟩ := boundTo_fields (x := x) (by omega) (by omega) hg
  rw [boundCap_eq (by omega) (by omega) hg] at hy
  split at hy
  · cases hy
  · next h =>
    obtain rfl := Option.some.inj hy
    have low := Nat.div_mul_le_self x.cur (2 ^ g)
    have high := le_granules_mul t g
    refine ⟨cur, perm, obj, ?_, ?_, ?_, ?_⟩ <;> omega

/-- Bounds that leave the source, or that are none, are refused. -/
theorem boundCap_none {t : Int} (h : t < x.cur ∨ 2 ^ 48 < t ∨ x.cur < x.base ∨ x.top < t) : boundCap x x.cur t = none := by
  by_cases range : (x.cur : Int) ≤ t ∧ t ≤ 2 ^ 48
  · obtain ⟨hle, hmax⟩ := range
    cases hy : boundCap x x.cur t with
    | none => rfl
    | some y =>
      obtain ⟨-, -, -, _, _, _, _⟩ := boundCap_within hle hmax hy
      omega
  · exact if_pos (by simp; omega)

end

/-- Settles O16: the granule that the search of R25 finds is the first in which the top fits, and the fields of what it makes hold
its bounds. -/
theorem derivationNarrows : Obligations.DerivationNarrows := by
  intro s d c b ha x
  refine ⟨fun ht => derivation_raises ha (deriveTrap_untagged ht), fun ht hd => derivation_raises ha (deriveTrap_noRight ht hd),
    fun ht hd => ?_⟩
  have free := deriveTrap_none ht hd
  obtain ⟨obj, cur, base, top⟩ := permCap_keeps x ((s.readReg b).toNat % 256)
  refine ⟨⟨_, exec_cperm_writes ha free, permCap_perm _ _, ht, obj, cur, base, top⟩,
    fun t he hle hmax => ⟨fun hlo hhi hcur ht' => ?_, fun y hy => ?_⟩, fun t he h => exec_cbound_raises ha free he (boundCap_none h),
    fun t g he hle hmax hfit hfirst => ⟨fun h => ?_, fun hlo hhi => ?_⟩⟩
  · obtain ⟨y, hy, base, top⟩ := boundCap_exact hle hmax hlo hhi hcur ht'
    exact ⟨y, exec_cbound_writes ha free he hy, base, top⟩
  · exact ⟨exec_cbound_writes ha free he hy, boundCap_within hle hmax hy⟩
  · exact exec_cbound_raises ha free he ((boundCap_eq hle hmax ⟨hfit, hfirst⟩).trans (if_pos h))
  · have hg : FirstGranule t g := ⟨hfit, hfirst⟩
    obtain ⟨obj, cur, perm, g', lo, hi⟩ := boundTo_fields (x := x) hle hmax hg
    have held := not_or.2 ⟨not_lt.2 hlo, not_lt.2 hhi⟩
    exact ⟨boundTo x t g, exec_cbound_writes ha free he ((boundCap_eq hle hmax hg).trans (if_neg held)), ht, obj, cur, perm, g', lo, hi⟩

end Machine
end Sys2Proof
end

section
/-!
PROOF. Floating-point instructions: special operands, signs and classes, and completion with result and flags (R116 to R122).
-/
namespace Sys2Proof.Machine

/-! ### Special operands (R57, R118) -/

theorem FVal.isNan_of_isSnan {v : FVal} (h : v.isSnan = true) : v.isNan = true := by
  cases v with
  | nan s => rfl
  | _ => cases h

section
variable {f : Fmt} {md : RMode} {x y : Nat}

/-- A NaN operand makes every result of two operands the NaN of the format, with nv where one of them signals. -/
theorem Fmt.two_nan (h : ((f.val x).isNan || (f.val y).isNan) = true) : let r := f.nanRes ((f.val x).isSnan || (f.val y).isSnan)
    f.add md x y = r ∧ f.sub md x y = r ∧ f.mul md x y = r ∧ f.div md x y = r :=
  ⟨if_pos h, if_pos h, if_pos h, if_pos h⟩

theorem Fmt.two_inf {a b : Bool} (hx : f.val x = .inf a) (hy : f.val y = .inf b) : f.div md x y = (f.nan, flNV) ∧
    (a ≠ b → f.add md x y = (f.nan, flNV)) ∧ (a = b → f.sub md x y = (f.nan, flNV)) := by
  refine ⟨?_, fun h => ?_, fun h => ?_⟩
  · simp [Fmt.div, hx, hy, FVal.isNan, Fmt.nanRes]
  · simp [Fmt.add, hx, hy, FVal.isNan, Fmt.addV, Fmt.nanRes, h]
  · simp [Fmt.sub, hx, hy, FVal.isNan, FVal.neg, Fmt.addV, Fmt.nanRes, h]

theorem Fmt.zero_mul_inf {a b : Bool} (hx : f.val x = .zero a) (hy : f.val y = .inf b) : f.mul md x y = (f.nan, flNV) ∧
    ∀ z, f.fma md x y z = (f.nan, flNV) := by
  have bad : FVal.badMul (.zero a) (.inf b) = true := rfl
  refine ⟨?_, fun z => ?_⟩
  · simp [Fmt.mul, hx, hy, FVal.isNan, bad, Fmt.nanRes]
  · simp [Fmt.fma, Fmt.fmaV, hx, hy, FVal.isSnan, bad, Fmt.nanRes]

theorem Fmt.div_by_zero {b : Bool} (hy : f.val y = .zero b) : (∀ a, f.val x = .zero a → f.div md x y = (f.nan, flNV)) ∧
    ∀ a m e, f.val x = .fin a m e → f.div md x y = (f.inf (a != b), flDZ) := by
  refine ⟨fun a hx => ?_, fun a m e hx => ?_⟩
  · simp [Fmt.div, hx, hy, FVal.isNan, Fmt.nanRes]
  · simp [Fmt.div, hx, hy, FVal.isNan, FVal.sign]

end

theorem floatSpecials : Claim.FloatSpecials := by
  refine ⟨by decide, fun k md x y => ?_⟩
  intro f u v
  refine ⟨fun h => ?_, fun h hu hv => ?_, fun a b => Fmt.two_inf, fun a b hx hy => ?_, fun a b hx hy => (Fmt.div_by_zero hy).1 a hx,
    fun a b m e hx hy => (Fmt.div_by_zero hy).2 a m e hx, fun a hx => ?_, fun hx => ?_, fun hx => ?_, fun m e hx => ?_⟩
  · have signals : (u.isSnan || v.isSnan) = true := by simpa using h
    have nan : (u.isNan || v.isNan) = true := by simpa using h.imp FVal.isNan_of_isSnan FVal.isNan_of_isSnan
    have := Fmt.two_nan (md := md) nan
    rwa [signals] at this
  · have := Fmt.two_nan (md := md) (show (u.isNan || v.isNan) = true by simpa using h)
    rwa [hu, hv] at this
  · obtain ⟨product, sum⟩ := Fmt.zero_mul_inf (md := md) hx hy
    exact ⟨product, fun z _ => sum z⟩
  all_goals
    have hx : f.val x = _ := hx
    simp [Fmt.sqrt, Fmt.rsqrt, Fmt.exp2, Fmt.log2, hx, Fmt.nanRes]

/-! ### Completion with a result and its flags (R20, R116) -/

theorem writesF_of_run {i : Instr} {s : State} {d : RegF} {r : FRes} {o : Opnds} {body : State → Act}
    (he : exec i s = run .plain 4 o body s) (ha : Admits s o) (hb : body s = .done (s.putF d r)) : WritesF s i d r o.reads :=
  he.trans (run_done (by simp) ha.1 ha.2 hb)

section
variable {i : Instr} {s : State} {f : BitVec 2} {d a b : RegF} {rm : BitVec 3} {r : FRes}

theorem writesF_of_fp2 {op : Fmt → RMode → Nat → Nat → FRes} (he : exec i s = fp2 f d a b rm op s)
    (ha : Admits s { reads := [a, b], writes := [d] }) (hr : op (fOf f) (s.rmode rm) (s.rnat a) (s.rnat b) = r) :
    WritesF s i d r [a, b] :=
  writesF_of_run he ha (hr ▸ rfl)
theorem writesF_of_fp1 {op : RMode → Nat → FRes} (he : exec i s = fp1 d a rm op s) (ha : Admits s { reads := [a], writes := [d] })
    (hr : op (s.rmode rm) (s.rnat a) = r) : WritesF s i d r [a] :=
  writesF_of_run he ha (hr ▸ rfl)

end

theorem floatArithmetic : Claim.FloatArithmetic := by
  refine ⟨fun s f d a b rm ha => ?_, fun s f d a rm ha => ?_, fun s f d a b rm ha => writesF_of_run (exec_ffma ..) ha rfl,
    fun s rm => ?_, fun s n hf => ?_⟩
  · simp only [floatTwo, List.mem_cons, List.not_mem_nil, or_false, forall_eq_or_imp, forall_eq]
    exact ⟨writesF_of_fp2 (exec_fadd ..) ha rfl, writesF_of_fp2 (exec_fsub ..) ha rfl, writesF_of_fp2 (exec_fmul ..) ha rfl,
      writesF_of_fp2 (exec_fdiv ..) ha rfl, writesF_of_fp2 (exec_fmin ..) ha rfl, writesF_of_fp2 (exec_fmax ..) ha rfl,
      writesF_of_run (exec_fscale ..) ha rfl⟩
  · simp only [floatOne, List.mem_cons, List.not_mem_nil, or_false, forall_eq_or_imp, forall_eq]
    exact ⟨writesF_of_fp1 (exec_fsqrt ..) ha rfl, writesF_of_fp1 (exec_frsqrt ..) ha rfl, writesF_of_fp1 (exec_fexp2 ..) ha rfl,
      writesF_of_fp1 (exec_flog2 ..) ha rfl, writesF_of_fp1 (exec_fround ..) ha rfl⟩
  · exact (apply_ite Machine.rmode ..).symm
  · rw [State.orFlags, if_neg (by simp [hf])]

/-! ### Signs and classes (R54, R120, R121) -/

theorem fOf_width (f : BitVec 2) : (fOf f).width = [64, 32, 16, 16].getD f.toNat 64 := by revert f; decide

/-- Of n bits, the highest is changed and the others stay. -/
theorem xor_high_bit (x : Nat) {n : Nat} (hn : 0 < n) : x % 2 ^ n ^^^ 2 ^ (n - 1) =
    if x / 2 ^ (n - 1) % 2 = 1 then x % 2 ^ (n - 1) else 2 ^ (n - 1) + x % 2 ^ (n - 1) := by
  obtain ⟨k, rfl⟩ := Nat.exists_eq_add_of_lt hn
  rw [Nat.zero_add, Nat.add_sub_cancel]
  have high : (x % 2 ^ (k + 1) ^^^ 2 ^ k) / 2 ^ k = if x / 2 ^ k % 2 = 1 then 0 else 1 := by
    rw [Nat.xor_div_two_pow, pow_succ, Nat.mod_mul_right_div_self, Nat.div_self (by positivity)]
    rcases Nat.mod_two_eq_zero_or_one (x / 2 ^ k) with h | h <;> simp [h]
  have low : (x % 2 ^ (k + 1) ^^^ 2 ^ k) % 2 ^ k = x % 2 ^ k := by
    rw [Nat.xor_mod_two_pow, Nat.mod_self, Nat.xor_zero, Nat.mod_mod_of_dvd _ (pow_dvd_pow 2 (Nat.le_succ k))]
  rw [← Nat.div_add_mod (x % 2 ^ (k + 1) ^^^ 2 ^ k) (2 ^ k), high, low]
  split <;> simp

/-- The number of the class bit of a value (R121); mb tells normal values from subnormal ones. -/
def FVal.classBit (mb : Nat) : FVal → Nat
  | .inf true => 0
  | .fin true m _ => if m < 2 ^ mb then 2 else 1
  | .zero true => 3
  | .zero false => 4
  | .fin false m _ => if m < 2 ^ mb then 5 else 6
  | .inf false => 7
  | .nan true => 8
  | .nan false => 9

theorem Fmt.classOf_eq (f : Fmt) (x : Nat) : f.classOf x = 2 ^ (f.val x).classBit f.mb := by
  unfold Fmt.classOf
  generalize f.val x = v
  cases v with
  | nan signal => cases signal <;> rfl
  | inf neg => cases neg <;> rfl
  | zero neg => cases neg <;> rfl
  | fin neg m e => cases neg <;> simp only [FVal.classBit] <;> split <;> rfl

/-- Each class bit names its class alone (R121). -/
theorem FVal.classBit_iff (mb : Nat) (v : FVal) : v.classBit mb ≤ 9 ∧
    (v.classBit mb = 9 ↔ v = .nan false) ∧ (v.classBit mb = 8 ↔ v = .nan true) ∧ (v.classBit mb = 7 ↔ v = .inf false) ∧
    (v.classBit mb = 0 ↔ v = .inf true) ∧ (v.classBit mb = 4 ↔ v = .zero false) ∧ (v.classBit mb = 3 ↔ v = .zero true) ∧
    (v.classBit mb = 6 ↔ ∃ m e, v = .fin false m e ∧ 2 ^ mb ≤ m) ∧ (v.classBit mb = 1 ↔ ∃ m e, v = .fin true m e ∧ 2 ^ mb ≤ m) := by
  cases v with
  | nan s => cases s <;> simp [FVal.classBit]
  | inf s => cases s <;> simp [FVal.classBit]
  | zero s => cases s <;> simp [FVal.classBit]
  | fin s m e =>
    rcases Nat.lt_or_ge m (2 ^ mb) with h | h <;> cases s <;> simp [FVal.classBit, h, h.not_gt]

theorem floatSignAndClass : Claim.FloatSignAndClass := by
  intro s f d a ha n x
  have width : (fOf f).width = n := fOf_width f
  have pos : 0 < n := by rw [← width, Fmt.width]; omega
  obtain ⟨small, bits⟩ := FVal.classBit_iff (fOf f).mb ((fOf f).val x)
  refine ⟨writesF_of_fp1 (exec_fabs ..) ha ?_, writesF_of_fp1 (exec_fneg ..) ha ?_, _, small, writesF_of_fp1 (exec_fclass ..) ha ?_, bits⟩
  · rw [signBit, width]
    rfl
  · rw [signBit, width, xor_high_bit _ pos]
    rfl
  · rw [Fmt.classOf_eq]
    rfl

/-- Settles O14: the special operands pass through the branches of each operation, and an instruction completes with its operation's
result and flags. -/
theorem floatResults : Obligations.FloatResults := ⟨floatSpecials, floatSignAndClass, floatArithmetic⟩

end Sys2Proof.Machine
end

section
/-!
PROOF. The frame of every element (R143) does not hold as stated: a `split` whose round ends while its output is full stalls
at the marker instead of waiting.
-/
namespace Sys2Proof.Machine

/-- A `split` at site 2 of the running slot of field 0, in round 1. -/
def splitElem : Elem := Elem.fresh 2 false 0 (BitVec.ofNat 256 (0x11 * 2 ^ 235)) 1
def splitSlot : Slot := { Slot.blank 0 0 with st := .running, elems := [splitElem] }
/-- The marker of round 1 stands at its one input. -/
def markerIn : Chan :=
  { id := 0, slot := 0, vec := false, src := ⟨0, 1, false, 0⟩, dst := ⟨0, 2, false, 0⟩, cap := 1, q := [markBeat false 1]
    openv := false, kill := false, stopped := false, discard := 0 }
/-- The channel of its output holds as many beats as it can: the marker of round 0. -/
def fullOut : Chan :=
  { id := 1, slot := 0, vec := true, src := ⟨0, 2, false, 0⟩, dst := ⟨0, 3, false, 0⟩, cap := 1, q := [markBeat true 0]
    openv := false, kill := false, stopped := false, discard := 0 }
def heldSplit : State := { State.reset with slots := [splitSlot], chans := [markerIn, fullOut] }
def heldFx : Fx := { s := heldSplit, sl := splitSlot, e := splitElem }

theorem heldSplit_at : heldSplit.computeAt 0 2 0x11 = some heldFx := by
  have picked : (splitSlot.elems.find? fun e => e.at 2 false && (e.isC && e.op = 0x11)) = some splitElem := by decide +kernel
  show (splitSlot.elems.find? fun e => e.at 2 false && (e.isC && e.op = 0x11)).map _ = _
  rw [picked]
  rfl

/-- The marker cannot leave, and `split` takes it for a word too many: it stalls with ROUND_TAG (R155), and its record is posted. -/
theorem heldSplit_stalls : (fireSplit 0 2 heldSplit).map (·.posts.length) = some 1 := by decide +kernel

/-- Refutes O36: the marker at the one input of a `split` is that of its round and its output is full, so the element should wait
(R135, R143); its step stalls it. -/
theorem not_firingFrame : ¬ Obligations.FiringFrame := by
  intro frame
  have stateless : IsStateless 0 2 (.split 0 2) 0x11 := .inr (by simp)
  have here : heldFx.Here := ⟨by decide +kernel, by decide⟩
  obtain ⟨_, awake, _⟩ := frame heldSplit 0 2 heldFx (.split 0 2) 0x11 (.inl stateless) heldSplit_at here
  obtain ⟨_, _, marks⟩ := awake rfl rfl (by decide +kernel) (by decide)
  obtain ⟨sends, _⟩ := marks stateless rfl rfl (by decide +kernel) rfl (by decide +kernel) (by decide +kernel)
  obtain ⟨⟨waits, _⟩, _⟩ := sends (by decide +kernel)
  have stays : exec (.split 0 2) heldSplit = .next heldSplit := waits (by decide +kernel)
  obtain ⟨t, fired, posted⟩ := Option.map_eq_some_iff.1 heldSplit_stalls
  rw [exec_split, execSplit, stepOf_some fired] at stays
  obtain ⟨l, hl⟩ := t.syncRounds_eq
  have kept : t.posts = heldSplit.posts := by
    rw [← Host.Outcome.next.inj stays, hl]
  rw [kept] at posted
  exact absurd posted (by decide)

end Sys2Proof.Machine
end

section
/-!
PROOF. Switch operations and filters (R132, R138, R139, R142, R143, R183 to R187, R446 to R449): what a token passed whole may not
hold, how a beat of it is passed and how markers pass, and what each operation of a router answers.
-/
namespace Sys2Proof.Machine

/-! ### The checks of a token passed whole (R132, R139, R142) -/

/-- Bits 31:29 of a word are zero where it is below 2^29. -/
theorem headBits_zero {w : W32} (h : w.toNat < 2 ^ 29) : bits w.toNat 29 3 = 0 := by
  unfold bits
  omega
theorem headBits_ne {w : W32} (h : 2 ^ 29 ≤ w.toNat) : bits w.toNat 29 3 ≠ 0 := by
  have := w.isLt
  unfold bits
  omega

theorem bits_beat (b : Beat) : bits b.v.toNat 0 48 = b.v.toNat := by
  have := b.v.isLt
  unfold bits
  omega
theorem Beat.code_ne_one {b : Beat} (h : b.v ≠ 1) : bits b.v.toNat 0 48 ≠ 1 := by
  rw [bits_beat]
  exact fun e => h (BitVec.eq_of_toNat_eq e)
theorem Beat.code_one {b : Beat} (h : b.v = 1) : bits b.v.toNat 0 48 = 1 := by
  rw [h]
  rfl

/-- Scalar tokens: only a record head with bits 31:29 not zero is bad (R139). -/
theorem Fx.badToken_scalar {x : Fx} {i : Nat} (b : Beat) (hv : x.vec i = false) : x.badToken i b =
    if x.e.lastIn = 0 && b.kind = kHead && bits b.word.toNat 29 3 ≠ 0 then some (x.stallAt ccCfg 0x24 i) else none := by
  simp [Fx.badToken, hv]
/-- Where a value may begin, a digit or a reserved control code is bad (R132). -/
theorem Fx.badToken_start {x : Fx} {i : Nat} (b : Beat) (hv : x.vec i = true) (hl : x.e.lastIn = 0) : x.badToken i b =
    if b.kind = 0 then some (x.stallAt ccCfg 0x22 i)
    else if b.isCtl true && bits b.v.toNat 0 48 ≠ 1 then some (x.stallAt ccCfg 0x21 i) else none := by
  simp [Fx.badToken, hv, hl]
/-- Inside a value, only a digit may come, and the first of another round is bad (R132, R142). -/
theorem Fx.badToken_inside {x : Fx} {i : Nat} (b : Beat) (hv : x.vec i = true) (hl : x.e.lastIn ≠ 0) : x.badToken i b =
    if b.kind ≠ 0 then some (x.stallAt ccCfg 0x22 i)
    else if x.e.sent = 1 && BitVec.ofNat 4 b.tag ≠ (x.e.rinAt i).setWidth 4 then
      some (x.stallAt ccRoundTag 0x31 i (BitVec.ofNat 32 b.tag)) else none := by
  simp [Fx.badToken, hv, hl]

theorem tokenChecks : Claim.TokenChecks := by
  intro x i b
  refine ⟨fun hv hl hk hw => ?_, fun hv h => ?_, fun hv hl hk => ?_, fun hv hl hk hc => ?_, fun hv hl h => ?_, fun hv hl hk => ?_,
    fun hv hl hk => ⟨fun hf ht => ?_, fun h => ?_⟩⟩
  · rw [Fx.badToken_scalar b hv]
    exact if_pos (by simp [hl, hk, headBits_ne hw])
  · rw [Fx.badToken_scalar b hv]
    refine if_neg ?_
    rcases h with hk | hw
    · simp [hk]
    · simp [headBits_zero hw]
  · rw [Fx.badToken_start b hv hl, if_pos hk]
  · rw [Fx.badToken_start b hv hl, if_neg (by simp [hk])]
    exact if_pos (by simp [Beat.isCtl, hk, Beat.code_ne_one hc])
  · rw [Fx.badToken_start b hv hl]
    rcases h with hk | ⟨hk, hc⟩
    · rw [if_neg (by simp [hk]), if_neg (by simp [Beat.isCtl, hk])]
    · rw [if_neg (by simp [hk]), if_neg (by simp [Beat.code_one hc])]
  · rw [Fx.badToken_inside b hv hl, if_pos hk]
  · rw [Fx.badToken_inside b hv hl, if_neg (by simp [hk])]
    exact if_pos (by simp [hf, ht])
  · rw [Fx.badToken_inside b hv hl, if_neg (by simp [hk])]
    refine if_neg ?_
    simpa [imp_iff_not_or] using h

/-- A record's head below 2^29 may begin a token on either network. -/
theorem Fx.badToken_head {x : Fx} {i : Nat} {b : Beat} (hl : x.e.lastIn = 0) (hk : b.kind = kHead) (hw : b.word.toNat < 2 ^ 29) :
    x.badToken i b = none := by
  cases hv : x.vec i with
  | false => rw [Fx.badToken_scalar b hv, if_neg (by simp [headBits_zero hw])]
  | true => rw [Fx.badToken_start b hv hl, if_neg (by simp [hk, kHead]), if_neg (by simp [Beat.isCtl, hk, kHead])]

/-! ### The step of a router's operation -/

theorem State.fxAt_sw {s : State} {f site : Nat} {sw : Bool} {p : Elem → Bool} {x : Fx} (h : s.fxAt f site sw p = some x) :
    x.e.sw = sw := by
  unfold State.fxAt at h
  split at h
  · obtain ⟨e, he, rfl⟩ := Option.map_eq_some_iff.1 h
    have picked := List.find?_some he
    simp only [Elem.at, Bool.and_eq_true, beq_iff_eq] at picked
    exact picked.1.2
  · cases h

theorem Fx.clear.quiet {x : Fx} (h : x.clear) : x.quiet := by
  obtain ⟨hstall, hdead, hpost, helems, hdisc, hq, _, _⟩ := h
  exact ⟨hstall, hdead, hpost, helems, hdisc, hq⟩

theorem Fx.quiet.nothingFormed {x : Fx} (h : x.quiet) : x.e.outq = [] := by
  obtain ⟨_, _, _, _, _, hq⟩ := h
  exact hq

theorem Elem.isC_of_sw {e : Elem} (h : e.sw = true) : e.isC = false := by simp [Elem.isC, h]

/-- An operation of a router that keeps its own account of markers fires with nothing else due. -/
theorem Fx.fire_of_quiet {x : Fx} (h : x.quiet) (hsw : x.e.sw = true) (outs : List Nat) (body : Fx → Option State) :
    x.fire outs true body = (body x).map fun t => x.s.markLeft t x.sl.ctx := by
  obtain ⟨hstall, hdead, hpost, helems, hdisc, hq⟩ := h
  have goes : (x.sl.elems.any fun d => d.site = x.e.site && d.sw && x.e.sw && d.stall.isSome) = false := by
    rw [List.any_eq_false]
    intro d hd
    simp [helems d hd]
  have noTile : x.fillTile = none := Fx.fillTile_none fun hC => by rw [Elem.isC_of_sw hsw] at hC; cases hC
  have noCtl : x.control = none := by simp [Fx.control, hsw]
  unfold Fx.fire
  rw [if_neg (by simp [hstall, hdead, hpost, goes]), Fx.discard_none hdisc, hq, noTile, noCtl]
  simp

theorem stepOf_quiet {s : State} {x : Fx} (hs : x.s = s) (h : x.quiet) (hsw : x.e.sw = true) (outs : List Nat)
    (body : Fx → Option State) : stepOf s (x.fire outs true body) = stepOf s ((body x).map fun t => s.markLeft t x.sl.ctx) := by
  rw [Fx.fire_of_quiet h hsw, hs]

/-! ### Beats and markers passed (R138, R143, R184) -/

@[simp] theorem Fx.forward_sl (x : Fx) (i : Nat) (b : Beat) (outs : List Nat) : (x.forward i b outs).sl = x.sl := by
  simp [Fx.forward]
@[simp] theorem Fx.forward_e (x : Fx) (i : Nat) (b : Beat) (outs : List Nat) :
    (x.forward i b outs).e = { x.e with outq := x.e.outq ++ outs.map fun o => (o, b) } := by
  simp [Fx.forward, Fx.queue]
theorem Fx.passedOn_sl (x : Fx) (i o : Nat) (b : Beat) : (x.passedOn i o b).sl = x.sl := by
  unfold Fx.passedOn
  dsimp only
  split <;> simp

section
variable {s : State} {w : Instr} {x : Fx} {answer : Option State} {i o : Nat} {b : Beat}

/-- The first beat of a token is passed on, if nothing is wrong with it. -/
theorem Fx.passBeat_first (hl : x.e.lastIn = 0) (hb : x.head i = some b) (hg : x.badToken i b = none) :
    x.passBeat i o = (x.passedOn i o b).fired := by
  have notInside : ¬ (x.vec i && x.e.lastIn ≠ 0 && x.e.sent ≥ 2 && x.stoppedOn o) = true := by simp [hl]
  unfold Fx.passBeat Fx.passedOn Fx.tokenOn
  dsimp only
  rw [if_neg notInside]
  simp only [hb, hg]
  split <;> simp
theorem Fx.passBeat_bad {u : State} (hl : x.e.lastIn = 0) (hb : x.head i = some b) (hg : x.badToken i b = some u) :
    x.passBeat i o = some u := by
  simp [Fx.passBeat, hl, hb, hg]

theorem passes_of_answer (h : exec w s = stepOf s (answer.map fun t => s.markLeft t x.sl.ctx)) (ha : answer = x.passBeat i o)
    (hl : x.e.lastIn = 0) (hb : x.head i = some b) : Passes s w x i o b :=
  ⟨fun hg => sends_of_answer h (ha.trans (Fx.passBeat_first hl hb hg)) (Fx.passedOn_sl ..),
   fun _ hu => stalls_of_answer h (ha.trans (Fx.passBeat_bad hl hb hu))⟩

end

theorem Fx.keep_ids (x : Fx) (i : Nat) : (x.keep i).s.chans.map (·.id) = x.s.chans.map (·.id) := by
  unfold Fx.keep
  split
  · exact State.setChan_ids _ _
  · rfl

/-- A channel rewritten keeps the network of every output. -/
theorem Fx.outVec_setChan {x : Fx} {c d : Chan} (hn : (x.s.chans.map (·.id)).Nodup) (hc : c ∈ x.s.chans) (hid : d.id = c.id)
    (hslot : d.slot = c.slot) (hsrc : d.src = c.src) (hvec : d.vec = c.vec) (o : Nat) :
    (({ x with s := x.s.setChan d } : Fx).outC o).any (·.vec) = (x.outC o).any (·.vec) := by
  have same : ∀ a ∈ x.s.chans, ((if a.id = d.id then d else a).slot = a.slot ∧ (if a.id = d.id then d else a).src = a.src ∧
      (if a.id = d.id then d else a).vec = a.vec) := by
    intro a ha
    split
    · next h =>
      obtain rfl : a = c := List.inj_on_of_nodup_map hn ha hc (h.trans hid)
      exact ⟨hslot, hsrc, hvec⟩
    · exact ⟨rfl, rfl, rfl⟩
  show ((x.s.chans.map fun a => if a.id = d.id then d else a).filter _).any _ = (x.s.chans.filter _).any _
  rw [List.any_filter, List.any_filter, List.any_map, Bool.eq_iff_iff, List.any_eq_true, List.any_eq_true]
  refine exists_congr fun a => and_congr_right fun ha => ?_
  obtain ⟨h1, h2, h3⟩ := same a ha
  simp only [Function.comp, h1, h2, h3]
  rfl

theorem Fx.outVec_drop {x : Fx} (hn : (x.s.chans.map (·.id)).Nodup) (i o : Nat) :
    ((x.drop i).outC o).any (·.vec) = (x.outC o).any (·.vec) := by
  unfold Fx.drop
  split
  · next c hc => exact Fx.outVec_setChan hn (Fx.inC_some hc).1 (by rfl) (by rfl) (by rfl) (by rfl) o
  · rfl
theorem Fx.outVec_keep {x : Fx} (hn : (x.s.chans.map (·.id)).Nodup) (i o : Nat) :
    ((x.keep i).outC o).any (·.vec) = (x.outC o).any (·.vec) := by
  unfold Fx.keep
  split
  · next c hc => exact Fx.outVec_setChan hn (Fx.inC_some hc).1 (by rfl) (by rfl) (by rfl) (by rfl) o
  · rfl

/-- The markers at some inputs taken. -/
def Fx.marksTaken (x : Fx) (ins : List Nat) : Fx := ins.foldl (fun x i => (x.drop i).keep i) x

theorem Fx.marksTaken_e (x : Fx) (ins : List Nat) : (x.marksTaken ins).e = x.e := by
  unfold Fx.marksTaken
  induction ins generalizing x with
  | nil => rfl
  | cons i r ih => exact (ih _).trans (by simp)
theorem Fx.marksTaken_outVec {x : Fx} (hn : (x.s.chans.map (·.id)).Nodup) (ins : List Nat) (o : Nat) :
    ((x.marksTaken ins).outC o).any (·.vec) = (x.outC o).any (·.vec) := by
  unfold Fx.marksTaken
  induction ins generalizing x with
  | nil => rfl
  | cons i r ih =>
    have dropped : ((x.drop i).s.chans.map (·.id)).Nodup := by rwa [Fx.drop_ids]
    have taken : (((x.drop i).keep i).s.chans.map (·.id)).Nodup := by rwa [Fx.keep_ids]
    exact (ih taken).trans ((Fx.outVec_keep dropped i o).trans (Fx.outVec_drop hn i o))

/-- The markers at some inputs of a router pass together. -/
theorem Fx.pastMarks_e {x : Fx} {ins : List Nat} (hsw : x.e.sw = true) (hn : (x.s.chans.map (·.id)).Nodup) (hq : x.e.outq = [])
    (hi : ins ≠ []) (o : Nat) : (x.pastMarks ins [o]).e = x.passedMark ins o := by
  have taken : (x.pastMarks ins [o]).e = { x.e with
      rin := x.e.rin.mapIdx fun i r => if ins.contains i then r + 1 else r, nval := 0
      outq := x.e.outq ++ [(o, markBeat (((x.marksTaken ins).outC o).any (·.vec)) (x.e.rinAt (ins.headD 0)))] } := by
    cases ins with
    | nil => exact absurd rfl hi
    | cons i r =>
      unfold Fx.pastMarks
      dsimp only [Fx.queue]
      rw [show (i :: r).foldl (fun x i => (x.drop i).keep i) x = x.marksTaken (i :: r) from rfl, Fx.marksTaken_e]
      simp [Elem.isC, hsw]
  rw [taken, Fx.marksTaken_outVec hn, hq]
  rfl

theorem Fx.badMark_agree {x : Fx} {ins : List Nat} (h : ∀ i ∈ ins, (x.head i).map (·.word) = some (x.e.rinAt i)) :
    x.badMark ins = none := by
  refine List.find?_eq_none.2 fun i hi => ?_
  obtain ⟨b, hb, hw⟩ := Option.map_eq_some_iff.1 (h i hi)
  simp [hb, hw]

theorem marks_of_answer {s : State} {w : Instr} {x : Fx} {answer : Option State} {ins : List Nat} {o : Nat}
    (h : exec w s = stepOf s (answer.map fun t => s.markLeft t x.sl.ctx)) (ha : answer = x.passMark ins [o]) (hsw : x.e.sw = true)
    (hx : x.Here) (hm : x.atMark ins) : Marks s w x ins o := by
  obtain ⟨⟨_, _, _, _, _, hq⟩, _, hi, heads⟩ := hm
  refine ⟨sends_of_answer h (ha.trans ?_) (Fx.pastMarks_sl ..), Fx.pastMarks_e hsw hx.2 hq hi o⟩
  rw [Fx.passMark, Fx.ifMarks, Fx.badMark_agree fun i hi => (heads i hi).2]

/-! ### Steer (R183) -/

/-- The first entry for a pipe, with its number. -/
def Elem.steerFor (e : Elem) (pipe : Nat) : Option (Nat × Nat × Nat × Nat) :=
  (List.range 8).findSome? fun j => (e.steerEntry j).bind fun t => if t.1 = pipe then some (j, t) else none
/-- A head sent to output pv with pipe np. -/
def Fx.routed (x : Fx) (b : Beat) (np pv : Nat) : Fx :=
  let z := x.forward 0 { b with v := BitVec.ofNat 48 (b.word.toNat - b.word.toNat % 256 + np) } [pv]
  { z with e := { z.e with lastIn := pv + 1 } }

theorem Elem.steerFor_first {e : Elem} {j np pv pipe : Nat} (hj : j < 8) (he : e.steerEntry j = some (pipe, np, pv))
    (hf : ∀ i t, i < j → e.steerEntry i = some t → t.1 ≠ pipe) : e.steerFor pipe = some (j, pipe, np, pv) := by
  have split : List.range 8 = List.range j ++ j :: List.range' (j + 1) (7 - j) := by
    have whole := (List.range'_append_1 (s := 0) (m := j) (n := 7 - j + 1)).symm
    rw [Nat.zero_add, show j + (7 - j + 1) = 8 by omega, ← List.range_eq_range', ← List.range_eq_range'] at whole
    rw [whole, List.range'_succ]
  refine List.findSome?_eq_some_iff.2 ⟨_, _, _, split, by simp [he], fun i hi => ?_⟩
  cases hs : e.steerEntry i with
  | none => rfl
  | some t => exact if_neg (hf i t (List.mem_range.1 hi) hs)
theorem Elem.steerFor_none {e : Elem} {pipe : Nat} (hf : ∀ i t, i < 8 → e.steerEntry i = some t → t.1 ≠ pipe) :
    e.steerFor pipe = none := by
  refine List.findSome?_eq_none_iff.2 fun j hj => ?_
  cases he : e.steerEntry j with
  | none => rfl
  | some t => exact if_neg (hf j t (List.mem_range.1 hj) he)

theorem pipe_bits (v : Nat) : bits v 0 8 = v % 256 := by simp [bits]

section
variable {s : State} {f site : Nat} {x : Fx} {b : Beat}

/-- Data is a marker of neither network's kind for a scalar operation. -/
theorem Beat.isMark_of_isData {b : Beat} {vec : Bool} (h : b.isData vec = true) : b.isMark vec = false ∧ b.isMark false = false := by
  cases vec <;> simp_all [Beat.isData, Beat.isMark, Beat.isCtl, markKind]

/-- Data at an input is no marker, whatever the network of the operation. -/
theorem Fx.clear.notMark {i : Nat} (hc : x.clear) (hb : x.head i = some b) : b.isMark (x.vec i) = false ∧ b.isMark false = false := by
  obtain ⟨_, _, _, _, _, _, _, data⟩ := hc
  exact Beat.isMark_of_isData (data i b hb)

variable (hx : s.switchAt f site 0x01 = some x) (hc : x.clear) (hb : x.head 0 = some b)
include hx hc hb

/-- A record under way goes on to the output that its head has chosen. -/
theorem exec_steer_goesOn (hl : x.e.lastIn ≠ 0) : exec (.steer f site) s = stepOf s
    ((({ x.forward 0 b [x.e.lastIn - 1] with e := { (x.forward 0 b [x.e.lastIn - 1]).e with
      lastIn := if b.kind = kTail then 0 else x.e.lastIn } } : Fx).fired).map fun t => s.markLeft t x.sl.ctx) := by
  rw [exec_steer, execSteer, fireSteer, hx, Option.bind_some, stepOf_fire (State.fxAt_some hx).1 hc]
  simp only [hb]
  rw [if_pos hl]

/-- Where a record should begin, something else stalls the operation (R132). -/
theorem exec_steer_noHead (hl : x.e.lastIn = 0) (hk : b.kind ≠ kHead) :
    exec (.steer f site) s = stepOf s ((some (x.stallAt ccCfg 0x22 0)).map fun t => s.markLeft t x.sl.ctx) := by
  rw [exec_steer, execSteer, fireSteer, hx, Option.bind_some, stepOf_fire (State.fxAt_some hx).1 hc]
  simp only [hb, (hc.notMark hb).2]
  rw [if_neg (by simp [hl]), if_neg (by decide), if_pos hk]

/-- A head with bits 31:29 not zero stalls it (R139). -/
theorem exec_steer_badHead (hl : x.e.lastIn = 0) (hk : b.kind = kHead) (hw : 2 ^ 29 ≤ b.word.toNat) :
    exec (.steer f site) s = stepOf s ((some (x.stallAt ccCfg 0x24 0)).map fun t => s.markLeft t x.sl.ctx) := by
  rw [exec_steer, execSteer, fireSteer, hx, Option.bind_some, stepOf_fire (State.fxAt_some hx).1 hc]
  simp only [hb, (hc.notMark hb).2]
  rw [if_neg (by simp [hl]), if_neg (by decide), if_neg (by simp [hk]), if_pos (headBits_ne hw)]

/-- A head whose pipe no entry names stalls it (R183). -/
theorem exec_steer_unmatched (hl : x.e.lastIn = 0) (hk : b.kind = kHead) (hw : b.word.toNat < 2 ^ 29)
    (hr : x.e.steerFor (b.word.toNat % 256) = none) :
    exec (.steer f site) s = stepOf s ((some (x.stallAt ccCfg 0x25 0)).map fun t => s.markLeft t x.sl.ctx) := by
  rw [exec_steer, execSteer, fireSteer, hx, Option.bind_some, stepOf_fire (State.fxAt_some hx).1 hc]
  simp only [hb, (hc.notMark hb).2, pipe_bits]
  rw [if_neg (by simp [hl]), if_neg (by decide), if_neg (by simp [hk]), if_neg (by simp [headBits_zero hw])]
  simp only [Elem.steerFor] at hr
  simp only [hr]

/-- A head goes on with the new pipe of the first entry that names its own, and a carry's record is counted out there (R185). -/
theorem exec_steer_routes {j np pv : Nat} {t : Nat × Nat × Nat} (hl : x.e.lastIn = 0) (hk : b.kind = kHead)
    (hw : b.word.toNat < 2 ^ 29) (hr : x.e.steerFor (b.word.toNat % 256) = some (j, t)) (ht : t.2 = (np, pv)) :
    exec (.steer f site) s = stepOf s ((((x.routed b np pv).fired).map fun u => u.countOut x.sl (x.sl.fld, x.e.site, true) j).map
      fun t => s.markLeft t x.sl.ctx) := by
  obtain ⟨m, _, _⟩ := t
  cases ht
  rw [exec_steer, execSteer, fireSteer, hx, Option.bind_some, stepOf_fire (State.fxAt_some hx).1 hc]
  simp only [hb, (hc.notMark hb).2, pipe_bits]
  rw [if_neg (by simp [hl]), if_neg (by decide), if_neg (by simp [hk]), if_neg (by simp [headBits_zero hw])]
  simp only [Elem.steerFor] at hr
  simp only [hr, Fx.routed, Fx.forward_sl, Fx.forward_e]

end

/-! ### Merge and join node (R184, R449) -/

theorem Fx.holdsToken_of_clear {x : Fx} (hc : x.clear) (i : Nat) : x.holdsToken i = (x.head i).isSome := by
  unfold Fx.holdsToken
  cases hb : x.head i with
  | none => rfl
  | some b => simp [(hc.notMark hb).1]
theorem Fx.marked_of_clear {x : Fx} (hc : x.clear) (i : Nat) : x.marked i = false := by
  obtain ⟨_, _, _, _, _, _, _, data⟩ := hc
  exact Fx.marked_false (data i)

/-- A marker at an input is no token. -/
theorem Fx.marked_of_holdsToken {x : Fx} {i : Nat} (h : x.holdsToken i = true) : x.marked i = false := by
  unfold Fx.holdsToken at h
  unfold Fx.marked
  cases hb : x.head i with
  | none => rfl
  | some b =>
    rw [hb] at h
    have : b.isMark (x.vec i) = false := by simpa using h
    simp [this]

section
variable {s : State} {f site : Nat} {x : Fx}

/-- What the operation at a router answers with nothing else due is its step. -/
theorem switch_answer {op : Nat} {i : Instr} {outs : List Nat} {body : Fx → Option State} {a : Option State}
    (hx : s.switchAt f site op = some x) (hq : x.quiet) (hi : exec i s = stepOf s (x.fire outs true body)) (ha : body x = a) :
    exec i s = stepOf s (a.map fun t => s.markLeft t x.sl.ctx) := by
  rw [hi, stepOf_quiet (State.fxAt_some hx).1 hq (State.fxAt_sw hx), ha]

variable (hx : s.switchAt f site 0x02 = some x) (hq : x.quiet) (hl : x.e.lastIn = 0)
include hx hq hl

section
variable (hp : x.e.p 204 1 = 0)
include hp

/-- A merge passes a token where no marker has come. -/
theorem exec_merge_token {j : Nat} (hm : x.e.mergeIns.find? x.marked = none) (hj : x.e.mergeIns.find? x.holdsToken = some j) :
    exec (.merge f site) s = stepOf s ((x.passBeat j x.e.swOut).map fun t => s.markLeft t x.sl.ctx) := by
  have notAll : x.e.mergeIns.all x.marked = false :=
    List.all_eq_false.2 ⟨j, List.mem_of_find?_eq_some hj, by simp [Fx.marked_of_holdsToken (List.find?_some hj)]⟩
  refine switch_answer (outs := [x.e.swOut]) hx hq (by
    rw [exec_merge, execMerge, fireMerge, hx, Option.bind_some, if_neg (by simp [hp])]) ?_
  simp only [hl, notAll, hm, hj, ne_eq, not_true_eq_false, Bool.and_false, Bool.false_eq_true, if_false]

/-- A merge passes the markers once one stands at every input. -/
theorem exec_merge_marks (hi : x.e.mergeIns ≠ []) (hm : ∀ i ∈ x.e.mergeIns, x.marked i = true) :
    exec (.merge f site) s = stepOf s ((x.passMark x.e.mergeIns [x.e.swOut]).map fun t => s.markLeft t x.sl.ctx) := by
  refine switch_answer (outs := [x.e.swOut]) hx hq (by
    rw [exec_merge, execMerge, fireMerge, hx, Option.bind_some, if_neg (by simp [hp])]) ?_
  have all : (!x.e.mergeIns.isEmpty && x.e.mergeIns.all x.marked) = true := by simpa [hi] using hm
  simp only [hl, all, ne_eq, not_true_eq_false, if_false, if_true]

/-- A marker beside a token stalls a merge (R143, log 91). -/
theorem exec_merge_mixed {i j : Nat} {b : Beat} (hi : x.e.mergeIns.find? x.marked = some i)
    (hj : x.e.mergeIns.find? x.holdsToken = some j) (ht : x.tokened j = true) (hb : x.head i = some b) :
    exec (.merge f site) s = stepOf s ((some (x.stallAt ccRoundTag 0x32 i b.word)).map fun t => s.markLeft t x.sl.ctx) := by
  have notAll : x.e.mergeIns.all x.marked = false :=
    List.all_eq_false.2 ⟨j, List.mem_of_find?_eq_some hj, by simp [Fx.marked_of_holdsToken (List.find?_some hj)]⟩
  refine switch_answer (outs := [x.e.swOut]) hx hq (by
    rw [exec_merge, execMerge, fireMerge, hx, Option.bind_some, if_neg (by simp [hp])]) ?_
  simp only [hl, notAll, hi, hj, ht, hb, ne_eq, not_true_eq_false, Bool.and_false, Bool.false_eq_true, if_false, if_true]
  rfl

end

variable {i : Nat} {b : Beat} (hp : x.e.p 204 1 = 1) (hi : x.e.mergeIns[x.e.tok]? = some i) (hb : x.head i = some b)
include hp hi hb

/-- A join node passes the tokens of the input whose turn it is. -/
theorem exec_joinNode_token (hm : b.isMark (x.vec i) = false) :
    exec (.joinNode f site) s = stepOf s ((x.passBeat i x.e.swOut).map fun t => s.markLeft t x.sl.ctx) := by
  refine switch_answer (outs := [x.e.swOut]) hx hq (by
    rw [exec_joinNode, execJoinNode, fireJoin, hx, Option.bind_some, if_neg (by simp [hp])]) ?_
  simp only [hl, hi, hb, hm, ne_eq, not_true_eq_false, Bool.not_false, if_false, if_true]

/-- After the marker of its input, a join node goes on to the next input; that of the last one leaves. -/
theorem exec_joinNode_mark (hm : b.isMark (x.vec i) = true) (hw : b.word = x.e.rinAt i) :
    exec (.joinNode f site) s = stepOf s (((({ (x.drop i).keep i with e := { x.e with
      rin := x.e.rinOn i, outq := if x.e.tok + 1 = x.e.mergeIns.length then [(x.e.swOut, b)] else []
      tok := if x.e.tok + 1 = x.e.mergeIns.length then 0 else x.e.tok + 1 } } : Fx)).fired).map fun t => s.markLeft t x.sl.ctx) := by
  have houtq := hq.nothingFormed
  refine switch_answer (outs := [x.e.swOut]) hx hq (by
    rw [exec_joinNode, execJoinNode, fireJoin, hx, Option.bind_some, if_neg (by simp [hp])]) ?_
  simp only [hi, hb, hm, hw, ne_eq, not_true_eq_false, Bool.not_true, Bool.false_eq_true, if_false]
  rw [if_neg (by simp [hl])]
  by_cases last : x.e.tok + 1 = x.e.mergeIns.length
  · simp [last, Fx.queue, houtq, Elem.rinOn]
  · simp [last, houtq, Elem.rinOn]

end

/-! ### Carry (R185) -/

theorem Fx.marked_of_none {x : Fx} {i : Nat} (h : x.head i = none) : x.marked i = false := by simp [Fx.marked, h]
theorem Fx.holdsToken_of_none {x : Fx} {i : Nat} (h : x.head i = none) : x.holdsToken i = false := by simp [Fx.holdsToken, h]

section
variable {s : State} {f site : Nat} {x : Fx} {b : Beat} (hx : s.switchAt f site 0x03 = some x) (hq : x.quiet) (hl : x.e.lastIn = 0)
include hx hq hl

/-- A record that comes round goes on before any other. -/
theorem exec_carry_back (hm : x.marked 1 = false) (ht : x.holdsToken 1 = true) (hb : x.head 1 = some b) (hk : b.kind = kHead) :
    exec (.carry f site) s = stepOf s ((x.passBeat 1 x.e.swOut).map fun t => s.markLeft t x.sl.ctx) := by
  refine switch_answer hx hq (by rw [exec_carry, execCarry, fireCarry, hx, Option.bind_some]) ?_
  dsimp only
  rw [if_neg (by simp [hl]), if_neg (by simp [hm]), if_pos ht]
  simp [hb, hk]

/-- The marker that comes round is taken. -/
theorem exec_carry_backMark (hm : x.marked 1 = true) (hb : x.head 1 = some b) (hw : b.word = x.e.rinAt 1) :
    exec (.carry f site) s = stepOf s (((({ x.drop 1 with e := { x.e with rin := x.e.rinOn 1 } } : Fx)).fired).map fun t =>
      s.markLeft t x.sl.ctx) := by
  refine switch_answer hx hq (by rw [exec_carry, execCarry, fireCarry, hx, Option.bind_some]) ?_
  dsimp only
  rw [if_neg (by simp [hl]), if_pos hm]
  simp [hb, hw, Elem.rinOn]

variable (h1 : x.head 1 = none) (hb : x.head 0 = some b)
include h1 hb

/-- With nothing coming round, a record is let in and counted, while fewer than the limit are inside. -/
theorem exec_carry_in (hm : x.marked 0 = false) (ht : x.holdsToken 0 = true) (hk : b.kind = kHead) (hg : x.badToken 0 b = none)
    (hc : x.e.cnt < x.e.p 201 4) : exec (.carry f site) s =
      stepOf s ((({ x with e := { x.e with cnt := x.e.cnt + 1 } } : Fx).passBeat 0 x.e.swOut).map fun t => s.markLeft t x.sl.ctx) := by
  refine switch_answer hx hq (by rw [exec_carry, execCarry, fireCarry, hx, Option.bind_some]) ?_
  dsimp only
  rw [if_neg (by simp [hl]), if_neg (by simp [Fx.marked_of_none h1]), if_neg (by simp [Fx.holdsToken_of_none h1]), if_neg (by simp [hm]),
    if_pos (by simp [ht, hc])]
  simp only [hb, hg]
  rw [if_neg (by simp [hk]), if_pos (by simp [hl])]

omit hb in
theorem exec_carry_full (hm : x.marked 0 = false) (hc : x.e.p 201 4 ≤ x.e.cnt) : exec (.carry f site) s = .next s := by
  refine (switch_answer (a := none) hx hq (by rw [exec_carry, execCarry, fireCarry, hx, Option.bind_some]) ?_).trans rfl
  dsimp only
  rw [if_neg (by simp [hl]), if_neg (by simp [Fx.marked_of_none h1]), if_neg (by simp [Fx.holdsToken_of_none h1]), if_neg (by simp [hm]),
    if_neg (by simp [hc])]

/-- The marker of the entry passes when no record is inside and the last marker has come round. -/
theorem exec_carry_mark (hm : x.marked 0 = true) (hw : b.word = x.e.rinAt 0) (hc : x.e.cnt = 0) (hr : x.e.rinAt 0 = x.e.rinAt 1) :
    exec (.carry f site) s = stepOf s (((({ x.drop 0 with e := { x.e with rin := x.e.rinOn 0, outq := [(x.e.swOut, b)] } } : Fx)).fired).map
      fun t => s.markLeft t x.sl.ctx) := by
  have houtq := hq.nothingFormed
  refine switch_answer hx hq (by rw [exec_carry, execCarry, fireCarry, hx, Option.bind_some]) ?_
  dsimp only
  rw [if_neg (by simp [hl]), if_neg (by simp [Fx.marked_of_none h1]), if_neg (by simp [Fx.holdsToken_of_none h1]), if_pos hm,
    if_pos (by simp [hc, hr])]
  simp [hb, hw, Fx.queue, houtq, Elem.rinOn]

omit hb in
theorem exec_carry_inside (hm : x.marked 0 = true) (hc : x.e.cnt ≠ 0) : exec (.carry f site) s = .next s := by
  refine (switch_answer (a := none) hx hq (by rw [exec_carry, execCarry, fireCarry, hx, Option.bind_some]) ?_).trans rfl
  dsimp only
  rw [if_neg (by simp [hl]), if_neg (by simp [Fx.marked_of_none h1]), if_neg (by simp [Fx.holdsToken_of_none h1]), if_pos hm,
    if_neg (by simp [hc])]

end

/-! ### Fwd and circuits (R185, R446 to R448) -/

section
variable {s : State} {f site : Nat} {x : Fx} (hx : s.switchAt f site 0x04 = some x) (hq : x.quiet) (hl : x.e.lastIn = 0)
include hx hq

section
variable (hc : x.e.isCircuit = false)
include hc

theorem exec_fwd_token (hm : x.marked 0 = false) :
    exec (.fwd f site) s = stepOf s ((x.passBeat 0 x.e.swOut).map fun t => s.markLeft t x.sl.ctx) := by
  refine switch_answer (outs := [x.e.swOut]) hx hq (by
    rw [exec_fwd, execFwd, fireFwd, hx, Option.bind_some, if_neg (by simp [hc]), if_neg (by simp [hc])]) ?_
  exact if_neg (by simp [hm])

include hl in
theorem exec_fwd_mark (hm : x.marked 0 = true) :
    exec (.fwd f site) s = stepOf s ((x.passMark [0] [x.e.swOut]).map fun t => s.markLeft t x.sl.ctx) := by
  refine switch_answer (outs := [x.e.swOut]) hx hq (by
    rw [exec_fwd, execFwd, fireFwd, hx, Option.bind_some, if_neg (by simp [hc]), if_neg (by simp [hc])]) ?_
  exact if_pos (by simp [hm, hl])

end

/-- A circuit's sender with a receiver and no kill that has come back hands its next beat over. -/
theorem exec_fwd_circuit (hc : x.e.isCircuit = true) (hr : x.e.isRecv = false) :
    exec (.fwd f site) s = stepOf s (x.sendCircuit.map fun t => s.markLeft t x.sl.ctx) :=
  switch_answer (outs := []) hx hq (by rw [exec_fwd, execFwd, fireFwd, hx, Option.bind_some, if_neg (by simp [hc, hr]), if_pos hc]) rfl

end

section
variable {x : Fx} {sl : Slot} {r : Elem} {b : Beat} (hp : x.peer = some (sl, r)) (hs : x.e.stop = false) (hb : x.head 0 = some b)
include hp hs hb

theorem Fx.sendCircuit_full (hr : circuitCap ≤ r.outq.length) : x.sendCircuit = none := by
  simp [Fx.sendCircuit, hp, hs, hb, hr]

/-- A data beat of a circuit goes to the receiver's buffer. -/
theorem Fx.sendCircuit_data (hr : r.outq.length < circuitCap) (hg : x.badToken 0 b = none) (hm : b.isMark (x.vec 0) = false) :
    x.sendCircuit = some ((({ (if b.kind = 1 && x.vec 0 then (x.drop 0).keep 0 else x.drop 0) with e := { x.e with
      lastIn := if b.goesOn (x.vec 0) (x.e.lastIn ≠ 0) then 1 else 0
      sent := if b.goesOn (x.vec 0) (x.e.lastIn ≠ 0) then x.e.sent + 1 else 0 } } : Fx)).done.setElem sl.fld sl.idx
        { r with outq := r.outq ++ [(r.swOut, b)] }) := by
  unfold Fx.sendCircuit
  simp only [hp, hb, hg, hm, hs]
  rw [if_neg (by simp), if_neg (by omega)]
  simp only [Bool.and_false, Bool.false_eq_true, if_false, Bool.false_and, Bool.or_false, ite_self]
  split <;> simp [hs]

end

/-! ### Switch operations -/

/-- The one input of an operation at a marker holds it, with the number of the round there. -/
theorem Fx.atMark.one {x : Fx} {i : Nat} (h : x.atMark [i]) : x.quiet ∧ x.e.lastIn = 0 ∧ x.marked i = true ∧
    ∀ b, x.head i = some b → b.word = x.e.rinAt i := by
  obtain ⟨hq, hl, _, heads⟩ := h
  obtain ⟨hm, hw⟩ := heads i (by simp)
  exact ⟨hq, hl, hm, fun b hb => by simpa [hb] using hw⟩
theorem Fx.isMark_of_marked {x : Fx} {i : Nat} {b : Beat} (h : x.marked i = true) (hb : x.head i = some b) : b.isMark (x.vec i) = true := by
  simp only [Fx.marked, hb, Option.any_some, Bool.and_eq_true] at h
  exact h.1

theorem switchOperations : Claim.SwitchOperations := by
  intro s f site x
  refine ⟨fun hx hc b hb => ⟨fun hl => ?_, fun hl hk hw => ⟨fun j np pv hj he hf => ?_, fun hf => ?_⟩, fun hl hk hw => ?_, fun hl hk => ?_⟩,
    fun hx => ⟨fun hp hc hl i b hi hb => ?_, fun hp hh hm => ?_, fun hp hq hl i j b hi hj ht hb => ?_, fun hp => ?_, fun hp => ?_,
      fun hp i hi => ⟨fun hc hl b hb => ?_, fun hm b hb => ?_⟩⟩,
    fun hx => ⟨fun hc hl b hk hw => ⟨fun h1 => ?_, fun h1 h0 hn => ?_, fun h1 h0 hn => ?_⟩,
      fun hm h1 b hb => ⟨fun hn hr => ?_, fun hn => ?_⟩, fun hm => ?_⟩,
    fun hx => ⟨fun hn hc hl b hb => ?_, fun hn hh hm => ?_, fun sl r b hci hr hc hp hs hb => ⟨fun hf => ?_, fun hf hg => ?_⟩⟩⟩
  -- steer
  · exact sends_of_answer (exec_steer_goesOn hx hc hb hl) rfl (Fx.forward_sl x 0 b [x.e.lastIn - 1])
  · have h := exec_steer_routes hx hc hb hl hk hw (Elem.steerFor_first hj he hf) rfl
    refine ⟨fun hz => ?_, fun u hu => ?_⟩
    · rw [h, show (x.routed b np pv).fired = none from hz]
      rfl
    · rw [h, show (x.routed b np pv).fired = some u from hu]
      rfl
  · exact stalls_of_answer (exec_steer_unmatched hx hc hb hl hk hw (Elem.steerFor_none hf)) rfl
  · exact stalls_of_answer (exec_steer_badHead hx hc hb hl hk hw) rfl
  · exact stalls_of_answer (exec_steer_noHead hx hc hb hl hk) rfl
  -- merge and join node
  · have token : x.e.mergeIns.find? x.holdsToken = some i := by
      rw [show x.holdsToken = fun i => (x.head i).isSome from funext (Fx.holdsToken_of_clear hc)]
      exact hi
    have noMark : x.e.mergeIns.find? x.marked = none := List.find?_eq_none.2 fun i _ => by simp [Fx.marked_of_clear hc]
    exact passes_of_answer (exec_merge_token hx hc.quiet hl hp noMark token) rfl hl hb
  · obtain ⟨hq, hl, hi, heads⟩ := id hm
    exact marks_of_answer (exec_merge_marks hx hq hl hp hi fun i h => (heads i h).1) rfl (State.fxAt_sw hx) hh hm
  · exact stalls_of_answer (exec_merge_mixed hx hq hl hp hi hj ht hb) rfl
  · rw [exec_merge, execMerge, fireMerge, hx, Option.bind_some, if_pos hp]
    rfl
  · rw [exec_joinNode, execJoinNode, fireJoin, hx, Option.bind_some, if_pos (by simp [hp])]
    rfl
  · exact passes_of_answer (exec_joinNode_token hx hc.quiet hl hp hi hb (hc.notMark hb).1) rfl hl hb
  · obtain ⟨hq, hl, hmark, hw⟩ := hm.one
    exact sends_of_answer (exec_joinNode_mark hx hq hl hp hi hb (Fx.isMark_of_marked hmark hb) (hw b hb)) rfl
      ((Fx.keep_sl ..).trans (Fx.drop_sl ..))
  -- carry
  · exact (passes_of_answer (exec_carry_back hx hc.quiet hl (Fx.marked_of_clear hc 1) (by simp [Fx.holdsToken_of_clear hc, h1]) h1 hk)
      rfl hl h1).1 (Fx.badToken_head hl hk hw)
  · have letIn := exec_carry_in hx hc.quiet hl h1 h0 (Fx.marked_of_clear hc 0) (by simp [Fx.holdsToken_of_clear hc, h0]) hk
      (Fx.badToken_head hl hk hw) hn
    exact (passes_of_answer (x := { x with e := { x.e with cnt := x.e.cnt + 1 } }) letIn rfl hl h0).1 (Fx.badToken_head hl hk hw)
  · exact exec_carry_full hx hc.quiet hl h1 (Fx.marked_of_clear hc 0) hn
  · obtain ⟨hq, hl, hmark, hw⟩ := hm.one
    exact sends_of_answer (exec_carry_mark hx hq hl h1 hb hmark (hw b hb) hn hr) rfl (Fx.drop_sl ..)
  · obtain ⟨hq, hl, hmark, _⟩ := hm.one
    exact exec_carry_inside hx hq hl h1 hmark hn
  · obtain ⟨hq, hl, hmark, hw⟩ := hm.one
    cases hb : x.head 1 with
    | none => simp [Fx.marked_of_none hb] at hmark
    | some b => exact sends_of_answer (exec_carry_backMark hx hq hl hmark hb (hw b hb)) rfl (Fx.drop_sl ..)
  -- fwd and circuits
  · exact passes_of_answer (exec_fwd_token hx hc.quiet hn (Fx.marked_of_clear hc 0)) rfl hl hb
  · obtain ⟨hq, hl, hmark, _⟩ := hm.one
    exact marks_of_answer (exec_fwd_mark hx hq hl hn hmark) rfl (State.fxAt_sw hx) hh hm
  · rw [exec_fwd_circuit hx hc.quiet hci hr, Fx.sendCircuit_full hp hs hb hf]
    rfl
  · rw [exec_fwd_circuit hx hc.quiet hci hr, Fx.sendCircuit_data hp hs hb hf hg (hc.notMark hb).1]
    rfl

/-! ### Filters (R186, R187) -/

theorem Fx.fired_nothing {x : Fx} (h : x.e.outq = []) : x.fired = some x.done := by simp [Fx.fired, h]

@[simp] theorem Fx.removeElem_sl (x : Fx) (v : W32) : (x.removeElem v).sl = x.sl := by
  unfold Fx.removeElem
  dsimp only
  split <;> rfl
theorem Fx.removeElem_e (x : Fx) (v : W32) : (x.removeElem v).e.tokAll = x.e.tokAll + (if v = 0 then 0 else 1) ∧
    (x.removeElem v).e.buf = if v = 0 then x.e.buf else x.e.buf ++ [v] := by
  have counted : (Decidable.decide (v ≠ 0)).toNat = if v = 0 then 0 else 1 := by
    by_cases hv : v = 0
    · simp [hv]
    · rw [if_neg hv, decide_eq_true hv]
      rfl
  unfold Fx.removeElem
  dsimp only
  rw [counted]
  split <;> simp [Fx.queue]
theorem Fx.removeElems_sl (x : Fx) (l : List W32) : (l.foldl Fx.removeElem x).sl = x.sl := by
  induction l generalizing x with
  | nil => rfl
  | cons v r ih => exact (ih _).trans (Fx.removeElem_sl x v)

/-- Row i, column j of the transposed block is row j, column i of the block. -/
theorem transpose_getD (l : List W32) {i j : Nat} (hi : i < 16) (hj : j < 16) :
    (transpose l).getD (16 * i + j) 0 = l.getD (16 * j + i) 0 := by
  have inside : 16 * i + j < 256 := by omega
  have col : (16 * i + j) % 16 = j := by omega
  have row : (16 * i + j) / 16 = i := by omega
  simp [transpose, List.getD_eq_getElem?_getD, inside, col, row]

section
variable {s : State} {f site k : Nat} {x : Fx} (hk : k < 4) (hx : s.fxAt f site true (fun e => e.op = 5 && e.sub = k) = some x)
  (hc : x.clear) (first : ∀ j, j < k → s.fxAt f site true (fun e => e.op = 5 && e.sub = j) = none)
include hk hx hc first

/-- The first entry of a filter that may fire does so. -/
theorem exec_vcfilt_of_fire {outs : List Nat} {st : Bool} {body : Fx → Option State} {t : State}
    (hm : x.filter = x.fire outs st body) (hb : body x = some t) :
    exec (.vcfilt f site) s = .next (s.markLeft t x.sl.ctx).syncRounds := by
  have fires : x.filter = some (s.markLeft t x.sl.ctx) := by
    rw [hm, Fx.fire_of_clear hc, hb, (State.fxAt_some hx).1]
    rfl
  have split : List.range 4 = List.range k ++ k :: List.range' (k + 1) (3 - k) := by
    interval_cases k <;> rfl
  have found : fireVcfilt f site s = some (s.markLeft t x.sl.ctx) := by
    refine List.findSome?_eq_some_iff.2 ⟨_, _, _, split, by rw [hx]; exact fires, fun j hj => ?_⟩
    rw [first j (List.mem_range.1 hj)]
    rfl
  rw [exec_vcfilt, execVcfilt, found]
  rfl

section
variable {w : W32} (hw : x.wordAt 0 = some (.inr w))
include hw

/-- A word converted. -/
theorem exec_vcfilt_converts (hm : x.e.vcfMode = 0) (hn : codeWidth (x.e.vcf 14 4) ≠ 64) {t : State} :
    let c := convertElem (x.e.vcf 14 4) (x.e.vcf 10 4) (rmode (x.e.vcf 18 3)) w.toNat
    let z := ((x.drop 0).queue (c.1.map fun v => (x.e.vcfOut, wordBeat v))).withStatus c.2
    ({ z with e := { z.e with buf := [] } } : Fx).fired = some t → exec (.vcfilt f site) s = .next (s.markLeft t x.sl.ctx).syncRounds := by
  intro c z ht
  refine exec_vcfilt_of_fire (outs := [x.e.vcfOut]) (st := false) (body := Fx.vcConvert) hk hx hc first (by simp only [Fx.filter, hm]) ?_
  simp only [Fx.vcConvert, hw, hn, decide_false, Bool.false_and, Bool.false_eq_true, if_false]
  exact ht

/-- Zeros taken out of a word. -/
theorem exec_vcfilt_removes (hm : x.e.vcfMode = 1) (noMark : x.marked 0 = false) {t : State} :
    let z := (x.e.unpackW w).foldl Fx.removeElem (x.drop 0)
    let p := z.e.packAll 8 z.e.buf
    (({ z with e := { z.e with buf := p.2 } } : Fx).queue (p.1.map fun v => (z.e.vcfOut, wordBeat v))).fired = some t →
    exec (.vcfilt f site) s = .next (s.markLeft t x.sl.ctx).syncRounds := by
  intro z p ht
  refine exec_vcfilt_of_fire (outs := []) (st := true) (body := Fx.vcRemove) hk hx hc first (by simp only [Fx.filter, hm]) ?_
  unfold Fx.vcRemove
  rw [if_neg (by simp [noMark])]
  simp only [hw]
  exact ht

/-- A word of a block gathered to be transposed, and the block that it ends. -/
theorem exec_vcfilt_transposes (hm : x.e.vcfMode = 3) (noMark : x.marked 0 = false) {t : State} :
    let z := x.drop 0
    (if x.e.buf.length = 255 then ({ z with e := { z.e with buf := [] } } : Fx).queue
        ((transpose (x.e.buf ++ [w])).map fun v => (x.e.vcfOut, wordBeat v))
      else { z with e := { z.e with buf := z.e.buf ++ [w] } }).fired = some t →
    exec (.vcfilt f site) s = .next (s.markLeft t x.sl.ctx).syncRounds := by
  intro z ht
  refine exec_vcfilt_of_fire (outs := []) (st := true) (body := Fx.vcTranspose) hk hx hc first (by simp only [Fx.filter, hm]) ?_
  unfold Fx.vcTranspose
  dsimp only
  rw [if_neg (by simp [noMark])]
  simp only [hw, Fx.drop_e, List.length_append, List.length_singleton, Nat.reduceEqDiff]
  simp only [z, Fx.drop_e] at ht
  exact ht

end

/-- The first word of the mask channel is held. -/
theorem exec_vcfilt_takesMask {b : Beat} (hm : x.e.vcfMode = 2) (hb : x.head 1 = some b) (h0 : b.kind = 0) (hwords : x.e.words = []) :
    exec (.vcfilt f site) s =
      .next (s.markLeft (({ x.drop 1 with e := { x.e with cnt := 0 } } : Fx).setWords [b.word]).done x.sl.ctx).syncRounds := by
  refine exec_vcfilt_of_fire (outs := []) (st := true) (body := Fx.vcInsert) hk hx hc first (by simp only [Fx.filter, hm]) ?_
  simp only [Fx.vcInsert, hb, (hc.notMark hb).2, h0, hwords, Fx.drop_e, ne_eq, not_true_eq_false, Bool.false_eq_true, if_false]

end

theorem filters : Claim.Filters := by
  intro s f site k x hk hx hc first
  refine ⟨fun w hw => ?_, fun b hm hb h0 hwords => ?_, Fx.removeElem_e, fun l _ i j hi hj => transpose_getD l hi hj⟩
  · obtain ⟨b, hb, h0, rfl⟩ := hw
    have data : x.wordAt 0 = some (.inr b.word) := by
      obtain ⟨_, _, _, _, _, _, _, hd⟩ := hc
      exact Fx.wordAt_word hb h0 (hd 0 b hb)
    have noMark := Fx.marked_of_clear hc 0
    refine ⟨fun hm hn t ht => ?_, fun hm t ht => ?_, fun hm hl => ?_, fun hm hl t ht => ?_⟩
    · show exec _ s = .next (s.markLeft t (x.drop 0).sl.ctx).syncRounds
      rw [Fx.drop_sl]
      exact exec_vcfilt_converts hk hx hc first data hm hn ht
    · show exec _ s = .next (s.markLeft t ((x.e.unpackW b.word).foldl Fx.removeElem (x.drop 0)).sl.ctx).syncRounds
      rw [Fx.removeElems_sl, Fx.drop_sl]
      exact exec_vcfilt_removes hk hx hc first data hm noMark ht
    · have formsNone : x.e.outq = [] := hc.quiet.nothingFormed
      have same : (x.drop 0).sl.ctx = x.sl.ctx := by rw [Fx.drop_sl]
      show exec _ s = .next (s.markLeft _ (x.drop 0).sl.ctx).syncRounds
      rw [same]
      refine exec_vcfilt_transposes hk hx hc first data hm noMark ?_
      rw [if_neg (by omega)]
      exact Fx.fired_nothing (by simpa using formsNone)
    · show exec _ s = .next (s.markLeft t (x.drop 0).sl.ctx).syncRounds
      rw [Fx.drop_sl]
      exact exec_vcfilt_transposes hk hx hc first data hm noMark (by rw [if_pos hl]; exact ht)
  · unfold Fires
    rw [exec_vcfilt_takesMask hk hx hc first hm hb h0 hwords]
    simp [Fx.setWords]

/-- Settles O43: by the checks of a beat passed whole, an equation for each operation with what stands at its inputs, and the first
filter that may fire. -/
theorem switchElements : Obligations.SwitchElements := ⟨tokenChecks, switchOperations, filters⟩

end Sys2Proof.Machine
end

section
/-!
PROOF. Tile swaps, kills and rounds (R145 to R147, R150, R260): a swap token at an element's one input, the pulse that reaches a
producer, and what the open round of a context waits for.
-/
namespace Sys2Proof.Machine

/-! ### Tile swaps (R150) -/

/-- A swap token sent on to the element's vector outputs, where it forwards them. -/
def Fx.swapOn (x : Fx) : Fx :=
  if x.e.swf then x.queue ((x.outPorts.filter fun o => (x.outC o).any (·.vec)).map fun o => (o, swapBeat)) else x

section
variable {s : State} {f site : Nat} {x : Fx} {b : Beat}

/-- A control token at the one input of a compute element, between values. -/
theorem Fx.control_one (hC : x.e.isC = true) (hl : x.e.lastIn = 0) (hin : x.inPorts = [0]) (hb : x.head 0 = some b)
    (hv : x.vec 0 = true) (hk : b.kind = 3) (hg : x.e.gotAt 0 = []) (hw : x.e.words = []) : x.control =
    if b.v ≠ 1 then some (x.stallAt ccCfg 0x21 0)
    else if x.e.hasSt = false then some (x.stallAt ccCfg 0x23 0)
    else if x.e.lfull then (({ x.drop 0 with e := x.e.swap } : Fx).swapOn).fired else none := by
  have notSwitch : x.e.sw = false := by
    simp only [Elem.isC, Bool.and_eq_true, Bool.not_eq_true'] at hC
    exact hC.1.1
  have idle : x.e.idle 0 = true := by simp [Elem.idle, hg, hw]
  unfold Fx.control
  dsimp only
  rw [if_neg (by simp [notSwitch]), if_neg (by simp [hl]), hin, List.findSome?_singleton]
  simp only [hb]
  rw [if_neg (by simp [Beat.isCtl, hv, hk, idle])]
  by_cases one : b.v = 1
  · rw [if_neg (not_not.2 (Beat.code_one one)), if_neg (not_not.2 one)]
    cases hst : x.e.hasSt with
    | false => simp
    | true =>
      simp only [hC, ne_eq, not_true_eq_false, Bool.not_true, Bool.or_false, Bool.true_eq_false, if_false]
      rfl
  · rw [if_pos (Beat.code_ne_one one), if_pos one]

theorem exec_tileSwap_of_control (hx : s.fxAt f site false (·.isC) = some x) (hs : x.e.stall = none) (hd : x.sl.dead = false)
    (hq : x.e.outq = []) : exec (.tileSwap f site) s = stepOf s x.control := by
  rw [exec_tileSwap, execTileSwap, fireTileSwap, hx, Option.bind_some, if_neg (by simp [hs, hd, hq])]

end

/-! ### Kill pulses (R145 to R147) -/

theorem exec_kill_open {s : State} {f id : Nat} {c : Chan} (hc : s.chan id = some c) (hf : c.src.fld = f) (hk : c.kill = true) :
    exec (.kill f id) s = .next (s.setChan { c with kill := false, stopped := c.openv }) := by
  simp [exec_kill, execKill, hc, hf, hk]
theorem exec_kill_none {s : State} {f id : Nat} {c : Chan} (hc : s.chan id = some c) (hk : c.kill = false) :
    exec (.kill f id) s = .next s := by
  simp [exec_kill, execKill, hc, hk]

/-! ### The advance of the open round (R260) -/

section
variable {s : State} {ctx : Nat}

/-- With its round passed everywhere and nothing of it left to do, the open round advances. -/
theorem exec_roundComplete_advances (hr : roundAfter (s.ctxOf ctx).round (s.ctxOf ctx).openRound = true)
    (helems : ∀ sl ∈ s.slots, sl.st = .running → sl.ctx = ctx → ∀ e ∈ sl.elems, s.elemPast sl e (s.ctxOf ctx).openRound = true)
    (hflights : ∀ g ∈ s.flights, g.acc.ctx = ctx → g.acc.round = (s.ctxOf ctx).openRound → g.pending = false)
    (hreqs : ∀ st ∈ s.streams, ∀ r ∈ st.reqs, r.ctx = ctx → r.round ≠ (s.ctxOf ctx).openRound)
    (hclean : ∀ e ∈ s.l1, e.ctx = ctx → e.wround = (s.ctxOf ctx).openRound → e.dirty = 0) :
    ∃ t, exec (.roundComplete ctx) s = .next t ∧ t.ctxs = (s.setCtx { s.ctxOf ctx with openRound := (s.ctxOf ctx).openRound + 1 }).ctxs ∧
      t.mem = s.mem ∧ t.slots = s.slots := by
  have elems : ((s.slots.filter fun sl => sl.st = .running && sl.ctx = ctx).all fun sl =>
      sl.elems.all fun e => s.elemPast sl e (s.ctxOf ctx).openRound) = true := by
    simp only [List.all_eq_true, List.mem_filter, Bool.and_eq_true, decide_eq_true_eq]
    exact fun sl h => helems sl h.1 h.2.1 h.2.2
  have flights : (s.flights.any fun f => f.acc.ctx = ctx && f.acc.round = (s.ctxOf ctx).openRound && f.pending) = false := by
    simp only [List.any_eq_false, Bool.and_eq_true, decide_eq_true_eq]
    exact fun g hg h => by simp [hflights g hg h.1.1 h.1.2] at h
  have reqs : (s.streams.any fun st => st.reqs.any fun r => r.ctx = ctx && r.round = (s.ctxOf ctx).openRound) = false := by
    simp only [List.any_eq_false, List.any_eq_true, Bool.and_eq_true, decide_eq_true_eq]
    exact fun st hst h => by obtain ⟨r, hr, hc, hj⟩ := h; exact hreqs st hst r hr hc hj
  have noDirty : (s.l1.filter fun e => e.ctx = ctx && e.dirty ≠ 0 && e.wround = (s.ctxOf ctx).openRound) = [] := by
    simp only [List.filter_eq_nil_iff, Bool.and_eq_true, decide_eq_true_eq]
    exact fun e he h => h.1.2 (hclean e he h.1.1 h.2)
  rw [exec_roundComplete, execRoundComplete]
  dsimp only
  rw [if_pos (by rw [hr, elems, flights, reqs]; rfl), noDirty]
  exact ⟨_, rfl, rfl, rfl, rfl⟩

theorem exec_roundComplete_notAfter (h : roundAfter (s.ctxOf ctx).round (s.ctxOf ctx).openRound = false) :
    exec (.roundComplete ctx) s = .next s := by
  rw [exec_roundComplete, execRoundComplete]
  dsimp only
  rw [if_neg (by simp [h])]

/-- An element that has not passed the marker holds the open round. -/
theorem exec_roundComplete_notPast {sl : Slot} {e : Elem} (hsl : sl ∈ s.slots) (hst : sl.st = .running) (hctx : sl.ctx = ctx)
    (he : e ∈ sl.elems) (hp : s.elemPast sl e (s.ctxOf ctx).openRound = false) : exec (.roundComplete ctx) s = .next s := by
  have notAll : ((s.slots.filter fun sl => sl.st = .running && sl.ctx = ctx).all fun sl =>
      sl.elems.all fun e => s.elemPast sl e (s.ctxOf ctx).openRound) = false :=
    List.all_eq_false.2 ⟨sl, by simp [hsl, hst, hctx], by simpa using ⟨e, he, hp⟩⟩
  rw [exec_roundComplete, execRoundComplete]
  dsimp only
  rw [if_neg (by simp [notAll])]

end

/-- Settles O40: by what a control token does at an element's one input, the pulse's step, and the three guards of the round. -/
theorem swapsKillsRounds : Obligations.SwapsKillsRounds := by
  refine ⟨fun s f site x b hx hs hd _ hq hl hin hb hv hk hg hw => ?_,
    fun s f id c hc => ⟨fun hf hk => exec_kill_open hc hf hk, fun hk => exec_kill_none hc hk⟩, fun s ctx => ⟨?_, ?_, ?_⟩⟩
  · have step := exec_tileSwap_of_control hx hs hd hq
    rw [Fx.control_one (State.fxAt_some hx).2 hl hin hb hv hk hg hw] at step
    refine ⟨fun one hst hfull => ?_, fun one hst hfull => ?_, fun other => ?_, fun one hst => ?_⟩
    · rw [if_neg (by simp [one]), if_neg (by simp [hst]), if_pos hfull] at step
      refine ⟨fun hz => ?_, fun t ht => ?_⟩
      · rw [step, show (({ x.drop 0 with e := x.e.swap } : Fx).swapOn).fired = none from hz]
        rfl
      · rw [step, show (({ x.drop 0 with e := x.e.swap } : Fx).swapOn).fired = some t from ht]
        rfl
    · rw [step, if_neg (by simp [one]), if_neg (by simp [hst]), if_neg (by simp [hfull])]
      rfl
    · rw [step, if_pos other]
      rfl
    · rw [step, if_neg (by simp [one]), if_pos hst]
      rfl
  · intro hr helems hflights hreqs hclean
    obtain ⟨t, step, hctxs, hmem, hslots⟩ := exec_roundComplete_advances hr helems hflights hreqs hclean
    have advanced : t.ctxOf ctx = { s.ctxOf ctx with openRound := (s.ctxOf ctx).openRound + 1 } := by
      rw [State.ctxOf_congr hctxs, State.ctxOf_setCtx (by exact State.ctxOf_no s ctx)]
    exact ⟨t, step, by rw [advanced], by rw [advanced], hmem, hslots⟩
  · exact exec_roundComplete_notAfter
  · rintro ⟨sl, hsl, hst, hctx, e, he, hp⟩
    exact exec_roundComplete_notPast hsl hst hctx he hp

end Sys2Proof.Machine
end

section
/-!
PROOF. The Finder (R154, R213): how it starts, the instructions that it passes over, and its ends.
-/
namespace Sys2Proof.Machine

/-! ### What it passes over (R154) -/

theorem exec_shortStore {d : RegF} {h : BitVec 1} {c : CapF} {imm : BitVec 14} {p : Instr × Nat} (hp : p ∈ shortStores d h c imm)
    (s : State) : exec p.1 s = stShort p.2 d h c imm s := by
  simp only [shortStores, List.mem_cons, List.not_mem_nil, or_false] at hp
  rcases hp with rfl | rfl | rfl | rfl <;> rfl
theorem exec_atomForm {w : LF} {p : Instr × Nat} (hp : p ∈ atomForms w) (s : State) : exec p.1 s = atomOp p.2 w s := by
  simp only [atomForms, List.mem_cons, List.not_mem_nil, or_false] at hp
  rcases hp with rfl | rfl | rfl | rfl | rfl | rfl | rfl | rfl | rfl | rfl | rfl <;> rfl

theorem State.retire_finder {s : State} (len : Nat) (reads : List RegF) (h : s.me.finder = true) :
    s.retire len reads = (s.advance len).finderTick := by
  unfold State.retire
  rw [if_pos h]

/-- An instruction that a Finder passes over counts as issued, and the next one follows. -/
theorem run_passedOver {len : Nat} {o : Opnds} {body : State → Act} {s : State} (h : s.me.finder = true) :
    run .other len o body s = .next ((s.advance len).finderTick) := by
  rw [run_skip h, State.retire_finder len [] h]

theorem finder_passesOver {s : State} {w : LF} {d : RegF} {h : BitVec 1} {c : CapF} {imm : BitVec 14} (hf : s.me.finder = true)
    (hg : s.pred w.g = true) :
    (∀ p ∈ shortStores d h c imm, exec p.1 s = .next ((s.advance 4).finderTick)) ∧
    (∀ p ∈ atomForms w, exec p.1 s = .next ((s.advance 8).finderTick)) ∧ exec (.stx w) s = .next ((s.advance 8).finderTick) ∧
    exec .trap s = .next ((s.advance 4).finderTick) := by
  refine ⟨fun p hp => ?_, fun p hp => ?_, ?_, (exec_trap s).trans (run_passedOver hf)⟩
  · rw [exec_shortStore hp]
    exact run_passedOver hf
  · rw [exec_atomForm hp, atomOp, runL_true hg]
    exact run_passedOver hf
  · rw [exec_stx, execStx, runL_true hg]
    exact run_passedOver hf

/-! ### Its start (R213) -/

/-- The sequencer without a Finder. -/
def State.withoutFinder (s : State) : State := { s with others := s.others.filter fun t => !(t.finder && t.fld = s.me.fld) }
/-- The strand's Finder in place of one that its sequencer held. -/
def State.withFinder (s : State) (c : Cap) (limit : Nat) : State :=
  { s with others := s.withoutFinder.others ++ [s.me.finderOf c limit] }

theorem exec_finder_starts {s : State} {c : CapF} {b : RegF} (hb : Takes s b) (hr : Reachable s (s.creg c) (s.creg c).cur) :
    exec (.finder c b) s = .next ((s.withFinder (s.creg c) (s.sreg b).toNat).retire 4 [b]) := by
  obtain ⟨hf, hu⟩ := hb
  have ha : Admits s { reads := [b] } := admits_unbound (by simp [hu])
  rw [exec_finder, execFinder]
  refine run_done (by simp [hf]) ha.1 ha.2 ?_
  simp only [State.checkTarget_ok hr]
  show Act.done { s.withoutFinder with
    others := s.withoutFinder.others ++ [s.me.finderOf (s.creg c) (s.withoutFinder.readReg b).toNat] } = _
  rw [State.readReg_unbound (show s.withoutFinder.bindOf b = none from hu)]
  rfl

/-- A sequencer holds one Finder. -/
theorem State.withFinder_one (s : State) (c : Cap) (limit : Nat) :
    (s.withFinder c limit).others.countP (fun u => u.finder && u.fld = s.me.fld) = 1 := by
  have noOther : s.withoutFinder.others.countP (fun u => u.finder && u.fld = s.me.fld) = 0 := by
    rw [List.countP_eq_zero]
    intro u hu
    obtain ⟨_, other⟩ := List.mem_filter.1 hu
    simpa only [Bool.not_eq_true', Bool.not_eq_true] using other
  have isOne : List.countP (fun u => u.finder && u.fld = s.me.fld) [s.me.finderOf c limit] = 1 := by
    simp [Strand.finderOf]
  rw [State.withFinder, List.countP_append, noOther, isOne]

/-! ### Its ends (R154, R213) -/

theorem State.raise_ofFinder {s : State} (k : TrapInfo) (h : s.me.finder = true) :
    s.raise k = .next { s.finderCount with me := Strand.empty } := by
  rw [s.raise_cases, if_pos h]
  rfl

theorem State.finderTick_me (s : State) : s.finderTick.me =
    { s.me with limit := s.me.limit - 1, stat := if s.me.limit = 1 then .stopped else s.me.stat } := rfl

theorem exec_finderLimit_ends {s : State} {fld : Nat} (h : s.me.spent fld = true) :
    exec (.finderLimit fld) s = .next { s with me := Strand.empty } := by
  rw [exec_finderLimit, execFinderLimit, if_pos h]
  rfl
theorem exec_finderLimit_others {s : State} {fld : Nat} (h : s.me.spent fld = false) :
    exec (.finderLimit fld) s = .next { s with others := s.others.filter fun t => !t.spent fld } := by
  rw [exec_finderLimit, execFinderLimit, if_neg (by simp [h])]

/-- Settles O31: a start passes its checks and puts one Finder in place, what it does not do is passed over by the rule of `run`,
and a cause, its limit and FINDER_LIMIT end it. -/
theorem finderRules : Obligations.FinderRules := by
  refine ⟨fun s c b hb hr => ?_, fun s w d h c imm => finder_passesOver, fun s k => State.raise_ofFinder k, fun s => ?_,
    fun s fld => ⟨fun hf hfld hst => ?_, fun hf => ?_⟩⟩
  · have hf : s.me.finder = false := hb.1
    refine ⟨_, s.me.finderOf (s.creg c) (s.sreg b).toNat, exec_finder_starts hb hr, wentOn_retire rfl rfl hf, ?_⟩
    rw [State.retire_eq 4 [b] (show (s.withFinder _ _).me.finder = false from hf)]
    exact ⟨List.mem_append_right _ (List.mem_singleton.2 rfl), rfl, rfl, rfl, rfl, rfl, rfl, rfl, rfl, State.withFinder_one ..⟩
  · dsimp only
    rw [State.finderTick_me]
    exact ⟨fun h => if_pos h, fun h => if_neg h, rfl⟩
  · exact exec_finderLimit_ends (by simp [Strand.spent, hf, hfld, hst])
  · refine ⟨_, exec_finderLimit_others (by simp [Strand.spent, hf]), rfl, fun u hu hs => ?_⟩
    obtain ⟨_, kept⟩ := List.mem_filter.1 hu
    simp [Strand.spent, hs] at kept

end Sys2Proof.Machine
end

section
/-!
PROOF. The steps of slots, and stationary tiles (R152, R153, R162, R163, R200 to R202, R211): what a slot is once a region has been
rewritten, the end of each kind of work in progress, and the fills of tiles.
-/
namespace Sys2Proof.Machine

/-! ### The slot of a place -/

theorem State.slotOf_congr {s t : State} (h : t.slots = s.slots) (f i : Nat) : t.slotOf f i = s.slotOf f i := by
  unfold State.slotOf
  rw [h]
theorem State.slotOf_place (s : State) (f i : Nat) : (s.slotOf f i).fld = f ∧ (s.slotOf f i).idx = i := by
  unfold State.slotOf
  cases h : s.slots.find? fun e => e.fld = f && e.idx = i with
  | none => exact ⟨rfl, rfl⟩
  | some e => simpa using List.find?_some h
/-- Work in progress is on a slot that the device holds. -/
theorem State.slots_of_pend {s : State} {f i : Nat} (h : (s.slotOf f i).pend ≠ .none) :
    s.slots.find? (fun e => e.fld = f && e.idx = i) = some (s.slotOf f i) := by
  unfold State.slotOf at h ⊢
  cases found : s.slots.find? fun e => e.fld = f && e.idx = i with
  | none => exact absurd (by rw [found]; rfl) h
  | some e => rfl
theorem State.slotOf_setSlot {s : State} {e : Slot} {f i : Nat} (hf : e.fld = f) (hi : e.idx = i) : (s.setSlot e).slotOf f i = e := by
  subst hf hi
  simp only [State.slotOf, State.setSlot]
  rw [find?_upsert (p := fun x : Slot => decide (x.fld = e.fld) && decide (x.idx = e.idx)) (by simp)]
  rfl

/-- A slot with work in progress, after the slots of its region have been rewritten. -/
theorem State.slotOf_mapRegion {s t : State} {f i : Nat} {g : Slot → Slot} (ht : t.slots = s.slots)
    (hg : ∀ q, (g q).fld = q.fld ∧ (g q).idx = q.idx) (hp : (s.slotOf f i).pend ≠ .none) :
    (t.mapRegion (s.slotOf f i) g).slotOf f i = g (s.slotOf f i) := by
  have samePlace : (fun e : Slot => decide (e.fld = f) && decide (e.idx = i)) ∘
      (fun e => if e.f0 = (s.slotOf f i).f0 && e.idx = (s.slotOf f i).idx then g e else e) =
      fun e => decide (e.fld = f) && decide (e.idx = i) := by
    funext e
    simp only [Function.comp]
    split
    · rw [(hg e).1, (hg e).2]
    · rfl
  have found : (t.mapRegion (s.slotOf f i) g).slots.find? (fun e => e.fld = f && e.idx = i) = some (g (s.slotOf f i)) := by
    show (t.slots.map _).find? _ = _
    rw [ht, List.find?_map, samePlace, State.slots_of_pend hp]
    simp
  show ((t.mapRegion (s.slotOf f i) g).slots.find? fun e => e.fld = f && e.idx = i).getD _ = _
  rw [found]
  rfl

@[simp] theorem State.syncRounds_slots (s : State) : s.syncRounds.slots = s.slots := by
  obtain ⟨l, hl⟩ := s.syncRounds_eq
  rw [hl]
@[simp] theorem State.syncRounds_mem (s : State) : s.syncRounds.mem = s.mem := by
  obtain ⟨l, hl⟩ := s.syncRounds_eq
  rw [hl]
theorem State.xpDown_eq (s : State) (o : Option (Nat × Nat)) :
    ∃ m os v, s.xpDown o = { s with me := m, others := os, saved := v } := by
  unfold State.xpDown
  split
  · next f i =>
    split
    · obtain ⟨m, os, h⟩ := s.updStrand_eq f i (·.down .xp)
      exact ⟨m, os, s.saved, h⟩
    · exact ⟨_, _, _, rfl⟩
  · exact ⟨_, _, _, rfl⟩
@[simp] theorem State.xpDown_slots (s : State) (o : Option (Nat × Nat)) : (s.xpDown o).slots = s.slots := by
  obtain ⟨m, os, v, h⟩ := s.xpDown_eq o
  rw [h]
@[simp] theorem State.xpDown_mem (s : State) (o : Option (Nat × Nat)) : (s.xpDown o).mem = s.mem := by
  obtain ⟨m, os, v, h⟩ := s.xpDown_eq o
  rw [h]

/-- The end of work on a region: its slots rewritten, XPC of the strand down and ROUND advanced. -/
theorem slotOf_ended {s t : State} {f i : Nat} {g : Slot → Slot} (o : Option (Nat × Nat)) (ht : t.slots = s.slots)
    (hg : ∀ q, (g q).fld = q.fld ∧ (g q).idx = q.idx) (hp : (s.slotOf f i).pend ≠ .none) :
    (((t.mapRegion (s.slotOf f i) g).xpDown o).syncRounds).slotOf f i = g (s.slotOf f i) ∧
    ((t.mapRegion (s.slotOf f i) g).xpDown o).slotOf f i = g (s.slotOf f i) := by
  have ended := State.slotOf_mapRegion ht hg hp
  exact ⟨(State.slotOf_congr (by simp) f i).trans ended, (State.slotOf_congr (by simp) f i).trans ended⟩

/-! ### Installs, stops, switches and partial images that complete -/

section
variable {s : State} {f i : Nat}

theorem stopComplete_installs (hp : (s.slotOf f i).pend = .stop) (h0 : (s.slotOf f i).sidx = 0) (hq : s.quiet (s.slotOf f i) = true) :
    ∃ t, exec (.stopComplete f i) s = .next t ∧ (t.slotOf f i).st = .installed ∧ (t.slotOf f i).pend = .none ∧ t.mem = s.mem := by
  have ended := (slotOf_ended (s := s) (f := f) (i := i) (g := fun q => { q with st := .installed, pend := .none, owner := none })
    (s.slotOf f i).owner rfl (fun _ => ⟨rfl, rfl⟩) (by rw [hp]; decide)).1
  refine ⟨_, ?_, congrArg Slot.st ended, congrArg Slot.pend ended, ?_⟩
  · rw [exec_stopComplete, execStopComplete]
    rw [if_pos (by simp [hp, h0, hq])]
  · simp [State.mapRegion]

theorem switchComplete_runs (hp : (s.slotOf f i).pend = .switch) (h0 : (s.slotOf f i).sidx = 0)
    (hr : ∀ q ∈ s.rivals (s.slotOf f i), q.st ≠ .running) :
    ∃ t, exec (.switchComplete f i) s = .next t ∧ (t.slotOf f i).st = .running ∧ (t.slotOf f i).capTab = (s.slotOf f i).capTab ∧
      t.mem = s.mem := by
  have drained : (s.rivals (s.slotOf f i)).any (·.st = .running) = false := by
    simpa [List.any_eq_false] using hr
  have ended := (slotOf_ended (s := s) (f := f) (i := i) (g := fun q =>
    { q with
      st := .running, pend := .none, owner := none, capTab := (s.slotOf f i).capTab, round0 := (s.ctxOf (s.slotOf f i).ctx).round
      table := [], tabRound := s.openRound (s.slotOf f i).ctx, start := (s.slotOf f i).start, dead := false
      elems := q.elems.map fun e => e.begin (s.ctxOf (s.slotOf f i).ctx).round
        (e.sw || !e.rs || s.rampNow (s.slotOf f i) q.fld e.site) }) (s.slotOf f i).owner rfl (fun _ => ⟨rfl, rfl⟩) (by rw [hp]; decide)).1
  refine ⟨_, ?_, by rw [ended], by rw [ended], ?_⟩
  · rw [exec_switchComplete, execSwitchComplete]
    rw [if_pos (by simp [hp, h0, drained])]
    rfl
  · simp [State.mapRegion]

/-- The state of an install that completes: its channels have been made. -/
theorem installComplete_installs (hp : (s.slotOf f i).pend = .install) (h0 : (s.slotOf f i).sidx = 0) :
    ∃ t, exec (.installComplete f i) s = .next t ∧ (t.slotOf f i).st = .installed ∧ (t.slotOf f i).pend = .none ∧ t.mem = s.mem := by
  have step : ∃ u : State, ∃ elems : Slot → List Elem, u.slots = s.slots ∧ u.mem = s.mem ∧ exec (.installComplete f i) s = .next
      ((u.mapRegion (s.slotOf f i) fun q => { q with st := .installed, pend := .none, owner := none, elems := elems q }).xpDown
        (s.slotOf f i).owner) := by
    rw [exec_installComplete, execInstallComplete]
    dsimp only
    rw [if_neg (by simp [hp, h0])]
    refine ⟨_, _, ?_, ?_, rfl⟩ <;> rfl
  obtain ⟨u, elems, hslots, hmem, step⟩ := step
  have ended := (slotOf_ended (s := s) (t := u) (f := f) (i := i)
    (g := fun q => { q with st := .installed, pend := .none, owner := none, elems := elems q })
    (s.slotOf f i).owner hslots (fun _ => ⟨rfl, rfl⟩) (by rw [hp]; decide)).2
  exact ⟨_, step, congrArg Slot.st ended, congrArg Slot.pend ended, by simp [State.mapRegion, hmem]⟩

theorem partialDrainComplete_ends (hp : (s.slotOf f i).pend = .partDrain) (h0 : (s.slotOf f i).sidx = 0)
    (hr : ∀ q ∈ s.region (s.slotOf f i), q.fresh = []) :
    ∃ t, exec (.partialDrainComplete f i) s = .next t ∧ (t.slotOf f i).pend = .none ∧ (t.slotOf f i).kp = (s.slotOf f i).drainK ∧
      t.mem = s.mem := by
  have taken : (s.region (s.slotOf f i)).all (·.fresh.isEmpty) = true := by
    simpa [List.all_eq_true] using hr
  have ended := (slotOf_ended (s := s) (f := f) (i := i)
    (g := fun q => { q with pend := .none, owner := none, kp := (s.slotOf f i).drainK })
    (s.slotOf f i).owner rfl (fun _ => ⟨rfl, rfl⟩) (by rw [hp]; decide)).2
  refine ⟨_, ?_, congrArg Slot.pend ended, congrArg Slot.kp ended, ?_⟩
  · rw [exec_partialDrainComplete, execPartialDrainComplete]
    rw [if_pos (by simp [hp, h0, taken])]
  · simp [State.mapRegion]

/-- An element that a partial image names takes its new frame once the last marker has passed it (R163). -/
theorem partialFrameTake_takes {site : Nat} {e : Elem} (hp : (s.slotOf f i).pend = .partDrain)
    (he : (s.slotOf f i).elems.find? (fun e => e.at site false) = some e) (hf : ∃ fr ∈ (s.slotOf f i).fresh, fSite fr = site)
    (hpast : ({ s := s, sl := s.slotOf f i, e := e } : Fx).passed (s.slotOf f i).drainK = true) :
    ∃ t, exec (.partialFrameTake f i site) s = .next t ∧ ∀ fr ∈ (t.slotOf f i).fresh, fSite fr ≠ site := by
  have named : ((s.slotOf f i).fresh.filter fun f => fSite f = site).isEmpty = false := by
    obtain ⟨fr, hmem, hsite⟩ := hf
    simpa using ⟨fr, hmem, hsite⟩
  obtain ⟨hfld, hidx⟩ := s.slotOf_place f i
  rw [exec_partialFrameTake, execPartialFrameTake]
  simp only [he]
  rw [if_pos (by simp [hp, named, hpast])]
  refine ⟨_, rfl, ?_⟩
  rw [State.slotOf_setSlot (by exact hfld) (by exact hidx)]
  exact fun fr h => by simpa using (List.mem_filter.1 h).2

/-! ### Images that fail or are taken (R200) -/

/-- The slot of a failed image: its reason and offset are recorded. -/
theorem State.installFails_slotOf (u : State) {sl : Slot} (hf : sl.fld = f) (hi : sl.idx = i) (why k : Nat) (drop : Bool) :
    (u.installFails sl why k drop).slotOf f i =
      { (if drop then { Slot.blank sl.fld sl.idx with lateRace := sl.lateRace } else { sl with pend := .none, owner := none } : Slot) with
        why := why, whyOff := if why ≤ 0x0A || 0x10 ≤ why then sl.img.cur + 32 * k else 0, img := sl.img } := by
  unfold State.installFails
  dsimp only
  rw [State.slotOf_congr (State.xpDown_slots _ _), State.slotOf_setSlot]
  · cases drop <;> exact hf
  · cases drop <;> exact hi

theorem cfgldInstall_fails {u : State} {why k : Nat} (hp : (s.slotOf f i).pend = .read) (hr : s.readImage (s.slotOf f i) = .fail u why k) :
    exec (.cfgldInstall f i) s = .next (u.installFails (s.slotOf f i) why k true) := by
  rw [exec_cfgldInstall, execCfgldInstall]
  dsimp only
  rw [if_neg (by simp [hp]), hr]
theorem cfgpartApply_fails {u : State} {why k : Nat} (hp : (s.slotOf f i).pend = .part) (hr : s.readImage (s.slotOf f i) = .fail u why k) :
    exec (.cfgpartApply f i) s = .next (u.installFails (s.slotOf f i) why k false) := by
  rw [exec_cfgpartApply, execCfgpartApply]
  dsimp only
  rw [if_neg (by simp [hp]), hr]

/-- A good image of one section takes its slot. -/
theorem cfgldInstall_takes {u : State} {q : Sect} (hp : (s.slotOf f i).pend = .read) (hr : s.readImage (s.slotOf f i) = .ok u [q])
    (hsec : u.sectionsOk f 1 = true) (hgood : firstBad [checkImage i [q], u.circuitTaken (s.slotOf f i).ctx [q]] = none) :
    exec (.cfgldInstall f i) s = .next (u.setSlot { s.slotOf f i with
      st := .installing, pend := .install, f0 := f, nsec := 1, sidx := 0, frames := q.hdr.2 :: q.body.map (·.2) }) := by
  rw [exec_cfgldInstall, execCfgldInstall]
  dsimp only
  rw [if_neg (by simp [hp]), hr]
  dsimp only [List.length_singleton]
  rw [if_neg (by simp [hsec]), if_neg (by simp), hgood]
  rfl

/-- A good partial image of one section is taken at once by a slot that does not run (R163). -/
theorem cfgpartApply_takes {u : State} {q : Sect} (hp : (s.slotOf f i).pend = .part) (hst : (s.slotOf f i).st = .installed)
    (hr : s.readImage (s.slotOf f i) = .ok u [q]) (hu : u.slots = s.slots) (hsec : u.sectionsOk f 1 = true)
    (hgood : checkPartial i [q] [(s.slotOf f i).frames] (u.chans.filter (·.slot = i)) f = none) :
    ∃ t, exec (.cfgpartApply f i) s = .next t ∧ (t.slotOf f i).st = .installed ∧ (t.slotOf f i).pend = .none ∧
      (t.slotOf f i).frames = replaceFrames (s.slotOf f i).frames (q.body.map (·.2)) := by
  have same : u.slotOf f i = s.slotOf f i := State.slotOf_congr hu f i
  obtain ⟨hfld, _⟩ := s.slotOf_place f i
  have step : ∃ body : Slot → List Frame, body (s.slotOf f i) = q.body.map (·.2) ∧ exec (.cfgpartApply f i) s = .next
      ((u.mapRegion (s.slotOf f i) fun q => { q with
        pend := .none, owner := none, frames := replaceFrames q.frames (body q)
        elems := q.elems.map (takeFrame (atIndex (body q))) }).xpDown (s.slotOf f i).owner) := by
    refine ⟨fun r => if r.fld < f then [] else (([q][r.fld - f]?).map fun x => x.body.map (·.2)).getD [], ?_, ?_⟩
    · simp [hfld]
    · rw [exec_cfgpartApply, execCfgpartApply]
      dsimp only
      rw [if_neg (by simp [hp]), hr]
      dsimp only [List.length_singleton]
      rw [if_neg (by simp [hsec]), if_neg (by simp [same, hst]),
        show ((List.range 1).map fun j => u.slotOf (f + j) i) = [s.slotOf f i] by simp [same], List.map_singleton, hgood]
      dsimp only
      rw [if_pos hst]
  obtain ⟨body, hbody, step⟩ := step
  have ended := (slotOf_ended (s := s) (t := u) (f := f) (i := i) (g := fun q => { q with
    pend := .none, owner := none, frames := replaceFrames q.frames (body q)
    elems := q.elems.map (takeFrame (atIndex (body q))) }) (s.slotOf f i).owner hu (fun _ => ⟨rfl, rfl⟩) (by rw [hp]; decide)).2
  exact ⟨_, step, (congrArg Slot.st ended).trans hst, congrArg Slot.pend ended, (congrArg Slot.frames ended).trans (by rw [hbody])⟩

end

theorem slotSteps : Claim.SlotSteps := by
  intro s f i
  obtain ⟨hfld, hidx⟩ := s.slotOf_place f i
  refine ⟨stopComplete_installs, switchComplete_runs, installComplete_installs, partialDrainComplete_ends,
    fun site e hp he hf hpast => partialFrameTake_takes hp he hf hpast, fun site x hx => ?_, fun u why k hp hr => ?_,
    fun u q hp hr _ hsec hgood => ?_, fun u why k hp hr => ?_, fun u q hp hst _ _ hr hu hsec hgood =>
      cfgpartApply_takes hp hst hr hu hsec hgood⟩
  · rw [exec_rampRelease, execRampRelease, hx]
  · refine ⟨_, cfgldInstall_fails hp hr, ?_⟩
    rw [State.installFails_slotOf u hfld hidx]
    refine ⟨rfl, rfl, rfl, ?_⟩
    simp only [Bool.or_eq_true, decide_eq_true_eq]
  · refine ⟨_, cfgldInstall_takes hp hr hsec hgood, ?_⟩
    rw [State.slotOf_setSlot (by exact hfld) (by exact hidx)]
    exact ⟨rfl, rfl, rfl⟩
  · refine ⟨_, cfgpartApply_fails hp hr, ?_⟩
    rw [State.installFails_slotOf u hfld hidx]
    exact ⟨rfl, rfl, rfl, rfl⟩

/-! ### Stationary tiles (R211) -/

/-- The fill that `stld` queues. -/
def State.fillOf (s : State) (sl : Slot) (e : Elem) (c : Cap) (n : Nat) : Fill :=
  { fld := s.me.fld, slot := sl.idx, site := e.site, owner := s.me.slot, cap := c, n := n }
/-- A fill queued, which the strand's TLC counts. -/
def State.withFill (s : State) (p : Fill) : State := ({ s with fills := s.fills ++ [p] } : State).up .tl

section
variable {s : State} {c : CapF} {b : RegF} (hb : Takes s b)
include hb

/-- A register that is no bound queue is let go, and reads as it is. -/
theorem takes_admits : Admits s { reads := [b] } ∧ s.readReg b = s.sreg b :=
  ⟨admits_unbound (by simp [hb.2]), State.readReg_unbound hb.2⟩

section
variable (hr : checkRange (s.ownObj s.me.fld) (s.creg c) pR (s.creg c).cur (4 * bits (s.sreg b).toNat 10 10) = none)
  (hal : (s.creg c).cur % 4 = 0)
include hr hal

/-- `stld` raises the cause of a word that is not well formed. -/
theorem exec_stld_badWord (hw : tileWordOk (s.sreg b).toNat = false) : exec (.stld c b) s = s.raise (cfgInv 0x0B) := by
  obtain ⟨ha, word⟩ := takes_admits hb
  rw [exec_stld, execStld]
  refine run_raise (by simp [hb.1]) ha.1 ha.2 ?_ hb.1
  simp only [word, hr, hal, hw, ne_eq, not_true_eq_false, Bool.not_false, if_false, if_true]

section
variable (hw : tileWordOk (s.sreg b).toNat = true)
include hw

/-- It waits while the slot is loading. -/
theorem exec_stld_waits (hl : (s.slotOf s.me.fld (bits (s.sreg b).toNat 8 2)).loading = true) : exec (.stld c b) s = .next s := by
  obtain ⟨ha, word⟩ := takes_admits hb
  rw [exec_stld, execStld]
  refine run_wait (by simp [hb.1]) ha.1 ha.2 ?_
  simp only [word, hr, hal, hw, hl, ne_eq, not_true_eq_false, Bool.not_true,
    Bool.false_eq_true, if_false, if_true]

variable {sl : Slot} {e : Elem} (hl : (s.slotOf s.me.fld (bits (s.sreg b).toNat 8 2)).loading = false)
  (he : s.tileElem (s.sreg b).toNat = .inr (sl, e))
include hl he

/-- With as many words as the element's L takes, it queues the fill, which TLC counts. -/
theorem exec_stld_queues (hn : bits (s.sreg b).toNat 10 10 = e.fillCount) (hroom : s.me.tlc < 63) :
    exec (.stld c b) s = .next ((s.withFill (s.fillOf sl e (s.creg c) (bits (s.sreg b).toNat 10 10))).retire 4 [b]) := by
  obtain ⟨ha, word⟩ := takes_admits hb
  rw [exec_stld, execStld]
  refine run_done (by simp [hb.1]) ha.1 ha.2 ?_
  have room : s.me.full .tl = false := by simpa [Strand.full, Strand.count] using hroom
  simp only [word, hr, hal, hw, hl, he, room, ne_eq, not_true_eq_false, Bool.not_true, Bool.false_eq_true, if_false]
  rw [if_neg (not_not.2 hn)]
  rfl

theorem exec_stld_badCount (hn : bits (s.sreg b).toNat 10 10 ≠ e.fillCount) : exec (.stld c b) s = s.raise (cfgInv 0x0D) := by
  obtain ⟨ha, word⟩ := takes_admits hb
  rw [exec_stld, execStld]
  refine run_raise (by simp [hb.1]) ha.1 ha.2 ?_ hb.1
  simp only [word, hr, hal, hw, hl, he, ne_eq, not_true_eq_false, Bool.not_true, Bool.false_eq_true, if_false]
  rw [if_pos hn]

end
end

/-- `stswap` puts a swap behind the next marker of its element. -/
theorem exec_stswap_swaps {sl : Slot} {e : Elem} (h0 : bits (s.sreg b).toNat 10 10 = 0) (hw : tileWordOk (s.sreg b).toNat = true)
    (hl : (s.slotOf s.me.fld (bits (s.sreg b).toNat 8 2)).loading = false) (he : s.tileElem (s.sreg b).toNat = .inr (sl, e)) :
    exec (.stswap b) s = .next ((s.setElem sl.fld sl.idx { e with swapNext := e.swapNext + 1 }).retire 4 [b]) := by
  obtain ⟨ha, word⟩ := takes_admits hb
  rw [exec_stswap, execStswap]
  refine run_done (by simp [hb.1]) ha.1 ha.2 ?_
  simp only [word, h0, hw, hl, he, ne_eq, not_true_eq_false, decide_false, Bool.not_true, Bool.or_self, Bool.false_eq_true,
    if_false]

end

section
variable {s : State} {fld site : Nat}

theorem exec_stldFillComplete_waits (h : ∀ p ∈ s.fills, p.fld = fld → p.site = site → s.fillWaits p = true) :
    exec (.stldFillComplete fld site) s = .next s := by
  have noFill : s.fills.find? (fun p => p.fld = fld && p.site = site && !s.fillWaits p) = none := by
    refine List.find?_eq_none.2 fun p hp hd => ?_
    simp only [Bool.and_eq_true, decide_eq_true_eq, Bool.not_eq_true'] at hd
    simp [h p hp hd.1.1 hd.1.2] at hd
  rw [exec_stldFillComplete, execStldFillComplete, noFill]

/-- The oldest fill whose L is free ends once its words have been read. -/
theorem exec_stldFillComplete_fills {u : State} {p : Fill} {e : Elem} {vs : List Nat}
    (hp : s.fills.find? (fun p => p.fld = fld && p.site = site && !s.fillWaits p) = some p)
    (he : (s.slotOf fld p.slot).elems.find? (fun e => e.at site false) = some e)
    (hv : s.readRun fld p.owner (((s.strandAt fld p.owner).map (·.ctx)).getD (s.slotOf fld p.slot).ctx) p.cap 4 p.n p.cap.cur = .ok u vs) :
    ∃ t, exec (.stldFillComplete fld site) s = .next t ∧ t.fills = u.fills.erase p ∧ t.mem = u.mem := by
  have picked := List.find?_some hp
  simp only [Bool.and_eq_true, decide_eq_true_eq, Bool.not_eq_true'] at picked
  obtain ⟨⟨hfld, hsite⟩, free⟩ := picked
  have empty : e.lfull = false := by
    rw [State.fillWaits, hfld, hsite, he] at free
    exact free
  rw [exec_stldFillComplete, execStldFillComplete, hp]
  simp only [he, empty, hv, Bool.false_eq_true, if_false]
  obtain ⟨m, os, h⟩ := State.updStrand_eq (({ u with fills := u.fills.erase p } : State).setElem fld p.slot
    { e with tileL := vs.zipIdx.foldl (fun l q => tileSet l q.2 (BitVec.ofNat 32 q.1)) e.tileL, filled := p.n, lfull := true })
    fld p.owner (·.down .tl)
  exact ⟨_, rfl, by rw [h]; rfl, by rw [h]; rfl⟩

end

theorem stationaryTiles : Claim.StationaryTiles := by
  refine ⟨fun s c b sl e hb hr hal => ⟨fun hw => exec_stld_badWord hb hr hal hw, fun hw hl => exec_stld_waits hb hr hal hw hl,
    fun hw hl he => ⟨fun hn hroom => ?_, fun hn => exec_stld_badCount hb hr hal hw hl he hn⟩⟩,
    fun s a sl e hb h0 hw hl he => exec_stswap_swaps hb h0 hw hl he, fun s fld site => exec_stldFillComplete_waits,
    fun s u fld site p e vs hp he hv => exec_stldFillComplete_fills hp he hv⟩
  refine ⟨_, exec_stld_queues hb hr hal hw hl he hn hroom, ?_⟩
  rw [State.retire_eq 4 [b] (show (s.withFill _).me.finder = false from hb.1)]
  exact ⟨⟨rfl, rfl, rfl, rfl, rfl⟩, rfl, rfl⟩

/-- Settles O33: the end of every work on a slot rewrites its region, or sets the slot, and the strand's counter goes down; a fill
is queued by `stld` and ends once its words are read. -/
theorem slotsAndTiles : Obligations.SlotsAndTiles := ⟨slotSteps, stationaryTiles⟩

end Sys2Proof.Machine
end

section
/-!
PROOF. The watchdog, remote timeouts and timing errors (R156, R157, R419, R420, R426).
-/
namespace Sys2Proof.Machine

/-! ### The watchdog (R156) -/

/-- An idle region runs, nothing of it waits to be done, and no element of it may fire. -/
theorem State.regionIdle_running {s : State} {sl : Slot} (h : s.regionIdle sl = true) :
    sl.st = .running ∧ sl.pend = .none ∧ ∀ q ∈ s.region sl, ∀ e ∈ q.elems, e.stall = none ∧ fireElem q.fld e s = none := by
  simp only [State.regionIdle, Bool.and_eq_true, Bool.not_eq_true', decide_eq_true_eq, List.all_eq_true, Option.isNone_iff_eq_none] at h
  obtain ⟨⟨⟨⟨⟨⟨⟨hrun, hpend⟩, _⟩, _⟩, hfree⟩, _⟩, _⟩, hfire⟩ := h
  refine ⟨hrun, by simpa [Slot.pending] using hpend, fun q hq e he => ⟨?_, hfire q hq e he⟩⟩
  obtain ⟨⟨⟨hstall, _⟩, _⟩, _⟩ := hfree q hq e he
  exact hstall
/-- A region whose task is being saved is not idle. -/
theorem State.regionIdle_saving {s : State} {sl : Slot} {k : Task} {w : Nat} (hk : s.taskAt sl.fld = some k) (hw : k.phase = .saving w) :
    s.regionIdle sl = false := by
  simp [State.regionIdle, hk, hw]

theorem exec_deadlockWatchdog_stays {s : State} {fld slot : Nat} (h : s.regionIdle (s.slotOf fld slot) = false) :
    exec (.deadlockWatchdog fld slot) s = .next s := by
  rw [exec_deadlockWatchdog, execDeadlockWatchdog]
  exact if_neg (by simp [h])
/-- The watchdog stops every slot of an idle region, with one record. -/
theorem exec_deadlockWatchdog_stops {s : State} {fld slot : Nat} (h0 : (s.slotOf fld slot).sidx = 0)
    (h : s.regionIdle (s.slotOf fld slot) = true) : ∃ rec, exec (.deadlockWatchdog fld slot) s =
      .next ((s.mapRegion (s.slotOf fld slot) fun q => { q with dead := true }).post rec) ∧
      rec.ctx = (s.slotOf fld slot).ctx ∧ rec.kind = 8 ∧ rec.cause = 0x15 ∧ rec.why = 0 := by
  rw [exec_deadlockWatchdog, execDeadlockWatchdog]
  exact ⟨_, if_pos (by simp [h0, h]), rfl, rfl, rfl, rfl⟩

theorem State.mapRegion_dead {s : State} {sl q : Slot} (hq : q ∈ (s.mapRegion sl fun q => { q with dead := true }).slots)
    (h0 : q.f0 = sl.f0) (hi : q.idx = sl.idx) : q.dead = true := by
  obtain ⟨e, _, rfl⟩ := List.mem_map.1 hq
  by_cases inside : (e.f0 = sl.f0 && e.idx = sl.idx) = true
  · rw [if_pos inside]
  · rw [if_neg inside] at h0 hi
    exact absurd (by simp [h0, hi]) inside

/-! ### Requests that are abandoned (R420) -/

theorem State.updStrand_congr {s : State} {f i : Nat} {g k : Strand → Strand}
    (h : ∀ u ∈ s.me :: s.others, u.at f i = true → g u = k u) : s.updStrand f i g = s.updStrand f i k := by
  unfold State.updStrand
  split
  · next hme => rw [h s.me List.mem_cons_self hme]
  · refine congrArg (fun l => ({ s with others := l } : State)) (List.map_congr_left fun u hu => ?_)
    split
    · next hat => exact h u (List.mem_cons_of_mem _ hu) hat
    · rfl

section
variable {s : State} {fld id : Nat}

theorem exec_remoteTimeout_noFlight (h : s.flights.find? (fun f => f.id = id && f.ofStrand && f.acc.offDie) = none) :
    exec (.remoteTimeout 3 fld id) s = .next s := by
  rw [exec_remoteTimeout]
  simp only [execRemoteTimeout, timeoutStrand, h]

variable {f : Flight} {fl sl : Nat} (h : s.flights.find? (fun f => f.id = id && f.ofStrand && f.acc.offDie) = some f)
include h

/-- A port holds the request, and pauses its timer. -/
theorem exec_remoteTimeout_held {m : Nat} (hp : f.phase = .held m) : exec (.remoteTimeout 3 fld id) s = .next s := by
  rw [exec_remoteTimeout]
  simp only [execRemoteTimeout, timeoutStrand, h, hp]

/-- A strand's request that no port holds is abandoned. -/
theorem exec_remoteTimeout_abandons (hp : ∀ m, f.phase ≠ .held m) : exec (.remoteTimeout 3 fld id) s =
    .next (s.lateTrap { f with snap := if f.unchecked then f.snap else none } (mkTrap 0x16 0 f.acc.obj f.acc.off)) := by
  rw [exec_remoteTimeout]
  simp only [execRemoteTimeout, timeoutStrand, h]
  cases hph : f.phase with
  | held m => exact absurd hph (hp m)
  | _ => rfl

/-- Past its check, or with no state to go back to, the strand takes the cause between two instructions. -/
theorem exec_remoteTimeout_late (hw : f.who = .strand fl sl) (hfree : ∀ u ∈ s.me :: s.others, u.at fl sl = true → u.trap = none)
    (hs : f.unchecked = false ∨ f.snap = none) (hp : ∀ m, f.phase ≠ .held m) : exec (.remoteTimeout 3 fld id) s =
      .next ((s.dropFlight id).updStrand fl sl fun u =>
        { u.down f.cls with dests := u.dests.filter fun d => d.1 ≠ id, trap := some (mkTrap 0x16 0 f.acc.obj f.acc.off) }) := by
  have picked := List.find?_some h
  simp only [Bool.and_eq_true, decide_eq_true_eq] at picked
  obtain ⟨⟨hid, _⟩, _⟩ := picked
  have noSnap : (if f.unchecked then f.snap else none) = none := by
    rcases hs with hu | hn
    · simp [hu]
    · simp [hn]
  have downTrap (u : Strand) (c : Cls) : (u.down c).trap = u.trap := by cases c <;> rfl
  rw [exec_remoteTimeout_abandons h hp]
  simp only [State.lateTrap, hw, noSnap, hid]
  refine congrArg Host.Outcome.next (State.updStrand_congr fun u hu hat => ?_)
  simp only [downTrap, hfree u hu hat]
  rfl

/-- While its check has not returned, the strand goes back to the access. -/
theorem exec_remoteTimeout_rollback {b : Strand} (hw : f.who = .strand fl sl) (hu : f.unchecked = true) (hb : f.snap = some b)
    (hp : ∀ m, f.phase ≠ .held m) : exec (.remoteTimeout 3 fld id) s = .next (s.rollback f b (mkTrap 0x16 0 f.acc.obj f.acc.off)) := by
  rw [exec_remoteTimeout_abandons h hp]
  simp only [State.lateTrap, hw, hu, hb, if_true]
  unfold State.rollback
  simp only [hw]

end

/-- The object and offset of a cause are as they were given, up to the width of a record's fields. -/
theorem mkTrap_fobj (code sub o a : Nat) : (mkTrap code sub o a).fobj.toNat % 2 ^ 32 = o % 2 ^ 32 := by
  simp only [mkTrap, BitVec.toNat_ofNat]
  omega
theorem mkTrap_faddr (code sub o a : Nat) : (mkTrap code sub o (a % 2 ^ 48)).faddr.toNat % 2 ^ 48 = a % 2 ^ 48 := by
  simp only [mkTrap, BitVec.toNat_ofNat]
  omega

/-- A memory element whose request to another die no port holds stalls with it. -/
theorem exec_remoteTimeout_elem {s : State} {fld site : Nat} {x : Fx}
    (hx : s.fxAt fld site false (fun e => e.isM && e.col = 15) = some x) (hs : x.e.stall = none) (hd : x.sl.dead = false)
    (hoff : offDie fld (x.sl.capTab.getD (x.e.p 0 3) Cap.null).obj = true)
    (hports : ∀ p ∈ s.ports, p.ctx ≠ x.sl.ctx ∨ p.obj ≠ (x.sl.capTab.getD (x.e.p 0 3) Cap.null).obj) :
    exec (.remoteTimeout 0 fld site) s = .next (({ x with s := s.freeVal.2 } : Fx).stallWith
      { cause := 0x16, why := 0, inp := noInput, stage := 0, rcv := 0
        obj := (x.sl.capTab.getD (x.e.p 0 3) Cap.null).obj % 2 ^ 32, off := s.freeVal.1.toNat % 2 ^ 48 }) := by
  have noPort : (s.ports.any fun p => p.ctx = x.sl.ctx && p.obj = (x.sl.capTab.getD (x.e.p 0 3) Cap.null).obj) = false := by
    simp only [List.any_eq_false, Bool.and_eq_true, decide_eq_true_eq, not_and_or]
    exact hports
  rw [exec_remoteTimeout]
  simp only [execRemoteTimeout, timeoutElem, hx]
  rw [if_neg (by rw [hs, hd, hoff, noPort]; decide)]
  simp only [Fx.stallTrap, mkTrap_fobj, mkTrap_faddr]
  rfl

/-- An engine's element whose request to another die no port holds ends with it. -/
theorem exec_remoteTimeout_engine {s : State} {fld id at_ : Nat} {st : Stream} {r : Req} {c : Cap} (hst : s.streamAt id = some st)
    (hr : st.cur = some r) (hbad : r.bad = false) (hwp : st.heldWp = false) (hstall : st.stall = none) (hresp : ∀ q ∈ st.reqs, q.resps = [])
    (hcaps : r.caps = [(at_, c)]) (hoff : offDie r.fld c.obj = true) (hports : ∀ p ∈ s.ports, p.ctx ≠ r.ctx ∨ p.obj ≠ c.obj) :
    exec (.remoteTimeout 4 fld id) s = .next (s.freeVal.2.engFault st r (mkTrap 0x16 0 c.obj (s.freeVal.1.toNat % 2 ^ 48))) := by
  have noPort : (s.ports.any fun p => p.ctx = r.ctx && p.obj = c.obj) = false := by
    simp only [List.any_eq_false, Bool.and_eq_true, decide_eq_true_eq, not_and_or]
    exact hports
  have noResp : st.reqs.find? (fun r => r.resps.length = 1 && r.resps.all fun w => w.toNat % 256 = 0) = none :=
    List.find?_eq_none.2 fun q hq => by simp [hresp q hq]
  have away : r.caps.find? (fun c => offDie r.fld c.2.obj) = some (at_, c) := by simp [hcaps, hoff]
  rw [exec_remoteTimeout]
  simp only [execRemoteTimeout, timeoutEngine, hst, noResp, hr, away, Option.map_some, noPort, hbad, hwp, hstall]
  rfl

/-! ### Timing errors (R157, R426) -/

theorem State.fieldOf_no (s : State) (n : Nat) : (s.fieldOf n).no = n := by
  unfold State.fieldOf
  cases h : s.fields.find? (·.no = n) with
  | none => rfl
  | some f => simpa using List.find?_some h
theorem State.fieldOf_setField {s : State} {g : Field} {n : Nat} (h : g.no = n) : (s.setField g).fieldOf n = g := by
  subst h
  simp only [State.setField, State.fieldOf]
  rw [find?_upsert (p := fun x : Field => decide (x.no = g.no)) (by simp)]
  rfl

theorem satInc_toNat (w : W32) : (satInc w).toNat = min (w.toNat + 1) (2 ^ 32 - 1) := by
  have := w.isLt
  unfold satInc
  split
  · next h => simp [h]
  · next h =>
    have below : w.toNat ≠ 2 ^ 32 - 1 := fun e => h (BitVec.eq_of_toNat_eq (by simpa using e))
    rw [BitVec.toNat_add, show (1 : W32).toNat = 1 from rfl]
    omega

/-- The field after a replay of a stage. -/
def State.replayed (s : State) (fld site stage : Nat) : Field :=
  let f := s.fieldOf fld
  { f with
    replays := satInc f.replays
    runs := upsert (fun r => r.1 = (site, stage)) ((site, stage), s.firings fld site, s.replayRun fld site stage + 1) f.runs }

theorem exec_timingReplay_counts {s : State} {fld site : Nat} (stage : Nat) (hf : fld < 128) (hs : site < 256) :
    exec (.timingReplay (stagePlace fld site stage)) s = .next (s.setField (s.replayed fld site stage)) := by
  have theField : stagePlace fld site stage % 128 = fld := by unfold stagePlace; omega
  have theSite : stagePlace fld site stage / 128 % 256 = site := by unfold stagePlace; omega
  have theStage : stagePlace fld site stage / 32768 = stage := by unfold stagePlace; omega
  rw [exec_timingReplay]
  simp only [execTimingReplay, theField, theSite, theStage]
  rfl

theorem State.replayRun_replayed (s : State) (fld site stage : Nat) :
    (s.setField (s.replayed fld site stage)).replayRun fld site stage = s.replayRun fld site stage + 1 := by
  have found : (s.replayed fld site stage).runs.find? (·.1 = (site, stage)) =
      some ((site, stage), s.firings fld site, s.replayRun fld site stage + 1) :=
    find?_upsert (p := fun r : (Nat × Nat) × Nat × Nat => decide (r.1 = (site, stage))) (by simp) _
  have same : (s.setField (s.replayed fld site stage)).firings fld site = s.firings fld site := rfl
  conv_lhs => unfold State.replayRun
  rw [State.fieldOf_setField (by exact s.fieldOf_no fld), found, same]
  exact if_pos rfl

/-! ### A stage that replays one beat 16 times (R157, R426) -/

theorem State.unitAt_s {s : State} {fld site : Nat} {x : Fx} (h : s.unitAt fld site = some x) : x.s = s := by
  unfold State.unitAt at h
  rcases Option.or_eq_some_iff.1 h with h | ⟨_, h⟩
  · rcases Option.or_eq_some_iff.1 h with h | ⟨_, h⟩
    · exact (State.fxAt_some h).1
    · exact (State.fxAt_some h).1
  · obtain ⟨sl, _, rfl⟩ := Option.map_eq_some_iff.1 h
    rfl
theorem State.unitAt_none {s : State} {fld : Nat} (site : Nat) (h : s.runningAt fld = none) : s.unitAt fld site = none := by
  simp [State.unitAt, State.fxAt, h]

theorem exec_persistentTimingError_stays {s : State} {fld site stage : Nat}
    (h : s.runningAt fld = none ∨ s.replayRun fld site stage < 16) : exec (.persistentTimingError fld site stage) s = .next s := by
  rw [exec_persistentTimingError, execPersistentTimingError]
  rcases h with h | h
  · rw [State.unitAt_none site h]
  · split
    · rfl
    · exact if_pos h

/-- The unit stalled with POISON at a stage. -/
def Fx.stageStall (x : Fx) (stage : Nat) : State :=
  x.stallWith { cause := 0x13, why := 0x41, inp := noInput, stage := stage, rcv := 0, obj := 0, off := 0 }
/-- The unit stalled, its field fenced, and the message that asks for its replacement. -/
def Fx.badStage (x : Fx) (fld site stage : Nat) : State :=
  ((x.stageStall stage).setField { x.s.fieldOf fld with
    runs := (x.s.fieldOf fld).runs.filter (·.1 ≠ (site, stage)), fenced := true }).replaceMsg 1 fld 0x13

theorem Fx.badStage_tasks (x : Fx) (fld site stage : Nat) : (x.badStage fld site stage).tasks = x.s.tasks := rfl
theorem Fx.badStage_taskAt (x : Fx) (fld site stage : Nat) (f : Nat) : (x.badStage fld site stage).taskAt f = x.s.taskAt f := by
  unfold State.taskAt
  rw [Fx.badStage_tasks]

section
variable {s : State} {fld site stage : Nat} {x : Fx} (hx : s.unitAt fld site = some x) (h16 : 16 ≤ s.replayRun fld site stage)
  (hs : x.e.stall = none) (hf : (s.fieldOf fld).fenced = false) (hst : stage < 256)
include hx h16 hs hf hst

/-- The unit stalls and its field is fenced; what follows is the task of that field. -/
theorem exec_persistentTimingError_fences {o : Out}
    (h : (match (x.badStage fld site stage).taskAt fld with
      | some k => match k.phase with
        | .running => .next ((x.badStage fld site stage).moveOff k)
        | _ => .next (x.badStage fld site stage)
      | none => .next (x.badStage fld site stage)) = o) : exec (.persistentTimingError fld site stage) s = o := by
  have here := State.unitAt_s hx
  subst here
  have free : ¬ x.e.stall.isSome = true := by simp [hs]
  have unfenced : ¬ ((x.stageStall stage).fieldOf fld).fenced = true := by
    rw [show (x.stageStall stage).fieldOf fld = x.s.fieldOf fld from rfl, hf]
    decide
  rw [exec_persistentTimingError, execPersistentTimingError, hx]
  dsimp only
  rw [if_neg (Nat.not_lt.2 h16), if_neg free, Nat.mod_eq_of_lt (show stage < 2 ^ 8 from hst)]
  generalize left : (if ((x.stallWith { cause := ccPoison, why := 0x41, inp := noInput, stage := stage, rcv := 0, obj := 0
                                        off := 0 }).fieldOf fld).fenced then _ else _ : State) = u
  have reached : x.badStage fld site stage = u := left ▸ (if_neg unfenced).symm
  rw [reached] at h
  exact h

end

/-! ### The task of a fenced field is saved and queued (R156, R412) -/

theorem State.taskOf_setTask {s : State} {k : Task} {n : Nat} (h : k.tno = n) : (s.setTask k).taskOf n = some k := by
  subst h
  exact find?_upsert (p := fun x : Task => decide (x.tno = k.tno)) (by simp) s.tasks
theorem State.taskOf_congr {s t : State} (h : t.tasks = s.tasks) (n : Nat) : t.taskOf n = s.taskOf n := by
  unfold State.taskOf
  rw [h]
theorem State.taskOf_tno {s : State} {n : Nat} {k : Task} (h : s.taskOf n = some k) : k.tno = n := by
  simpa using List.find?_some h

theorem State.clearFields_saved (s : State) (fs : List Nat) : (fs.foldl State.clearField s).saved = s.saved := by
  induction fs generalizing s with
  | nil => rfl
  | cons f r ih => exact ih _

/-- A saved task, with no field, and its frame. -/
def Task.keptAt (k : Task) (phase : TaskPhase) (c : Cap) : Task := { k with fields := [], phase := phase, yielded := false, frame := c }
/-- A save keeps the task with no field, and its image first among the saved ones. -/
theorem State.saveTask_eq (s : State) (k : Task) (full : Bool) (c : Cap) (phase : TaskPhase) : ∃ u : State,
    s.saveTask k full c phase = u.setTask (k.keptAt phase c) ∧
      ∃ sv l, u.saved = sv :: l ∧ sv.tno = k.tno ∧ sv.full = full := by
  unfold State.saveTask
  dsimp only
  refine ⟨_, rfl, ?_⟩
  rw [State.clearFields_saved]
  exact ⟨_, _, rfl, rfl, rfl⟩

@[simp] theorem State.syncRounds_tasks (s : State) : s.syncRounds.tasks = s.tasks := by
  obtain ⟨l, hl⟩ := s.syncRounds_eq
  rw [hl]
@[simp] theorem State.syncRounds_saved (s : State) : s.syncRounds.saved = s.saved := by
  obtain ⟨l, hl⟩ := s.syncRounds_eq
  rw [hl]
@[simp] theorem State.syncRounds_posts (s : State) : s.syncRounds.posts = s.posts := by
  obtain ⟨l, hl⟩ := s.syncRounds_eq
  rw [hl]

/-- A task that is queued again keeps what it has. -/
theorem State.taskOf_requeue {s : State} {k j : Task} (h : s.taskOf k.tno = some j) (die q : Nat) :
    (s.requeue k die q).taskOf k.tno = some { j with phase := .queued, die := die, q := q } := by
  unfold State.requeue
  dsimp only
  rw [h]
  have same : j.tno = k.tno := State.taskOf_tno h
  exact State.taskOf_setTask (by exact same)

/-- The image of a saved task, its elements let go on. -/
def Saved.cured (v : Saved) : Saved :=
  { v with slots := v.slots.map fun (sl : Slot) => ({ sl with elems := sl.elems.map Elem.cured } : Slot) }
def State.cureSaved (s : State) (tno : Nat) : State :=
  match s.saved.find? (·.tno = tno) with
  | some v => s.setSaved v.cured
  | none => s
theorem State.cureSaved_tasks (s : State) (tno : Nat) : (s.cureSaved tno).tasks = s.tasks := by
  unfold State.cureSaved
  split <;> rfl
theorem State.cureSaved_first {s : State} {sv : Saved} {l : List Saved} {tno : Nat} (h : s.saved = sv :: l) (ht : sv.tno = tno) :
    sv.cured ∈ (s.cureSaved tno).saved := by
  have found : s.saved.find? (·.tno = tno) = some sv := by simp [h, ht]
  have here : sv.cured ∈ (s.setSaved sv.cured).saved :=
    List.mem_map.2 ⟨sv, by simp [h], if_pos rfl⟩
  unfold State.cureSaved
  rw [found]
  exact here

/-- The records of a task that is moved off: its save, and that its field has failed. -/
def State.reportMove (s : State) (k : Task) (c : Cap) : State :=
  (s.postSave k 3 c).post { Record.blank k.ctx 9 with why := 1, tno := k.tno }
theorem State.reportMove_tasks (s : State) (k : Task) (c : Cap) : (s.reportMove k c).tasks = s.tasks := rfl
theorem State.reportMove_posts (s : State) (k : Task) (c : Cap) :
    (∃ rec ∈ (s.reportMove k c).posts, rec.kind = 7 ∧ rec.why = 3 ∧ rec.ctx = k.ctx ∧ rec.obj = c.obj ∧ rec.off = c.cur) ∧
      ∃ rec ∈ (s.reportMove k c).posts, rec.kind = 9 ∧ rec.why = 1 ∧ rec.ctx = k.ctx :=
  ⟨⟨_, List.mem_append_left _ (List.mem_append_right _ (List.mem_singleton.2 rfl)), rfl, rfl, rfl, rfl, rfl⟩,
    ⟨_, List.mem_append_right _ (List.mem_singleton.2 rfl), rfl, rfl, rfl⟩⟩
theorem State.requeue_saved (s : State) (k : Task) (die q : Nat) : (s.requeue k die q).saved = s.saved := rfl
theorem State.requeue_posts (s : State) (k : Task) (die q : Nat) : (s.requeue k die q).posts = s.posts := rfl

/-- A task moved off a fenced field is saved into a frame of its pool, with its records, and is queued again. -/
theorem State.moveOff_saves {s w : State} {k : Task} {c : Cap} (hc : s.poolFrame k.ctx k.fields.length = some c)
    (hw : s.flushTask k = (w, .ok)) : ∃ k', (s.moveOff k).taskOf k.tno = some k' ∧ k'.phase = .queued ∧ k'.fields = [] ∧
      (∃ v ∈ (s.moveOff k).saved, v.tno = k.tno ∧ v.full = true) ∧
      (∃ rec ∈ (s.moveOff k).posts, rec.kind = 7 ∧ rec.why = 3 ∧ rec.ctx = k.ctx ∧ rec.obj = c.obj ∧ rec.off = c.cur) ∧
      ∃ rec ∈ (s.moveOff k).posts, rec.kind = 9 ∧ rec.why = 1 ∧ rec.ctx = k.ctx := by
  obtain ⟨u, hu, sv, l, hsaved, htno, hfull⟩ := w.saveTask_eq k true c .queued
  have moved : s.moveOff k =
      ((((u.setTask (k.keptAt .queued c)).cureSaved k.tno).reportMove k c).requeue k k.die k.q).syncRounds := by
    unfold State.moveOff
    simp only [hc, hw, hu]
    rfl
  have kept : (((u.setTask (k.keptAt .queued c)).cureSaved k.tno).reportMove k c).taskOf k.tno = some (k.keptAt .queued c) := by
    rw [State.taskOf_congr (State.reportMove_tasks ..), State.taskOf_congr (State.cureSaved_tasks ..)]
    exact State.taskOf_setTask rfl
  have queued := State.taskOf_requeue kept k.die k.q
  rw [moved, State.taskOf_congr (State.syncRounds_tasks _), State.syncRounds_saved, State.syncRounds_posts, State.requeue_saved,
    State.requeue_posts]
  exact ⟨_, queued, rfl, rfl, ⟨sv.cured, State.cureSaved_first hsaved htno, htno, hfull⟩, State.reportMove_posts ..⟩

theorem watchdogAndTimeouts : Claim.WatchdogAndTimeouts := by
  refine ⟨fun s fld slot => ⟨fun h => State.regionIdle_running h, fun k w hk hw => State.regionIdle_saving hk hw,
      fun h => exec_deadlockWatchdog_stays h, fun h0 h => ?_⟩,
    fun s fld id => ⟨exec_remoteTimeout_noFlight, fun f fl sl h hw => ⟨fun m hp => exec_remoteTimeout_held h hp,
      fun hfree hs hp => exec_remoteTimeout_late h hw hfree hs hp, fun b hu hb hp => exec_remoteTimeout_rollback h hw hu hb hp⟩⟩,
    fun s fld site x hx hs hd hoff hports => exec_remoteTimeout_elem hx hs hd hoff hports,
    fun s fld id st r at_ c hst hr hbad hwp hstall hresp hcaps hoff hports =>
      exec_remoteTimeout_engine hst hr hbad hwp hstall hresp hcaps hoff hports,
    fun s fld site stage hf hs => ⟨_, exec_timingReplay_counts stage hf hs, rfl, satInc_toNat _, s.replayRun_replayed fld site stage⟩,
    fun s fld site stage => ⟨exec_persistentTimingError_stays, fun x hx h16 hs hf hst => ⟨fun hk => ?_, fun k c w hk hp hc hw => ?_⟩⟩⟩
  · obtain ⟨rec, step, hctx, hkind, hcause, hwhy⟩ := exec_deadlockWatchdog_stops h0 h
    exact ⟨_, rec, step, rfl, hctx, hkind, hcause, hwhy, rfl, fun q hq hf0 hi => State.mapRegion_dead hq hf0 hi⟩
  · have here := State.unitAt_s hx
    subst here
    have noTask : (x.badStage fld site stage).taskAt fld = none := (x.badStage_taskAt ..).trans hk
    exact exec_persistentTimingError_fences hx h16 hs hf hst (by rw [noTask]; rfl)
  · have here := State.unitAt_s hx
    subst here
    have task : (x.badStage fld site stage).taskAt fld = some k := (x.badStage_taskAt ..).trans hk
    obtain ⟨k', saves⟩ := State.moveOff_saves (s := x.badStage fld site stage) hc hw
    exact ⟨_, k', exec_persistentTimingError_fences hx h16 hs hf hst (by simp only [task, hp]), saves⟩

end Sys2Proof.Machine
end

section
/-!
PROOF. HBM frames that fail (R243, R245, R426): the copy of a frame, a page's entry, and what the fence of a frame and the end of a
migration leave.
-/
namespace Sys2Proof.Machine

/-! ### The copy of a frame (R245) -/

theorem above_of_forall {m : List Host.Cell} {j k : Nat} (h : Memory.above j m = true) (hk : ∀ c ∈ m, k ≤ c.1) :
    Memory.above k m = true := by
  cases m with
  | nil => rfl
  | cons c r =>
    obtain ⟨_, hv, hr⟩ := above_cons.1 h
    exact above_cons.2 ⟨hk c List.mem_cons_self, hv, hr⟩

theorem readByte_filter_kept {p : Host.Cell → Bool} {x : Nat} (hp : ∀ v, p (x, v) = true) (m : List Host.Cell) :
    readByte (m.filter p) x = readByte m x := by
  induction m with
  | nil => rfl
  | cons c r ih =>
    obtain ⟨a, v⟩ := c
    by_cases ha : a = x
    · subst ha
      rw [List.filter_cons_of_pos (hp v)]
      simp [readByte]
    · cases hc : p (a, v) with
      | true => rw [List.filter_cons_of_pos hc]; simp [readByte, ha, ih]
      | false => rw [List.filter_cons_of_neg (by simp [hc])]; simp [readByte, ha, ih]
theorem readByte_filter_dropped {p : Host.Cell → Bool} {x : Nat} (hp : ∀ v, p (x, v) = false) (m : List Host.Cell) :
    readByte (m.filter p) x = unlisted := by
  induction m with
  | nil => rfl
  | cons c r ih =>
    obtain ⟨a, v⟩ := c
    by_cases hc : p (a, v) = true
    · have ha : a ≠ x := fun e => by rw [e, hp v] at hc; cases hc
      rw [List.filter_cons_of_pos hc]
      simp [readByte, ha, ih]
    · rw [List.filter_cons_of_neg hc]
      exact ih

/-- Cells written one after another at the same distance from B as they have from A. -/
def copyCells (A B : Nat) (cs m : List Host.Cell) : List Host.Cell := cs.foldl (fun m c => writeByte m (c.1 - A + B) c.2) m

/-- A listed byte lands at its distance from B. -/
theorem readByte_copyCells {A B j k : Nat} {cs m : List Host.Cell} (hcs : Memory.above j cs = true) (hj : A ≤ j) (hm : Memory.wf m = true) :
    readByte (copyCells A B cs m) (B + k) = if readByte cs (A + k) = unlisted then readByte m (B + k) else readByte cs (A + k) := by
  induction cs generalizing m j with
  | nil => rfl
  | cons c r ih =>
    obtain ⟨a, v⟩ := c
    obtain ⟨h1, hv, hr⟩ := above_cons.1 hcs
    refine (ih (m := writeByte m (a - A + B) v) hr (by omega) (wf_writeByte hm)).trans ?_
    rw [readByte_writeByte hm]
    by_cases here : a = A + k
    · have later : readByte r (A + k) = unlisted := readByte_above hr (by omega)
      rw [if_pos later, if_pos (by omega), show readByte ((a, v) :: r) (A + k) = v from if_pos here, if_neg hv]
    · rw [if_neg (show ¬ B + k = a - A + B by omega), show readByte ((a, v) :: r) (A + k) = readByte r (A + k) from if_neg here]
/-- Bytes that no cell comes to stay. -/
theorem readByte_copyCells_else {A B x : Nat} {cs m : List Host.Cell} (hx : ∀ c ∈ cs, x ≠ c.1 - A + B) (hm : Memory.wf m = true) :
    readByte (copyCells A B cs m) x = readByte m x := by
  induction cs generalizing m with
  | nil => rfl
  | cons c r ih =>
    refine (ih (m := writeByte m (c.1 - A + B) c.2) (fun d hd => hx d (List.mem_cons_of_mem _ hd)) (wf_writeByte hm)).trans ?_
    rw [readByte_writeByte hm, if_neg (hx c List.mem_cons_self)]

theorem mem_setIn {l : List Nat} {k x : Nat} : x ∈ setIn l k ↔ x = k ∨ x ∈ l := by
  induction l with
  | nil => simp [setIn]
  | cons a r ih =>
    unfold setIn
    split
    · simp only [List.mem_cons, ih]
      tauto
    · split
      · next h => simp [h]
      · simp
theorem mem_foldl_setIn {α : Type} {g : α → Nat} {l : List α} {p : List Nat} {x : Nat} :
    x ∈ l.foldl (fun p a => setIn p (g a)) p ↔ x ∈ p ∨ ∃ a ∈ l, g a = x := by
  induction l generalizing p with
  | nil => simp
  | cons a r ih =>
    rw [List.foldl_cons, ih, mem_setIn]
    simp only [List.mem_cons, exists_eq_or_imp, eq_comm (a := x)]
    tauto

/-- A frame of a mount has 65536 keys of its own. -/
theorem hbmKey_frame {mount a : Nat} (h : a < Config.frames) : hbmKey mount (a * 65536) = mount * 2 ^ 48 + a * 65536 := by
  have : Config.frames = 786432 := rfl
  unfold hbmKey
  omega

/-- The marked sectors of a frame, at the same distance from another, whose own marks are gone. -/
theorem mem_copySectors {l : List Nat} {A B j : Nat} (hA : A % 16 = 0) (hB : B % 16 = 0) (hj : j < 4096) :
    B / 16 + j ∈ (l.filter fun k => A / 16 ≤ k && k < (A + 65536) / 16).foldl (fun m k => setIn m (k - A / 16 + B / 16))
      (l.filter fun k => !(B / 16 ≤ k && k < (B + 65536) / 16)) ↔ A / 16 + j ∈ l := by
  have sizeA : (A + 65536) / 16 = A / 16 + 4096 := by omega
  have sizeB : (B + 65536) / 16 = B / 16 + 4096 := by omega
  rw [mem_foldl_setIn, sizeA, sizeB]
  simp only [List.mem_filter, Bool.and_eq_true, decide_eq_true_eq, Bool.not_eq_true', Bool.and_eq_false_iff, decide_eq_false_iff_not]
  constructor
  · rintro (⟨_, h⟩ | ⟨k, ⟨hk, h1, h2⟩, h⟩)
    · omega
    · obtain rfl : k = A / 16 + j := by omega
      exact hk
  · intro h
    exact .inr ⟨_, ⟨h, by omega, by omega⟩, by omega⟩

section
variable {s : State} {mount a b : Nat}

theorem State.copyFrame_mem (s : State) (mount a b : Nat) : (s.copyFrame mount a b).mem =
    copyCells (hbmKey mount (a * 65536)) (hbmKey mount (b * 65536))
      (s.mem.filter fun c => hbmKey mount (a * 65536) / 1 ≤ c.1 && c.1 < (hbmKey mount (a * 65536) + 65536) / 1)
      (zeroRange s.mem (hbmKey mount (b * 65536)) 65536) := rfl

/-- Every byte of the frame lies in its copy. -/
theorem State.copyFrame_inside (hs : s.Canonical) {k : Nat} (hk : k < 65536) :
    readByte (s.copyFrame mount a b).mem (hbmKey mount (b * 65536) + k) = readByte s.mem (hbmKey mount (a * 65536) + k) := by
  have below : Memory.above (hbmKey mount (a * 65536)) (s.mem.filter fun c =>
      hbmKey mount (a * 65536) / 1 ≤ c.1 && c.1 < (hbmKey mount (a * 65536) + 65536) / 1) = true := by
    refine above_of_forall (wf_filter hs) fun c hc => ?_
    have inFrame := (List.mem_filter.1 hc).2
    simp only [Nat.div_one, Bool.and_eq_true, decide_eq_true_eq] at inFrame
    exact inFrame.1
  have source := readByte_filter_kept (p := fun c => hbmKey mount (a * 65536) / 1 ≤ c.1 && c.1 < (hbmKey mount (a * 65536) + 65536) / 1)
    (x := hbmKey mount (a * 65536) + k) (fun v => by simp; omega) s.mem
  have cleared : readByte (zeroRange s.mem (hbmKey mount (b * 65536)) 65536) (hbmKey mount (b * 65536) + k) = unlisted :=
    readByte_filter_dropped (fun v => by simp; omega) s.mem
  rw [State.copyFrame_mem, readByte_copyCells below (Nat.le_refl _) (wf_zeroRange hs), source, cleared]
  split
  · next h => exact h.symm
  · rfl

theorem State.copyFrame_outside (hs : s.Canonical) {x : Nat} (hx : x < hbmKey mount (b * 65536) ∨ hbmKey mount (b * 65536) + 65536 ≤ x) :
    readByte (s.copyFrame mount a b).mem x = readByte s.mem x := by
  rw [State.copyFrame_mem, readByte_copyCells_else ?_ (wf_zeroRange hs)]
  · exact readByte_filter_kept (fun v => by simpa using hx) s.mem
  · intro c hc
    have inFrame := (List.mem_filter.1 hc).2
    simp only [Nat.div_one, Bool.and_eq_true, decide_eq_true_eq] at inFrame
    omega

/-- A sector of the copy is poisoned where the frame's was. -/
theorem State.copyFrame_poison (ha : a < Config.frames) (hb : b < Config.frames) {j : Nat} (hj : j < 4096) :
    hbmKey mount (b * 65536) / 16 + j ∈ (s.copyFrame mount a b).poison ↔ hbmKey mount (a * 65536) / 16 + j ∈ s.poison := by
  have alignedA : hbmKey mount (a * 65536) % 16 = 0 := by rw [hbmKey_frame ha]; omega
  have alignedB : hbmKey mount (b * 65536) % 16 = 0 := by rw [hbmKey_frame hb]; omega
  exact mem_copySectors alignedA alignedB hj

end

/-! ### The entry of a page (R243) -/

theorem readLE_lt (m : List Host.Cell) (k n : Nat) : readLE m k n < 256 ^ n := by
  induction n generalizing k with
  | zero => simp [readLE]
  | succ n ih =>
    have byte := (readByte m k).isLt
    have rest := ih (k + 1)
    rw [readLE, Nat.pow_succ]
    omega

/-- An entry with its state and its frame set keeps its other fields. -/
theorem entry_fields {e st f : Nat} (he : e < 2 ^ 64) (hs : st < 4) (hf : f < 2 ^ 24) :
    let e1 := e - e % 4 + st
    let e2 := e1 - bits e1 16 24 * 2 ^ 16 + f * 2 ^ 16
    e2 < 2 ^ 64 ∧ e2 % 4 = st ∧ bits e2 16 24 = f ∧ bits e2 2 14 = bits e 2 14 ∧ bits e2 40 24 = bits e 40 24 := by
  simp only [bits]
  refine ⟨?_, ?_, ?_, ?_, ?_⟩ <;> omega

theorem State.setEntry_fields {s : State} {mount : Nat} {g : Nat × Nat × Nat} {st f : Nat} (hs : s.Canonical) (hst : st < 4)
    (hf : f < 2 ^ 24) :
    let k := (s.descAt mount g.1 g.2.1).entryKey mount g.2.2; let e := readLE s.mem k 8
    let e' := readLE (s.setEntry mount g st (some f)).mem k 8
    e' % 4 = st ∧ bits e' 16 24 = f ∧ bits e' 2 14 = bits e 2 14 ∧ bits e' 40 24 = bits e 40 24 := by
  intro k e e'
  obtain ⟨small, fields⟩ := entry_fields (e := e) (readLE_lt s.mem k 8) hst hf
  have written : e' = e - e % 4 + st - bits (e - e % 4 + st) 16 24 * 2 ^ 16 + f * 2 ^ 16 :=
    (readLE_writeLE hs).trans (Nat.mod_eq_of_lt small)
  rw [written]
  exact fields

/-! ### What a frame's pages and the reserve depend on -/

section
variable {s t : State} (hm : t.mem = s.mem) (hh : t.host.adir = s.host.adir)
include hm hh

theorem State.almanac_congr (mount ctx : Nat) : t.almanac mount ctx = s.almanac mount ctx := by
  simp only [State.almanac, hm, hh]
theorem State.descAt_congr (mount ctx obj : Nat) : t.descAt mount ctx obj = s.descAt mount ctx obj := by
  simp only [State.descAt, hm, State.almanac_congr hm hh]
theorem State.pagesIn_congr (mount frame : Nat) : t.pagesIn mount frame = s.pagesIn mount frame := by
  simp only [State.pagesIn, hm, hh, State.almanac_congr hm hh, State.descAt_congr hm hh]
theorem State.setEntry_mem_congr (mount : Nat) (g : Nat × Nat × Nat) (st : Nat) (f : Option Nat) :
    (t.setEntry mount g st f).mem = (s.setEntry mount g st f).mem := by
  simp only [State.setEntry, hm, State.descAt_congr hm hh]

end

theorem State.reserveNext_congr {s t : State} (hm : t.mem = s.mem) (hr : t.host.rrsv = s.host.rrsv) (mount : Nat) :
    t.reserveNext mount = s.reserveNext mount := by
  have go (addr n : Nat) : t.reserveGo mount addr n = s.reserveGo mount addr n := by
    induction n with
    | zero => rfl
    | succ n ih => simp only [State.reserveGo, hm, ih]
  simp only [State.reserveNext, hr, go]
theorem State.framePinned_congr {s t : State} (hs : t.streams = s.streams) (hn : t.nvcmds = s.nvcmds) (gs : List (Nat × Nat × Nat)) :
    t.framePinned gs = s.framePinned gs := by
  simp only [State.framePinned, State.pinOf, hs, hn]

/-! ### An error counted (R243) -/

/-- An error counted against its frame, and among the corrected ones. -/
def State.countError (s : State) (mount frame : Nat) (bad : Bool) (h : mount < 8) : State :=
  let m := if bad then frameLimit else min (s.frameErr mount frame + 1) frameLimit
  { s with
    frameErrs := upsert (fun p => p.1 = mount && p.2.1 = frame) (mount, frame, m) s.frameErrs
    corrected := if bad then s.corrected else s.corrected.set mount (satInc s.corrected[mount]) }
/-- A line of a frame poisoned, which the free value picks. -/
def State.poisonLine (s : State) (mount frame : Nat) : State :=
  { s.freeVal.2 with
    poison := (List.range 4).foldl (fun p i => setIn p (hbmKey mount (frame * 65536 + s.freeVal.1.toNat % 1024 * 64) / 16 + i)) s.poison }
def State.noteError (s : State) (mount frame : Nat) (bad : Bool) (h : mount < 8) : State :=
  if bad then (s.countError mount frame true h).poisonLine mount frame else s.countError mount frame false h

/-- A counted error changes the counts, the poison and the free value. -/
theorem State.noteError_eq (s : State) (mount frame : Nat) (bad : Bool) (h : mount < 8) : ∃ e c p v,
    s.noteError mount frame bad h = { s with frameErrs := e, corrected := c, poison := p, free := v } := by
  cases bad <;> exact ⟨_, _, _, _, rfl⟩

theorem State.noteError_frameErr (s : State) (mount frame : Nat) (bad : Bool) (h : mount < 8) :
    (s.noteError mount frame bad h).frameErr mount frame = if bad then 8 else min (s.frameErr mount frame + 1) 8 := by
  have found (m : Nat) : (upsert (fun p : Nat × Nat × Nat => p.1 = mount && p.2.1 = frame) (mount, frame, m) s.frameErrs).find?
      (fun p => p.1 = mount && p.2.1 = frame) = some (mount, frame, m) := find?_upsert (by simp) _
  cases bad
  · exact congrArg (fun o => (o.map (·.2.2)).getD 0) (found _)
  · exact congrArg (fun o => (o.map (·.2.2)).getD 0) (found _)
theorem State.noteError_corrected (s : State) (mount frame : Nat) (h : mount < 8) :
    ((s.noteError mount frame false h).corrected[mount]).toNat = min ((s.corrected[mount]).toNat + 1) (2 ^ 32 - 1) := by
  have counted : (s.noteError mount frame false h).corrected[mount] = satInc s.corrected[mount] := Vector.getElem_set_self h
  rw [counted, satInc_toNat]
theorem State.noteError_poison (s : State) (mount frame : Nat) (h : mount < 8) : ∃ line < 1024, ∀ i < 4,
    hbmKey mount (frame * 65536 + line * 64) / 16 + i ∈ (s.noteError mount frame true h).poison := by
  refine ⟨(s.countError mount frame true h).freeVal.1.toNat % 1024, Nat.mod_lt _ (by decide), fun i hi => ?_⟩
  exact mem_foldl_setIn.2 (.inr ⟨i, List.mem_range.2 hi, rfl⟩)

/-! ### The fence of a frame (R245, R426) -/

/-- The mount fenced, and the message that asks for its replacement. -/
def State.fenceFrame (s : State) (mount frame : Nat) (bad : Bool) : State :=
  let s := s.replaceMsg 3 (mount * 2 ^ 24 + frame) (if bad then ccPoison else 0)
  { s with host := { s.host with fencedMounts := s.host.fencedMounts ||| BitVec.ofNat 8 (2 ^ mount) } }
/-- A record to every context with a page there. -/
def State.reportPages (s : State) (mount : Nat) (gs : List (Nat × Nat × Nat)) : State :=
  (gs.map (·.1)).eraseDups.foldl (fun s c => s.post { Record.blank c 9 with why := 3, loc := locPort s.pkg mount }) s
/-- A migration begins where there is a page to move and a frame in the reserve. -/
def State.startMove (s : State) (mount frame : Nat) (gs : List (Nat × Nat × Nat)) : State :=
  if gs.isEmpty then s
  else
    let u := s.setReserve mount (s.reserveNext mount).2
    match (s.reserveNext mount).1 with
    | none => u
    | some d =>
      let v : State := { u with migs := u.migs ++ [(mount, frame, d)] }
      if v.framePinned gs then v else gs.foldl (fun s g => s.setEntry mount g 2 none) v

theorem next_startMove (s : State) (mount frame : Nat) (gs : List (Nat × Nat × Nat)) :
    (if gs.isEmpty then (.next s : Out)
    else match (s.reserveNext mount).1 with
      | none => .next (s.setReserve mount (s.reserveNext mount).2)
      | some d =>
        let v : State := { s.setReserve mount (s.reserveNext mount).2 with
          migs := (s.setReserve mount (s.reserveNext mount).2).migs ++ [(mount, frame, d)] }
        .next (if v.framePinned gs then v else gs.foldl (fun s g => s.setEntry mount g 2 none) v)) = .next (s.startMove mount frame gs) := by
  unfold State.startMove
  split
  · rfl
  · split
    · rfl
    · rfl

theorem exec_hbmFrameFence_outside {s : State} {mount frame : Nat} {bad : Bool} (h : 8 ≤ mount ∨ Config.frames ≤ frame) :
    exec (.hbmFrameFence mount frame bad) s = .next s := by
  rw [exec_hbmFrameFence, execHbmFrameFence]
  split
  · exact if_pos (h.resolve_left (by omega))
  · rfl

section
variable {s : State} {mount frame : Nat} {bad : Bool} (h : mount < 8) (hf : frame < Config.frames)
include hf

/-- Errors below the limit, and those of a frame fenced already, are counted. -/
theorem exec_hbmFrameFence_counts (hq : (bad = false ∧ s.frameErr mount frame + 1 < 8) ∨ 8 ≤ s.frameErr mount frame) :
    exec (.hbmFrameFence mount frame bad) s = .next (s.noteError mount frame bad h) := by
  rw [exec_hbmFrameFence, execHbmFrameFence, dif_pos h, if_neg (Nat.not_le.2 hf)]
  have quiet : (decide ((if bad then frameLimit else min (s.frameErr mount frame + 1) frameLimit) < frameLimit) ||
      decide (s.frameErr mount frame ≥ frameLimit)) = true := by
    unfold frameLimit
    rcases hq with ⟨hb, hn⟩ | hn
    · simp [hb]
      omega
    · simp [hn]
  cases bad
  · exact if_pos quiet
  · exact if_pos quiet

/-- The eighth error, or one that cannot be corrected, fences the frame. -/
theorem exec_hbmFrameFence_fences (hn : s.frameErr mount frame < 8) (hq : bad = true ∨ s.frameErr mount frame = 7) :
    exec (.hbmFrameFence mount frame bad) s = .next
      ((((s.noteError mount frame bad h).fenceFrame mount frame bad).reportPages mount (s.pagesIn mount frame)).startMove mount frame
        (s.pagesIn mount frame)) := by
  have samePages : (s.noteError mount frame bad h).pagesIn mount frame = s.pagesIn mount frame := by
    obtain ⟨e, c, p, v, eq⟩ := s.noteError_eq mount frame bad h
    rw [eq]
    exact State.pagesIn_congr rfl rfl mount frame
  rw [exec_hbmFrameFence, execHbmFrameFence, dif_pos h, if_neg (Nat.not_le.2 hf), ← samePages]
  have limit : ¬ (decide ((if bad then frameLimit else min (s.frameErr mount frame + 1) frameLimit) < frameLimit) ||
      decide (s.frameErr mount frame ≥ frameLimit)) = true := by
    unfold frameLimit
    rcases hq with hb | h7
    · simp [hb, hn]
    · simp [h7]
  cases bad
  · exact (if_neg limit).trans (next_startMove ..)
  · exact (if_neg limit).trans (next_startMove ..)

end

/-! ### What the fence of a frame leaves -/

/-- The fence of a frame changes the messages and the mounts fenced. -/
theorem State.fenceFrame_eq (s : State) (mount frame : Nat) (bad : Bool) : ∃ m, m.code = mgReplace ∧
    s.fenceFrame mount frame bad = { s with
      mgmt := s.mgmt ++ [m], host := { s.host with fencedMounts := s.host.fencedMounts ||| BitVec.ofNat 8 (2 ^ mount) } } :=
  ⟨_, rfl, rfl⟩
theorem fencedMounts_getLsbD (w : BitVec 8) {mount : Nat} (h : mount < 8) : (w ||| BitVec.ofNat 8 (2 ^ mount)).getLsbD mount = true := by
  rw [BitVec.getLsbD_or, BitVec.getLsbD_ofNat, Nat.testBit_two_pow_self]
  simp [h]

/-- The record of a failing frame for a context. -/
def State.frameRecord (s : State) (mount c : Nat) : Record := { Record.blank c 9 with why := 3, loc := locPort s.pkg mount }
theorem State.postAll_eq (s : State) (mount : Nat) (cs : List Nat) : ∃ l,
    cs.foldl (fun s c => s.post (s.frameRecord mount c)) s = { s with posts := s.posts ++ l } ∧
      ∀ c ∈ cs, ∃ q ∈ l, q.ctx = c ∧ q.kind = 9 ∧ q.why = 3 := by
  induction cs generalizing s with
  | nil => exact ⟨[], by simp, fun c hc => absurd hc List.not_mem_nil⟩
  | cons c r ih =>
    obtain ⟨l, hl, hrec⟩ := ih (s.post (s.frameRecord mount c))
    refine ⟨s.frameRecord mount c :: l, hl.trans (by simp [State.post]), fun d hd => ?_⟩
    rcases List.mem_cons.1 hd with rfl | hd
    · exact ⟨_, List.mem_cons_self, rfl, rfl, rfl⟩
    · obtain ⟨q, hq, fields⟩ := hrec d hd
      exact ⟨q, List.mem_cons_of_mem _ hq, fields⟩
/-- The report of a frame's pages adds a record for each context. -/
theorem State.reportPages_eq (s : State) (mount : Nat) (gs : List (Nat × Nat × Nat)) : ∃ l,
    s.reportPages mount gs = { s with posts := s.posts ++ l } ∧ ∀ g ∈ gs, ∃ q ∈ l, q.ctx = g.1 ∧ q.kind = 9 ∧ q.why = 3 := by
  obtain ⟨l, hl, hrec⟩ := s.postAll_eq mount (gs.map (·.1)).eraseDups
  exact ⟨l, hl, fun g hg => hrec g.1 (List.mem_eraseDups.2 (List.mem_map_of_mem hg))⟩

theorem State.setEntries_eq (s : State) (mount st : Nat) (f : Option Nat) (gs : List (Nat × Nat × Nat)) :
    ∃ m, gs.foldl (fun s g => s.setEntry mount g st f) s = { s with mem := m } := by
  induction gs generalizing s with
  | nil => exact ⟨_, rfl⟩
  | cons g r ih =>
    obtain ⟨m, hm⟩ := ih (s.setEntry mount g st f)
    exact ⟨m, hm⟩

/-- The reserve's count, in its register's place. -/
theorem reserve_fields (r : W64) (n : Nat) :
    let q : W64 := r.extractLsb' 58 6 ++ BitVec.ofNat 10 n ++ r.extractLsb' 0 48
    bits q.toNat 48 10 = n % 1024 ∧ bits q.toNat 0 48 = bits r.toNat 0 48 := by
  intro q
  have low : (r.extractLsb' 0 48).toNat = r.toNat % 2 ^ 48 := by simp
  have whole : q.toNat = ((r.extractLsb' 58 6).toNat * 2 ^ 10 + n % 2 ^ 10) * 2 ^ 48 + r.toNat % 2 ^ 48 := by
    rw [BitVec.toNat_append, BitVec.toNat_append, low, BitVec.toNat_ofNat,
      ← Nat.shiftLeft_add_eq_or_of_lt (Nat.mod_lt _ (by decide)), ← Nat.shiftLeft_add_eq_or_of_lt (Nat.mod_lt _ (by decide)),
      Nat.shiftLeft_eq, Nat.shiftLeft_eq]
  simp only [bits, whole]
  omega

theorem State.setReserve_eq (s : State) {mount : Nat} (n : Nat) (h : mount < 8) : ∃ v : Vector W64 8, 
    s.setReserve mount n = { s with host := { s.host with rrsv := v } } ∧
      bits (v[mount]).toNat 48 10 = n % 1024 ∧ bits (v[mount]).toNat 0 48 = bits (s.host.rrsv[mount]).toNat 0 48 := by
  unfold State.setReserve
  rw [dif_pos h]
  refine ⟨_, rfl, ?_⟩
  rw [Vector.getElem_set_self]
  exact reserve_fields ..

/-- The register of the reserve after a frame has been asked of it. -/
def ReserveTaken (s : State) (mount : Nat) (h : mount < 8) (v : Vector W64 8) : Prop :=
  bits (v[mount]).toNat 48 10 = (s.reserveNext mount).2 % 1024 ∧ bits (v[mount]).toNat 0 48 = bits (s.host.rrsv[mount]).toNat 0 48

section
variable {s : State} {mount : Nat} (frame : Nat) {gs : List (Nat × Nat × Nat)}

/-- With an empty reserve, the pages stay. -/
theorem State.startMove_none (h : mount < 8) (hg : gs ≠ []) (hr : (s.reserveNext mount).1 = none) : ∃ v,
    s.startMove mount frame gs = { s with host := { s.host with rrsv := v } } ∧ ReserveTaken s mount h v := by
  obtain ⟨v, hv, taken⟩ := s.setReserve_eq (s.reserveNext mount).2 h
  refine ⟨v, ?_, taken⟩
  unfold State.startMove
  rw [if_neg (by simpa using hg)]
  simp only [hr]
  exact hv

/-- With a frame in the reserve a migration begins, and the entries of pages that nothing pins say so. -/
theorem State.startMove_some (h : mount < 8) (hg : gs ≠ []) {d : Nat} (hr : (s.reserveNext mount).1 = some d) : ∃ v m,
    s.startMove mount frame gs = { s with mem := m, host := { s.host with rrsv := v }, migs := s.migs ++ [(mount, frame, d)] } ∧
      ReserveTaken s mount h v ∧ (s.framePinned gs = true → m = s.mem) ∧
      ∀ g, gs = [g] → s.framePinned gs = false → m = (s.setEntry mount g 2 none).mem := by
  obtain ⟨v, hv, taken⟩ := s.setReserve_eq (s.reserveNext mount).2 h
  let t : State := { s with host := { s.host with rrsv := v }, migs := s.migs ++ [(mount, frame, d)] }
  have started : s.startMove mount frame gs =
      if s.framePinned gs then t else gs.foldl (fun s g => s.setEntry mount g 2 none) t := by
    unfold State.startMove
    rw [if_neg (by simpa using hg)]
    simp only [hr, hv]
    rfl
  cases hp : s.framePinned gs with
  | true => exact ⟨v, s.mem, by rw [started, hp]; rfl, taken, fun _ => rfl, fun g _ hn => by cases hn⟩
  | false =>
    obtain ⟨m, hm⟩ := t.setEntries_eq mount 2 none gs
    refine ⟨v, m, by rw [started, hp]; exact hm, taken, fun hn => by (cases hn), ?_⟩
    rintro g rfl -
    have same : (t.setEntry mount g 2 none).mem = (s.setEntry mount g 2 none).mem := State.setEntry_mem_congr rfl rfl ..
    rw [← same]
    exact (congrArg State.mem hm).symm

end

/-- t has counted an error as s counts it. -/
def Counted (s t : State) (mount frame : Nat) (bad : Bool) (h : mount < 8) : Prop :=
  (bad = false → (t.corrected[mount]).toNat = min ((s.corrected[mount]).toNat + 1) (2 ^ 32 - 1) ∧ t.poison = s.poison ∧
    t.frameErr mount frame = min (s.frameErr mount frame + 1) 8) ∧
  (bad = true → t.frameErr mount frame = 8 ∧ ∃ line < 1024, ∀ i < 4, hbmKey mount (frame * 65536 + line * 64) / 16 + i ∈ t.poison)

theorem State.noteError_counted (s : State) (mount frame : Nat) (bad : Bool) (h : mount < 8) :
    Counted s (s.noteError mount frame bad h) mount frame bad h := by
  constructor
  · rintro rfl
    exact ⟨s.noteError_corrected mount frame h, rfl, s.noteError_frameErr mount frame false h⟩
  · rintro rfl
    exact ⟨s.noteError_frameErr mount frame true h, s.noteError_poison mount frame h⟩

/-- What a fence does to the pages gs of its frame: those who have them are told, and where the reserve gives a frame they start to
move there. -/
def PagesMove (s t : State) (mount frame : Nat) (h : mount < 8) (gs : List (Nat × Nat × Nat)) : Prop :=
  (∀ g ∈ gs, ∃ rec ∈ t.posts, rec.ctx = g.1 ∧ rec.kind = 9 ∧ rec.why = 3) ∧
  (((s.reserveNext mount).1 = none ∨ s.framePinned gs = true ∨ gs = []) → t.mem = s.mem) ∧
  (gs = [] → t.migs = s.migs ∧ t.host.rrsv = s.host.rrsv) ∧
  (gs ≠ [] → t.migs = s.migs ++ ((s.reserveNext mount).1.map fun d => (mount, frame, d)).toList ∧ ReserveTaken s mount h t.host.rrsv) ∧
  (∀ g, gs = [g] → (s.reserveNext mount).1.isSome = true → s.framePinned gs = false → t.mem = (s.setEntry mount g 2 none).mem)

/-- What a fence does to the pages depends on memory, the almanacs, the reserve, the migrations and what is pinned. -/
theorem PagesMove.of_congr {s s' t : State} {mount frame : Nat} {h : mount < 8} {gs : List (Nat × Nat × Nat)} (hm : s'.mem = s.mem)
    (ha : s'.host.adir = s.host.adir) (hr : s'.host.rrsv = s.host.rrsv) (hs : s'.streams = s.streams) (hn : s'.nvcmds = s.nvcmds)
    (hg : s'.migs = s.migs) (hp : PagesMove s' t mount frame h gs) : PagesMove s t mount frame h gs := by
  simpa only [PagesMove, ReserveTaken, hm, hr, hg, State.reserveNext_congr hm hr, State.framePinned_congr hs hn,
    State.setEntry_mem_congr hm ha] using hp

/-- The start of a migration, after a report of the pages. -/
theorem State.startMove_pages {s : State} {mount : Nat} (frame : Nat) (h : mount < 8) {gs : List (Nat × Nat × Nat)}
    (hp : ∀ g ∈ gs, ∃ rec ∈ s.posts, rec.ctx = g.1 ∧ rec.kind = 9 ∧ rec.why = 3) :
    ∃ m v l, s.startMove mount frame gs = { s with mem := m, host := { s.host with rrsv := v }, migs := l } ∧
      PagesMove s { s with mem := m, host := { s.host with rrsv := v }, migs := l } mount frame h gs := by
  by_cases hg : gs = []
  · subst hg
    exact ⟨s.mem, s.host.rrsv, s.migs, rfl, hp, fun _ => rfl, fun _ => ⟨rfl, rfl⟩, fun hn => absurd rfl hn, fun g hn => by cases hn⟩
  · cases hr : (s.reserveNext mount).1 with
    | none =>
      obtain ⟨v, hv, taken⟩ := State.startMove_none frame h hg hr
      exact ⟨s.mem, v, s.migs, hv, hp, fun _ => rfl, fun hn => absurd hn hg, fun _ => ⟨by simp [hr], taken⟩,
        fun g _ hsome => by rw [hr] at hsome; cases hsome⟩
    | some d =>
      obtain ⟨v, m, hv, taken, pinned, one⟩ := State.startMove_some frame h hg hr
      refine ⟨m, v, _, hv, hp, fun hn => ?_, fun hn => absurd hn hg, fun _ => ⟨by simp [hr], taken⟩, fun g hg1 _ hn => one g hg1 hn⟩
      rcases hn with hn | hn | hn
      · rw [hr] at hn
        cases hn
      · exact pinned hn
      · exact absurd hn hg

/-- A frame that is fenced: its error is counted, its mount is fenced, a message asks for its replacement, and its pages move. -/
theorem exec_hbmFrameFence_moves {s : State} {mount frame : Nat} {bad : Bool} (h : mount < 8) (hf : frame < Config.frames)
    (hn : s.frameErr mount frame < 8) (hq : bad = true ∨ s.frameErr mount frame = 7) :
    ∃ t, exec (.hbmFrameFence mount frame bad) s = .next t ∧ Counted s t mount frame bad h ∧
      (∃ m, t.mgmt = s.mgmt ++ [m] ∧ m.code = mgReplace) ∧ t.host.fencedMounts.getLsbD mount = true ∧
      PagesMove s t mount frame h (s.pagesIn mount frame) := by
  obtain ⟨e, c, p, w, noted⟩ := s.noteError_eq mount frame bad h
  obtain ⟨msg, hcode, fenced⟩ := (s.noteError mount frame bad h).fenceFrame_eq mount frame bad
  obtain ⟨l, reported, told⟩ := ((s.noteError mount frame bad h).fenceFrame mount frame bad).reportPages_eq mount (s.pagesIn mount frame)
  have step := exec_hbmFrameFence_fences h hf hn hq
  have counted := s.noteError_counted mount frame bad h
  generalize ((s.noteError mount frame bad h).fenceFrame mount frame bad).reportPages mount (s.pagesIn mount frame) = u at step reported
  rw [noted] at counted
  rw [fenced, noted] at reported
  obtain ⟨m, v, k, moved, moves⟩ := State.startMove_pages (s := u) frame h (gs := s.pagesIn mount frame) fun g hg => by
    obtain ⟨q, hq, fields⟩ := told g hg
    exact ⟨q, by rw [reported]; exact List.mem_append_right _ hq, fields⟩
  rw [moved] at step
  refine ⟨_, step, ?_, ⟨msg, ?_, hcode⟩, ?_, PagesMove.of_congr ?_ ?_ ?_ ?_ ?_ ?_ moves⟩
  · rw [reported]
    exact counted
  · rw [reported]
  · rw [reported]
    exact fencedMounts_getLsbD _ h
  all_goals rw [reported]

/-! ### The end of a migration (R245) -/

section
variable {s : State} {mount frame : Nat}

theorem exec_migrationComplete_stays (h : s.migs.find? (fun m => m.1 = mount && m.2.1 = frame) = none ∨
    s.framePinned (s.pagesIn mount frame) = true) : exec (.migrationComplete mount frame) s = .next s := by
  rw [exec_migrationComplete, execMigrationComplete]
  rcases h with h | h
  · simp only [h]
  · split
    · rfl
    · exact if_pos h

/-- The frame is copied, and the page is mapped at the copy. -/
theorem exec_migrationComplete_maps {m : Nat × Nat × Nat} {g : Nat × Nat × Nat}
    (hm : s.migs.find? (fun m => m.1 = mount && m.2.1 = frame) = some m) (hg : s.pagesIn mount frame = [g])
    (hp : s.framePinned (s.pagesIn mount frame) = false) : exec (.migrationComplete mount frame) s =
      .next ((({ s with migs := s.migs.erase m } : State).copyFrame mount frame m.2.2).setEntry mount g 1 (some m.2.2)) := by
  rw [exec_migrationComplete, execMigrationComplete]
  simp only [hm]
  rw [if_neg (by simp [hp]), hg]
  rfl

end

theorem frameErrors : Claim.FrameErrors := by
  refine ⟨fun s mount frame bad => exec_hbmFrameFence_outside, fun s mount frame bad h hf => ?_, fun s mount frame => ⟨fun hn => ?_, ?_⟩,
    fun s mount a b hs _ ha hb => ⟨fun k hk => State.copyFrame_inside hs hk, fun x hx => State.copyFrame_outside hs hx,
      fun j hj => State.copyFrame_poison ha hb hj⟩,
    fun s mount g st f hs hst hf => State.setEntry_fields hs hst hf⟩
  · by_cases quiet : (bad = false ∧ s.frameErr mount frame + 1 < 8) ∨ 8 ≤ s.frameErr mount frame
    · obtain ⟨hcounts, hbad⟩ := s.noteError_counted mount frame bad h
      have kept : (s.noteError mount frame bad h).mem = s.mem ∧ (s.noteError mount frame bad h).mgmt = s.mgmt ∧
          (s.noteError mount frame bad h).posts = s.posts := by
        obtain ⟨e, c, p, w, noted⟩ := s.noteError_eq mount frame bad h
        rw [noted]
        exact ⟨rfl, rfl, rfl⟩
      refine ⟨_, exec_hbmFrameFence_counts h hf quiet, hcounts, fun _ _ => kept, fun _ => kept, hbad, fun hn hq => ?_⟩
      rcases quiet with ⟨rfl, h7⟩ | h8
      · rcases hq with hq | hq
        · cases hq
        · omega
      · omega
    · obtain ⟨hb, hn⟩ := not_or.1 quiet
      have below : s.frameErr mount frame < 8 := Nat.not_le.1 hn
      have fences : bad = true ∨ s.frameErr mount frame = 7 := by
        cases bad
        · exact .inr (by simp at hb; omega)
        · exact .inl rfl
      obtain ⟨t, step, ⟨hcounts, hbad⟩, hmsg, hmount, moves⟩ := exec_hbmFrameFence_moves h hf below fences
      exact ⟨t, step, hcounts, fun h0 h7 => absurd ⟨h0, h7⟩ hb, fun h8 => absurd h8 hn, hbad, fun _ _ => ⟨hmsg, hmount, moves⟩⟩
  · exact exec_migrationComplete_stays hn
  · intro m g hm hg hp
    exact ⟨_, exec_migrationComplete_maps hm hg hp, rfl, rfl, rfl⟩

/-- Settles O51: by what each step of the watchdog, the timers and the error counters does, and by the bytes, marks and entries that a
migration writes. -/
theorem failingUnits : Obligations.FailingUnits := ⟨watchdogAndTimeouts, frameErrors⟩

end Sys2Proof.Machine
end

section
/-!
PROOF. Elements that reach memory (R177 to R179, R260, R268): how an access goes by the checks of R24, what it leaves in the
scratchpad, and the operation of each memory element where nothing else is due.
-/
namespace Sys2Proof.Machine

/-! ### Bytes of one sector written (R231) -/

theorem writeMask_none (m : List Host.Cell) (k n v : Nat) : writeMask m k n v 0 = m := by
  induction n generalizing k v with
  | zero => rfl
  | succ n ih => exact ih (k + 1) (v / 256)

/-- The low bytes of a number, and none after them. -/
theorem writeMask_low (m : List Host.Cell) (k n r v : Nat) : writeMask m k (n + r) v (2 ^ n - 1) = writeLE m k n v := by
  induction n generalizing m k v with
  | zero => exact writeMask_none m k (0 + r) v
  | succ n ih =>
    have odd : (2 ^ (n + 1) - 1) % 2 = 1 := by
      have := Nat.two_pow_pos n
      omega
    have half : (2 ^ (n + 1) - 1) / 2 = 2 ^ n - 1 := by omega
    rw [show n + 1 + r = n + r + 1 by omega, writeMask, odd, half, ih, if_pos rfl]
    rfl

/-- Bytes below the lowest that the mask selects stay. -/
theorem writeMask_shift (m : List Host.Cell) (k j n v mask : Nat) :
    writeMask m k (j + n) (v * 2 ^ (8 * j)) (mask * 2 ^ j) = writeMask m (k + j) n v mask := by
  induction j generalizing k with
  | zero => simp
  | succ j ih =>
    have twice : mask * 2 ^ (j + 1) = mask * 2 ^ j * 2 := by rw [Nat.pow_succ, Nat.mul_assoc]
    have data : v * 2 ^ (8 * (j + 1)) / 256 = v * 2 ^ (8 * j) := by
      rw [show 8 * (j + 1) = 8 * j + 8 by omega, Nat.pow_add, ← Nat.mul_assoc]
      exact Nat.mul_div_cancel _ (by decide)
    rw [show j + 1 + n = j + n + 1 by omega, writeMask, twice, if_neg (by omega), data, Nat.mul_div_cancel _ (by decide), ih,
      show k + 1 + j = k + (j + 1) by omega]

/-- A store of fewer than sixteen bytes of one sector that is not poisoned writes those bytes (R23, R244). -/
theorem State.storeSector_mem {s : State} {key off n v : Nat} {tag : Bool} (hk : off % 16 ≤ key) (hin : off % 16 + n ≤ 16) (hn : n < 16)
    (hp : s.poison.contains ((key - off % 16) / 16) = false) :
    (s.storeSector key 0 0 off (inSector off n v).1 (inSector off n v).2 tag).mem = writeLE s.mem key n v := by
  have part : ¬ (inSector off n v).2 = 2 ^ 16 - 1 := by
    show ¬ (2 ^ n - 1) * 2 ^ (off % 16) = 2 ^ 16 - 1
    rw [Nat.sub_mul, ← Nat.pow_add, one_mul]
    rcases Nat.lt_or_ge (n + off % 16) 16 with h | h
    · have short : 2 ^ (n + off % 16) ≤ 2 ^ 15 := Nat.pow_le_pow_right (by decide) (by omega)
      exact (Nat.lt_of_le_of_lt ((Nat.sub_le _ _).trans short) (by decide)).ne
    · have above : 2 ^ 1 ≤ 2 ^ (off % 16) := Nat.pow_le_pow_right (by decide) (by omega)
      rw [show n + off % 16 = 16 by omega]
      exact (Nat.lt_of_le_of_lt (Nat.sub_le_sub_left above _) (by decide)).ne
  unfold State.storeSector
  simp only [State.portRaw, if_true, if_neg part, hp, Bool.false_eq_true, if_false]
  show writeMask s.mem (key - off % 16) 16 (v * 2 ^ (8 * (off % 16))) ((2 ^ n - 1) * 2 ^ (off % 16)) = _
  obtain ⟨r, hr⟩ : ∃ r, 16 = off % 16 + (n + r) := ⟨16 - off % 16 - n, by omega⟩
  rw [show writeMask s.mem (key - off % 16) 16 = writeMask s.mem (key - off % 16) (off % 16 + (n + r)) by rw [← hr],
    writeMask_shift, writeMask_low, Nat.sub_add_cancel hk]

/-- A write of bytes that the scratchpad's SRAM holds (R231). -/
theorem State.spPerform_write {s : State} {a : Access} {v : Nat} (hop : a.op = .write v) (hmove : (s.fieldOf a.fld).moving = none)
    (hn : 0 < a.n) (hin : a.off + a.n ≤ (s.fieldOf a.fld).n * step512) (hmax : (s.fieldOf a.fld).n ≤ (s.fieldOf a.fld).nmax)
    (hsec : a.off % 16 + a.n ≤ 16) (hshort : a.n < 16) (hp : s.poison.contains (spKey a.fld a.off / 16) = false) :
    ∃ t old tag, s.spPerform a = (t, .val old tag 0) ∧ t.mem = writeLE s.mem (spKey a.fld a.off) a.n (v % 2 ^ (8 * a.n)) ∧
      t.chans = s.chans := by
  have inMax : ¬ a.off + a.n > (s.fieldOf a.fld).nmax * step512 := Nat.not_lt.2 (hin.trans (Nat.mul_le_mul_right step512 hmax))
  have still : (s.fieldOf a.fld).inMove a.off = false := by simp [Field.inMove, hmove]
  have size : ((s.fieldOf a.fld).counted a.off).n = (s.fieldOf a.fld).n := by unfold Field.counted; split <;> rfl
  have sector : (spKey a.fld a.off - a.off % 16) / 16 = spKey a.fld a.off / 16 := by unfold spKey; omega
  let f := (s.fieldOf a.fld).counted a.off
  let key := spKey a.fld a.off
  let b := inSector a.off a.n (v % 2 ^ (8 * a.n))
  refine ⟨((s.setField f).storeSector key 0 0 a.off b.1 b.2 false).noteWrite a, readLE s.mem key a.n,
    s.tags.contains ((key - a.off % 16) / 16), ?_, ?_, ?_⟩
  · unfold State.spPerform
    simp only [if_neg inMax, still, Bool.false_eq_true, if_false]
    refine (if_pos (show a.off < f.n * step512 by rw [size]; omega)).trans ?_
    rw [hop]
    rfl
  · exact State.storeSector_mem (s := s.setField f) (show a.off % 16 ≤ spKey a.fld a.off by unfold spKey; omega) hsec hshort
      (by rw [sector]; exact hp)
  · obtain ⟨m, t, p, stored⟩ := (s.setField f).storeSector_eq key 0 0 a.off b.1 b.2 false
    rw [stored]
    rfl

/-! ### Accesses of elements (R177, R260, R268) -/

/-- What the checks of R24 leave of an access that passes them. -/
theorem checkCap_passed {own : Nat} {c : Cap} {rights n : Nat} {o : Int} (h : checkCap own c rights o n = none) :
    0 ≤ o ∧ o % n = 0 := by
  unfold checkCap at h
  split_ifs at h with htag hrights hobj hbounds halign
  simp only [Bool.or_eq_true, decide_eq_true_eq] at hbounds
  exact ⟨by omega, by simpa using halign⟩

/-- The access that an element makes for n bytes at an offset of its object, under the generation that it has captured. -/
def Fx.memAccess (x : Fx) (o n : Nat) (op : AccOp) : Access :=
  { ctx := x.sl.ctx, obj := x.accCap.obj, off := o, n := n, op := op, party := x.s.slotParty x.sl, round := x.e.rinAt 0, sync := false
    rel := [], acq := [], scope := x.e.p 4 5, fld := x.sl.fld, exempt := x.e.passed, site := x.e.site + 1
    gen := (x.e.captured.map (·.2.1)).getD ((x.s.ctxOf x.sl.ctx).gen (x.e.p 4 5)) }
/-- The element once its access has been made. -/
def Elem.accessed (e : Elem) : Elem := { e with waive := 0, captured := none, passed := false }

/-- With no check waived, the checks are those of R24 (R408). -/
theorem checkCapBut_zero (own : Nat) (c : Cap) (rights : Nat) (o : Int) (n : Nat) :
    checkCapBut 0 own c rights o n = checkCap own c rights o n := if_pos rfl

/-- The entry is not looked at again once its generation has been captured (R268). -/
theorem Fx.scope_passes {x : Fx} (hsc : x.e.captured = none → (x.s.ctxOf x.sl.ctx).scopeOk (x.e.p 4 5) = true) :
    ¬ (x.e.captured.isNone && Decidable.decide (¬ 0 = ccScope) && !(x.s.ctxOf x.sl.ctx).scopeOk (x.e.p 4 5)) = true := by
  cases hc : x.e.captured with
  | none => simp [hsc hc]
  | some g => simp

section
variable {x : Fx} {off : Int} {n : Nat} {op : AccOp} (hw : x.e.waive = 0)
include hw

theorem Fx.access_refused {k : Nat}
    (hk : checkCap (x.s.ownObj x.sl.fld) x.accCap (if op.writes then pW else pR) ((x.accCap.cur : Int) + off) n = some k) :
    x.access off n op = .state (x.stallTrap (capTrap k x.accCap ((x.accCap.cur : Int) + off)) noInput) := by
  unfold Fx.access Fx.accCap at *
  simp only [hw, ne_eq, not_true, if_false, checkCapBut_zero, hk]

variable (hk : checkCap (x.s.ownObj x.sl.fld) x.accCap (if op.writes then pW else pR) ((x.accCap.cur : Int) + off) n = none)
include hk

/-- An access at an entry that is not valid stalls the element as it issues (R265, R268). -/
theorem Fx.access_unscoped (hc : x.e.captured = none) (hsc : (x.s.ctxOf x.sl.ctx).scopeOk (x.e.p 4 5) = false) :
    x.access off n op =
      .state (x.stallTrap (scopeTrap ccScope x.accCap.obj (x.e.p 4 5) ((x.s.ctxOf x.sl.ctx).gen (x.e.p 4 5))) noInput) := by
  unfold Fx.access Fx.accCap at *
  simp only [hw, ne_eq, not_true, if_false, checkCapBut_zero, hk]
  exact if_pos (by simp [hc, hsc, ccScope])

variable (hsc : x.e.captured = none → (x.s.ctxOf x.sl.ctx).scopeOk (x.e.p 4 5) = true)
include hsc

/-- A homed access of a round that is not open waits, and has captured its generation (R260, R268). -/
theorem Fx.access_waits (hl : x.accCap.obj < localObj) (hr : x.s.roundOpen x.sl.ctx (x.e.rinAt 0) = false) :
    x.access off n op = if x.e.captured.isNone then .state (x.s.setElem x.sl.fld x.sl.idx { x.e with
      captured := some (x.e.p 4 5, (x.e.captured.map (·.2.1)).getD ((x.s.ctxOf x.sl.ctx).gen (x.e.p 4 5)), x.accCap.obj) }) else .none := by
  have entry := Fx.scope_passes hsc
  unfold Fx.access Fx.accCap at *
  simp only [hw, ne_eq, not_true, if_false, checkCapBut_zero, hk]
  exact (if_neg entry).trans (if_pos (Bool.and_eq_true_iff.2 ⟨decide_eq_true hl, by rw [hr]; rfl⟩))

/-- An access to a task-local object goes to the scratchpad port, whatever the round. -/
theorem Fx.access_local (hl : localObj ≤ x.accCap.obj) (hp : x.e.passed = false) {t : State} {v : Nat} {tag : Bool} {fl : Nat}
    (hperf : x.s.spPerform (x.memAccess ((x.accCap.cur : Int) + off).toNat n op) = (t, .val v tag fl)) :
    x.access off n op = .val { x with s := t, e := x.e.accessed } v := by
  obtain ⟨pos, aligned⟩ := checkCap_passed hk
  have whole : ((x.accCap.cur : Int) + off).toNat % n = 0 := by
    have : ((((x.accCap.cur : Int) + off).toNat % n : Nat) : Int) = 0 := by
      rw [Int.natCast_mod, Int.toNat_of_nonneg pos, aligned]
    exact_mod_cast this
  have performs : x.s.performEl (x.memAccess ((x.accCap.cur : Int) + off).toNat n op) = (t, .val v tag fl) :=
    (if_pos whole).trans ((State.perform_local hl).trans hperf)
  have entry := Fx.scope_passes hsc
  have homed : Decidable.decide (x.accCap.obj < localObj) = false := decide_eq_false (Nat.not_lt.2 hl)
  simp only [Fx.memAccess, hp] at performs
  unfold Fx.access Fx.accCap at *
  simp only [hw, ne_eq, not_true, if_false, checkCapBut_zero, hk]
  refine (if_neg entry).trans ?_
  simp only [homed, Bool.false_and, Bool.and_false, Bool.false_eq_true, if_false, hp, if_neg (show ¬ 0 = ccStale by decide),
    decide_eq_false (show ¬ 0 = ccRace by decide), performs]
  rfl
end

theorem elementAccesses : Claim.ElementAccesses := by
  intro x off n hw c o sc ctx ends
  refine ⟨fun op k hk => Fx.access_refused hw hk, fun op hk hc hsc => Fx.access_unscoped hw hk hc hsc, ?_, ?_, ?_⟩
  · intro op hk hl hr
    exact ⟨fun hc hsc => (Fx.access_waits hw hk (fun _ => hsc) hl hr).trans (by simp [hc, sc, ctx, c]),
      fun hc => (Fx.access_waits hw hk (fun h => by simp [h] at hc) hl hr).trans (by simp [Option.isSome_iff_ne_none.1 hc])⟩
  · intro hn hsc hp ⟨_, hl, hin, hmax, hmove⟩ hk
    obtain ⟨pos, _⟩ := checkCap_passed hk
    have nonempty : 0 < n := by
      simp only [List.mem_cons, List.not_mem_nil, or_false] at hn
      omega
    have hread := State.spPerform_read (s := x.s) (a := x.memAccess o.toNat n .read) rfl hmove nonempty
      (show o.toNat + n ≤ (x.s.fieldOf x.sl.fld).n * step512 by omega) hmax
    exact ⟨_, Fx.access_local (off := off) (op := .read) hw hk (fun _ => hsc) hl hp hread, rfl, rfl, rfl⟩
  · intro v hn hsc hp ⟨_, hl, hin, hmax, hmove⟩ hk hcanon k hpoison
    obtain ⟨pos, aligned⟩ := checkCap_passed hk
    have size : n = 4 ∨ n = 8 := by simpa using hn
    have sector : o.toNat % 16 + n ≤ 16 := by
      rcases size with rfl | rfl <;> omega
    obtain ⟨t, old, tag, hwrite, hmem, hchans⟩ := State.spPerform_write (s := x.s) (a := x.memAccess o.toNat n (.write v)) rfl hmove
      (show 0 < n by omega) (show o.toNat + n ≤ (x.s.fieldOf x.sl.fld).n * step512 by omega) hmax sector (show n < 16 by omega) hpoison
    refine ⟨_, old, Fx.access_local (off := off) (op := .write v) hw hk (fun _ => hsc) hl hp hwrite, ?_, fun j hj => ?_, rfl, hchans⟩
    · show readLE t.mem k n = v % 256 ^ n
      rw [hmem]
      show readLE (writeLE x.s.mem k n (v % 2 ^ (8 * n))) k n = _
      rw [readLE_writeLE hcanon, Nat.pow_mul, Nat.mod_mod]
    · show readByte t.mem j = _
      rw [hmem]
      exact readByte_writeLE hcanon hj

/-! ### What an operation leaves of its element -/

/-- An access that has been made leaves the element where it is. -/
theorem Fx.access_sl {x y : Fx} {off : Int} {n v : Nat} {op : AccOp} (h : x.access off n op = .val y v) : y.sl = x.sl := by
  have waits (c : Bool) (u : State) : (if c then ElAcc.state u else .none) ≠ .val y v := by cases c <;> nofun
  unfold Fx.access at h
  extract_lets at h
  split at h
  · cases h
  · split at h
    · cases h
    · split at h
      · exact absurd h (waits _ _)
      · split at h
        · cases h
        · split at h
          · cases h
          · split at h
            · cases h; rfl
            · split at h <;> cases h
            · exact absurd h (waits _ _)
            · cases h

theorem Fx.readsFrom_sl {x y : Fx} {moved : Bool} {l : List (Int × Nat)} {vs : List Nat} (h : x.readsFrom moved l = .inr (y, vs)) :
    y.sl = x.sl := by
  induction l generalizing x moved with
  | nil => cases h; rfl
  | cons p r ih =>
    unfold Fx.readsFrom at h
    split at h
    · next z v hz => exact (ih h).trans (show z.sl = x.sl from Fx.access_sl hz)
    · cases h
    · cases h
theorem Fx.reads_sl {x y : Fx} {l : List (Int × Nat)} {vs : List Nat} (h : x.reads l = .inr (y, vs)) : y.sl = x.sl :=
  Fx.readsFrom_sl h

@[simp] theorem Fx.setWords_sl (x : Fx) (l : List W32) : (x.setWords l).sl = x.sl := rfl

/-! ### Memory elements (R177 to R179) -/

/-- A word at an input where nothing but the operation is due. -/
theorem Fx.clear.wordAt {x : Fx} {i : Nat} {w : W32} (hc : x.clear) (hw : x.hasWord i w) : x.wordAt i = some (.inr w) := by
  obtain ⟨b, hb, hk, rfl⟩ := hw
  obtain ⟨_, _, _, _, _, _, _, data⟩ := hc
  exact Fx.wordAt_word hb hk (data i b hb)

/-- No marker stands at a storing element. -/
theorem Fx.clear.storeMark {x : Fx} (hc : x.clear) : x.storeMark = none := by
  have noMarks : (!x.inPorts.isEmpty && x.inPorts.all x.marked && (x.badMark x.inPorts).isNone) = false := by
    cases h : x.inPorts with
    | nil => rfl
    | cons i r => simp [Fx.marked_of_clear hc]
  obtain ⟨_, _, _, _, _, _, _, data⟩ := hc
  unfold Fx.storeMark
  exact (if_neg (by rw [noMarks]; decide)).trans (Fx.markers_none [] data)

/-- Words as the digits of a number, the lowest first. -/
theorem foldr_one_word (d : W32) (m : Nat) : ([] ++ [d]).foldr (fun (a : W32) b => a.toNat + b * m) 0 = d.toNat := by simp
theorem foldr_two_words (l d : W32) (m : Nat) :
    ([l] ++ [d]).foldr (fun (a : W32) b => a.toNat + b * m) 0 = l.toNat + d.toNat * m := by simp

section
variable {s : State} {f site : Nat} {x : Fx} (hc : x.clear)
include hc

/-- `mld`'s words leave as they have been read. -/
theorem exec_mld_words (hx : s.memAt f site 0x01 = some x) (hw : x.e.words = []) {a : W32} (ha : x.hasWord 0 a) (hm : x.e.p 9 2 ≠ 1)
    (hroom : x.room 0 = true) (hg : (x.gateIn 0).isSome = true) {n : Nat} (hn : n = if x.e.p 9 2 = 2 then 8 else 4) {y z : Fx} {vs : List Nat}
    (hr : x.reads [(a.toInt, n)] = .inr (y, vs)) (hz : y.gateIn 0 = some z) :
    Sends s (.mld f site) ((z.drop 0).queue ((vs.flatMap (wordsOf n)).map fun w => (0, wordBeat w))) := by
  subst hn
  refine sends_of_fire (State.fxAt_some hx).1 hc (by rw [exec_mld, execMld, fireMld, hx, Option.bind_some]) ?_
    (by simp [(Fx.gateIn_keeps hz).1, Fx.reads_sl hr])
  have goes : ¬ ((x.gateIn 0).isNone || (Decidable.decide (x.e.p 9 2 ≠ 1) && !x.room 0)) = true := by
    simp [hroom, Option.isSome_iff_ne_none.1 hg]
  simp only [hw, List.isEmpty_nil, Bool.not_true, Bool.false_eq_true, if_false, hc.wordAt ha, if_neg hm, if_neg goes, offInt, hr, hz,
    Option.bind_some]

/-- `mld`'s value becomes the element's words. -/
theorem exec_mld_value (hx : s.memAt f site 0x01 = some x) (hw : x.e.words = []) {a : W32} (ha : x.hasWord 0 a) (hm : x.e.p 9 2 = 1)
    (hg : (x.gateIn 0).isSome = true) {y z : Fx} {vs : List Nat} (hr : x.reads (vectorReads x.e.fmt a.toInt) = .inr (y, vs))
    (hz : y.gateIn 0 = some z) :
    Fires s (.mld f site) ((z.drop 0).setWords ((vectorCodes z.e.fmt vs).flatMap (codeWords z.e.fmt))) := by
  refine fires_of_fire (State.fxAt_some hx).1 hc (by rw [exec_mld, execMld, fireMld, hx, Option.bind_some]) ?_
    (by simp [(Fx.gateIn_keeps hz).1, Fx.reads_sl hr])
  have goes : ¬ ((x.gateIn 0).isNone || (Decidable.decide (x.e.p 9 2 ≠ 1) && !x.room 0)) = true := by
    simp [hm, Option.isSome_iff_ne_none.1 hg]
  simp only [hw, List.isEmpty_nil, Bool.not_true, Bool.false_eq_true, if_false, hc.wordAt ha, if_pos hm, if_neg goes, offInt, hr, hz,
    Option.bind_some, Fx.drop_e]

/-- `mst` takes the low word of its doubleword. -/
theorem exec_mst_takes (hx : s.memAt f site 0x02 = some x) (hw : x.e.words = []) {d : W32} (hd : x.hasWord 1 d) (hm : x.e.p 9 2 = 2)
    {y : Fx} (hy : x.gateIn 1 = some y) : Fires s (.mst f site) ((y.drop 1).setWords [d]) := by
  obtain ⟨hsl, he⟩ := Fx.gateIn_keeps hy
  refine fires_of_fire (State.fxAt_some hx).1 hc (by rw [exec_mst, execMst, fireMst, hx, Option.bind_some]) ?_ (by simp [hsl])
  have word := hc.wordAt hd
  obtain ⟨b, hb, hk, rfl⟩ := hd
  have taken : x.takeWord 1 = some ((y.drop 1).setWords [b.word]).done := by
    simp only [Fx.takeWord, hb, (hc.notMark hb).1, Bool.false_eq_true, if_false, hy, Option.map_some, Fx.setWords, Fx.drop_e]
    rw [show y.e.words = [] by rw [he]; exact hw, List.nil_append]
  simp only [hc.storeMark, Option.none_or, word, hw, hm, if_true, taken]
  rfl

/-- `mst` with all its words writes them. -/
theorem exec_mst_stores (hx : s.memAt f site 0x02 = some x) {a d : W32} (hd : x.hasWord 1 d) (ha : x.hasWord 0 a) {need v : Nat}
    (hn : need = if x.e.p 9 2 = 2 then 2 else 1) (hl : x.e.words.length + 1 = need)
    (hv : (x.e.words ++ [d]).foldr (fun (a : W32) b => a.toNat + b * 2 ^ 32) 0 = v)
    (hg : ((x.gateIn 0).bind (·.gateIn 1)).isSome = true) {y z : Fx} {r : Nat} (hacc : x.access a.toInt (4 * need) (.write v) = .val y r)
    (hz : (y.gateIn 0).bind (·.gateIn 1) = some z) : Fires s (.mst f site) (((z.drop 0).drop 1).setWords []) := by
  subst hn
  obtain ⟨w, hw, hwz⟩ := Option.bind_eq_some_iff.1 hz
  refine fires_of_fire (State.fxAt_some hx).1 hc (by rw [exec_mst, execMst, fireMst, hx, Option.bind_some]) ?_
    (by simp [(Fx.gateIn_keeps hwz).1, (Fx.gateIn_keeps hw).1, Fx.access_sl hacc])
  have goes : ¬ ((x.gateIn 0).bind (·.gateIn 1)).isNone = true := by simp [Option.isSome_iff_ne_none.1 hg]
  simp only [hc.storeMark, Option.none_or, hc.wordAt hd, hc.wordAt ha, if_neg goes, offInt, hv, hacc, hz, Option.map_some]
  exact if_neg (Nat.not_lt.2 hl.ge)

/-- `mlink` takes the offset of the first node. -/
theorem exec_mlink_takes (hx : s.memAt f site 0x03 = some x) (hw : x.e.words = []) {a : W32} (ha : x.hasWord 0 a) {y : Fx}
    (hy : x.gateIn 0 = some y) : Fires s (.mlink f site) ((y.drop 0).setWords [a, 0]) := by
  refine fires_of_fire (State.fxAt_some hx).1 hc (by rw [exec_mlink, execMlink, fireMlink, hx, Option.bind_some]) ?_
    (by simp [(Fx.gateIn_keeps hy).1])
  simp only [hw, hc.wordAt ha, hy, Option.map_some]

/-- `mlink` at its end marker, or with all its nodes, sends the count. -/
theorem exec_mlink_ends (hx : s.memAt f site 0x03 = some x) {a n : W32} (hw : x.e.words = [a, n])
    (h : a = BitVec.ofNat 32 (x.e.p 61 32) ∨ (x.e.p 45 16 ≠ 0 ∧ x.e.p 45 16 ≤ n.toNat)) :
    Sends s (.mlink f site) ((x.queue [(1, wordBeat n)]).setWords []) := by
  refine sends_of_fire (State.fxAt_some hx).1 hc (by rw [exec_mlink, execMlink, fireMlink, hx, Option.bind_some]) ?_ rfl
  simp only [hw]
  exact if_pos (by simpa using h)

/-- `mlink` sends the fields of a node and goes on to the next. -/
theorem exec_mlink_node (hx : s.memAt f site 0x03 = some x) {a n : W32} (hw : x.e.words = [a, n])
    (ha : a ≠ BitVec.ofNat 32 (x.e.p 61 32)) (hn : x.e.p 45 16 = 0 ∨ n.toNat < x.e.p 45 16) (hroom : x.room 0 = true) {y : Fx} {vs : List Nat}
    (hr : x.reads (((List.range (x.e.p 41 4)).map fun j => ((a + BitVec.ofNat 32 (x.e.p 25 16 + 4 * j)).toInt, 4)) ++
      [((a + BitVec.ofNat 32 (x.e.p 9 16)).toInt, 4)]) = .inr (y, vs)) :
    Sends s (.mlink f site) ((y.queue (vs.dropLast.map fun v => (0, natBeat v))).setWords
      [BitVec.ofNat 32 (vs.getLastD 0) + BitVec.ofNat 32 (y.e.p 93 32), n + 1]) := by
  refine sends_of_fire (State.fxAt_some hx).1 hc (by rw [exec_mlink, execMlink, fireMlink, hx, Option.bind_some]) ?_
    (by simp [Fx.reads_sl hr])
  have more : ¬ (Decidable.decide (a = BitVec.ofNat 32 (x.e.p 61 32)) ||
      (Decidable.decide (x.e.p 45 16 ≠ 0) && Decidable.decide (x.e.p 45 16 ≤ n.toNat))) = true := by
    simp only [Bool.or_eq_true, Bool.and_eq_true, decide_eq_true_eq]
    exact not_or.2 ⟨ha, by omega⟩
  simp only [hw, if_neg more, hroom, Bool.not_true, Bool.false_eq_true, if_false, offInt, hr]
  rfl

/-- What `mring` does about markers comes first; nothing is due there. -/
theorem mringMark_none : (if Decidable.decide (x.e.p 73 1 = 1) && x.e.words.isEmpty then x.storeMark else none) = none := by
  rw [hc.storeMark, ite_self]

/-- `mring` takes the number of its slot. -/
theorem exec_mring_takes (hx : s.memAt f site 0x04 = some x) (hw : x.e.words = []) {a : W32} (ha : x.hasWord 0 a) {y : Fx}
    (hy : x.gateIn 0 = some y) :
    Fires s (.mring f site) ((y.drop 0).setWords [BitVec.ofNat 32 (a.toNat % y.e.p 41 16), 0]) := by
  refine fires_of_fire (State.fxAt_some hx).1 hc (by rw [exec_mring, execMring, fireMring, hx, Option.bind_some]) ?_
    (by simp [(Fx.gateIn_keeps hy).1])
  have noMark := mringMark_none hc
  simp only [hw] at noMark
  simp only [hw, noMark, Option.none_or, hc.wordAt ha, hy, Option.map_some]

section
variable {k j : W32} (hx : s.memAt f site 0x04 = some x) (hw : x.e.words = [k, j])
include hx hw

/-- `mring` is done with its slot. -/
theorem exec_mring_ends (h : x.e.p 57 16 ≤ 4 * j.toNat) : Fires s (.mring f site) (x.setWords []) := by
  refine fires_of_fire (State.fxAt_some hx).1 hc (by rw [exec_mring, execMring, fireMring, hx, Option.bind_some]) ?_ rfl
  simp only [hw, List.isEmpty_cons, Bool.and_false, Bool.false_eq_true, if_false, Option.none_or]
  exact if_pos h

variable (hj : 4 * j.toNat < x.e.p 57 16)
include hj

/-- `mring` sends the next word of its slot. -/
theorem exec_mring_reads (hm : x.e.p 73 1 = 0) (hroom : x.room 0 = true) {y : Fx} {v : Nat}
    (hacc : x.access (x.e.ringOff k j) 4 .read = .val y v) :
    Sends s (.mring f site) ((y.queue [(0, natBeat v)]).setWords [k, j + 1]) := by
  refine sends_of_fire (State.fxAt_some hx).1 hc (by rw [exec_mring, execMring, fireMring, hx, Option.bind_some]) ?_
    (by simp [Fx.access_sl hacc])
  simp only [hw, List.isEmpty_cons, Bool.and_false, Bool.false_eq_true, if_false, Option.none_or, if_neg (Nat.not_le.2 hj), hm, Nat.zero_ne_one,
    decide_false, hroom, Bool.not_true, hacc]

/-- `mring` writes the next word of its slot. -/
theorem exec_mring_writes (hm : x.e.p 73 1 = 1) {d : W32} (hd : x.hasWord 1 d) (hg : (x.gateIn 1).isSome = true) {y z : Fx} {r : Nat}
    (hacc : x.access (x.e.ringOff k j) 4 (.write d.toNat) = .val y r) (hz : y.gateIn 1 = some z) :
    Fires s (.mring f site) ((z.drop 1).setWords [k, j + 1]) := by
  refine fires_of_fire (State.fxAt_some hx).1 hc (by rw [exec_mring, execMring, fireMring, hx, Option.bind_some]) ?_
    (by simp [(Fx.gateIn_keeps hz).1, Fx.access_sl hacc])
  have goes : ¬ (x.gateIn 1).isNone = true := by simp [Option.isSome_iff_ne_none.1 hg]
  simp only [hw, List.isEmpty_cons, Bool.and_false, Bool.false_eq_true, if_false, Option.none_or, if_neg (Nat.not_le.2 hj), hm,
    decide_true, if_true, hc.wordAt hd, if_neg goes, hacc, hz, Option.map_some]
end

end

theorem memoryElements : Claim.MemoryElements := by
  intro s f site x hc
  refine ⟨?_, ?_, ?_, ?_⟩
  · intro hx hw a ha hg
    exact ⟨fun hm hroom y vs z hr hz => exec_mld_words hc hx hw ha hm hroom hg rfl hr hz,
      fun hm y vs z hr hz => exec_mld_value hc hx hw ha hm hg hr hz⟩
  · intro hx d hd gate
    refine ⟨fun hm hw y hy => exec_mst_takes hc hx hw hd hm hy, fun hm hw hg a y z r ha hacc hz => ?_, fun hm hg l a y z r hw ha hacc hz => ?_⟩
    · exact exec_mst_stores hc hx hd ha (need := 1) (by simp [hm]) (by simp [hw]) (by rw [hw, foldr_one_word]) hg hacc hz
    · exact exec_mst_stores hc hx hd ha (need := 2) (by simp [hm]) (by simp [hw]) (by rw [hw, foldr_two_words]) hg hacc hz
  · intro hx
    exact ⟨fun hw a y ha hy => exec_mlink_takes hc hx hw ha hy, fun a n hw h => exec_mlink_ends hc hx hw h,
      fun a n y vs hw ha hn hroom hr => exec_mlink_node hc hx hw ha hn hroom hr⟩
  · intro hx
    refine ⟨fun hw a y ha hy => exec_mring_takes hc hx hw ha hy, fun k j hw h => exec_mring_ends hc hx hw h, fun k j hw hj => ?_⟩
    exact ⟨fun y v hm hroom hacc => exec_mring_reads hc hx hw hj hm hroom hacc,
      fun d y z r hm hd hg hacc hz => exec_mring_writes hc hx hw hj hm hd hg hacc hz⟩

/-- Settles O41: by the order of an access's checks and what the scratchpad port leaves, and by each element's operation where
nothing else is due. -/
theorem memorySideElements : Obligations.MemorySideElements := ⟨elementAccesses, memoryElements⟩

end Sys2Proof.Machine
end

section
/-!
PROOF. The ports of engines and arrays (R176, R180, R181, R312, R323, R342): what each does with the word at its input, and what it
sends, where nothing else is due.
-/
namespace Sys2Proof.Machine

/-- No marker stands at an input of either network's kind. -/
theorem Fx.clear.noMark {x : Fx} (hc : x.clear) (i : Nat) : (x.head i).any (·.isMark false) = false := by
  cases hb : x.head i with
  | none => rfl
  | some b => exact (hc.notMark hb).2

/-- A word of a request that may stand there is taken. -/
theorem Fx.takeReqWord_takes {x y : Fx} {w : W32} {ok : W32 → Bool} (hw : x.wordAt 0 = some (.inr w)) (hok : ok w = true)
    (hy : x.gateIn 0 = some y) : x.takeReqWord ok = some ((y.drop 0).setWords (y.e.words ++ [w])).done := by
  simp only [Fx.takeReqWord, hw, hok, Bool.not_true, Bool.false_eq_true, if_false, hy, Option.map_some]
/-- One that may not stalls the port as a malformed request. -/
theorem Fx.takeReqWord_bad {x : Fx} {w : W32} {ok : W32 → Bool} (hw : x.wordAt 0 = some (.inr w)) (hok : ok w = false) :
    x.takeReqWord ok = some (x.badWord 0) := by
  simp only [Fx.takeReqWord, hw, hok, Bool.not_false, if_true]

theorem Fx.before_sl {x y : Fx} {scope : Nat} (h : x.before scope = some (.inr y)) : y.sl = x.sl := by
  unfold Fx.before at h
  split at h
  · dsimp only at h
    split at h
    · cases h
    · cases h; rfl
  · split at h
    · split at h <;> cases h
    · cases h
  · cases h

/-- The issuer of a request of words, with the capabilities that its words name. -/
def Fx.wordIssuer (x : Fx) (m : Nat) (cs : List ((Nat × Bool) × W32)) : Issuer :=
  { x.issuer (x.e.p 4 5) (cs.filterMap fun p => match capWord x m p.1.1 p.2 with
      | some (some c) => some (p.1.1, c)
      | _ => none) (cs.any fun p => capWord x m p.1.1 p.2 = some none) with waive := x.e.waive }
/-- The block that its other words stand for. -/
def wordBlock (size : Nat) (ps : List ((Nat × Bool) × W32)) : List Byte :=
  ((List.range (size / 4)).map fun k => toBytes 4 (match ps.find? fun p => p.1 = (4 * k, false) with
    | some p => p.2.toNat
    | none => 0)).flatten

/-- A whole request whose checks pass joins its stream once what was written before it is home (R312). -/
theorem Fx.sendWordsReq_joins {x y : Fx} {m fn size : Nat} {offs : List (Nat × Bool)} {ws : List W32} (hm : m ≠ 0x2C)
    {cs : List ((Nat × Bool) × W32)} {i : Issuer} {blk : List Byte} {p : Plan} (hcs : (offs.zip ws).filter (·.1.2) = cs)
    (hi : x.wordIssuer m cs = i) (hblk : wordBlock size (offs.zip ws) = blk) (hp : wordPlan m fn 0 x.s i blk = p)
    (hcaps : ∀ q ∈ cs, (capWord x m q.1.1 q.2).isSome = true) (hcheck : x.s.checkReq i blk true p = .inr .ok)
    (hturn : x.s.tileTurn i p .ok = true) (hfull : x.s.streamFull i.src p.eng = false)
    (hopen : x.s.roundOpen x.sl.ctx (x.e.rinAt 0) = true) (hbefore : x.before (x.e.p 4 5) = some (.inr y)) :
    x.sendWordsReq m fn size offs ws = some ({ y with
      s := y.s.enqueue i p (y.s.mkReq i m fn 0 blk [(0 : W64)] .elem i.out p), e := { y.e with words := [], waive := 0 } } : Fx).done := by
  have allGood : cs.find? (fun p => (capWord x m p.1.1 p.2).isNone) = none :=
    List.find?_eq_none.2 fun q hq => by simp [Option.isSome_iff_ne_none.1 (hcaps q hq)]
  have goes : ¬ (x.s.streamFull i.src p.eng || !x.s.roundOpen x.sl.ctx (x.e.rinAt 0)) = true := by simp [hfull, hopen]
  subst hcs hp hblk hi
  unfold Fx.sendWordsReq
  extract_lets ps cs out caps blk scope
  rw [show cs.find? (fun p => (capWord x m p.1.1 p.2).isNone) = none from allGood, if_neg hm]
  dsimp -zeta only
  extract_lets pair x' plain i p
  rw [show x'.s.checkReq i blk true p = .inr .ok from hcheck]
  dsimp -zeta only
  rw [if_neg (show ¬ (!x'.s.tileTurn i p .ok) = true by rw [show x'.s.tileTurn i p .ok = true from hturn]; decide),
    if_neg (show ¬ (x'.s.streamFull i.src p.eng || !x'.s.roundOpen x'.sl.ctx (x'.e.rinAt 0)) = true from goes),
    show x'.before scope = some (.inr y) from hbefore]
  rfl

/-- A drain command has no bits above 13 and no row past the tile's last (R181). -/
theorem drainCommand_bad (c : W32) :
    (Decidable.decide (bits c.toNat 14 18 ≠ 0) || Decidable.decide (bits c.toNat 2 6 + bits c.toNat 8 6 + 1 > 64)) = true ↔
      2 ^ 14 ≤ c.toNat ∨ 64 ≤ c.toNat / 4 % 64 + c.toNat / 256 % 64 := by
  have word := c.isLt
  have fields : (bits c.toNat 14 18 ≠ 0 ∨ bits c.toNat 2 6 + bits c.toNat 8 6 + 1 > 64) ↔
      2 ^ 14 ≤ c.toNat ∨ 64 ≤ c.toNat / 4 % 64 + c.toNat / 256 % 64 := by unfold bits; omega
  rw [Bool.or_eq_true, decide_eq_true_eq, decide_eq_true_eq]
  exact fields

section
variable {s : State} {f site : Nat} {x : Fx} (hc : x.clear)
include hc

/-! ### The engine port (R180, R312, R342) -/

section
variable (hx : s.fxAt f site false (fun e => e.isM && e.col = 0 && e.op = 0x05) = some x) (hr : (x.e.rs && x.closes) = false)
include hx hr

theorem exec_engp_takes {b : Beat} {y : Fx} (hw : x.e.words = []) (hb : x.head 0 = some b) (hk : b.kind = 0)
    (hz : (wordZero (x.e.p 0 4) b.word).isSome = true) (hy : x.gateIn 0 = some y) :
    Fires s (.engp f site) ((y.drop 0).setWords (y.e.words ++ [b.word])) := by
  refine fires_of_fire (State.fxAt_some hx).1 hc (by rw [exec_engp, execEngp, fireEngp, hx, Option.bind_some]) ?_
    (by simp [(Fx.gateIn_keeps hy).1])
  simp only [hr, hc.noMark, hw, Bool.false_eq_true, if_false]
  exact Fx.takeReqWord_takes (hc.wordAt ⟨b, hb, hk, rfl⟩) hz hy

theorem exec_engp_bad {b : Beat} (hw : x.e.words = []) (hb : x.head 0 = some b) (hk : b.kind = 0)
    (hz : wordZero (x.e.p 0 4) b.word = none) : Stalls s (.engp f site) x (x.badWord 0) := by
  refine stalls_of_fire (State.fxAt_some hx).1 hc (by rw [exec_engp, execEngp, fireEngp, hx, Option.bind_some]) ?_
  simp only [hr, hc.noMark, hw, Bool.false_eq_true, if_false]
  exact Fx.takeReqWord_bad (hc.wordAt ⟨b, hb, hk, rfl⟩) (by rw [hz]; rfl)

/-- A request with all its words is sent. -/
theorem exec_engp_whole {w0 : W32} {ws : List W32} {size : Nat} {caps : List Nat} {u : Fx} (hw : x.e.words = w0 :: ws)
    (hz : wordZero (x.e.p 0 4) w0 = some (size, caps)) (hlen : (wordOffs size caps).length ≤ ws.length)
    (hu : x.sendWordsReq (bits w0.toNat 0 6) (bits w0.toNat 6 9) size (wordOffs size caps) ws = some u.done) (hsl : u.sl = x.sl) :
    Fires s (.engp f site) u := by
  refine fires_of_fire (State.fxAt_some hx).1 hc (by rw [exec_engp, execEngp, fireEngp, hx, Option.bind_some]) ?_ hsl
  simp only [hr, hc.noMark, hw, hz, Bool.false_eq_true, if_false, if_neg (Nat.not_lt.2 hlen)]
  exact hu
end

/-! ### The drain port (R181, R323) -/

section
variable (hx : s.fxAt f site false (fun e => e.isM && e.col = 0 && e.op = 0x07) = some x)
include hx

/-- A drain command of a tile's rows joins the port's stream. -/
theorem exec_mxp_takes {c : W32} {y : Fx} (hp : x.pendingReq = false) (hw : x.hasWord 0 c) (hlo : c.toNat < 2 ^ 14)
    (hrows : c.toNat / 4 % 64 + c.toNat / 256 % 64 < 64) (hy : x.gateIn 0 = some y) :
    let z := y.drop 0; let i := z.issuer 0 [] false; let p : Plan := { total := 1, eng := engId z.s.pkg 8 (2 * f + site / 16 % 2) }
    Fires s (.mxp f site) { z with s := z.s.enqueue i p (z.s.mkReq i majDrain 0 c.toNat [] [] .none false p) } := by
  refine fires_of_fire (State.fxAt_some hx).1 hc (by rw [exec_mxp, execMxp, fireMxp, hx, Option.bind_some]) ?_
    (by simp [(Fx.gateIn_keeps hy).1])
  have good := mt (drainCommand_bad c).1 (not_or.2 ⟨Nat.not_le.2 hlo, Nat.not_le.2 hrows⟩)
  simp only [hp, Bool.false_eq_true, if_false, hc.wordAt hw, if_neg good, hy, Option.map_some]

/-- A command of rows that the tile does not have is malformed. -/
theorem exec_mxp_bad {c : W32} (hp : x.pendingReq = false) (hw : x.hasWord 0 c)
    (h : 2 ^ 14 ≤ c.toNat ∨ 64 ≤ c.toNat / 4 % 64 + c.toNat / 256 % 64) : Stalls s (.mxp f site) x (x.stallAt ccCfg 0x0B 0) := by
  refine stalls_of_fire (State.fxAt_some hx).1 hc (by rw [exec_mxp, execMxp, fireMxp, hx, Option.bind_some]) ?_
  simp only [hp, Bool.false_eq_true, if_false, hc.wordAt hw, if_pos ((drainCommand_bad c).2 h)]

/-- The command at the stream's head is performed, and its rows leave as values. -/
theorem exec_mxp_drains {st : Stream} {r : Req} (hp : x.pendingReq = true)
    (hst : s.streams.find? (fun t => t.src = .elem f x.sl.idx site) = some st) (hcur : st.cur = some r) (hb : s.arrayBusy f st.id = false) :
    let d := s.drainBeats f (site / 16 % 2) (bits r.imm 0 2) (bits r.imm 2 6) (bits r.imm 8 6 + 1) r.round
    Sends s (.mxp f site) (({ x with s := s.setStream (st.setReq { r with next := 1, started := true }) } : Fx).withStatus
      (if d.2 then sbOF else 0) |>.queue (d.1.map fun b => (0, b))) := by
  have hs : x.s = s := (State.fxAt_some hx).1
  intro d
  refine sends_of_fire hs hc (by rw [exec_mxp, execMxp, fireMxp, hx, Option.bind_some]) ?_ rfl
  have status : (if d.2 then BitVec.ofNat 32 sbOF else 0) = BitVec.ofNat 32 (if d.2 then sbOF else 0) := by cases d.2 <;> rfl
  simp only [hp, if_true, hs, hst, hcur, hb, Bool.false_eq_true, if_false]
  rw [show (if (s.drainBeats f (site / 16 % 2) (bits r.imm 0 2) (bits r.imm 2 6) (bits r.imm 8 6 + 1) r.round).2 then
    BitVec.ofNat 32 sbOF else 0) = _ from status]
  rfl
end

/-! ### The port of the attention engine (R181) -/

section
variable (hx : s.fxAt f site false (fun e => e.isM && e.col = 0 && e.op = 0x08) = some x)
include hx

theorem exec_atp_closes (hcl : x.closes = true) : Sends s (.atp f site) x.closeRound :=
  sends_of_fire (State.fxAt_some hx).1 hc (by rw [exec_atp, execAtp, fireAtp, hx, Option.bind_some]) (if_pos hcl) (by simp)

/-- The next sixteen elements of the engine's rows leave as one value. -/
theorem exec_atp_sends {st : Stream} {r : Req} (hcl : x.closes = false) (hsd : x.sends = true) (hst : s.streams = [st])
    (heng : st.eng = engId s.pkg 9 f) (hreqs : st.reqs = [r]) (hmaj : r.major = 0x28) (hdata : r.data ≠ [])
    (hsite : 16 * (6 + (attnOp r.blk).pt) = site) :
    let fo := (attnOp r.blk).fout; let n := fmtBytes fo 16
    let y : Fx := { x with s := s.setStream (st.setReq { r with data := r.data.drop n }) }
    Sends s (.atp f site) ((y.queue ((valueBeats ((unpackCodes fo 16 (r.data.take n)).map (codeVal fo)) x.e.round).map fun b => (0, b))).token) := by
  have hs : x.s = s := (State.fxAt_some hx).1
  intro fo n y
  refine sends_of_fire hs hc (by rw [exec_atp, execAtp, fireAtp, hx, Option.bind_some]) ?_ rfl
  have mine : (Decidable.decide (r.major = 0x28) && !r.data.isEmpty && Decidable.decide (16 * (6 + (attnOp r.blk).pt) = site)) = true := by
    simp [hmaj, hdata, hsite]
  simp only [hcl, hsd, Bool.false_eq_true, if_false, Bool.not_true, hs, hst, List.findSome?_cons, heng, if_true, hreqs, List.find?_cons, mine,
    Option.map_some]
  rfl
end
end

/-- Settles O39: by what each port does with the word at its input, and by the request that is sent once its words and checks are
there. -/
theorem enginePorts : Obligations.EnginePorts := by
  intro s f site x hc
  refine ⟨fun hx hr => ⟨?_, ?_, ?_⟩, fun hx => ⟨?_, ?_, ?_⟩, fun hx => ⟨?_, ?_⟩⟩
  · exact fun b y hw hb hk _ hz hy => exec_engp_takes hc hx hr hw hb hk hz hy
  · exact fun b hw hb hk _ hz => exec_engp_bad hc hx hr hw hb hk hz
  · intro w0 ws size caps y _ hw hz hm hlen m fn ps cs i blk p hcaps hcheck hturn hfull hopen hbefore
    have other : m ≠ 0x2C := by
      show bits w0.toNat 0 6 ≠ 0x2C
      unfold bits
      omega
    exact exec_engp_whole hc hx hr hw hz hlen
      (Fx.sendWordsReq_joins (m := m) (fn := fn) (cs := cs) (i := i) (blk := blk) (p := p) other rfl rfl rfl rfl hcaps hcheck hturn hfull hopen hbefore) (Fx.before_sl (y := y) hbefore)
  · exact fun c y hp hw hlo hrows hy => exec_mxp_takes hc hx hp hw hlo hrows hy
  · exact fun c hp hw h => exec_mxp_bad hc hx hp hw h
  · exact fun st r hp hst hcur hb => exec_mxp_drains hc hx hp hst hcur hb
  · exact fun hcl => exec_atp_closes hc hx hcl
  · exact fun st r hcl hsd hst heng hreqs hmaj hdata hsite => exec_atp_sends hc hx hcl hsd hst heng hreqs hmaj hdata hsite

end Sys2Proof.Machine
end

section
namespace Sys2Proof.Machine

/-! ### Accumulator entries (R230, R321 to R323) -/

/-- The sum of a fixed entry fits the field below its overflow bit. -/
theorem fixedSum_lt (v : Int) : (v % 2 ^ 112).toNat < 2 ^ 112 := by omega

/-- Two's complement of 112 bits gives the sum back. -/
theorem toSigned_emod {v : Int} (h : v.natAbs < 2 ^ 111) : toSigned 112 (v % 2 ^ 112).toNat = v := by
  simp only [toSigned]
  split <;> omega

theorem toSigned_mod (n v : Nat) : toSigned n (v % 2 ^ n) = toSigned n v := by simp [toSigned]

theorem accKind_accFixed (ovf : Bool) (v : Int) : accKind (accFixed ovf v) = 2 := by
  have := fixedSum_lt v
  cases ovf <;> simp [accKind, accFixed, bits] <;> omega

theorem accFmt_accFixed (ovf : Bool) (v : Int) : accFmt (accFixed ovf v) = 0 := by
  have := fixedSum_lt v
  cases ovf <;> simp [accFmt, accFixed, bits] <;> omega

theorem accOvf_accFixed (ovf : Bool) (v : Int) : accOvf (accFixed ovf v) = ovf := by
  have := fixedSum_lt v
  cases ovf <;> simp [accOvf, accFixed, bits] <;> omega

theorem reserved_accFixed (ovf : Bool) (v : Int) : bits (accFixed ovf v) 113 9 = 0 := by
  have := fixedSum_lt v
  cases ovf <;> simp [accFixed, bits] <;> omega

/-- The overflow bit and the kind stand above the sum. -/
theorem accVal_accFixed (ovf : Bool) {v : Int} (h : v.natAbs < 2 ^ 111) : accVal (accFixed ovf v) = v := by
  have hm : accFixed ovf v % 2 ^ 112 = (v % 2 ^ 112).toNat := by
    have := fixedSum_lt v
    cases ovf <;> simp [accFixed] <;> omega
  rw [accVal, ← toSigned_mod, hm, toSigned_emod h]

theorem accOk_accFixed (ovf : Bool) (v : Int) : accOk (accFixed ovf v) = true := by
  simp [accOk, accKind_accFixed, accFmt_accFixed, reserved_accFixed]

/-- The fields of an IEEE entry, its reserved bits and its overflow bit among them. -/
theorem accIeee_fields {fmt v : Nat} (hf : fmt < 4) (hv : v < 2 ^ 64) : accKind (accIeee fmt v) = 1 ∧
    accFmt (accIeee fmt v) = fmt ∧ bits (accIeee fmt v) 113 9 = 0 ∧ accOvf (accIeee fmt v) = false := by
  simp [accKind, accFmt, accOvf, accIeee, bits]
  omega

theorem accOk_accIeee {fmt v : Nat} (hf : fmt < 4) (hv : v < 2 ^ 64) : accOk (accIeee fmt v) = true := by
  obtain ⟨hk, hfmt, hres, hovf⟩ := accIeee_fields hf hv
  simp [accOk, hk, hfmt, hres, hovf]
  omega

theorem mmaEntry_none {facc : Nat} {md : RMode} {e : Nat} {xs : List (FVal × FVal)}
    (h : accKind e = 2 ∨ accKind e = 3 ∨ (accKind e = 1 ∧ accFmt e ≠ facc)) : mmaEntry facc md e xs = none := by
  rcases h with hk | hk | ⟨hk, hf⟩
  · simp [mmaEntry, hk]
  · simp [mmaEntry, hk]
  · simp [mmaEntry, hk, hf]

theorem mmxEntry_saturated {e : Nat} {x : Option Int} (hk : accKind e = 2) (ho : accOvf e = true) : mmxEntry e x = some (e, 0) := by
  simp [mmxEntry, hk, ho]

/-- An entry of the other kind that is a NaN stays (R322); any other is a fault. -/
theorem mmxEntry_kind3 {e : Nat} {x : Option Int} (hk : accKind e = 3) : mmxEntry e x = none := by
  simp [mmxEntry, hk]

/-- What an exact sum adds to. -/
def accStart (e : Nat) : Int := if accKind e = 0 then 0 else accVal e

theorem mmxEntry_sum {e : Nat} (v : Int) (hk : accKind e = 0 ∨ accKind e = 2) (ho : accOvf e = false) :
    mmxEntry e (some v) = some (
      if (accStart e + v).natAbs ≥ 2 ^ 111 then (accFixed true (if accStart e + v < 0 then -(2 ^ 111 - 1) else 2 ^ 111 - 1), flOF)
      else (accFixed false (accStart e + v), 0)) := by
  have h1 : accKind e ≠ 1 := by omega
  have h3 : accKind e ≠ 3 := by omega
  simp only [mmxEntry, accStart, h1, h3, ho]
  simp only [decide_false, Bool.false_and, Bool.or_self, Bool.false_eq_true, if_false]
  exact (apply_ite some _ _ _).symm

theorem mmxEntry_fits {e : Nat} {v : Int} (hk : accKind e = 0 ∨ accKind e = 2) (ho : accOvf e = false)
    (hy : (accStart e + v).natAbs < 2 ^ 111) : ∃ q, mmxEntry e (some v) = some (q, 0) ∧ accKind q = 2 ∧ accOvf q = false ∧
      accVal q = accStart e + v :=
  ⟨accFixed false (accStart e + v), by rw [mmxEntry_sum v hk ho, if_neg (by omega)], accKind_accFixed _ _, accOvf_accFixed _ _,
    accVal_accFixed _ hy⟩

theorem mmxEntry_saturates {e : Nat} {v : Int} (hk : accKind e = 0 ∨ accKind e = 2) (ho : accOvf e = false)
    (hy : 2 ^ 111 ≤ (accStart e + v).natAbs) : ∃ q, mmxEntry e (some v) = some (q, flOF) ∧ accOvf q = true ∧
      accVal q = if accStart e + v < 0 then -(2 ^ 111 - 1) else 2 ^ 111 - 1 :=
  ⟨_, by rw [mmxEntry_sum v hk ho, if_pos hy], accOvf_accFixed _ _, accVal_accFixed _ (by split <;> omega)⟩

/-- Settles O44: `mma` by the kinds of entries, `mmx` by the size of the sum, and the fields of the two forms that are written. -/
theorem accumulatorEntries : Obligations.AccumulatorEntries := by
  refine ⟨fun facc md e xs _ => ⟨fun hk => ?_, fun hk hf => ?_, mmaEntry_none⟩,
    fun e x => ⟨mmxEntry_saturated, mmxEntry_kind3, ?_⟩, fun ovf v hv => ⟨accOk_accFixed ovf v, accVal_accFixed ovf hv⟩,
    fun fmt v hf hv => ?_⟩
  · simp [mmaEntry, hk]
  · simp [mmaEntry, hk, hf]
  · rintro v hk ho rfl
    exact ⟨mmxEntry_fits hk ho, mmxEntry_saturates hk ho⟩
  · obtain ⟨hk, hfmt, -, -⟩ := accIeee_fields hf hv
    exact ⟨accOk_accIeee hf hv, hk, hfmt⟩

end Sys2Proof.Machine
end

section
namespace Sys2Proof.Machine

/-! ### The checks of the tile table (R236, R302) -/

/-- The entry that a descriptor describes. -/
def descTile (p : Nat × Nat) : Tile := { ix := p.2, base := bits p.1 1 17, len := bits p.1 18 17, st := .empty }
/-- A descriptor that passes the checks of its own fields. -/
def DescOk (limit v : Nat) : Prop := v / 2 ^ 35 = 0 ∧ 1 ≤ bits v 18 17 ∧ (bits v 1 17 + bits v 18 17) * 64 ≤ limit

theorem buildTiles_undefined {limit v k : Nat} {done : List Tile} {r : List (Nat × Nat)} (h : v % 2 = 0) :
    buildTiles limit done ((v, k) :: r) = buildTiles limit done r := by
  rw [buildTiles, if_pos h]
/-- The first check that a defined entry fails is raised, and with none it stands behind the entries before it. -/
theorem buildTiles_defined {limit v k : Nat} {done : List Tile} {r : List (Nat × Nat)} (h : v % 2 = 1) :
    buildTiles limit done ((v, k) :: r) =
      if v / 2 ^ 35 ≠ 0 then .error (tileTrap k 2)
      else if (descTile (v, k)).len = 0 || ((descTile (v, k)).base + (descTile (v, k)).len) * 64 > limit then .error (tileTrap k 3)
      else if done.any (descTile (v, k)).meets then .error (tileTrap k 0)
      else buildTiles limit (done ++ [descTile (v, k)]) r := by
  rw [buildTiles, if_neg (by omega)]
  rfl

theorem Tile.meets_comm (a b : Tile) : a.meets b = b.meets a := Bool.and_comm ..

/-- A table that passes holds the described entries in order, each in range and apart from those before it. -/
theorem buildTiles_ok {limit : Nat} {l : List (Nat × Nat)} {done ts : List Tile} (h : buildTiles limit done l = .ok ts) :
    ts = done ++ (l.filter fun p => p.1 % 2 = 1).map descTile ∧ (∀ p ∈ l, p.1 % 2 = 1 → DescOk limit p.1) ∧
      (done.Pairwise (fun a b => a.meets b = false) → ts.Pairwise fun a b => a.meets b = false) := by
  induction l generalizing done with
  | nil =>
    obtain rfl : done = ts := by simpa [buildTiles] using h
    simp
  | cons p r ih =>
    obtain ⟨v, k⟩ := p
    rcases Nat.mod_two_eq_zero_or_one v with hv | hv
    · rw [buildTiles_undefined hv] at h
      obtain ⟨hts, hok, hp⟩ := ih h
      refine ⟨by simpa [hv] using hts, ?_, hp⟩
      simpa [hv] using hok
    · rw [buildTiles_defined hv] at h
      split at h
      · cases h
      next hres =>
      split at h
      · cases h
      next hfit =>
      split at h
      · cases h
      next hmeets =>
      obtain ⟨hts, hok, hp⟩ := ih h
      have own : DescOk limit v := by
        simp only [Bool.or_eq_true, decide_eq_true_eq, not_or] at hfit
        simp only [descTile] at hfit
        exact ⟨by omega, by omega, by omega⟩
      have apart : ∀ t ∈ done, t.meets (descTile (v, k)) = false := by
        intro t ht
        rw [Tile.meets_comm]
        simpa using List.any_eq_false.1 (Bool.eq_false_iff.2 hmeets) t ht
      refine ⟨by simpa [hv] using hts, List.forall_mem_cons.2 ⟨fun _ => own, hok⟩, fun hd => hp ?_⟩
      exact List.pairwise_append.2 ⟨hd, List.pairwise_singleton _ _, by simpa using apart⟩

/-- A table that fails names an entry with the check that it fails; the reserved bits are checked first. -/
theorem buildTiles_error {limit : Nat} {l : List (Nat × Nat)} {done : List Tile} {t : TrapInfo} (h : buildTiles limit done l = .error t) :
    ∃ p ∈ l, p.1 % 2 = 1 ∧ ∃ why ∈ [0, 2, 3], t = tileTrap p.2 why ∧ (why = 2 ↔ p.1 / 2 ^ 35 ≠ 0) := by
  induction l generalizing done with
  | nil => simp [buildTiles] at h
  | cons p r ih =>
    obtain ⟨v, k⟩ := p
    have later {done : List Tile} (h : buildTiles limit done r = .error t) : ∃ p ∈ (v, k) :: r, p.1 % 2 = 1 ∧
        ∃ why ∈ [0, 2, 3], t = tileTrap p.2 why ∧ (why = 2 ↔ p.1 / 2 ^ 35 ≠ 0) :=
      let ⟨p, hp, hq⟩ := ih h
      ⟨p, List.mem_cons_of_mem _ hp, hq⟩
    have here {why : Nat} (hv : v % 2 = 1) (hw : why ∈ [0, 2, 3]) (hr : why = 2 ↔ v / 2 ^ 35 ≠ 0)
        (h : (Except.error (tileTrap k why) : Except TrapInfo (List Tile)) = .error t) : ∃ p ∈ (v, k) :: r, p.1 % 2 = 1 ∧
        ∃ why ∈ [0, 2, 3], t = tileTrap p.2 why ∧ (why = 2 ↔ p.1 / 2 ^ 35 ≠ 0) :=
      ⟨(v, k), List.mem_cons_self, hv, why, hw, (Except.error.inj h).symm, hr⟩
    rcases Nat.mod_two_eq_zero_or_one v with hv | hv
    · exact later (buildTiles_undefined hv ▸ h)
    · rw [buildTiles_defined hv] at h
      split at h
      · next hres => exact here hv (by simp) (by simpa using hres) h
      next hres =>
      split at h
      · exact here hv (by simp) (by simpa using hres) h
      split at h
      · exact here hv (by simp) (by simpa using hres) h
      · exact later h

theorem DescOk.tileDesc {limit v : Nat} (h : DescOk limit v) (hv : v % 2 = 1) : v = tileDesc (bits v 1 17) (bits v 18 17) := by
  obtain ⟨hres, -, -⟩ := h
  simp only [Machine.tileDesc, bits]
  omega

theorem getD_of_mem_zipIdx {vs : List Nat} {p : Nat × Nat} (h : p ∈ vs.zipIdx) : vs.getD p.2 0 = p.1 := by
  rw [List.getD_eq_getElem?_getD, List.mem_zipIdx_iff_getElem?.1 h, Option.getD_some]

theorem pairwise_ix (vs : List Nat) : ((vs.zipIdx.filter fun p => p.1 % 2 = 1).map descTile).Pairwise fun a b => a.ix < b.ix := by
  refine List.pairwise_map.2 (List.Pairwise.filter _ (List.pairwise_map.1 ?_ : vs.zipIdx.Pairwise fun p q => p.2 < q.2))
  rw [List.zipIdx_map_snd]
  exact List.pairwise_lt_range'

theorem tileTableChecks : Claim.TileTableChecks := by
  intro limit vs hlen
  refine ⟨fun ts h => ?_, fun t h => ?_⟩
  · obtain ⟨rfl, hok, hp⟩ := buildTiles_ok h
    simp only [List.nil_append] at hp ⊢
    refine ⟨fun k hk => ⟨?_, fun hv => ?_⟩, ?_, (pairwise_ix vs).and (hp .nil)⟩
    · rintro ⟨t, ht, rfl⟩
      obtain ⟨p, hp, rfl⟩ := List.mem_map.1 ht
      obtain ⟨hp, hv⟩ := List.mem_filter.1 hp
      rw [show (descTile p).ix = p.2 from rfl, getD_of_mem_zipIdx hp]
      simpa using hv
    · have hk : k < vs.length := hlen ▸ hk
      have hv : vs[k] % 2 = 1 := by simpa [List.getD_eq_getElem?_getD, hk] using hv
      refine ⟨descTile (vs[k], k), List.mem_map_of_mem (List.mem_filter.2 ⟨?_, by simpa using hv⟩), rfl⟩
      exact List.mem_zipIdx_iff_getElem?.2 (by simp [hk])
    · intro t ht
      obtain ⟨p, hp, rfl⟩ := List.mem_map.1 ht
      obtain ⟨hp, hv⟩ := List.mem_filter.1 hp
      have hv : p.1 % 2 = 1 := by simpa using hv
      obtain ⟨hres, hlo, hhi⟩ := hok p hp hv
      exact ⟨rfl, hlo, hhi, (getD_of_mem_zipIdx hp).trans (DescOk.tileDesc ⟨hres, hlo, hhi⟩ hv)⟩
  · obtain ⟨p, hp, hv, why, hw, rfl, hr⟩ := buildTiles_error h
    have hlt : p.2 < 64 := by simpa [hlen] using List.snd_lt_of_mem_zipIdx hp
    exact ⟨rfl, rfl, p.2, why, hlt, by rw [getD_of_mem_zipIdx hp, hv], hw, rfl, by rw [getD_of_mem_zipIdx hp, hr]⟩

/-! ### The tile instructions (R302 to R304) -/

theorem Field.tileCode_undefined {f : Field} {k : Nat} (h : f.tile k = none) : f.tileCode k = 4 := by
  simp [Field.tileCode, h]
theorem Field.tileCode_empty {f : Field} {k : Nat} {t : Tile} (h : f.tile k = some t) (ht : t.st = .empty) : f.tileCode k = 0 := by
  simp [Field.tileCode, h, ht]
/-- A tile that is not Empty is Filling, Ready or Draining. -/
theorem Field.tileCode_busy {f : Field} {k : Nat} {t : Tile} (h : f.tile k = some t) (ht : t.st ≠ .empty) :
    1 ≤ f.tileCode k ∧ f.tileCode k ≤ 3 := by
  cases hst : t.st with
  | empty => exact absurd hst ht
  | filling | ready | draining => simp [Field.tileCode, h, hst]

/-- The first tile that `tcfg` must wait to be Empty. -/
def Field.busyTile (f : Field) : Option Nat := (List.range 64).find? fun k => 1 ≤ f.tileCode k && f.tileCode k ≤ 3

theorem Field.busyTile_none {f : Field} (h : ∀ t ∈ f.tiles, t.st = .empty) : f.busyTile = none := by
  refine List.find?_eq_none.2 fun k _ => ?_
  cases ht : f.tile k with
  | none => simp [f.tileCode_undefined ht]
  | some t => simp [f.tileCode_empty ht (h t (List.mem_of_find?_eq_some ht))]

theorem Field.busyTile_some {f : Field} {i : Nat} (hi : i < 64) (h : 1 ≤ f.tileCode i ∧ f.tileCode i ≤ 3) :
    ∃ k, k ≤ i ∧ f.busyTile = some k := by
  cases hf : f.busyTile with
  | none =>
    have := List.find?_eq_none.1 hf i (List.mem_range.2 hi)
    simp at this
    omega
  | some k =>
    obtain ⟨-, -, first⟩ := List.find?_range_eq_some.1 hf
    refine ⟨k, Nat.le_of_not_lt fun hlt => ?_, rfl⟩
    have := first i hlt
    simp at this
    omega

theorem readByte_zeroRange (m : List Host.Cell) (a n k : Nat) :
    readByte (zeroRange m a n) k = if a ≤ k ∧ k < a + n then unlisted else readByte m k := by
  unfold zeroRange
  split
  · exact readByte_filter_dropped (fun v => by simp; omega) m
  · exact readByte_filter_kept (fun v => by simp; omega) m

/-- The bytes of a field's tiles zeroed. -/
def zeroTiles (fld : Nat) (ts : List Tile) (m : List Host.Cell) : List Host.Cell :=
  ts.foldl (fun m t => zeroRange m (spKey fld (t.base * 64)) (t.len * 64)) m

theorem spKey_end (fld : Nat) (t : Tile) : spKey fld (t.base * 64) + t.len * 64 = spKey fld ((t.base + t.len) * 64) := by
  simp only [spKey]
  omega

theorem readByte_zeroTiles_else {fld k : Nat} {ts : List Tile} (m : List Host.Cell)
    (h : ∀ q ∈ ts, k < spKey fld (q.base * 64) ∨ spKey fld ((q.base + q.len) * 64) ≤ k) :
    readByte (zeroTiles fld ts m) k = readByte m k := by
  induction ts generalizing m with
  | nil => rfl
  | cons t r ih =>
    obtain ⟨ht, hr⟩ := List.forall_mem_cons.1 h
    have := spKey_end fld t
    exact (ih _ hr).trans (by rw [readByte_zeroRange, if_neg (by omega)])

/-- A byte that is zero stays zero, whichever tiles come after. -/
theorem readByte_zeroTiles_zero {fld k : Nat} {ts : List Tile} {m : List Host.Cell} (h : readByte m k = 0) :
    readByte (zeroTiles fld ts m) k = 0 := by
  induction ts generalizing m with
  | nil => exact h
  | cons t r ih => exact ih (by rw [readByte_zeroRange, h]; exact ite_self _)

theorem readByte_zeroTiles {fld k : Nat} {ts : List Tile} {q : Tile} (m : List Host.Cell) (hq : q ∈ ts)
    (hlo : spKey fld (q.base * 64) ≤ k) (hhi : k < spKey fld ((q.base + q.len) * 64)) : readByte (zeroTiles fld ts m) k = 0 := by
  induction ts generalizing m with
  | nil => cases hq
  | cons t r ih =>
    have := spKey_end fld q
    rcases List.mem_cons.1 hq with rfl | hq
    · refine readByte_zeroTiles_zero (m := zeroRange m _ _) ?_
      rw [readByte_zeroRange, if_pos (by omega)]
      rfl
    · exact ih _ hq

/-- What `tcfg` leaves of the state that its reads left (R302). -/
def State.installTiles (s : State) (ts : List Tile) : State :=
  let t := s.setField { s.myField with tiles := ts }
  { t with
    mem := zeroTiles s.me.fld ts s.mem
    tags := s.tags.filter fun q => !ts.any fun t =>
      spKey s.me.fld (t.base * 64) / 16 ≤ q && q < spKey s.me.fld ((t.base + t.len) * 64) / 16 }

theorem immBits_zero (w : LF) (n : Nat) : w.immBits 0 n = w.imm.toNat % 2 ^ n := by simp [LF.immBits]

theorem dispAddr_eq (s : State) (w : LF) : dispAddr (s.creg5 w.a) w = dispOf s w := by
  simp only [dispAddr, effAddr, dispOf, sext]
  rw [BitVec.toInt_signExtend_of_le (by decide)]
  rfl

section
variable {s : State} {w : LF} (hr : Runs s w)
include hr

/-- With its operands admitted, a long form of a strand that runs completes as its body answers. -/
theorem runs_done {o : Opnds} {body : State → Act} {t : State} (ha : Admits s o) (hb : body s = .done t) :
    runL w .other o body s = .next (t.retire 8 o.reads) := by
  obtain ⟨hf, hg, -, -⟩ := hr
  exact (runL_true hg).trans (run_done (by simp [hf]) ha.1 ha.2 hb)
theorem runs_wait {o : Opnds} {body : State → Act} {t : State} (ha : Admits s o) (hb : body s = .wait t) :
    runL w .other o body s = .next t := by
  obtain ⟨hf, hg, -, -⟩ := hr
  exact (runL_true hg).trans (run_wait (by simp [hf]) ha.1 ha.2 hb)
theorem runs_raise {o : Opnds} {body : State → Act} {k : TrapInfo} (ha : Admits s o) (hb : body s = .raise k s) :
    runL w .other o body s = s.raise k := by
  obtain ⟨hf, hg, -, -⟩ := hr
  exact (runL_true hg).trans (run_raise (by simp [hf]) ha.1 ha.2 hb hf)

theorem admits_b : Admits s { reads := [w.b] } := by
  obtain ⟨-, -, hb, -⟩ := hr
  exact admits_unbound (by simpa using hb)
theorem admits_d : Admits s { writes := [w.d] } := by
  obtain ⟨-, -, -, hd⟩ := hr
  exact admits_unbound (by simpa using hd)

section
variable (hk : checkRange (s.ownObj s.me.fld) (s.creg (w.a.extractLsb' 0 4)) 1 (dispOf s w) 512 = none) (ho : dispOf s w % 8 = 0)
include hk ho

theorem exec_tcfg_installs {u : State} {vs : List Nat} {ts : List Tile} (hb : s.myField.busyTile = none)
    (hv : s.readMany (s.creg (w.a.extractLsb' 0 4)).obj (dispOf s w).toNat 8 1 64 = .ok u vs)
    (hts : buildTiles (u.myField.nmin * step512) [] vs.zipIdx = .ok ts) :
    exec (.tcfg w) s = .next ((u.installTiles ts).retire 8 []) := by
  refine (exec_tcfg w s).trans (runs_done hr (admits_none s) ?_)
  simp only [dispAddr_eq]
  simp only [State.creg5, pR, hk, ho]
  simp only [Field.busyTile] at hb
  simp only [ne_eq, not_true_eq_false, if_false, hb, hv, hts]
  rfl

theorem exec_tcfg_busy {k : Nat} (hb : s.myField.busyTile = some k) : exec (.tcfg w) s = s.raise (mkTrap 0x0E 0 0 k) := by
  refine (exec_tcfg w s).trans (runs_raise hr (admits_none s) ?_)
  simp only [dispAddr_eq]
  simp only [State.creg5, pR, hk, ho]
  simp only [Field.busyTile] at hb
  simp only [ne_eq, not_true_eq_false, if_false, hb]
  rfl
end
end

theorem State.fieldOf_installTiles (s : State) (ts : List Tile) : ((s.installTiles ts).fieldOf s.me.fld).tiles = ts := by
  have : (s.setField { s.myField with tiles := ts }).fieldOf s.me.fld = { s.myField with tiles := ts } :=
    State.fieldOf_setField (s.fieldOf_no _)
  exact congrArg Field.tiles this

/-- A number as a mask: bit k is set where k is below n and picked. -/
theorem testBit_mask (p : Nat → Prop) [DecidablePred p] (n : Nat) :
    let m := (List.range n).foldl (fun m k => if p k then m + 2 ^ k else m) 0
    m < 2 ^ n ∧ ∀ k, m.testBit k = decide (k < n ∧ p k) := by
  induction n with
  | zero => simp
  | succ n ih =>
    intro m
    obtain ⟨hlt, hbit⟩ := ih
    simp only [m, List.range_succ, List.foldl_append, List.foldl_cons, List.foldl_nil]
    generalize (List.range n).foldl (fun m k => if p k then m + 2 ^ k else m) 0 = x at hlt hbit
    have hsucc : 2 ^ (n + 1) = 2 ^ n + 2 ^ n := Nat.two_pow_succ n
    have top : x.testBit n = false := Nat.testBit_lt_two_pow hlt
    split
    · next hp =>
      refine ⟨by omega, fun k => ?_⟩
      rw [Nat.add_comm]
      rcases Nat.lt_trichotomy k n with hk | rfl | hk
      · simp [Nat.testBit_two_pow_add_gt hk, hbit, hk, Nat.lt_succ_of_lt hk]
      · simp [Nat.testBit_two_pow_add_eq, top, hp]
      · have : 2 ^ (n + 1) ≤ 2 ^ k := Nat.pow_le_pow_right (by decide) hk
        rw [Nat.testBit_lt_two_pow (by omega)]
        simp
        omega
    · next hp =>
      refine ⟨by omega, fun k => ?_⟩
      rw [hbit]
      simp only [decide_eq_decide]
      refine and_congr_left fun hk => ⟨Nat.lt_succ_of_lt, fun h => Nat.lt_of_le_of_ne (Nat.le_of_lt_succ h) ?_⟩
      rintro rfl
      exact hp hk

section
variable {s : State} {w : LF} (hr : Runs s w)
include hr

theorem tcfg_installs {u : State} {vs : List Nat} {ts : List Tile} 
    (hk : checkRange (s.ownObj s.me.fld) (s.creg (w.a.extractLsb' 0 4)) 1 (dispOf s w) 512 = none) (ho : dispOf s w % 8 = 0)
    (he : ∀ t ∈ (s.fieldOf s.me.fld).tiles, t.st = .empty)
    (hv : s.readMany (s.creg (w.a.extractLsb' 0 4)).obj (dispOf s w).toNat 8 1 64 = .ok u vs) (hme : u.me = s.me)
    (hmin : (u.fieldOf s.me.fld).nmin = (s.fieldOf s.me.fld).nmin)
    (hts : buildTiles ((s.fieldOf s.me.fld).nmin * step512) [] vs.zipIdx = .ok ts) :
    ∃ t, exec (.tcfg w) s = .next t ∧ (t.fieldOf s.me.fld).tiles = ts ∧ t.me.regs = s.me.regs ∧
      t.me.pcc = s.me.pcc.setCur (s.pc + 8) ∧
      (∀ q ∈ ts, ∀ k, spKey s.me.fld (q.base * 64) ≤ k → k < spKey s.me.fld ((q.base + q.len) * 64) → readByte t.mem k = 0) ∧
      (∀ k, (∀ q ∈ ts, k < spKey s.me.fld (q.base * 64) ∨ spKey s.me.fld ((q.base + q.len) * 64) ≤ k) →
        readByte t.mem k = readByte u.mem k) := by
  have hmin : u.myField.nmin = (s.fieldOf s.me.fld).nmin := by rw [State.myField, hme, hmin]
  have hf : u.me.finder = false := by rw [hme]; exact hr.1
  have runs := exec_tcfg_installs hr hk ho (Field.busyTile_none he) hv (by rw [hmin]; exact hts)
  rw [State.retire_eq (s := u.installTiles ts) 8 [] hf] at runs
  refine ⟨_, runs, ?_, ?_, ?_, ?_, ?_⟩
  · exact hme ▸ State.fieldOf_installTiles u ts
  · exact (rfl : _ = u.me.regs).trans (by rw [hme])
  · exact congrArg (fun m : Strand => m.pcc.setCur (m.pcc.cur + 8)) hme
  · exact fun q hq k hlo hhi => readByte_zeroTiles u.mem hq (hme ▸ hlo) (hme ▸ hhi)
  · exact fun k h => readByte_zeroTiles_else u.mem (hme ▸ h)

theorem tcfg_busy {t : Tile} (hk : checkRange (s.ownObj s.me.fld) (s.creg (w.a.extractLsb' 0 4)) 1 (dispOf s w) 512 = none)
    (ho : dispOf s w % 8 = 0) (hst : t.st ≠ .empty) (hix : t.ix < 64) (ht : (s.fieldOf s.me.fld).tile t.ix = some t) :
    ∃ k, k ≤ t.ix ∧ exec (.tcfg w) s = s.raise (mkTrap 0x0E 0 0 k) :=
  let ⟨k, hle, hb⟩ := Field.busyTile_some hix (Field.tileCode_busy ht hst)
  ⟨k, hle, exec_tcfg_busy hr hk ho hb⟩

theorem trel_done (h : ∀ t ∈ (s.fieldOf s.me.fld).tiles, t.st = .empty ∨ t.st = .ready) :
    Done s (.trel w) 8 [] (s.setField { s.fieldOf s.me.fld with tiles := [] }) := by
  refine (exec_trel w s).trans (runs_done hr (admits_none s) (if_neg ?_))
  simp only [List.any_eq_true, not_exists, not_and]
  intro t ht
  rcases h t ht with h | h <;> simp [h]

theorem trel_waits (h : ∃ t ∈ (s.fieldOf s.me.fld).tiles, t.st = .filling ∨ t.st = .draining) : exec (.trel w) s = .next s := by
  obtain ⟨t, ht, hst⟩ := h
  exact (exec_trel w s).trans (runs_wait hr (admits_none s) (if_pos (List.any_eq_true.2 ⟨t, ht, by simpa using hst⟩)))

theorem tstate_writes : ∃ v : W64, Writes s (.tstate w) w.d v 8 [] ∧
    ∀ k, k < 64 → v.getLsbD k = decide ((s.fieldOf s.me.fld).tileCode k = w.imm.toNat % 8) := by
  refine ⟨_, (exec_tstate w s).trans (runs_done hr (admits_d hr) rfl), fun k hk => ?_⟩
  obtain ⟨-, hbit⟩ := testBit_mask (fun k => s.myField.tileCode k = w.immBits 0 3) 64
  rw [BitVec.getLsbD_ofNat, hbit, immBits_zero]
  simp [hk, State.myField]

/-- The tiles that `twait` names. -/
def State.namedTiles (s : State) (w : LF) : List Nat := (List.range 64).filter fun k => (s.readReg w.b).getLsbD k

theorem mem_namedTiles {k : Nat} : k ∈ s.namedTiles w ↔ k < 64 ∧ (s.sreg w.b).getLsbD k = true := by
  obtain ⟨-, -, hb, -⟩ := hr
  simp [State.namedTiles, State.readReg_unbound hb]

/-- An undefined tile among those named, the lowest. -/
theorem exec_twait_undefined {k : Nat} (h : (s.namedTiles w).find? (fun k => s.myField.tileCode k = 4) = some k) :
    exec (.twait w) s = s.raise (tileTrap k 1) := by
  refine (exec_twait w s).trans (runs_raise hr (admits_b hr) ?_)
  simp only [State.namedTiles] at h
  simp only [h]

theorem none_undefined (h : ∀ k, k < 64 ∧ (s.sreg w.b).getLsbD k = true → (s.fieldOf s.me.fld).tileCode k ≠ 4) :
    (s.namedTiles w).find? (fun k => s.myField.tileCode k = 4) = none :=
  List.find?_eq_none.2 fun k hk ht => h k ((mem_namedTiles hr).1 hk) (of_decide_eq_true ht)

theorem twait_done (h : ∀ k, k < 64 ∧ (s.sreg w.b).getLsbD k = true → (s.fieldOf s.me.fld).tileCode k = w.imm.toNat % 4) :
    Done s (.twait w) 8 [w.b] s := by
  have defined := none_undefined hr fun k hk => by rw [h k hk]; omega
  have all : ∀ k ∈ s.namedTiles w, s.myField.tileCode k = w.immBits 0 2 :=
    fun k hk => (h k ((mem_namedTiles hr).1 hk)).trans (immBits_zero w 2).symm
  refine (exec_twait w s).trans (runs_done hr (admits_b hr) ?_)
  simp only [State.namedTiles] at defined all
  simp only [defined]
  exact if_pos (List.all_eq_true.2 fun k hk => decide_eq_true (all k hk))

theorem twait_waits (h : ∀ k, k < 64 ∧ (s.sreg w.b).getLsbD k = true → (s.fieldOf s.me.fld).tileCode k ≠ 4)
    (hk : ∃ k, (k < 64 ∧ (s.sreg w.b).getLsbD k = true) ∧ (s.fieldOf s.me.fld).tileCode k ≠ w.imm.toNat % 4) :
    exec (.twait w) s = .next s := by
  have defined := none_undefined hr h
  obtain ⟨k, hk, hne⟩ := hk
  have mem := (mem_namedTiles hr).2 hk
  refine (exec_twait w s).trans (runs_wait hr (admits_b hr) ?_)
  simp only [State.namedTiles] at defined mem
  simp only [defined]
  exact if_neg fun all => hne ((of_decide_eq_true (List.all_eq_true.1 all k mem)).trans (immBits_zero w 2))

theorem twait_undefined {k : Nat} (hk : k < 64 ∧ (s.sreg w.b).getLsbD k = true) (h : (s.fieldOf s.me.fld).tileCode k = 4)
    (first : ∀ j, j < k → j < 64 ∧ (s.sreg w.b).getLsbD j = true → (s.fieldOf s.me.fld).tileCode j ≠ 4) :
    exec (.twait w) s = s.raise (mkTrap 0x0F 0 0 (k + 256)) := by
  obtain ⟨-, -, hb, -⟩ := id hr
  refine exec_twait_undefined hr ?_
  rw [State.namedTiles, List.find?_filter, List.find?_range_eq_some, State.readReg_unbound hb]
  refine ⟨decide_eq_true ⟨hk.2, decide_eq_true h⟩, List.mem_range.2 hk.1, fun j hj => ?_⟩
  rw [Bool.not_eq_true']
  exact decide_eq_false fun ⟨hn, ht⟩ => first j hj ⟨Nat.lt_trans hj hk.1, hn⟩ (of_decide_eq_true ht)
end

/-- The tile instructions do as their clauses say. -/
theorem tileInstructions : Claim.TileInstructions := by
  intro s w hr
  refine ⟨fun u vs ts hk ho he hv hme hmin hts => tcfg_installs hr hk ho he hv hme hmin hts,
    fun t _ hst hix ht hk ho => tcfg_busy hr hk ho hst hix ht, trel_done hr, trel_waits hr, tstate_writes hr,
    twait_done hr, twait_waits hr, fun k hk h first => twait_undefined hr hk h first⟩

/-- Settles O29: the checks go by induction on the descriptors, entry by entry; each tile instruction is its body's answer on the
field's table. -/
theorem tiles : Obligations.Tiles := ⟨tileTableChecks, tileInstructions⟩

end Sys2Proof.Machine
end

section
/-!
### Steps that keep the canonical form of memory (R229, R231)

Every function of the model that gives back a state has one lemma `<function>_canonical`: from a canonical state it gives a
canonical one. Memory changes in five writes only (a byte, a number, bytes, a masked sector, cells taken out), whose lemmas stand with the
rules of memory (`wf_writeByte` and those after it); every other function leaves `mem` as it is or calls one that has its lemma.
Each result type has a predicate `Canonical` that says it of the state it carries; `EngKeeps` says it of an engine step and
`Keeps` of a step of a unit. The lemmas stand in the order of the model's files. The rules for folds and options come first.
-/
namespace Sys2Proof.Machine
variable {s t u : State} {x y : Fx} {w : EW} {α β : Type}

/-- Every state that an outcome of a body carries is canonical. -/
def Act.Canonical : Act → Prop
  | .done s | .jump s | .raise _ s | .wait s => s.Canonical

def BindRes.Canonical : BindRes → Prop
  | .ok s _ | .wait s | .raise _ s => s.Canonical

def ImgRes.Canonical : ImgRes → Prop
  | .ok s _ | .wait s | .fail s _ _ => s.Canonical
  | .race _ => True

def PutRes.Canonical : PutRes → Prop
  | .ok s => s.Canonical
  | _ => True

def Fetched.Canonical : Fetched → Prop
  | .wait s | .raise _ s => s.Canonical
  | .instr _ => True

def RelRes.Canonical : RelRes → Prop
  | .ok s | .wait s | .raise _ s => s.Canonical

def HandRes.Canonical : HandRes → Prop
  | .ok s _ | .wait s | .raise _ s => s.Canonical

def VBlock.Canonical : VBlock → Prop
  | .ok s _ | .wait s | .raise _ s => s.Canonical

def VRes.Canonical : VRes → Prop
  | .ok s .. | .wait s .. | .fault _ _ s .. => s.Canonical

def ReadRes.Canonical : ReadRes → Prop
  | .ok s _ | .wait s | .raise _ s => s.Canonical

def RdRes.Canonical : RdRes → Prop
  | .ok s _ | .wait s => s.Canonical
  | .raise _ _ => True

def Land.Canonical : Land → Prop
  | .wait s => s.Canonical
  | _ => True

def TargetRes.Canonical : TargetRes → Prop
  | .wait s => s.Canonical
  | _ => True

def ElAcc.Canonical : ElAcc → Prop
  | .state s => s.Canonical
  | .val x _ => x.s.Canonical
  | .none => True

/-- The state of an element that stalled, or that goes on. -/
def HeldIn : State ⊕ Fx → Prop
  | .inl s => s.Canonical
  | .inr x => x.s.Canonical

/-- An engine step that ends keeps the canonical form (R231). -/
structure EngKeeps {α : Type} (m : Eng α) : Prop where
  keeps : ∀ w a w', w.s.Canonical → m w = .ok (a, w') → w'.s.Canonical

/-- A step that keeps the canonical form. -/
def Keeps (f : State → Out) : Prop := ∀ s t, s.Canonical → f s = .next t → t.Canonical

/-- What holds of a value holds of the value it is equal to; used to read off a branch of a `match`. -/
theorem eq_keeps {α : Type} {P : α → Prop} {a b : α} (e : a = b) (h : P a) : P b := e ▸ h

theorem fst_canonical {α : Type} {p : State × α} {q : α} (e : p = (t, q)) (h : p.1.Canonical) : t.Canonical := by
  subst e
  exact h

theorem snd_canonical {α : Type} {p : α × State} {q : α} (e : p = (q, t)) (h : p.2.Canonical) : t.Canonical := by
  subst e
  exact h

theorem foldl_keeps {α β : Type} {P : β → Prop} {f : β → α → β} {b : β} (h : P b) (hf : ∀ b a, P b → P (f b a)) (l : List α) :
    P (l.foldl f b) := by
  induction l generalizing b with
  | nil => exact h
  | cons a r ih => exact ih (hf _ a h)

theorem optFoldl_keeps {α β : Type} {P : β → Prop} {f : β → α → Option β} {l : List α} {o : Option β} {c : β}
    (e : l.foldl (fun a i => a.bind fun b => f b i) o = some c) (ho : ∀ b, o = some b → P b)
    (hf : ∀ b i c, f b i = some c → P b → P c) : P c := by
  induction l generalizing o with
  | nil => exact ho c e
  | cons i r ih =>
    refine ih e fun b hb => ?_
    obtain ⟨a, ha, hb⟩ := Option.bind_eq_some_iff.1 hb
    exact hf a i b hb (ho a ha)

theorem findSome_keeps {α β : Type} {P : β → Prop} {f : α → Option β} {l : List α} {b : β} (e : l.findSome? f = some b)
    (hf : ∀ a, f a = some b → P b) : P b := by
  obtain ⟨a, -, ha⟩ := List.exists_of_findSome?_eq_some e
  exact hf a ha

theorem or_keeps {β : Type} {P : β → Prop} {o p : Option β} {b : β} (e : o.or p = some b) (ho : o = some b → P b)
    (hp : p = some b → P b) : P b := by
  obtain e | ⟨-, e⟩ := Option.or_eq_some_iff.1 e
  · exact ho e
  · exact hp e

theorem foldlM_keeps {α β ε : Type} {P : β → Prop} {f : β → α → Except ε β} {b c : β} {l : List α} (e : l.foldlM f b = .ok c)
    (h : P b) (hf : ∀ b a c, f b a = .ok c → P b → P c) : P c := by
  induction l generalizing b with
  | nil => cases e; exact h
  | cons a r ih =>
    rw [List.foldlM_cons] at e
    cases hb : f b a with
    | error k => rw [hb] at e; cases e
    | ok d => rw [hb] at e; exact ih e (hf b a d hb h)

theorem foldlM_error {α β ε : Type} {P : β → Prop} {Q : ε → Prop} {f : β → α → Except ε β} {b : β} {k : ε} {l : List α}
    (e : l.foldlM f b = .error k) (h : P b) (hf : ∀ b a c, f b a = .ok c → P b → P c) (hk : ∀ b a k, f b a = .error k → P b → Q k) :
    Q k := by
  induction l generalizing b with
  | nil => cases e
  | cons a r ih =>
    rw [List.foldlM_cons] at e
    cases hb : f b a with
    | error j => rw [hb] at e; cases e; exact hk b a _ hb h
    | ok d => rw [hb] at e; exact ih e (hf b a d hb h)

end Sys2Proof.Machine
end

section
/-!
### Engine steps that keep the canonical form
-/
namespace Sys2Proof.Machine.EngKeeps
variable {α β : Type}
theorem pure (a : α) : EngKeeps (Pure.pure a : Eng α) := by
  constructor
  rintro w _ _ h ⟨⟩
  exact h
theorem bind {m : Eng α} {f : α → Eng β} (hm : EngKeeps m) (hf : ∀ a, EngKeeps (f a)) : EngKeeps (m >>= f) := by
  refine ⟨fun w b w' h e => ?_⟩
  change (m w).bind (fun p => f p.1 p.2) = _ at e
  cases hr : m w with
  | error k => rw [hr] at e; cases e
  | ok p => rw [hr] at e; exact (hf p.1).keeps p.2 b w' (hm.keeps w p.1 p.2 h hr) e
/-- What a state that is read holds is known of it. -/
theorem get_bind {f : EW → Eng β} (hf : ∀ w : EW, w.s.Canonical → EngKeeps (f w)) : EngKeeps (get >>= f) :=
  ⟨fun w b w' h e => (hf w h).keeps w b w' h e⟩
theorem get : EngKeeps (get : Eng EW) := by
  constructor
  rintro w _ _ h ⟨⟩
  exact h
theorem modify {f : EW → EW} (hf : ∀ w, w.s.Canonical → (f w).s.Canonical) : EngKeeps (modify f : Eng Unit) := by
  constructor
  rintro w _ _ h ⟨⟩
  exact hf w h
theorem set {w : EW} (h : w.s.Canonical) : EngKeeps (set w : Eng Unit) := by
  constructor
  rintro _ _ _ _ ⟨⟩
  exact h
theorem stop (k : EStop) : EngKeeps (eStop k : Eng α) := ⟨by rintro _ _ _ _ ⟨⟩⟩
theorem fault (k : TrapInfo) : EngKeeps (eFault k : Eng α) := ⟨by rintro _ _ _ _ ⟨⟩⟩
theorem mapM {f : α → Eng β} (hf : ∀ a, EngKeeps (f a)) (l : List α) : EngKeeps (l.mapM f) := by
  induction l with
  | nil => exact .pure _
  | cons a r ih =>
    rw [List.mapM_cons]
    exact .bind (hf a) fun b => .bind ih fun bs => .pure _
theorem foldlM {f : β → α → Eng β} (hf : ∀ b a, EngKeeps (f b a)) (l : List α) (b : β) : EngKeeps (l.foldlM f b) := by
  induction l generalizing b with
  | nil => exact .pure _
  | cons a r ih => exact .bind (hf b a) ih
theorem filterM {f : α → Eng Bool} (hf : ∀ a, EngKeeps (f a)) (l : List α) : EngKeeps (l.filterM f) := by
  have go (l acc : List α) : EngKeeps (l.filterAuxM f acc) := by
    induction l generalizing acc with
    | nil => exact .pure _
    | cons a r ih => exact .bind (hf a) fun b => ih _
  exact .bind (go l []) fun _ => .pure _
end Sys2Proof.Machine.EngKeeps
end

section
/-!
### The canonical form of memory is kept: Machine/State
-/
namespace Sys2Proof.Machine
variable {s t u : State} {x y : Fx} {w : EW} {α β : Type}

theorem State.reset_canonical : State.reset.Canonical := rfl

end Sys2Proof.Machine
end

section
/-!
### The canonical form of memory is kept: Machine/Ops
-/
namespace Sys2Proof.Machine
variable {s t u : State} {x y : Fx} {w : EW} {α β : Type}

theorem State.setCtx_canonical (h : s.Canonical) (c) : (s.setCtx c).Canonical := h

theorem State.setField_canonical (h : s.Canonical) (f) : (s.setField f).Canonical := h

theorem State.setSlot_canonical (h : s.Canonical) (c) : (s.setSlot c).Canonical := h

theorem State.setTask_canonical (h : s.Canonical) (k) : (s.setTask k).Canonical := h

theorem State.updStrand_canonical (h : s.Canonical) (f i g) : (s.updStrand f i g).Canonical := by
  unfold State.updStrand
  split
  · exact h
  · exact h

theorem State.freeVal_canonical (h : s.Canonical) : s.freeVal.2.Canonical := h

theorem State.setSreg_canonical (h : s.Canonical) (r v) : (s.setSreg r v).Canonical := by
  unfold State.setSreg
  dsimp only
  split
  · exact h
  · exact h

theorem State.setPred_canonical (h : s.Canonical) (p v) : (s.setPred p v).Canonical := by
  unfold State.setPred
  dsimp only
  split
  · exact h
  · exact h

theorem State.setCreg_canonical (h : s.Canonical) (c v) : (s.setCreg c v).Canonical := by
  unfold State.setCreg
  dsimp only
  split
  · exact h
  · exact h

theorem State.advance_canonical (h : s.Canonical) (n) : (s.advance n).Canonical := h

theorem State.jump_canonical (h : s.Canonical) (c) : (s.jump c).Canonical := h

theorem State.post_canonical (h : s.Canonical) (r) : (s.post r).Canonical := h

theorem State.endFinder_canonical (h : s.Canonical) (f i) : (s.endFinder f i).Canonical := h

theorem State.takeTrap_canonical (h : s.Canonical) (k) : (s.takeTrap k).Canonical := by
  unfold State.takeTrap
  dsimp only
  split
  · exact h
  · exact h

theorem State.leave_canonical (h : s.Canonical) (k) : (s.leave k).Canonical := by
  unfold State.leave
  split
  · exact h
  · exact h

theorem State.freeMe_canonical (h : s.Canonical) : s.freeMe.Canonical := h

theorem State.finderCount_canonical (h : s.Canonical) : s.finderCount.Canonical := h

theorem State.raise_canonical {k} (e : s.raise k = .next t) (h : s.Canonical) : t.Canonical := by
  unfold State.raise at e
  extract_lets at e
  split at e
  · cases e
    exact h
  split at e
  · cases e
    exact State.takeTrap_canonical h ..
  cases e
  exact h

theorem State.eret_canonical (h : s.Canonical) : s.eret.Canonical := h

theorem State.up_canonical (h : s.Canonical) (c) : (s.up c).Canonical := h

end Sys2Proof.Machine
end

section
/-!
### The canonical form of memory is kept: Machine/Flags
-/
namespace Sys2Proof.Machine
variable {s t u : State} {x y : Fx} {w : EW} {α β : Type}

theorem State.orFlags_canonical (h : s.Canonical) (f) : (s.orFlags f).Canonical := by
  unfold State.orFlags
  dsimp only
  split
  · exact h
  · exact h

end Sys2Proof.Machine
end

section
/-!
### The canonical form of memory is kept: Machine/Operands
-/
namespace Sys2Proof.Machine
variable {s t u : State} {x y : Fx} {w : EW} {α β : Type}

theorem State.updBind_canonical (h : s.Canonical) (q g) : (s.updBind q g).Canonical := h

theorem State.putReg_canonical (h : s.Canonical) (r v) : (s.putReg r v).Canonical := by
  unfold State.putReg
  split
  · exact h
  · exact State.setSreg_canonical h ..

theorem State.popAll_canonical (h : s.Canonical) (reads) : (s.popAll reads).Canonical := by
  unfold State.popAll
  dsimp only
  split
  · exact h
  · exact h

theorem State.finderTick_canonical (h : s.Canonical) : s.finderTick.Canonical := h

theorem State.finderDrop_canonical (h : s.Canonical) : s.finderDrop.Canonical := h

theorem State.retire_canonical (h : s.Canonical) (len reads) : (s.retire len reads).Canonical := by
  unfold State.retire
  split
  · exact h
  · exact State.advance_canonical (State.popAll_canonical h ..) ..

/-- What every strand instruction that may wait on a queue keeps: its body decides (R17). -/
theorem run_canonical {kind len o} {body : State → Act} (e : run kind len o body s = .next t) (h : s.Canonical)
    (hb : (body s).Canonical) : t.Canonical := by
  grind [run, Act.Canonical, State.retire_canonical, State.raise_canonical, State.finderTick_canonical, State.finderDrop_canonical,
    State.popAll_canonical]

theorem runL_canonical {w kind o} {body : State → Act} (e : runL w kind o body s = .next t) (h : s.Canonical)
    (hb : (body s).Canonical) : t.Canonical := by
  unfold runL at e
  split at e
  · exact run_canonical e h hb
  · cases e
    exact State.retire_canonical h ..

theorem runPriv_canonical {len o} {body : State → Act} (e : runPriv len o body s = .next t) (h : s.Canonical)
    (hb : (body s).Canonical) : t.Canonical := by
  unfold runPriv at e
  split at e
  · exact State.raise_canonical e h
  · exact run_canonical e h hb

theorem alu2_canonical {d a b f} (e : alu2 d a b f s = .next t) (h : s.Canonical) : t.Canonical := by
  refine run_canonical e h ?_
  exact State.putReg_canonical h ..

theorem alu1_canonical {d a f} (e : alu1 d a f s = .next t) (h : s.Canonical) : t.Canonical := by
  refine run_canonical e h ?_
  exact State.putReg_canonical h ..

theorem cmp2_canonical {p a b f} (e : cmp2 p a b f s = .next t) (h : s.Canonical) : t.Canonical := by
  refine run_canonical e h ?_
  exact State.setPred_canonical h ..

theorem predOp_canonical {p f} (e : predOp p f s = .next t) (h : s.Canonical) : t.Canonical :=
  run_canonical e h (State.setPred_canonical h ..)

end Sys2Proof.Machine
end

section
/-!
### The canonical form of memory is kept: Machine/Home
-/
namespace Sys2Proof.Machine
variable {s t u : State} {x y : Fx} {w : EW} {α β : Type}

theorem State.enter_canonical {ctx party xs} (e : s.enter ctx party xs = some t) (h : s.Canonical) : t.Canonical := by
  unfold State.enter at e
  extract_lets at e
  split at e
  · cases e
    exact h
  split at e
  · cases e
  split at e
  · cases e
    exact State.updStrand_canonical h ..
  cases e
  exact h

theorem State.setRace_canonical (h : s.Canonical) (r) : (s.setRace r).Canonical := h

theorem State.portRaw_canonical (h : s.Canonical) (key kind side off) : (s.portRaw key kind side off).Canonical := by
  grind [State.portRaw, State.Canonical, wf_writeByte, wf_writeBytes]

theorem State.poisonChunk_canonical (h : s.Canonical) (key off) : (s.poisonChunk key off).Canonical := by
  unfold State.poisonChunk
  generalize List.foldl _ _ _ = p
  exact h

theorem State.noteRead_canonical (h : s.Canonical) (ctx obj off) : (s.noteRead ctx obj off).Canonical := by
  unfold State.noteRead
  split
  · split
    · exact State.poisonChunk_canonical h ..
    · exact h
  · exact h

theorem State.acquireFrom_canonical {ctx party set rs unit fld} (e : s.acquireFrom ctx party set rs unit fld = some t) (h :
    s.Canonical) : t.Canonical :=
  State.enter_canonical e h

theorem State.invalidate_canonical (h : s.Canonical) (ctx f set) : (s.invalidate ctx f set).Canonical := h

theorem State.noteWrite_canonical (h : s.Canonical) (a) : (s.noteWrite a).Canonical := h

theorem State.dropCopies_canonical (h : s.Canonical) (ctx obj sec keep) : (s.dropCopies ctx obj sec keep).Canonical := h

theorem State.wakeArms_canonical (h : s.Canonical) (ctx obj sec) : (s.wakeArms ctx obj sec).Canonical := h

theorem State.setHits_canonical (h : s.Canonical) (ctx ks) : (s.setHits ctx ks).Canonical := by
  unfold State.setHits
  dsimp only
  split
  · exact h
  · exact h

theorem State.watchDone_canonical (h : s.Canonical) (a) : (s.watchDone a).Canonical := by
  unfold State.watchDone
  dsimp only
  split
  · exact h
  · exact h

theorem State.watchAfter_canonical (h : s.Canonical) (a) : (s.watchAfter a).Canonical := by
  unfold State.watchAfter
  split
  · exact State.watchDone_canonical h ..
  · exact h

theorem State.storeSector_canonical (h : s.Canonical) (key kind side off data mask) (tag) :
    (s.storeSector key kind side off data mask tag).Canonical := by
  grind [State.storeSector, State.Canonical, wf_writeMask, State.portRaw_canonical]

theorem State.checkRace_canonical {a writes} (e : s.checkRace a writes = .ok t) (h : s.Canonical) : t.Canonical := by
  unfold State.checkRace at e
  split at e
  · cases e
    exact h
  extract_lets m r16 at e
  split at e
  · cases e
    exact h
  split at e
  · split at e
    · cases e
    split at e <;> cases e <;> exact h
  · cases e
    exact h

theorem State.homePerform_canonical (h : s.Canonical) (a) : (s.homePerform a).1.Canonical := by
  unfold State.homePerform
  split
  · exact h
  split
  · exact h
  split
  · exact h
  · grind [State.checkRace_canonical]
  next key kind side _ =>
    cases hr : s.portRead (key - a.off % 16) kind side (a.off - a.off % 16) <;>
    grind [State.checkRace_canonical, State.dropCopies_canonical, State.storeSector_canonical, State.noteWrite_canonical,
      State.wakeArms_canonical, State.watchAfter_canonical, State.poisonChunk_canonical]

theorem State.noteReply_canonical (h : s.Canonical) (id a v) : (s.noteReply id a v).Canonical := by
  unfold State.noteReply
  dsimp only
  split
  · exact h
  · exact h

theorem State.l1Drop_canonical (h : s.Canonical) (f ctx obj sec) : (s.l1Drop f ctx obj sec).Canonical := h

theorem State.l1Put_canonical (h : s.Canonical) (c) : (s.l1Put c).Canonical := h

theorem State.writeBack_canonical (h : s.Canonical) (c) : (s.writeBack c).1.Canonical := by
  unfold State.writeBack
  split
  · exact h
  split
  · exact h
  · exact h
  extract_lets m r16 res s1 s2 s3 c'
  have h1 : s1.Canonical := by
    refine State.dropCopies_canonical ?_ ..
    split
    · exact h
    · exact h
  clear_value s1
  have h2 : s2.Canonical := State.storeSector_canonical h1 ..
  clear_value s2
  have h3 : s3.Canonical := h2
  clear_value s3
  exact State.l1Put_canonical h3 _

theorem State.keepRace_canonical (h : s.Canonical) (c other) : (s.keepRace c other).Canonical := by
  unfold State.keepRace
  dsimp only
  split
  · exact State.updStrand_canonical h ..
  split
  · split
    · exact h
    · exact h
  · exact h

theorem State.writeBacks_canonical (h : s.Canonical) (l) : (s.writeBacks l).1.Canonical := by
  induction l generalizing s with
  | nil => exact h
  | cons e r ih =>
    have hw := State.writeBack_canonical h e
    unfold State.writeBacks
    split
    next he => exact ih (fst_canonical he hw)
    next he => exact ih (State.keepRace_canonical (fst_canonical he hw) ..)
    next he => exact fst_canonical he hw

theorem State.l1Read_canonical (h : s.Canonical) (a) : (s.l1Read a).1.Canonical := by
  unfold State.l1Read
  dsimp only
  split
  · exact h
  split
  · exact h
  split
  · exact h
  split
  next hf => exact State.l1Put_canonical (fst_canonical hf (State.homePerform_canonical h ..)) ..
  next hf => exact fst_canonical hf (State.homePerform_canonical h ..)

theorem State.l1Write_canonical (h : s.Canonical) (a old) : (s.l1Write a old).Canonical := h

theorem State.l1Store_canonical (h : s.Canonical) (a) : (s.l1Store a).1.Canonical := by
  unfold State.l1Store
  dsimp only
  split
  · split
    · split
      next hg => exact State.l1Write_canonical (fst_canonical hg (State.writeBack_canonical h ..)) ..
      next hg =>
        exact State.l1Write_canonical (State.keepRace_canonical (fst_canonical hg (State.writeBack_canonical h ..)) ..) ..
      next hg => exact fst_canonical hg (State.writeBack_canonical h ..)
      next hg => exact fst_canonical hg (State.writeBack_canonical h ..)
    · exact h
  split
  · exact h
  · exact h

theorem State.renewCopy_canonical (h : s.Canonical) (a) : (s.renewCopy a).Canonical := by
  unfold State.renewCopy
  dsimp only
  split
  · exact h
  split
  · split
    · exact h
    · exact h
  split
  · exact h
  · exact h

theorem State.storeThrough_canonical (h : s.Canonical) (a) : (s.storeThrough a).1.Canonical := by
  grind [State.storeThrough, State.renewCopy_canonical, State.homePerform_canonical, State.writeBack_canonical,
    State.keepRace_canonical]

theorem State.flushAt_canonical (h : s.Canonical) (f ctx obj sec) : (s.flushAt f ctx obj sec).1.Canonical := by
  unfold State.flushAt
  split
  · exact h
  split
  next hf => exact State.l1Drop_canonical (fst_canonical hf (State.writeBack_canonical h ..)) ..
  next hf => exact State.l1Drop_canonical (State.keepRace_canonical (fst_canonical hf (State.writeBack_canonical h ..)) ..) ..
  · exact State.writeBack_canonical h ..

theorem State.flushSec_canonical (h : s.Canonical) (a) : (s.flushSec a).1.Canonical := State.flushAt_canonical h ..

theorem State.homedAccess_canonical (h : s.Canonical) (a) : (s.homedAccess a).1.Canonical := by
  unfold State.homedAccess
  split
  · exact h
  split
  · split
    · split
      next hg => exact fst_canonical hg (State.flushSec_canonical h ..)
      next hg => exact fst_canonical hg (State.flushSec_canonical h ..)
      next hg => exact State.l1Read_canonical (fst_canonical hg (State.flushSec_canonical h ..)) ..
    · exact State.l1Read_canonical h ..
  split
  · split
    next hf => exact fst_canonical hf (State.flushSec_canonical h ..)
    next hf => exact fst_canonical hf (State.flushSec_canonical h ..)
    next hf => exact State.homePerform_canonical (fst_canonical hf (State.flushSec_canonical h ..)) ..
  split
  · exact State.storeThrough_canonical h ..
  split
  · exact h
  · exact State.l1Store_canonical h ..

theorem State.spPerform_canonical (h : s.Canonical) (a) : (s.spPerform a).1.Canonical := by
  unfold State.spPerform
  extract_lets f f' key k0 old tag s1 f2
  split
  · exact h
  split
  · exact h
  clear_value f'
  have h1 : s1.Canonical := State.setField_canonical h _
  clear_value s1
  split
  · split
    · exact h1
    split
    exact State.noteWrite_canonical (State.storeSector_canonical h1 ..) _
  clear_value f2
  have hh := State.homedAccess_canonical (State.setField_canonical h f2) (a.backed f2)
  split
  next he =>
    replace hh := fst_canonical he hh
    split
    · exact State.noteWrite_canonical hh _
    · exact hh
  · exact hh

theorem State.perform_canonical (h : s.Canonical) (a) : (s.perform a).1.Canonical := by
  unfold State.perform
  split
  · exact State.spPerform_canonical h ..
  split
  · exact State.homePerform_canonical h ..
  · exact State.homedAccess_canonical h ..

theorem State.performSync_canonical (h : s.Canonical) (a) : (s.performSync a).1.Canonical := by
  have hp := State.perform_canonical h a
  unfold State.performSync
  split
  next heq =>
    replace hp := fst_canonical heq hp
    extract_lets rs go
    split
    next hu =>
      refine optFoldl_keeps (P := State.Canonical) hu (by rintro _ ⟨⟩; exact hp) fun b i c hc hb => ?_
      obtain ⟨v, hv, rfl⟩ := Option.map_eq_some_iff.1 hc
      exact State.invalidate_canonical (State.acquireFrom_canonical hv hb) ..
    · exact h
  next heq => exact fst_canonical heq hp

theorem State.keepPoison_canonical (h : s.Canonical) (a k) : (s.keepPoison a k).Canonical := by
  unfold State.keepPoison
  dsimp only
  split
  · exact State.noteRead_canonical h ..
  · exact h

theorem State.devWrite_canonical (h : s.Canonical) (ctx obj off n v tag) : (s.devWrite ctx obj off n v tag).Canonical := by
  unfold State.devWrite
  dsimp only
  split
  · exact State.wakeArms_canonical (State.storeSector_canonical (by exact h) ..) ..
  · exact h

theorem State.putCount_canonical (h : s.Canonical) (p) : (s.putCount p).Canonical := by
  unfold State.putCount
  dsimp only
  split
  · split
    · exact h
    · exact State.devWrite_canonical h ..
  · exact h

theorem State.holdAt_canonical (h : s.Canonical) (ctx obj off cause why src) : (s.holdAt ctx obj off cause why src).Canonical := by
  unfold State.holdAt
  dsimp only
  split
  · exact State.putCount_canonical (by exact h) ..
  · exact h

theorem State.hartGets_canonical (h : s.Canonical) (v) : (s.hartGets v).Canonical := h

theorem State.fetchFailed_canonical (h : s.Canonical) (f ctx c off k) : (s.fetchFailed f ctx c off k).Canonical := by
  unfold State.fetchFailed
  dsimp only
  split
  · exact State.noteRead_canonical h ..
  · exact h

end Sys2Proof.Machine
end

section
/-!
### The canonical form of memory is kept: Machine/Issue
-/
namespace Sys2Proof.Machine
variable {s t u : State} {x y : Fx} {w : EW} {α β : Type}

theorem State.holdOnce_canonical (h : s.Canonical) (ctx obj off cause why src) : (s.holdOnce ctx obj off cause why src).Canonical := by
  unfold State.holdOnce
  split
  · exact h
  · exact State.holdAt_canonical h ..

theorem State.holdAcc_canonical (h : s.Canonical) (a cause why src) : (s.holdAcc a cause why src).Canonical :=
  State.holdAt_canonical h ..

theorem State.holdAccOnce_canonical (h : s.Canonical) (a cause why src) : (s.holdAccOnce a cause why src).Canonical :=
  State.holdOnce_canonical h ..

theorem State.relWrites_canonical (h : s.Canonical) (ctx f l) : (s.relWrites ctx f l).1.Canonical := by
  induction l generalizing s with
  | nil => exact h
  | cons e r ih => grind [State.relWrites, State.writeBacks_canonical]

theorem State.release_canonical (h : s.Canonical) (sets) : (s.release sets).Canonical := by
  grind [State.Canonical, State.release, RelRes.Canonical, State.holdOnce_canonical, State.relWrites_canonical]

theorem State.addFlight_canonical (h : s.Canonical) (a dst sx ph fl cls cause) : (s.addFlight a dst sx ph fl cls cause).Canonical := h

theorem State.issue_canonical (h : s.Canonical) (a dst sx cls) : (s.issue a dst sx cls).Canonical := by
  grind [State.Canonical, State.issue, Act.Canonical, State.addFlight_canonical, State.holdAcc_canonical,
    State.performSync_canonical, State.noteReply_canonical]

theorem State.finderLoad_canonical {put : State → ℕ → Bool → State} (h : s.Canonical) (a)
    (hp : ∀ {u : State} v c, u.Canonical → (put u v c).Canonical) : (s.finderLoad a put).Canonical := by
  have ha := State.perform_canonical h a
  unfold State.finderLoad
  split
  next heq => exact hp _ _ (fst_canonical heq ha)
  · exact h

theorem State.load_canonical (h : s.Canonical) (c o n sgn d ord x) : (s.load c o n sgn d ord x).Canonical := by
  unfold State.load
  split
  · exact h
  extract_lets a
  split
  · exact State.finderLoad_canonical h _ fun _ _ h => State.setSreg_canonical h ..
  split
  · exact h
  · exact State.issue_canonical h ..

theorem State.loadCap_canonical (h : s.Canonical) (c o d) : (s.loadCap c o d).Canonical := by
  unfold State.loadCap
  split
  · exact h
  extract_lets a
  split
  · exact State.finderLoad_canonical h _ fun _ _ h => State.setCreg_canonical h ..
  split
  · exact h
  · exact State.issue_canonical h ..

theorem State.store_canonical (h : s.Canonical) (c o n rights op ord j dst sx cls) :
    (s.store c o n rights op ord j dst sx cls).Canonical := by
  unfold State.store
  split
  · exact h
  split
  · exact State.setHits_canonical h ..
  next hf =>
    split at hf
    · split
      · exact h
      split
      · exact h
      split
      next hk => exact (eq_keeps hk (State.release_canonical h ..) :)
      next hk => exact (eq_keeps hk (State.release_canonical h ..) :)
      next hk => exact State.issue_canonical (eq_keeps hk (State.release_canonical h ..) :) ..
    split
    · exact h
    split
    · exact h
    split
    next hk => exact (eq_keeps hk (State.release_canonical h ..) :)
    next hk => exact (eq_keeps hk (State.release_canonical h ..) :)
    next hk => exact State.issue_canonical (eq_keeps hk (State.release_canonical h ..) :) ..

theorem State.dropFlight_canonical (h : s.Canonical) (id) : (s.dropFlight id).Canonical := h

theorem State.updFlight_canonical (h : s.Canonical) (id g) : (s.updFlight id g).Canonical := h

theorem State.complete_canonical (h : s.Canonical) (f) : (s.complete f).Canonical := by
  unfold State.complete
  dsimp only
  split
  · split
    · exact h
    split
    · exact State.updStrand_canonical (by exact h) ..
    · exact h
  · exact h

theorem State.rollback_canonical (h : s.Canonical) (f before k) : (s.rollback f before k).Canonical := by
  unfold State.rollback
  dsimp only
  split
  · exact State.updStrand_canonical (by exact h) ..
  · exact h

theorem State.lateTrap_canonical (h : s.Canonical) (f k) : (s.lateTrap f k).Canonical := by
  unfold State.lateTrap
  dsimp only
  split
  · split
    · exact State.rollback_canonical (by exact h) ..
    · exact State.updStrand_canonical (by exact h) ..
  · split
    · exact h
    · exact h
  · exact h

theorem State.hostDone_canonical (h : s.Canonical) (f v) : (s.hostDone f v).Canonical := by
  unfold State.hostDone
  dsimp only
  split
  · split
    · exact h
    · exact h
  · exact h

theorem State.noteRels_canonical (h : s.Canonical) (f rs) : (s.noteRels f rs).Canonical := by
  unfold State.noteRels
  split
  · split
    · exact State.updStrand_canonical h ..
    · exact h
  · exact h

theorem State.tryFlight_canonical (h : s.Canonical) (f) : (s.tryFlight f).Canonical := by
  grind [State.Canonical, State.tryFlight, State.lateTrap_canonical, State.holdAcc_canonical, State.updFlight_canonical,
    State.performSync_canonical, State.hostDone_canonical, State.noteReply_canonical, State.noteRels_canonical]

end Sys2Proof.Machine
end

section
/-!
### The canonical form of memory is kept: Machine/Caps
-/
namespace Sys2Proof.Machine
variable {s t u : State} {x y : Fx} {w : EW} {α β : Type}

theorem capGet_canonical {b c f} (e : capGet b c f s = .next t) (h : s.Canonical) : t.Canonical := by
  refine run_canonical e h ?_
  exact State.putReg_canonical h ..

theorem execCsetc_canonical {d c b} (e : execCsetc d c b s = .next t) (h : s.Canonical) : t.Canonical := by
  refine run_canonical e h ?_
  exact State.setCreg_canonical h ..

theorem execCadd_canonical {d c b} (e : execCadd d c b s = .next t) (h : s.Canonical) : t.Canonical := by
  refine run_canonical e h ?_
  exact State.setCreg_canonical h ..

theorem execCbound_canonical {d c b} (e : execCbound d c b s = .next t) (h : s.Canonical) : t.Canonical := by
  refine run_canonical e h ?_
  unfold execCbound at e
  dsimp only
  split
  · exact h
  split
  · exact State.setCreg_canonical h ..
  · exact h

theorem execCperm_canonical {d c b} (e : execCperm d c b s = .next t) (h : s.Canonical) : t.Canonical := by
  refine run_canonical e h ?_
  unfold execCperm at e
  extract_lets
  split
  · exact h
  · exact State.setCreg_canonical h ..

theorem execCnull_canonical {d} (e : execCnull d s = .next t) (h : s.Canonical) : t.Canonical := by
  refine run_canonical e h ?_
  exact State.setCreg_canonical h ..

theorem execCmov_canonical {d c} (e : execCmov d c s = .next t) (h : s.Canonical) : t.Canonical := by
  refine run_canonical e h ?_
  exact State.setCreg_canonical h ..

theorem execCsub_canonical {b c c'} (e : execCsub b c c' s = .next t) (h : s.Canonical) : t.Canonical := by
  refine run_canonical e h ?_
  exact State.putReg_canonical h ..

theorem execCtest_canonical {p c} (e : execCtest p c s = .next t) (h : s.Canonical) : t.Canonical := predOp_canonical e h

theorem execCld_canonical {d c b} (e : execCld d c b s = .next t) (h : s.Canonical) : t.Canonical := by
  refine run_canonical e h ?_
  exact State.loadCap_canonical h ..

theorem execCst_canonical {d c b} (e : execCst d c b s = .next t) (h : s.Canonical) : t.Canonical := by
  refine run_canonical e h ?_
  exact State.store_canonical h ..

theorem execCmake_canonical {d b} (e : execCmake d b s = .next t) (h : s.Canonical) : t.Canonical := by
  refine runPriv_canonical e h ?_
  unfold execCmake at e
  dsimp only
  split
  · exact State.setCreg_canonical h ..
  · exact h

end Sys2Proof.Machine
end

section
/-!
### The canonical form of memory is kept: Machine/LoadStore
-/
namespace Sys2Proof.Machine
variable {s t u : State} {x y : Fx} {w : EW} {α β : Type}

theorem ldShort_canonical {n sgn d q c imm} (e : ldShort n sgn d q c imm s = .next t) (h : s.Canonical) : t.Canonical := by
  refine run_canonical e h ?_
  exact State.load_canonical h ..

theorem stShort_canonical {n d q c imm} (e : stShort n d q c imm s = .next t) (h : s.Canonical) : t.Canonical := by
  refine run_canonical e h ?_
  exact State.store_canonical h ..

theorem execLdx_canonical {w} (e : execLdx w s = .next t) (h : s.Canonical) : t.Canonical := by
  refine runL_canonical e h ?_
  exact State.load_canonical h ..

theorem execStx_canonical {w} (e : execStx w s = .next t) (h : s.Canonical) : t.Canonical := by
  refine runL_canonical e h ?_
  exact State.store_canonical h ..

theorem State.withFlight_canonical {id ok} {go : Flight → State} (e : s.withFlight id ok go = .next t) (h : s.Canonical)
    (hg : ∀ f, (go f).Canonical) : t.Canonical := by
  unfold State.withFlight at e
  split at e
  · cases e
    exact hg _
  · cases e
    exact h

end Sys2Proof.Machine
end

section
/-!
### The canonical form of memory is kept: Machine/Branch
-/
namespace Sys2Proof.Machine
variable {s t u : State} {x y : Fx} {w : EW} {α β : Type}

theorem State.checkTarget_canonical (h : s.Canonical) (c k) : (s.checkTarget c k).Canonical := by
  grind [State.checkTarget, TargetRes.Canonical, State.holdOnce_canonical]

theorem State.branchTo_canonical {also : State → State} (h : s.Canonical) (c o) (ha : (also s).Canonical) :
    (s.branchTo c o also).Canonical := by
  have hc := State.checkTarget_canonical h c o
  unfold State.branchTo
  split
  · exact State.fetchFailed_canonical h ..
  next he =>
    rw [he] at hc
    exact hc
  · exact State.jump_canonical ha _

theorem execBp_canonical {p n off} (e : execBp p n off s = .next t) (h : s.Canonical) : t.Canonical := by
  refine run_canonical e h ?_
  split
  · exact State.branchTo_canonical h _ _ h
  · exact h

theorem execCall_canonical {off} (e : execCall off s = .next t) (h : s.Canonical) : t.Canonical :=
  run_canonical e h (State.branchTo_canonical h _ _ (State.setCreg_canonical h ..))

theorem execLoop_canonical {d off} (e : execLoop d off s = .next t) (h : s.Canonical) : t.Canonical := by
  refine run_canonical e h ?_
  extract_lets v
  split
  · exact State.setSreg_canonical h ..
  · exact State.branchTo_canonical h _ _ (State.setSreg_canonical h ..)

theorem execJr_canonical {c b} (e : execJr c b s = .next t) (h : s.Canonical) : t.Canonical :=
  run_canonical e h (State.branchTo_canonical h _ _ h)

theorem execCallr_canonical {c b} (e : execCallr c b s = .next t) (h : s.Canonical) : t.Canonical :=
  run_canonical e h (State.branchTo_canonical h _ _ (State.setCreg_canonical h ..))

theorem execRet_canonical {c} (e : execRet c s = .next t) (h : s.Canonical) : t.Canonical :=
  run_canonical e h (State.branchTo_canonical h _ _ h)

end Sys2Proof.Machine
end

section
/-!
### The canonical form of memory is kept: Machine/Fabric
-/
namespace Sys2Proof.Machine
variable {s t u : State} {x y : Fx} {w : EW} {α β : Type}

theorem State.setElem_canonical (h : s.Canonical) (f i c) : (s.setElem f i c).Canonical := h

theorem Fx.done_canonical (h : x.s.Canonical) : x.done.Canonical := h

theorem State.setChan_canonical (h : s.Canonical) (c) : (s.setChan c).Canonical := h

theorem Fx.stallWith_canonical (h : x.s.Canonical) (k sub) : (x.stallWith k sub).Canonical := h

theorem Fx.stallAt_canonical (h : x.s.Canonical) (cause why inp rcv) : (x.stallAt cause why inp rcv).Canonical := h

theorem Fx.actorFire_canonical (e : x.actorFire = some y) (h : x.s.Canonical) : y.s.Canonical := by
  unfold Fx.actorFire at e
  extract_lets at e
  split at e
  · cases e
    exact h
  · cases e

theorem Fx.gateIn_canonical {i} (e : x.gateIn i = some y) (h : x.s.Canonical) : y.s.Canonical := by
  unfold Fx.gateIn at e
  extract_lets take at e
  split at e
  · cases e
    exact h
  split at e
  · cases e
    exact h
  · obtain ⟨z, hz, rfl⟩ := Option.map_eq_some_iff.1 e
    have hs := Fx.actorFire_canonical hz h
    exact hs

theorem Fx.gateOut_canonical {o} (e : x.gateOut o = some y) (h : x.s.Canonical) : y.s.Canonical := by
  unfold Fx.gateOut at e
  extract_lets take at e
  split at e
  · cases e
    exact h
  split at e
  · cases e
    exact h
  · obtain ⟨z, hz, rfl⟩ := Option.map_eq_some_iff.1 e
    have hs := Fx.actorFire_canonical hz h
    exact hs

theorem Fx.drop_canonical (h : x.s.Canonical) (i) : (x.drop i).s.Canonical := by
  unfold Fx.drop
  split
  · exact h
  · exact h

theorem Fx.keep_canonical (h : x.s.Canonical) (i) : (x.keep i).s.Canonical := by
  unfold Fx.keep
  split
  · exact h
  · exact h

theorem Fx.push_canonical (h : x.s.Canonical) (o b) : (x.push o b).s.Canonical :=
  foldl_keeps (P := State.Canonical) h (by exact fun _ _ h => h) _

theorem Fx.endOut_canonical (h : x.s.Canonical) (o) : (x.endOut o).s.Canonical :=
  foldl_keeps (P := State.Canonical) h (by exact fun _ _ h => h) _

theorem Fx.killIn_canonical (h : x.s.Canonical) (i seenDigit) : (x.killIn i seenDigit).s.Canonical := by
  unfold Fx.killIn
  dsimp only
  split
  · exact h
  · exact h

theorem Fx.queue_canonical (h : x.s.Canonical) (l) : (x.queue l).s.Canonical := h

theorem Fx.leaveOn_canonical {o} (e : x.leaveOn o = some y) (h : x.s.Canonical) : y.s.Canonical := by
  unfold Fx.leaveOn at e
  split at e
  · cases e
    exact h
  split at e
  · obtain ⟨z, hz, rfl⟩ := Option.map_eq_some_iff.1 e
    split at hz
    · exact Fx.push_canonical (Fx.gateOut_canonical hz h) ..
    · cases hz
      exact Fx.push_canonical h ..
  · cases e

abbrev Fx.Canonical (x : Fx) : Prop := x.s.Canonical

theorem Fx.fired_canonical (e : x.fired = some t) (h : x.s.Canonical) : t.Canonical := by
  obtain ⟨y, hy, rfl⟩ := Option.map_eq_some_iff.1 e
  exact Fx.done_canonical (optFoldl_keeps (P := Fx.Canonical) hy (by rintro _ ⟨⟩; exact h) fun _ _ _ => Fx.leaveOn_canonical)

theorem Fx.emit_canonical (e : x.emit = some t) (h : x.s.Canonical) : t.Canonical := by
  unfold Fx.emit at e
  split at e
  · cases e
  extract_lets at e
  split at e
  · cases e
    exact Fx.done_canonical (Fx.done_canonical (Fx.endOut_canonical h ..) ..) ..
  obtain ⟨_, hf, rfl⟩ := Option.map_eq_some_iff.1 e
  exact Fx.done_canonical (Fx.leaveOn_canonical hf h) ..

theorem Fx.discard_canonical (e : x.discard = some t) (h : x.s.Canonical) : t.Canonical :=
  findSome_keeps e fun i hi => by grind [Fx.stallAt_canonical, State.setChan_canonical]

theorem Fx.takeBeat_canonical {i} {z} (e : x.takeBeat i = some z) (h : x.s.Canonical) : HeldIn z := by
  unfold Fx.takeBeat at e
  extract_lets at e
  split at e
  · cases e
  split at e
  · split at e
    · obtain ⟨_, hf, rfl⟩ := Option.map_eq_some_iff.1 e
      exact Fx.keep_canonical (Fx.drop_canonical (Fx.gateIn_canonical hf h) ..) ..
    split at e
    · cases e
      exact h
    · cases e
  split at e
  · split at e
    · cases e
      exact h
    obtain ⟨_, hf, rfl⟩ := Option.map_eq_some_iff.1 e
    exact Fx.drop_canonical (Fx.gateIn_canonical hf h) ..
  cases e
  exact h

theorem held_done {z : State ⊕ Fx} (h : HeldIn z) : (z.elim id Fx.done).Canonical := by
  cases z with
  | inl s => exact h
  | inr x => exact Fx.done_canonical h

theorem Fx.takeValue_canonical {i} (e : x.takeValue i = some t) (h : x.s.Canonical) : t.Canonical := by
  obtain ⟨z, hz, rfl⟩ := Option.map_eq_some_iff.1 e
  exact held_done (Fx.takeBeat_canonical hz h)

theorem Fx.takeEach_canonical {ins z} (e : x.takeEach ins = some z) (h : x.s.Canonical) : HeldIn z := by
  induction ins generalizing x with
  | nil => cases e; exact h
  | cons i r ih =>
    unfold Fx.takeEach at e
    split at e
    next hy => exact ih e (Fx.takeBeat_canonical hy h)
    · exact Fx.takeBeat_canonical e h

theorem Fx.badBeat_canonical {ins} (e : x.badBeat ins = some t) (h : x.s.Canonical) : t.Canonical :=
  findSome_keeps e fun i hi => by
    obtain ⟨z, hz, hi⟩ := Option.bind_eq_some_iff.1 hi
    have := Fx.takeBeat_canonical hz h
    grind [HeldIn]

theorem Fx.readIn_canonical {ins z} (e : x.readIn ins = some z) (h : x.s.Canonical) : HeldIn z := by
  unfold Fx.readIn at e
  extract_lets un at e
  split at e
  · cases e
  split at e
  next hb =>
    cases e
    exact Fx.badBeat_canonical hb h
  · exact Fx.takeEach_canonical e h

theorem Fx.takeOne_canonical {ins} (e : x.takeOne ins = some t) (h : x.s.Canonical) : t.Canonical := by
  obtain ⟨z, hz, rfl⟩ := Option.map_eq_some_iff.1 e
  exact held_done (Fx.readIn_canonical hz h)

theorem Fx.release_canonical (h : x.s.Canonical) (i) : (x.release i).s.Canonical := by
  unfold Fx.release
  dsimp only
  split
  · exact Fx.killIn_canonical h ..
  · exact h

theorem Fx.finish_canonical (h : x.s.Canonical) (ins) : (x.finish ins).s.Canonical :=
  foldl_keeps (P := Fx.Canonical) h (fun x i h => by grind [Fx.killIn_canonical]) ins

theorem Fx.close_canonical (h : x.s.Canonical) (outs) : (x.close outs).s.Canonical :=
  foldl_keeps (P := Fx.Canonical) h (fun _ _ => (Fx.endOut_canonical · _)) outs

theorem Fx.stallMark_canonical (h : x.s.Canonical) (i) : (x.stallMark i).Canonical := h

theorem Fx.ifMarks_canonical {ins go} (e : x.ifMarks ins go = some t) (h : x.s.Canonical) (hg : go = some t → t.Canonical) : t.Canonical := by
  grind [Fx.ifMarks, Fx.stallMark_canonical]

theorem Fx.pastMarks_canonical (h : x.s.Canonical) (ins outs) : (x.pastMarks ins outs).s.Canonical :=
  foldl_keeps (P := Fx.Canonical) h (fun _ i h => Fx.keep_canonical (Fx.drop_canonical h i) i) ins

theorem Fx.passMark_canonical {ins outs} (e : x.passMark ins outs = some t) (h : x.s.Canonical) : t.Canonical :=
  Fx.ifMarks_canonical e h fun e => Fx.fired_canonical e (Fx.pastMarks_canonical h ins outs)

theorem Fx.markers_canonical {outs} (e : x.markers outs = some t) (h : x.s.Canonical) : t.Canonical := by
  unfold Fx.markers at e
  extract_lets at e
  split at e
  · cases e
  split at e
  · exact Fx.passMark_canonical e h
  split at e
  · split at e
    · cases e
      exact h
    · cases e
  · cases e

theorem Fx.control_canonical (e : x.control = some t) (h : x.s.Canonical) : t.Canonical := by
  unfold Fx.control at e
  extract_lets fwd at e
  have hf : ∀ y : Fx, y.s.Canonical → (fwd y).s.Canonical := fun y hy => by grind [Fx.queue_canonical]
  clear_value fwd
  split at e
  · cases e
  split at e
  · split at e
    · exact Fx.fired_canonical e (hf _ h)
    · cases e
  refine findSome_keeps e fun i hi => ?_
  split at hi
  · cases hi
  split at hi
  · cases hi
  split at hi
  · cases hi
    exact Fx.stallAt_canonical h ..
  split at hi
  · cases hi
    exact Fx.stallAt_canonical h ..
  split at hi
  · exact Fx.fired_canonical hi (hf _ (Fx.drop_canonical h i))
  · cases hi

theorem Fx.fillTile_canonical (e : x.fillTile = some t) (h : x.s.Canonical) : t.Canonical := by
  unfold Fx.fillTile at e
  extract_lets at e
  split at e
  · split at e
    · cases e
    cases e
    exact Fx.done_canonical (Fx.done_canonical (Fx.drop_canonical h ..) ..) ..
  · cases e

theorem State.advanceRound_canonical (h : s.Canonical) (ctx rounds) : (s.advanceRound ctx rounds).Canonical := by
  unfold State.advanceRound
  dsimp only
  split
  · exact h
  split
  · exact h
  · exact h

theorem State.syncRound_canonical (h : s.Canonical) (ctx) : (s.syncRound ctx).Canonical := State.advanceRound_canonical h ..

theorem State.markLeft_canonical {s' : State} (_ : s.Canonical) (h' : s'.Canonical) (ctx) : (s.markLeft s' ctx).Canonical :=
  State.advanceRound_canonical h' ..

theorem State.syncRounds_canonical (h : s.Canonical) : s.syncRounds.Canonical :=
  foldl_keeps (P := State.Canonical) h (by exact fun _ _ => (State.syncRound_canonical · _)) _

theorem Fx.fire_canonical {outs stateful} {body : Fx → Option State} (e : x.fire outs stateful body = some t) (h : x.s.Canonical)
    (hb : ∀ t, body x = some t → t.Canonical) : t.Canonical := by
  unfold Fx.fire at e
  split at e
  · cases e
  refine or_keeps e (Fx.discard_canonical · h) fun e => ?_
  obtain ⟨u, hu, rfl⟩ := Option.map_eq_some_iff.1 e
  refine State.markLeft_canonical h ?_ _
  split at hu
  · exact Fx.emit_canonical hu h
  refine or_keeps hu (Fx.fillTile_canonical · h) fun hu => or_keeps hu (Fx.control_canonical · h) fun hu =>
    or_keeps hu (fun hu => ?_) (hb u)
  split at hu
  · cases hu
  · exact Fx.markers_canonical hu h

theorem State.fxAt_canonical {f site sw p} (e : s.fxAt f site sw p = some y) (h : s.Canonical) : y.s.Canonical := by
  unfold State.fxAt at e
  split at e
  · obtain ⟨_, -, rfl⟩ := Option.map_eq_some_iff.1 e
    exact h
  · cases e

theorem stepOf_canonical {r} (e : stepOf s r = .next t) (h : s.Canonical) (hr : ∀ u, r = some u → u.Canonical) : t.Canonical := by
  unfold stepOf at e
  split at e
  · cases e
    exact State.syncRounds_canonical (hr _ rfl)
  · cases e
    exact h

theorem execKill_canonical {fld chan} (e : execKill fld chan s = .next t) (h : s.Canonical) : t.Canonical := by
  unfold execKill at e
  split at e
  · cases e
    split
    · exact h
    · exact h
  cases e
  exact h

theorem Fx.sendValue_canonical {outs rs round after r} (e : x.sendValue outs rs round after = some r) (et : r = some t)
    (h : x.s.Canonical) (ha : ∀ y : Fx, y.s.Canonical → (after y).s.Canonical) : t.Canonical := by
  unfold Fx.sendValue at e
  extract_lets outs' send at e
  have hsend : ∀ b g r t, send b g = some r → r = some t → (∀ y : Fx, y.s.Canonical → (g y).s.Canonical) → t.Canonical := by
    intro b g r t hr ht hg
    simp only [send] at hr
    split at hr
    · cases hr
      obtain ⟨y, hy, rfl⟩ := Option.map_eq_some_iff.1 ht
      have hy := optFoldl_keeps (P := Fx.Canonical) hy (by rintro _ ⟨⟩; exact h) fun _ _ _ => Fx.gateOut_canonical
      exact Fx.done_canonical (hg _ (foldl_keeps (P := Fx.Canonical) hy (fun _ _ => (Fx.push_canonical · _ b)) _))
    · cases hr
      cases ht
  clear_value send
  split at e
  · split at e
    · cases e
    · cases e
      cases et
      exact Fx.stallAt_canonical h ..
    · exact hsend _ _ _ _ e et fun _ hy => hy
  · split at e
    · cases e
    · refine hsend _ _ _ _ e et fun y hy => ?_
      split
      · exact ha _ (Fx.close_canonical hy outs)
      · exact hy

end Sys2Proof.Machine
end

section
/-!
### The canonical form of memory is kept: Machine/Elements
-/
namespace Sys2Proof.Machine
variable {s t u : State} {x y : Fx} {w : EW} {α β : Type}

theorem Fx.streamTo_canonical {needs ins outs res} (e : x.streamTo needs ins outs res = some t) (h : x.s.Canonical) : t.Canonical := by
  unfold Fx.streamTo at e
  split at e
  · cases e
    exact Fx.done_canonical (Fx.finish_canonical (Fx.close_canonical h outs) ins)
  extract_lets sent at e
  have hsent : ∀ {r}, sent = some r → r = some t → t.Canonical := by
    intro r hr et
    simp only [sent] at hr
    split at hr
    · exact Fx.sendValue_canonical hr et h fun y hy => Fx.finish_canonical hy ins
    · cases hr
  clear_value sent
  cases sent with
  | some r => exact hsent rfl e
  | none =>
    obtain ⟨z, hz, rfl⟩ := Option.map_eq_some_iff.1 e
    have hz := Fx.readIn_canonical hz h
    split
    · exact hz
    next y =>
      refine Fx.done_canonical ?_
      split
      · exact foldl_keeps (P := Fx.Canonical) hz (fun _ _ => (Fx.release_canonical · _)) _
      · exact hz

theorem Fx.stream_canonical {ins outs res} (e : x.stream ins outs res = some t) (h : x.s.Canonical) : t.Canonical :=
  Fx.streamTo_canonical e h

theorem State.computeAt_canonical {f site op} (e : s.computeAt f site op = some y) (h : s.Canonical) : y.s.Canonical :=
  State.fxAt_canonical e h

/-- An element that is found fires. -/
theorem fireBind_canonical {o : Option Fx} {outs : List Nat} {st : Bool} {body : Fx → Fx → Option State}
    (e : o.bind (fun x => x.fire outs st (body x)) = some t) (ho : ∀ x, o = some x → x.s.Canonical)
    (hb : ∀ y x t, body y x = some t → x.s.Canonical → t.Canonical) : t.Canonical := by
  obtain ⟨x, hx, e⟩ := Option.bind_eq_some_iff.1 e
  exact Fx.fire_canonical e (ho x hx) fun t ht => hb x x t ht (ho x hx)

theorem fireLane1_canonical {f site op g} (e : fireLane1 f site op g s = some t) (h : s.Canonical) : t.Canonical :=
  fireBind_canonical e (fun _ => (State.computeAt_canonical · h)) fun _ _ _ => Fx.streamTo_canonical

theorem fireLane2_canonical {f site op g} (e : fireLane2 f site op g s = some t) (h : s.Canonical) : t.Canonical :=
  fireBind_canonical e (fun _ => (State.computeAt_canonical · h)) fun _ _ _ => Fx.streamTo_canonical

theorem fireMax_canonical {f site op mn} (e : fireMax f site op mn s = some t) (h : s.Canonical) : t.Canonical :=
  fireBind_canonical e (fun _ => (State.computeAt_canonical · h)) fun _ _ _ => Fx.streamTo_canonical

theorem fireOfan_canonical {f site} (e : fireOfan f site s = some t) (h : s.Canonical) : t.Canonical :=
  fireBind_canonical e (fun _ => (State.computeAt_canonical · h)) fun _ _ _ => Fx.streamTo_canonical

theorem Fx.decide_canonical {ins words} (e : x.decide ins words = some t) (h : x.s.Canonical) : t.Canonical := by
  unfold Fx.decide at e
  split at e
  · cases e
  next hr =>
    cases e
    exact Fx.readIn_canonical hr h
  next y hr =>
    have hy := Fx.readIn_canonical hr h
    split at e
    · cases e
      exact Fx.done_canonical hy
    · exact Fx.fired_canonical e (Fx.finish_canonical hy ins)

theorem fireOcmp_canonical {f site} (e : fireOcmp f site s = some t) (h : s.Canonical) : t.Canonical :=
  fireBind_canonical e (fun _ => (State.computeAt_canonical · h)) fun _ _ _ => Fx.decide_canonical

theorem fireOsgn_canonical {f site} (e : fireOsgn f site s = some t) (h : s.Canonical) : t.Canonical :=
  fireBind_canonical e (fun _ => (State.computeAt_canonical · h)) fun _ _ _ => Fx.decide_canonical

theorem fireThresh_canonical {f site} (e : fireThresh f site s = some t) (h : s.Canonical) : t.Canonical :=
  fireBind_canonical e (fun _ => (State.computeAt_canonical · h)) fun _ _ _ => Fx.decide_canonical

theorem fireSettle_canonical {f site} (e : fireSettle f site s = some t) (h : s.Canonical) : t.Canonical :=
  fireBind_canonical e (fun _ => (State.computeAt_canonical · h)) fun _ _ _ => Fx.decide_canonical

theorem Fx.takeWord_canonical {i} (e : x.takeWord i = some t) (h : x.s.Canonical) : t.Canonical := by
  unfold Fx.takeWord at e
  split at e
  · split at e
    · cases e
    obtain ⟨_, hf, rfl⟩ := Option.map_eq_some_iff.1 e
    exact Fx.done_canonical (Fx.drop_canonical (Fx.gateIn_canonical hf h) ..) ..
  · cases e

theorem fireOsel_canonical {f site} (e : fireOsel f site s = some t) (h : s.Canonical) : t.Canonical := by
  refine fireBind_canonical e (fun _ => (State.computeAt_canonical · h)) fun _ x t e hx => ?_
  split at e
  · split at e
    · split at e
      · cases e
        exact Fx.stallAt_canonical hx ..
      · exact Fx.takeWord_canonical e hx
    · cases e
  next w _ _ =>
    extract_lets rest loser E lane ins sent at e
    have hrest : ∀ y : Fx, y.s.Canonical → (rest y).s.Canonical := fun y hy => Fx.finish_canonical hy [1, 2]
    split at e
    · split at e
      · cases e
        exact Fx.done_canonical (hrest _ hx)
      · exact Fx.takeOne_canonical e hx
    split at e
    · obtain ⟨u, hu, rfl⟩ := Option.map_eq_some_iff.1 e
      have hu := Fx.takeValue_canonical hu hx
      split
      · split
        · exact hu
        next hy _ => exact State.setElem_canonical (Fx.killIn_canonical (State.fxAt_canonical hy hu) _ _) _ _ _
      · exact hu
    split at e
    · cases e
      exact Fx.done_canonical (hrest _ (Fx.close_canonical hx _))
    have hsent : ∀ {r}, sent = some r → r = some t → t.Canonical := by
      intro r hr et
      simp only [sent] at hr
      split at hr
      · refine Fx.sendValue_canonical hr et hx fun y hy => ?_
        split
        · exact hrest y hy
        · exact hy
      · cases hr
    clear_value sent
    cases sent with
    | some r => exact hsent rfl e
    | none => exact Fx.takeOne_canonical e hx

theorem Fx.sendWords_canonical {ls} (e : x.sendWords ls = some t) (h : x.s.Canonical) : t.Canonical := by
  unfold Fx.sendWords at e
  extract_lets rest at e
  split at e
  · cases e
    exact Fx.done_canonical (Fx.close_canonical h [0])
  split at e
  next hr => exact Fx.sendValue_canonical hr e h fun _ hy => hy
  · cases e

theorem fireOconst_canonical {f site} (e : fireOconst f site s = some t) (h : s.Canonical) : t.Canonical := by
  refine fireBind_canonical e (fun _ => (State.computeAt_canonical · h)) fun _ x t e hx => ?_
  split at e
  · exact Fx.takeWord_canonical e hx
  · exact Fx.sendWords_canonical e hx

theorem fireSplit_canonical {f site} (e : fireSplit f site s = some t) (h : s.Canonical) : t.Canonical := by
  refine fireBind_canonical e (fun _ => (State.computeAt_canonical · h)) fun _ x t e hx => ?_
  split at e
  · split at e
    · split at e
      · cases e
        exact Fx.stallAt_canonical hx ..
      · exact Fx.takeWord_canonical e hx
    · cases e
  · exact Fx.sendWords_canonical e hx

theorem Fx.gather_canonical {ins} (e : x.gather ins = some t) (h : x.s.Canonical) : t.Canonical := by
  unfold Fx.gather at e
  split at e
  · cases e
    exact Fx.done_canonical h
  · refine findSome_keeps e fun i hi => ?_
    split at hi
    · cases hi
    · exact Fx.takeValue_canonical hi h

theorem Fx.round_canonical {rs} (e : x.round rs = some t) (h : x.s.Canonical) : t.Canonical := by
  unfold Fx.round at e
  extract_lets ins rest at e
  split at e
  · exact Fx.passMark_canonical e h
  split at e
  · cases e
    exact Fx.done_canonical (Fx.close_canonical h [0])
  split at e
  · split at e
    · cases e
      exact Fx.stallMark_canonical h _
    · split at e
      next hr => exact Fx.sendValue_canonical hr e h fun _ hy => hy
      · cases e
    · cases e
  · exact Fx.gather_canonical e h

theorem fireRacc_canonical {f site} (e : fireRacc f site s = some t) (h : s.Canonical) : t.Canonical :=
  fireBind_canonical e (fun _ => (State.computeAt_canonical · h)) fun _ _ _ => Fx.round_canonical

theorem fireRsum_canonical {f site} (e : fireRsum f site s = some t) (h : s.Canonical) : t.Canonical :=
  fireBind_canonical e (fun _ => (State.computeAt_canonical · h)) fun _ _ _ => Fx.round_canonical

theorem fireRmax_canonical {f site} (e : fireRmax f site s = some t) (h : s.Canonical) : t.Canonical :=
  fireBind_canonical e (fun _ => (State.computeAt_canonical · h)) fun _ _ _ => Fx.round_canonical

theorem fireConf_canonical {f site} (e : fireConf f site s = some t) (h : s.Canonical) : t.Canonical := by
  refine fireBind_canonical e (fun _ => (State.computeAt_canonical · h)) fun _ x t e hx => ?_
  extract_lets n at e
  split at e
  · refine Fx.ifMarks_canonical e hx fun e => ?_
    split at e
    split at e
    next w y hy =>
      have hy : y.s.Canonical := by grind [State.freeVal_canonical]
      exact Fx.passMark_canonical e hy
  split at e
  · cases e
    exact Fx.done_canonical (Fx.finish_canonical hx [0])
  · exact Fx.gather_canonical e hx

theorem fireTileSwap_canonical {f site} (e : fireTileSwap f site s = some t) (h : s.Canonical) : t.Canonical := by
  obtain ⟨x, hx, e⟩ := Option.bind_eq_some_iff.1 e
  split at e
  · cases e
  · exact Fx.control_canonical e (State.fxAt_canonical hx h)

theorem fireCompute_canonical {f site op} (e : fireCompute f site op s = some t) (h : s.Canonical) : t.Canonical := by
  unfold fireCompute at e
  split at e
  case h_1 | h_2 | h_3 | h_4 => exact fireLane2_canonical e h
  case h_5 | h_6 | h_7 | h_8 | h_9 | h_10 => exact fireLane1_canonical e h
  case h_11 | h_12 => exact fireMax_canonical e h
  · exact fireOcmp_canonical e h
  · exact fireOsgn_canonical e h
  · exact fireOsel_canonical e h
  · exact fireOconst_canonical e h
  · exact fireSplit_canonical e h
  · exact fireSettle_canonical e h
  · exact fireRacc_canonical e h
  · exact fireRsum_canonical e h
  · exact fireRmax_canonical e h
  · exact fireThresh_canonical e h
  · exact fireConf_canonical e h
  · exact fireOfan_canonical e h
  · cases e

end Sys2Proof.Machine
end

section
/-!
### The canonical form of memory is kept: Machine/MemElems
-/
namespace Sys2Proof.Machine
variable {s t u : State} {x y : Fx} {w : EW} {α β : Type}

theorem Fx.stallTrap_canonical (h : x.s.Canonical) (k inp) : (x.stallTrap k inp).Canonical := h

theorem State.performBytes_canonical (h : s.Canonical) (a l v) : (s.performBytes a l v).1.Canonical := by
  induction l generalizing s v with
  | nil => exact h
  | cons k r ih => grind [State.performBytes, State.perform_canonical]

theorem State.performEl_canonical (h : s.Canonical) (a) : (s.performEl a).1.Canonical := by
  unfold State.performEl
  split
  · exact State.perform_canonical h ..
  · exact State.performBytes_canonical h ..

theorem Fx.save_canonical (h : x.s.Canonical) : x.save.Canonical := h

theorem Fx.access_canonical (h : x.s.Canonical) (off n op) : (x.access off n op).Canonical := by
  unfold Fx.access
  extract_lets c w o o' sc ctx gen _ issued wait a
  split
  · exact Fx.stallTrap_canonical h ..
  split
  · exact Fx.stallTrap_canonical h ..
  have hwait : wait.Canonical := by
    simp only [wait]
    split
    · exact Fx.save_canonical (x := issued) h
    · trivial
  clear_value wait
  split
  · exact hwait
  split
  · exact Fx.stallTrap_canonical (State.setHits_canonical h _ _) _ _
  split
  · trivial
  have hp := State.performEl_canonical h a
  split
  next heq => exact fst_canonical heq hp
  next heq =>
    replace hp := fst_canonical heq hp
    split
    · trivial
    · exact State.holdAccOnce_canonical (Fx.save_canonical hp) ..
  · exact hwait
  · exact Fx.stallTrap_canonical (State.keepPoison_canonical h _ _) _ _

theorem Fx.publish_canonical {z} (e : x.publish = some z) (h : x.s.Canonical) : HeldIn z := by
  have hw := State.writeBacks_canonical h
  grind [Fx.publish, HeldIn, Fx.stallTrap_canonical, State.setSlot_canonical, State.holdOnce_canonical]

theorem State.memAt_canonical {f site op} (e : s.memAt f site op = some y) (h : s.Canonical) : y.s.Canonical :=
  State.fxAt_canonical e h

theorem Fx.setWords_canonical (h : x.s.Canonical) (l) : (x.setWords l).s.Canonical := h

/-- What a run of reads leaves, or the element as it goes on. -/
def ReadsKeep (r : Option State ⊕ Fx × List Nat) : Prop :=
  match r with
  | .inl o => ∀ t, o = some t → t.Canonical
  | .inr p => p.1.s.Canonical

theorem Fx.access_state {off n op} (e : x.access off n op = .state t) (h : x.s.Canonical) : t.Canonical := by
  have ha := Fx.access_canonical h off n op
  rwa [e] at ha

theorem Fx.access_val {off n op v} (e : x.access off n op = .val y v) (h : x.s.Canonical) : y.s.Canonical := by
  have ha := Fx.access_canonical h off n op
  rwa [e] at ha

theorem Fx.readsFrom_canonical (h : x.s.Canonical) (moved l) : ReadsKeep (x.readsFrom moved l) := by
  induction l generalizing x moved with
  | nil => exact h
  | cons p r ih =>
    unfold Fx.readsFrom
    split
    next heq =>
      have hy := Fx.access_val heq h
      exact ih (by exact hy) _
    next heq =>
      rintro t ⟨⟩
      exact Fx.access_state heq h
    · intro t e
      split at e
      · cases e
        exact Fx.save_canonical h
      · cases e

theorem Fx.reads_canonical (h : x.s.Canonical) (l) : ReadsKeep (x.reads l) := Fx.readsFrom_canonical h _ _

theorem Fx.reads_stop {l o} (e : x.reads l = .inl o) (h : x.s.Canonical) (et : o = some t) : t.Canonical := by
  have hr := Fx.reads_canonical h l
  rw [e] at hr
  exact hr t et

theorem Fx.wordAt_canonical {i} (e : x.wordAt i = some (.inl t)) (h : x.s.Canonical) : t.Canonical := by
  grind [Fx.wordAt, Fx.stallAt_canonical]

theorem Fx.reads_done {l p} (e : x.reads l = .inr p) (h : x.s.Canonical) : p.1.s.Canonical := by
  have hr := Fx.reads_canonical h l
  rwa [e] at hr

theorem fireMld_canonical {f site} (e : fireMld f site s = some t) (h : s.Canonical) : t.Canonical := by
  refine fireBind_canonical e (fun _ => (State.memAt_canonical · h)) fun _ x t e hx => ?_
  split at e
  · exact Fx.sendWords_canonical e hx
  split at e
  · cases e
  next hw =>
    cases e
    exact Fx.wordAt_canonical hw hx
  next w _ =>
    extract_lets mode o rs go at e
    have hgo : ∀ (y : Fx) vs, go y vs = some t → y.s.Canonical → t.Canonical := by
      intro y vs e hy
      obtain ⟨z, hz, e⟩ := Option.bind_eq_some_iff.1 e
      have hz := Fx.drop_canonical (Fx.gateIn_canonical hz hy) 0
      extract_lets z' at e
      split at e
      · cases e
        exact Fx.done_canonical hz
      · exact Fx.fired_canonical e hz
    clear_value go
    split at e
    · cases e
    split at e
    next heq => exact Fx.reads_stop heq hx e
    next heq => exact hgo _ _ e (Fx.reads_done heq hx)

theorem Fx.storeMark_canonical (e : x.storeMark = some t) (h : x.s.Canonical) : t.Canonical := by
  unfold Fx.storeMark at e
  extract_lets ins at e
  split at e
  · split at e
    · cases e
    next hp =>
      cases e
      exact Fx.publish_canonical hp h
    next hp => exact Fx.passMark_canonical e (Fx.publish_canonical hp h)
  · exact Fx.markers_canonical e h

theorem fireMst_canonical {f site} (e : fireMst f site s = some t) (h : s.Canonical) : t.Canonical := by
  refine fireBind_canonical e (fun _ => (State.memAt_canonical · h)) fun _ x t e hx => ?_
  refine or_keeps e (Fx.storeMark_canonical · hx) fun e => ?_
  extract_lets need at e
  split at e
  next hw =>
    cases e
    exact Fx.wordAt_canonical hw hx
  · split at e
    · cases e
      exact Fx.stallAt_canonical hx ..
    · cases e
  split at e
  · exact Fx.takeWord_canonical e hx
  split at e
  · split at e
    · cases e
      exact Fx.stallAt_canonical hx ..
    · cases e
  next hw =>
    cases e
    exact Fx.wordAt_canonical hw hx
  · extract_lets ws v at e
    split at e
    · cases e
    split at e
    · cases e
    next heq =>
      cases e
      exact Fx.access_state heq hx
    next y _ heq =>
      obtain ⟨z, hz, rfl⟩ := Option.map_eq_some_iff.1 e
      obtain ⟨z', hz', hz⟩ := Option.bind_eq_some_iff.1 hz
      have hz := Fx.gateIn_canonical hz (Fx.gateIn_canonical hz' (Fx.access_val heq hx))
      exact Fx.done_canonical (Fx.drop_canonical (Fx.drop_canonical hz 0) 1)

theorem fireMlink_canonical {f site} (e : fireMlink f site s = some t) (h : s.Canonical) : t.Canonical := by
  refine fireBind_canonical e (fun _ => (State.memAt_canonical · h)) fun _ x t e hx => ?_
  split at e
  · extract_lets lim at' rs at e
    split at e
    · exact Fx.fired_canonical e hx
    split at e
    · cases e
    split at e
    next heq => exact Fx.reads_stop heq hx e
    next heq => exact Fx.fired_canonical e (Fx.reads_done heq hx)
  · split at e
    next hw =>
      cases e
      exact Fx.wordAt_canonical hw hx
    · obtain ⟨z, hz, rfl⟩ := Option.map_eq_some_iff.1 e
      exact Fx.done_canonical (Fx.drop_canonical (Fx.gateIn_canonical hz hx) 0)
    · cases e

theorem fireMring_canonical {f site} (e : fireMring f site s = some t) (h : s.Canonical) : t.Canonical := by
  obtain ⟨x, hx, e⟩ := Option.bind_eq_some_iff.1 e
  replace hx := State.memAt_canonical hx h
  refine Fx.fire_canonical e hx fun t e => ?_
  refine or_keeps e (fun e => ?_) fun e => ?_
  · split at e
    · exact Fx.storeMark_canonical e hx
    · cases e
  extract_lets size at e
  split at e
  · extract_lets off at e
    split at e
    · cases e
      exact Fx.done_canonical hx
    split at e
    · split at e
      next hw =>
        cases e
        exact Fx.wordAt_canonical hw hx
      · split at e
        · cases e
          exact Fx.stallAt_canonical hx ..
        · cases e
      · split at e
        · cases e
        split at e
        · cases e
        next heq =>
          cases e
          exact Fx.access_state heq hx
        next heq =>
          obtain ⟨z, hz, rfl⟩ := Option.map_eq_some_iff.1 e
          exact Fx.done_canonical (Fx.drop_canonical (Fx.gateIn_canonical hz (Fx.access_val heq hx)) 1)
    · split at e
      · cases e
      split at e
      · cases e
      next heq =>
        cases e
        exact Fx.access_state heq hx
      next heq => exact Fx.fired_canonical e (Fx.access_val heq hx :)
  · split at e
    next hw =>
      cases e
      exact Fx.wordAt_canonical hw hx
    · obtain ⟨z, hz, rfl⟩ := Option.map_eq_some_iff.1 e
      exact Fx.done_canonical (Fx.drop_canonical (Fx.gateIn_canonical hz hx) 0)
    · cases e

theorem Fx.closeRound_canonical (h : x.s.Canonical) : x.closeRound.s.Canonical := by
  unfold Fx.closeRound
  dsimp only
  split
  · exact h
  · exact h

theorem Fx.token_canonical (h : x.s.Canonical) : x.token.s.Canonical := h

theorem State.agAt_canonical {f site op} (e : s.agAt f site op = some y) (h : s.Canonical) : y.s.Canonical :=
  State.fxAt_canonical e h

theorem Fx.endRounds_canonical (h : x.s.Canonical) (nr) : (x.endRounds nr).s.Canonical := by
  unfold Fx.endRounds
  dsimp only
  split
  · exact h
  · exact h

theorem fireAgaff_canonical {f site} (e : fireAgaff f site s = some t) (h : s.Canonical) : t.Canonical := by
  refine fireBind_canonical e (fun _ => (State.agAt_canonical · h)) fun _ x t e hx => ?_
  split at e
  · cases e
  split at e
  · exact Fx.fired_canonical e (Fx.endRounds_canonical (Fx.closeRound_canonical hx) _)
  split at e
  · cases e
  · exact Fx.fired_canonical e hx

theorem fireAgmod_canonical {f site} (e : fireAgmod f site s = some t) (h : s.Canonical) : t.Canonical := by
  refine fireBind_canonical e (fun _ => (State.agAt_canonical · h)) fun _ x t e hx => ?_
  split at e
  · cases e
  split at e
  · exact Fx.fired_canonical e (Fx.endRounds_canonical (Fx.closeRound_canonical hx) _)
  split at e
  · cases e
  · exact Fx.fired_canonical e hx

theorem fireAgidx_canonical {f site} (e : fireAgidx f site s = some t) (h : s.Canonical) : t.Canonical := by
  refine fireBind_canonical e (fun _ => (State.agAt_canonical · h)) fun _ x t e hx => ?_
  split at e
  · cases e
  next hw =>
    cases e
    exact Fx.wordAt_canonical hw hx
  · obtain ⟨y, hy, e⟩ := Option.bind_eq_some_iff.1 e
    exact Fx.fired_canonical e (Fx.drop_canonical (Fx.gateIn_canonical hy hx) 0)

theorem State.updPortBind_canonical (h : s.Canonical) (f slot q g) : (s.updPortBind f slot q g).Canonical :=
  State.updStrand_canonical h ..

theorem Fx.queueIn_canonical (e : x.queueIn = some t) (h : x.s.Canonical) : t.Canonical := by
  unfold Fx.queueIn at e
  split at e
  · exact Fx.fired_canonical e (Fx.closeRound_canonical h ..)
  split at e
  · cases e
  split at e
  · cases e
  split at e
  · cases e
  · exact Fx.fired_canonical e (State.updPortBind_canonical h ..)

theorem Fx.queueOut_canonical (e : x.queueOut = some t) (h : x.s.Canonical) : t.Canonical := by
  unfold Fx.queueOut at e
  split at e
  · cases e
  split at e
  · cases e
  next hw =>
    cases e
    exact Fx.wordAt_canonical hw h
  obtain ⟨y, hy, e⟩ := Option.bind_eq_some_iff.1 e
  replace hy := Fx.gateIn_canonical hy h
  split at e
  · cases e
    exact Fx.done_canonical (Fx.drop_canonical (State.updStrand_canonical hy _ _ _) 0)
  split at e
  · cases e
    exact Fx.done_canonical (Fx.drop_canonical (by exact hy) 0)
  split at e
  · cases e
  · cases e
    exact Fx.done_canonical (Fx.drop_canonical (State.updPortBind_canonical hy _ _ _ _) 0)

theorem Fx.exitPort_canonical (e : x.exitPort = some t) (h : x.s.Canonical) : t.Canonical := by
  unfold Fx.exitPort at e
  extract_lets at e
  split at e
  · cases e
  split at e
  · cases e
  extract_lets at e
  split at e
  · cases e
    exact h
  cases e
  exact Fx.done_canonical (Fx.done_canonical (Fx.drop_canonical (by exact h) ..) ..) ..

theorem Fx.closeRound_fired (e : x.closeRound.fired = some t) (h : x.s.Canonical) : t.Canonical :=
  Fx.fired_canonical e (Fx.closeRound_canonical h)

theorem fireSqp_canonical {f site} (e : fireSqp f site s = some t) (h : s.Canonical) : t.Canonical := by
  obtain ⟨x, hx, e⟩ := Option.bind_eq_some_iff.1 e
  replace hx := State.fxAt_canonical hx h
  split at e
  · exact Fx.fire_canonical e hx fun _ => (Fx.queueIn_canonical · hx)
  · exact Fx.fire_canonical e hx fun _ => (Fx.queueOut_canonical · hx)
  · refine Fx.fire_canonical e hx fun _ e => ?_
    split at e
    · exact Fx.closeRound_fired e hx
    · cases e
  · exact Fx.fire_canonical e hx fun _ => (Fx.exitPort_canonical · hx)

theorem fireExit_canonical {f row} (e : fireExit f row s = some t) (h : s.Canonical) : t.Canonical := by
  grind [fireExit, Option.bind_eq_some_iff, State.fxAt_canonical, State.updStrand_canonical, State.setElem_canonical]

end Sys2Proof.Machine
end

section
/-!
### The canonical form of memory is kept: Machine/Switch
-/
namespace Sys2Proof.Machine
variable {s t u : State} {x y : Fx} {w : EW} {α β : Type}

theorem State.switchAt_canonical {f site op} (e : s.switchAt f site op = some y) (h : s.Canonical) : y.s.Canonical :=
  State.fxAt_canonical e h

theorem Fx.forward_canonical (h : x.s.Canonical) (i b outs) : (x.forward i b outs).s.Canonical :=
  Fx.queue_canonical (Fx.drop_canonical h ..) ..

theorem State.countOut_canonical (h : s.Canonical) (sl steer j) : (s.countOut sl steer j).Canonical :=
  foldl_keeps (P := State.Canonical) h (by exact fun _ _ h => h) _

theorem fireSteer_canonical {f site} (e : fireSteer f site s = some t) (h : s.Canonical) : t.Canonical := by
  obtain ⟨x, hx, e⟩ := Option.bind_eq_some_iff.1 e
  replace hx := State.switchAt_canonical hx h
  refine Fx.fire_canonical e hx fun t e => ?_
  split at e
  · cases e
  · split at e
    · exact Fx.fired_canonical e (Fx.drop_canonical hx 0)
    split at e
    · cases e
    split at e
    · cases e
      exact Fx.stallAt_canonical hx ..
    split at e
    · cases e
      exact Fx.stallAt_canonical hx ..
    extract_lets pipe at e
    split at e
    · cases e
      exact Fx.stallAt_canonical hx ..
    · obtain ⟨u, hu, rfl⟩ := Option.map_eq_some_iff.1 e
      exact State.countOut_canonical (Fx.fired_canonical hu (Fx.drop_canonical hx 0)) _ _ _

theorem Fx.badToken_canonical {i b} (e : x.badToken i b = some t) (h : x.s.Canonical) : t.Canonical := by
  unfold Fx.badToken at e
  extract_lets at e
  split at e
  · split at e
    · cases e
      exact h
    · cases e
  split at e
  · split at e
    · cases e
      exact h
    split at e
    · cases e
      exact h
    · cases e
  split at e
  · cases e
    exact h
  split at e
  · cases e
    exact h
  · cases e

theorem Fx.tokenOn_canonical (h : x.s.Canonical) (i more) : (x.tokenOn i more).s.Canonical := h

theorem Fx.passBeat_canonical {i o} (e : x.passBeat i o = some t) (h : x.s.Canonical) : t.Canonical := by
  grind [Fx.passBeat, Fx.forward_canonical, Fx.done_canonical, Fx.endOut_canonical, Fx.killIn_canonical, Fx.keep_canonical,
    Fx.tokenOn_canonical, Fx.badToken_canonical, Fx.fired_canonical]

theorem fireMerge_canonical {f site} (e : fireMerge f site s = some t) (h : s.Canonical) : t.Canonical := by
  obtain ⟨x, hx, e⟩ := Option.bind_eq_some_iff.1 e
  replace hx := State.switchAt_canonical hx h
  split at e
  · cases e
  refine Fx.fire_canonical e hx fun t e => ?_
  grind [Fx.passBeat_canonical, Fx.passMark_canonical, Fx.stallAt_canonical]

theorem fireJoin_canonical {f site} (e : fireJoin f site s = some t) (h : s.Canonical) : t.Canonical := by
  obtain ⟨x, hx, e⟩ := Option.bind_eq_some_iff.1 e
  replace hx := State.switchAt_canonical hx h
  split at e
  · cases e
  refine Fx.fire_canonical e hx fun t e => ?_
  extract_lets ins o at e
  split at e
  · exact Fx.passBeat_canonical e hx
  split at e
  · cases e
  next i _ =>
  split at e
  · cases e
  split at e
  · exact Fx.passBeat_canonical e hx
  split at e
  · cases e
    exact Fx.stallAt_canonical hx ..
  · extract_lets y z rin at e
    have hz : z.s.Canonical := by
      have hy := Fx.keep_canonical (Fx.drop_canonical hx i) i
      simp only [z]
      split <;> exact hy
    exact Fx.fired_canonical e hz

theorem fireCarry_canonical {f site} (e : fireCarry f site s = some t) (h : s.Canonical) : t.Canonical := by
  obtain ⟨x, hx, e⟩ := Option.bind_eq_some_iff.1 e
  replace hx := State.switchAt_canonical hx h
  refine Fx.fire_canonical e hx fun t e => ?_
  extract_lets o letIn mark at e
  have hlet : ∀ i, letIn x i = some t → t.Canonical := by
    intro i e
    simp only [letIn] at e
    split at e
    · split at e
      · cases e
        exact Fx.stallAt_canonical hx ..
      split at e
      · exact Fx.passBeat_canonical e hx
      · exact Fx.passBeat_canonical e hx
    · cases e
  have hmark : ∀ i pass, mark x i pass = some t → t.Canonical := by
    intro i pass e
    simp only [mark] at e
    split at e
    · split at e
      · cases e
        exact Fx.stallAt_canonical hx ..
      · refine Fx.fired_canonical e ?_
        split <;> exact Fx.drop_canonical hx i
    · cases e
  clear_value letIn mark
  grind

theorem Fx.sendCircuit_canonical (e : x.sendCircuit = some t) (h : x.s.Canonical) : t.Canonical := by
  unfold Fx.sendCircuit at e
  split at e
  · cases e
  split at e
  · cases e
    exact Fx.done_canonical (Fx.killIn_canonical h _ _)
  split at e
  · cases e
  split at e
  · cases e
  split at e
  next hs =>
    cases e
    split at hs
    · cases hs
    · exact Fx.badToken_canonical hs h
  extract_lets vec more y z bump _ w at e
  have hz : w.s.Canonical := by
    have hy : y.s.Canonical := Fx.drop_canonical h 0
    simp only [w, z]
    split
    · exact Fx.keep_canonical hy 0
    · exact hy
  split at e
  · cases e
    exact Fx.stallAt_canonical hz ..
  · cases e
    exact State.setElem_canonical (Fx.done_canonical hz) _ _ _

theorem Fx.recvKill_canonical (e : x.recvKill = some t) (h : x.s.Canonical) : t.Canonical := by
  grind [Fx.recvKill, Fx.done_canonical, Fx.endOut_canonical, State.setElem_canonical]

theorem fireFwd_canonical {f site} (e : fireFwd f site s = some t) (h : s.Canonical) : t.Canonical := by
  obtain ⟨x, hx, e⟩ := Option.bind_eq_some_iff.1 e
  replace hx := State.switchAt_canonical hx h
  split at e
  · split at e
    · cases e
    · exact or_keeps e (Fx.recvKill_canonical · hx) (Fx.emit_canonical · hx)
  split at e
  · exact Fx.fire_canonical e hx fun _ => (Fx.sendCircuit_canonical · hx)
  · refine Fx.fire_canonical e hx fun t e => ?_
    split at e
    · exact Fx.passMark_canonical e hx
    · exact Fx.passBeat_canonical e hx

theorem Fx.vcConvert_canonical (e : x.vcConvert = some t) (h : x.s.Canonical) : t.Canonical := by
  unfold Fx.vcConvert at e
  split at e
  · cases e
  next hw =>
    cases e
    exact Fx.wordAt_canonical hw h
  · extract_lets ff at e
    split at e
    · cases e
      exact Fx.done_canonical (Fx.drop_canonical h 0)
    · exact Fx.fired_canonical e (Fx.drop_canonical h 0)

theorem Fx.removeElem_canonical (h : x.s.Canonical) (v) : (x.removeElem v).s.Canonical := by
  unfold Fx.removeElem
  dsimp only
  split
  · exact h
  · exact h

theorem Fx.vcRemove_canonical (e : x.vcRemove = some t) (h : x.s.Canonical) : t.Canonical := by
  unfold Fx.vcRemove at e
  split at e
  · extract_lets y z at e
    have hy : y.s.Canonical := by
      simp only [y]
      split <;> exact h
    have hz : z.s.Canonical := by
      simp only [z]
      split <;> exact hy
    exact Fx.ifMarks_canonical e h fun e => Fx.passMark_canonical e hz
  split at e
  · cases e
  next hw =>
    cases e
    exact Fx.wordAt_canonical hw h
  · exact Fx.fired_canonical e
      (foldl_keeps (P := Fx.Canonical) (Fx.drop_canonical h 0) (fun _ _ => (Fx.removeElem_canonical · _)) _)

theorem Fx.insertMask_canonical {w early} (e : x.insertMask w early = some t) (h : x.s.Canonical) : t.Canonical := by
  unfold Fx.insertMask at e
  extract_lets n at e
  split at e
  · exact Fx.fired_canonical e h
  split at e
  · split at e
    · cases e
    · cases e
      exact Fx.stallAt_canonical h ..
  split at e
  · cases e
  next hw =>
    cases e
    exact Fx.wordAt_canonical hw h
  · cases e
    exact Fx.done_canonical (Fx.drop_canonical h 0)

theorem Fx.vcInsert_canonical (e : x.vcInsert = some t) (h : x.s.Canonical) : t.Canonical := by
  unfold Fx.vcInsert at e
  split at e
  · split at e
    · cases e
    · split at e
      · exact Fx.insertMask_canonical e h
      · cases e
    · exact Fx.insertMask_canonical e h
  split at e
  · split at e
    · cases e
      split <;> exact Fx.stallAt_canonical h ..
    · split at e
      · cases e
        exact Fx.stallAt_canonical h ..
      split at e
      · cases e
      split at e
      · cases e
        exact Fx.stallAt_canonical h ..
      · exact Fx.passMark_canonical e h
    · cases e
      exact Fx.stallAt_canonical h ..
  split at e
  · cases e
    exact Fx.stallAt_canonical h ..
  split at e
  · cases e
    exact Fx.done_canonical (Fx.drop_canonical h 1)
  · exact Fx.insertMask_canonical e h

theorem Fx.vcTranspose_canonical (e : x.vcTranspose = some t) (h : x.s.Canonical) : t.Canonical := by
  unfold Fx.vcTranspose at e
  extract_lets out at e
  split at e
  · refine Fx.ifMarks_canonical e h fun e => Fx.passMark_canonical e ?_
    split <;> exact h
  split at e
  · cases e
  next hw =>
    cases e
    exact Fx.wordAt_canonical hw h
  · refine Fx.fired_canonical e ?_
    split <;> exact Fx.drop_canonical h 0

theorem Fx.filter_canonical (e : x.filter = some t) (h : x.s.Canonical) : t.Canonical := by
  grind [Fx.filter, Fx.vcRemove_canonical, Fx.vcTranspose_canonical, Fx.vcConvert_canonical, Fx.vcInsert_canonical,
    Fx.fire_canonical]

theorem fireVcfilt_canonical {f site} (e : fireVcfilt f site s = some t) (h : s.Canonical) : t.Canonical := by
  refine findSome_keeps e fun k hk => ?_
  obtain ⟨x, hx, e⟩ := Option.bind_eq_some_iff.1 hk
  replace hx := State.fxAt_canonical hx h
  unfold Fx.filter at e
  split at e
  · exact Fx.fire_canonical e hx fun _ => (Fx.vcConvert_canonical · hx)
  · exact Fx.fire_canonical e hx fun _ => (Fx.vcRemove_canonical · hx)
  · exact Fx.fire_canonical e hx fun _ => (Fx.vcInsert_canonical · hx)
  · exact Fx.fire_canonical e hx fun _ => (Fx.vcTranspose_canonical · hx)

end Sys2Proof.Machine
end

section
/-!
### The canonical form of memory is kept: Machine/Images
-/
namespace Sys2Proof.Machine
variable {s t u : State} {x y : Fx} {w : EW} {α β : Type}

theorem State.readAs_canonical (h : s.Canonical) (f i ctx c o n) : (s.readAs f i ctx c o n).1.Canonical := by
  unfold State.readAs
  dsimp only
  split
  · exact h
  · exact State.perform_canonical h ..

theorem State.readRun_canonical (h : s.Canonical) (f i ctx c n k o) : (s.readRun f i ctx c n k o).Canonical := by
  induction k generalizing s o with
  | zero => exact h
  | succ k ih => grind [State.readRun, State.readAs_canonical, State.holdOnce_canonical, RdRes.Canonical]

/-- What reading a frame or frames leaves. -/
def FrameKept {α : Type} (r : ImgRes ⊕ (State × α)) : Prop :=
  match r with
  | .inl r => r.Canonical
  | .inr p => p.1.Canonical

theorem State.readFrame_canonical (h : s.Canonical) (f i ctx c k) : FrameKept (s.readFrame f i ctx c k) := by
  have hr := State.readRun_canonical h f i ctx c 16 2 (c.cur + 32 * k)
  unfold State.readFrame
  extract_lets o
  split
  · exact h
  split
  next e => rwa [e] at hr
  next e => rwa [e] at hr
  · split
    · exact h
    split
    · exact h
    · trivial

theorem State.readFrames_canonical (h : s.Canonical) (f i ctx c n k) : FrameKept (s.readFrames f i ctx c n k) := by
  induction n generalizing s k with
  | zero => exact h
  | succ n ih =>
    have hr := State.readFrame_canonical h f i ctx c k
    unfold State.readFrames
    split
    next e => rwa [e] at hr
    next e =>
      rw [e] at hr
      have hs := ih hr (k + 1)
      split
      next e => rwa [e] at hs
      next e => rwa [e] at hs

theorem State.readSects_canonical (h : s.Canonical) (f i ctx c n h0 k idx) : (s.readSects f i ctx c n h0 k idx).Canonical := by
  induction n generalizing s h0 k idx with
  | zero => exact h
  | succ n ih =>
    have hr := State.readFrame_canonical h f i ctx c k
    unfold State.readSects
    split
    next e => rwa [e] at hr
    next u fr e =>
    rw [e] at hr
    have hr : u.Canonical := hr
    extract_lets first
    split
    · exact hr
    split
    · exact hr
    have hb := State.readFrames_canonical hr f i ctx c (hNfr fr) (k + 1)
    split
    next e => rwa [e] at hb
    next e =>
    rw [e] at hb
    split
    · exact hb
    extract_lets sec
    split
    · exact hb
    have hs := ih hb (some first) (k + 1 + hNfr fr) (idx + 1)
    split
    next e => rwa [e] at hs
    · exact hs

end Sys2Proof.Machine
end

section
/-!
### The canonical form of memory is kept: Machine/Atomics
-/
namespace Sys2Proof.Machine
variable {s t u : State} {x y : Fx} {w : EW} {α β : Type}

theorem atomOp_canonical {op w} (e : atomOp op w s = .next t) (h : s.Canonical) : t.Canonical := by
  refine runL_canonical e h ?_
  exact State.store_canonical h ..

theorem execAtomcas_canonical {w} (e : execAtomcas w s = .next t) (h : s.Canonical) : t.Canonical := by
  refine runL_canonical e h ?_
  exact State.store_canonical h ..

theorem vatomBlock_canonical (h : s.Canonical) (ca cb x cas skip l) : (vatomBlock ca cb x cas skip s l).Canonical := by
  induction l generalizing s with
  | nil => exact h
  | cons i r ih =>
    unfold vatomBlock
    split
    · exact ih h
    extract_lets e a
    split
    · exact h
    have ha := State.perform_canonical h a
    split
    next heq => exact fst_canonical heq ha
    next heq => exact State.holdAccOnce_canonical (fst_canonical heq ha) ..
    next heq => exact fst_canonical heq ha
    next u v t fl heq =>
    replace ha := fst_canonical heq ha
    extract_lets put b
    have hput : ∀ s new, s.Canonical → (put s new).Canonical := by
      intro s new h
      have hr := ih h
      simp only [put]
      split
      next e => rwa [e] at hr
      · exact hr
    split
    · exact hput _ _ ha
    have hb := State.perform_canonical ha b
    split
    next heq => exact fst_canonical heq hb
    next heq => exact State.holdAccOnce_canonical (fst_canonical heq hb) ..
    next heq => exact fst_canonical heq hb
    next heq => exact hput _ _ (fst_canonical heq hb)

theorem vatomRun_canonical (h : s.Canonical) (ht : t.Canonical) (ca cb w cas n skip suc was tskip tsuc rs l) :
    (vatomRun ca cb w cas n s skip suc was t tskip tsuc rs l).Canonical := by
  induction l generalizing t tskip tsuc rs with
  | nil => exact ht
  | cons e r ih =>
    unfold vatomRun
    extract_lets at_ op _ a
    have ha := State.performSync_canonical ht a
    split
    · exact State.keepPoison_canonical h _ _
    · exact State.holdAccOnce_canonical h ..
    · exact h
    next u old fl q rs' heq =>
    replace ha := fst_canonical heq ha
    extract_lets back b hit
    have hb := State.perform_canonical ha b
    split
    next heq =>
      replace hb := fst_canonical heq hb
      refine ih (State.orFlags_canonical ?_ _) _ _ _
      split
      · exact hb
      · exact State.watchDone_canonical hb _
    · exact State.keepPoison_canonical h _ _
    · exact State.holdAccOnce_canonical h ..
    · exact h

theorem vatomLoop_canonical (h : s.Canonical) (ca cb w cas n skip suc rs l) : (vatomLoop ca cb w cas n s skip suc rs l).Canonical := by
  induction l generalizing s skip suc rs with
  | nil => exact h
  | cons q l ih =>
    have hr := vatomRun_canonical h h ca cb w cas n skip suc rs skip suc rs q
    unfold vatomLoop
    split
    · exact h
    split
    · exact h
    split
    next e =>
      rw [e] at hr
      exact ih hr ..
    · exact hr

theorem State.vatomAcquire_canonical {w rs} (e : s.vatomAcquire w rs = some t) (h : s.Canonical) : t.Canonical := by
  unfold State.vatomAcquire at e
  split at e
  · obtain ⟨u, hu, rfl⟩ := Option.map_eq_some_iff.1 e
    exact State.invalidate_canonical (State.acquireFrom_canonical hu h) ..
  · cases e
    exact h

theorem State.vatomFault_canonical (h : s.Canonical) (w ca k off skip suc rs) : (s.vatomFault w ca k off skip suc rs).Canonical :=
  State.setSreg_canonical h ..

theorem vatomOp_canonical {cas w} (e : vatomOp cas w s = .next t) (h : s.Canonical) : t.Canonical := by
  refine runL_canonical e h ?_
  extract_lets ca cb cnt sz all d skip suc was
  split
  · exact h
  split
  · exact h
  split
  · exact h
  split
  · exact h
  split
  next he => exact (eq_keeps he (State.release_canonical h _) :)
  next he => exact (eq_keeps he (State.release_canonical h _) :)
  next he =>
    have hr : State.Canonical _ := (eq_keeps he (State.release_canonical h _) :)
    split
    · exact hr
    split
    next he => exact (eq_keeps he (vatomBlock_canonical hr ..) :)
    next he => exact (eq_keeps he (vatomBlock_canonical hr ..) :)
    next he =>
      have hb : State.Canonical _ := (eq_keeps he (vatomBlock_canonical hr ..) :)
      split
      next he =>
        have hl : State.Canonical _ := (eq_keeps he (vatomLoop_canonical hb ..) :)
        split
        · exact State.vatomFault_canonical hl ..
        next ha =>
          have hv := State.vatomAcquire_canonical ha hl
          exact hv
      next he =>
        have hl : State.Canonical _ := (eq_keeps he (vatomLoop_canonical hb ..) :)
        exact hl
      next he =>
        have hl : State.Canonical _ := (eq_keeps he (vatomLoop_canonical hb ..) :)
        exact State.vatomFault_canonical hl ..

end Sys2Proof.Machine
end

section
/-!
### The canonical form of memory is kept: Machine/System
-/
namespace Sys2Proof.Machine
variable {s t u : State} {x y : Fx} {w : EW} {α β : Type}

theorem State.putRec_canonical {s' : State} (h : s.Canonical) (h' : s'.Canonical) (at_ n v tag) :
    (s.putRec s' at_ n v tag).Canonical := by
  unfold State.putRec
  dsimp only
  split
  · exact h'
  split
  · exact State.devWrite_canonical h' ..
  · exact State.holdOnce_canonical h ..
  · exact h

theorem State.tickClock_canonical (h : s.Canonical) (n) : (s.tickClock n).Canonical := by
  unfold State.tickClock
  dsimp only
  split
  · exact h
  · exact h

theorem State.sysPut_canonical (h : s.Canonical) (n v) : (s.sysPut n v).Canonical := by
  unfold State.sysPut
  extract_lets t
  split
  case h_5 => split <;> exact h
  case h_8 => exact State.setCtx_canonical h _
  all_goals exact h

theorem State.sysPutCap_canonical (h : s.Canonical) (n v) : (s.sysPutCap n v).Canonical := by
  unfold State.sysPutCap
  dsimp only
  split
  · exact h
  split
  · exact h
  · exact h

theorem State.sysWrite_canonical (h : s.Canonical) (n v) : (s.sysWrite n v).Canonical := by
  unfold State.sysWrite
  have hu := State.sysPut_canonical h n v
  split
  · exact State.putRec_canonical h hu ..
  · exact hu

theorem State.sysWriteCap_canonical (h : s.Canonical) (n v) : (s.sysWriteCap n v).Canonical := by
  unfold State.sysWriteCap
  have hu := State.sysPutCap_canonical h n v
  split
  · exact hu
  · exact State.putRec_canonical h hu ..

theorem sysAccess_canonical {i n legal kind o} {body : State → Act} (e : sysAccess i n legal kind o body s = .next t) (h : s.Canonical)
    (hb : (body s).Canonical) : t.Canonical := by
  unfold sysAccess at e
  split at e
  · exact State.raise_canonical e h
  split at e
  · exact State.raise_canonical e h
  · exact run_canonical e h hb

theorem execSysr_canonical {d n} (e : execSysr d n s = .next t) (h : s.Canonical) : t.Canonical := by
  refine sysAccess_canonical e h ?_
  exact State.putReg_canonical (State.tickClock_canonical h ..) ..

theorem execSysrC_canonical {c n} (e : execSysrC c n s = .next t) (h : s.Canonical) : t.Canonical := by
  refine sysAccess_canonical e h ?_
  exact State.setCreg_canonical h ..

theorem execSysw_canonical {a n} (e : execSysw a n s = .next t) (h : s.Canonical) : t.Canonical := by
  refine sysAccess_canonical e h ?_
  exact State.sysWrite_canonical h ..

theorem execSyswC_canonical {c n} (e : execSyswC c n s = .next t) (h : s.Canonical) : t.Canonical := by
  refine sysAccess_canonical e h ?_
  exact State.sysWriteCap_canonical h ..

theorem execNop_canonical (e : execNop s = .next t) (h : s.Canonical) : t.Canonical := by
  refine run_canonical e h ?_
  exact h

theorem execIdent_canonical {d} (e : execIdent d s = .next t) (h : s.Canonical) : t.Canonical := by
  refine run_canonical e h ?_
  exact State.putReg_canonical h ..

theorem execTrap_canonical (e : execTrap s = .next t) (h : s.Canonical) : t.Canonical := by
  refine run_canonical e h ?_
  exact h

theorem execBrk_canonical (e : execBrk s = .next t) (h : s.Canonical) : t.Canonical := by
  refine run_canonical e h ?_
  exact h

theorem execEret_canonical (e : execEret s = .next t) (h : s.Canonical) : t.Canonical := by
  refine runPriv_canonical e h ?_
  exact h

theorem State.endStrand_canonical (h : s.Canonical) (f i) : (s.endStrand f i).Canonical := by
  unfold State.endStrand
  split
  · exact h
  extract_lets s1 s2
  have h1 : s1.Canonical := State.updStrand_canonical (State.endFinder_canonical (State.leave_canonical h _) ..) ..
  have h2 : s2.Canonical := h1
  clear_value s2
  split
  · exact h2
  split
  · split
    · exact State.setTask_canonical h2 _
    · exact h2
  · exact h2

theorem execHalt_canonical (e : execHalt s = .next t) (h : s.Canonical) : t.Canonical := by
  unfold execHalt at e
  split at e
  · cases e
    exact h
  split at e
  · cases e
    exact State.endStrand_canonical h ..
  cases e
  exact h

theorem State.asStrand_canonical {g : State → State} (h : s.Canonical) (f i) (hg : ∀ s, s.Canonical → (g s).Canonical) :
    (s.asStrand f i g).Canonical := by
  unfold State.asStrand
  split
  · exact hg s h
  split
  · exact h
  · exact hg _ h

theorem execTrapEntry_canonical {fld slot} (e : execTrapEntry fld slot s = .next t) (h : s.Canonical) : t.Canonical := by
  unfold execTrapEntry at e
  split at e
  · split at e
    · split at e
      · cases e
        exact State.asStrand_canonical h _ _ fun _ h => State.takeTrap_canonical h _
      · cases e
        exact h
    · cases e
      exact h
  · cases e
    exact h

end Sys2Proof.Machine
end

section
/-!
### The canonical form of memory is kept: Machine/Sync
-/
namespace Sys2Proof.Machine
variable {s t u : State} {x y : Fx} {w : EW} {α β : Type}

theorem State.fenceOrd_canonical (h : s.Canonical) (ord x) : (s.fenceOrd ord x).Canonical := by
  unfold State.fenceOrd
  split
  · exact h
  split
  · exact h
  extract_lets acq
  have hacq : ∀ s, s.Canonical → (acq s).Canonical := by
    intro s h
    simp only [acq]
    split
    · split
      next e => exact State.invalidate_canonical (State.acquireFrom_canonical e h) ..
      · exact h
    · exact h
  split
  · have hr := State.release_canonical h (s.relAt x)
    split
    next e => rwa [e] at hr
    next e => rwa [e] at hr
    next e =>
      rw [e] at hr
      exact hacq _ hr
  · exact hacq s h

theorem execFence_canonical {w} (e : execFence w s = .next t) (h : s.Canonical) : t.Canonical := by
  refine runL_canonical e h ?_
  exact State.fenceOrd_canonical h ..

theorem State.storageFence_canonical (h : s.Canonical) : s.storageFence.Canonical := by
  unfold State.storageFence
  dsimp only
  split
  · exact h
  split
  · split
    · exact h
    · exact h
  split
  · exact h
  split
  · exact h
  · exact h

theorem execFenceSt_canonical {w} (e : execFenceSt w s = .next t) (h : s.Canonical) : t.Canonical := by
  refine runL_canonical e h ?_
  unfold execFenceSt at e
  extract_lets
  split
  next hf => exact State.storageFence_canonical (eq_keeps hf (State.fenceOrd_canonical h ..) :) ..
  · exact State.fenceOrd_canonical h ..

theorem State.ownStores_canonical (h : s.Canonical) (a) : (s.ownStores a).1.Canonical := State.writeBacks_canonical h ..

theorem State.bindSecs_canonical (h : s.Canonical) (a n) : (s.bindSecs a n).Canonical := by
  induction n generalizing s a with
  | zero => exact h
  | succ n ih => grind [State.bindSecs, State.ownStores_canonical, State.holdAccOnce_canonical, State.spPerform_canonical, State.homePerform_canonical, BindRes.Canonical]

theorem State.putPieces_canonical (h : s.Canonical) (a l) : (s.putPieces a l).Canonical := by
  induction l generalizing s a with
  | nil => exact h
  | cons p r ih => grind [State.putPieces, State.spPerform_canonical, State.storeThrough_canonical, PutRes.Canonical]

theorem State.putScope_canonical (h : s.Canonical) (j b c) : (s.putScope j b c).Canonical := by
  unfold State.putScope
  dsimp only
  split
  · exact h
  split
  · exact h
  · exact State.holdAccOnce_canonical h ..
  · exact h
  next hf => exact (eq_keeps hf (State.putPieces_canonical h ..) :)

theorem execScset_canonical {w} (e : execScset w s = .next t) (h : s.Canonical) : t.Canonical := by
  refine runL_canonical e h ?_
  grind [Act.Canonical, BindRes.Canonical, State.bindSecs_canonical, State.putScope_canonical]

theorem execScget_canonical {w} (e : execScget w s = .next t) (h : s.Canonical) : t.Canonical := by
  refine runL_canonical e h ?_
  exact State.putReg_canonical h ..

theorem execScinv_canonical {w} (e : execScinv w s = .next t) (h : s.Canonical) : t.Canonical := by
  refine runL_canonical e h ?_
  unfold execScinv at e
  dsimp only
  extract_lets at e
  split
  · exact h
  · exact State.putScope_canonical h ..

theorem execCbsync_canonical {w} (e : execCbsync w s = .next t) (h : s.Canonical) : t.Canonical := by
  refine runL_canonical e h ?_
  unfold execCbsync at e
  dsimp only
  split at e
  · split
    · exact h
    · exact h
  split
  · exact h
  split
  · exact h
  · exact h

theorem syncOp_canonical {o w pre rel} {body : State → ℕ → ℕ → Act} (e : syncOp o w pre rel body s = .next t) (h : s.Canonical)
    (hb : ∀ {u : State} obj off, u.Canonical → (body u obj off).Canonical) : t.Canonical := by
  refine runL_canonical e h ?_
  dsimp only
  split
  · exact h
  split
  · exact h
  split
  · have hr := State.release_canonical h (s.relAt w.x.toNat)
    split <;> rename_i he <;> rw [he] at hr
    · exact hr
    · exact hr
    · exact hb _ _ hr
  · exact hb _ _ h

theorem State.setBar_canonical (h : s.Canonical) (b) : (s.setBar b).Canonical := h

theorem execBarinit_canonical {w} (e : execBarinit w s = .next t) (h : s.Canonical) : t.Canonical := by
  refine syncOp_canonical e h fun obj off h => ?_
  grind [State.Canonical, Act.Canonical, State.setBar_canonical]

theorem execBararr_canonical {w} (e : execBararr w s = .next t) (h : s.Canonical) : t.Canonical := by
  refine syncOp_canonical e h fun obj off h => ?_
  grind [Act.Canonical, State.putReg_canonical, State.setBar_canonical]

theorem execBarwait_canonical {w} (e : execBarwait w s = .next t) (h : s.Canonical) : t.Canonical := by
  refine syncOp_canonical e h fun obj off h => ?_
  grind [Act.Canonical, State.invalidate_canonical, State.acquireFrom_canonical]

theorem State.disarm_canonical (h : s.Canonical) : s.disarm.Canonical := h

theorem execMonarm_canonical {w} (e : execMonarm w s = .next t) (h : s.Canonical) : t.Canonical := by
  refine syncOp_canonical e h fun obj off h => ?_
  grind [State.Canonical, Act.Canonical, State.disarm_canonical]

theorem execMonwait_canonical {w} (e : execMonwait w s = .next t) (h : s.Canonical) : t.Canonical := by
  refine runL_canonical e h ?_
  grind [State.Canonical, Act.Canonical, State.putReg_canonical, State.invalidate_canonical, State.disarm_canonical,
    State.acquireFrom_canonical]

theorem execMonwaitTimeout_canonical {fld slot} (e : execMonwaitTimeout fld slot s = .next t) (h : s.Canonical) : t.Canonical := by
  unfold execMonwaitTimeout at e
  split at e
  · split at e
    · cases e
      exact State.updStrand_canonical h ..
    cases e
    exact h
  cases e
  exact h

theorem execMonsig_canonical {w} (e : execMonsig w s = .next t) (h : s.Canonical) : t.Canonical := by
  refine syncOp_canonical e h fun obj off h => ?_
  grind [State.Canonical, Act.Canonical, State.putReg_canonical]

end Sys2Proof.Machine
end

section
/-!
### The canonical form of memory is kept: Machine/Tiles
-/
namespace Sys2Proof.Machine
variable {s t u : State} {x y : Fx} {w : EW} {α β : Type}

theorem State.readMany_canonical (h : s.Canonical) (obj off n x m) : (s.readMany obj off n x m).Canonical := by
  induction m generalizing s off with
  | zero => exact h
  | succ m ih => grind [State.readMany, State.perform_canonical, State.holdAccOnce_canonical, ReadRes.Canonical]

theorem execTcfg_canonical {w} (e : execTcfg w s = .next t) (h : s.Canonical) : t.Canonical := by
  refine runL_canonical e h ?_
  dsimp only
  split
  · exact h
  split
  · exact h
  split
  · exact h
  split
  next he => exact (eq_keeps he (State.readMany_canonical h ..) :)
  next he => exact (eq_keeps he (State.readMany_canonical h ..) :)
  next he =>
    have hr : State.Canonical _ := (eq_keeps he (State.readMany_canonical h ..) :)
    split
    · exact hr
    · exact foldl_keeps (P := fun m => Memory.wf m = true) hr (fun _ _ h => wf_zeroRange h) _

theorem execTrel_canonical {w} (e : execTrel w s = .next t) (h : s.Canonical) : t.Canonical := by
  refine runL_canonical e h ?_
  unfold execTrel at e
  dsimp only
  split
  · exact h
  · exact h

theorem execTstate_canonical {w} (e : execTstate w s = .next t) (h : s.Canonical) : t.Canonical := by
  refine runL_canonical e h ?_
  exact State.putReg_canonical h ..

theorem execTwait_canonical {w} (e : execTwait w s = .next t) (h : s.Canonical) : t.Canonical := by
  refine runL_canonical e h ?_
  unfold execTwait at e
  dsimp only
  split
  · exact h
  split
  · exact h
  · exact h

theorem State.cacheFlush_canonical (h : s.Canonical) (j obj o l) : (s.cacheFlush j obj o l).Canonical := by
  unfold State.cacheFlush
  dsimp only
  split
  next he => exact fst_canonical he (State.writeBacks_canonical h ..)
  next he =>
    split
    · exact State.holdOnce_canonical (fst_canonical he (State.writeBacks_canonical h ..)) ..
    · exact fst_canonical he (State.writeBacks_canonical h ..)
  next he => exact fst_canonical he (State.writeBacks_canonical h ..)

theorem cacheOp_canonical {w rights} {body : State → ℕ → ℕ → ℕ → Act} (e : cacheOp w rights body s = .next t) (h : s.Canonical)
    (hb : ∀ obj off l, (body s obj off l).Canonical) : t.Canonical := by
  refine runL_canonical e h ?_
  dsimp only
  split
  · exact h
  split
  · exact h
  split
  · exact h
  · exact hb ..

theorem execCwb_canonical {w} (e : execCwb w s = .next t) (h : s.Canonical) : t.Canonical :=
  cacheOp_canonical e h fun obj o l => State.cacheFlush_canonical h _ obj o l

theorem State.clearRace_canonical (h : s.Canonical) (ctx obj o l) : (s.clearRace ctx obj o l).Canonical := h

theorem execCinv_canonical {w} (e : execCinv w s = .next t) (h : s.Canonical) : t.Canonical := by
  unfold execCinv at e
  extract_lets md at e
  refine cacheOp_canonical e h fun obj o l => ?_
  have hc := State.cacheFlush_canonical h w.x.toNat obj o l
  dsimp only
  split
  next he =>
    rw [he] at hc
    change State.Canonical (if _ then _ else _)
    split
    · exact State.clearRace_canonical (by exact hc) ..
    · exact hc
  · exact hc

theorem State.prefetch_canonical (h : s.Canonical) (a n) : (s.prefetch a n).Canonical := by
  induction n generalizing s a with
  | zero => exact h
  | succ n ih =>
    refine ih ?_ _
    split
    · exact h
    have hp := State.homePerform_canonical h a
    split
    next heq => exact State.l1Put_canonical (fst_canonical heq hp) _
    next heq => exact fst_canonical heq hp
    · exact h

theorem execCpf_canonical {w} (e : execCpf w s = .next t) (h : s.Canonical) : t.Canonical := by
  refine runL_canonical e h ?_
  unfold execCpf at e
  dsimp only
  split
  · exact h
  · exact State.prefetch_canonical h ..

theorem execObjq_canonical {w} (e : execObjq w s = .next t) (h : s.Canonical) : t.Canonical := by
  refine runL_canonical e h ?_
  unfold execObjq at e
  dsimp only
  split
  · exact h
  split
  · exact h
  split
  · exact h
  split
  · exact h
  · exact h

theorem State.elasticCopy_canonical {ctx f backing base off toB n} (e : s.elasticCopy ctx f backing base off toB n = some t)
    (h : s.Canonical) : t.Canonical := by
  induction n generalizing s off with
  | zero =>
    cases e
    exact h
  | succ n ih =>
    unfold State.elasticCopy at e
    extract_lets a key r at e
    have hr : ∀ u, r = some u → u.Canonical := by
      intro u e
      simp only [r] at e
      split at e
      · split at e
        next heq =>
          cases e
          exact fst_canonical heq (State.homedAccess_canonical h _)
        · cases e
      · split at e
        next heq =>
          cases e
          exact State.storeSector_canonical (fst_canonical heq (State.homedAccess_canonical h _)) ..
        · cases e
    clear_value r
    split at e
    · exact ih e (hr _ rfl)
    · cases e

theorem State.holdPages_canonical (h : s.Canonical) (ctx obj off n wr party) : (s.holdPages ctx obj off n wr party).Canonical := by
  unfold State.holdPages
  dsimp only
  split
  · exact h
  split
  · exact State.holdOnce_canonical h ..
  · exact h

theorem execCarve_canonical {w} (e : execCarve w s = .next t) (h : s.Canonical) : t.Canonical := by
  refine runL_canonical e h ?_
  extract_lets ca v mn mx f bad
  clear_value bad
  split
  · exact h
  split
  · exact h
  split
  · exact h
  split
  · exact State.holdPages_canonical h ..
  next hc =>
  extract_lets u
  have hu : u.Canonical := wf_zeroRange (State.elasticCopy_canonical hc h)
  split
  · exact State.holdPages_canonical h ..
  next hd => exact State.setCreg_canonical (State.setField_canonical (State.elasticCopy_canonical hd hu) _) ..

theorem execElasticInterval_canonical {fld} (e : execElasticInterval fld s = .next t) (h : s.Canonical) : t.Canonical := by
  grind [execElasticInterval, State.setField_canonical, State.freeVal_canonical]

theorem State.giveWays_canonical (h : s.Canonical) (fld) (t) :
    (s.giveWays fld = .ok t → t.Canonical) ∧ (s.giveWays fld = .error t → t.Canonical) := by
  grind [State.Canonical, State.giveWays, State.holdOnce_canonical, State.writeBacks_canonical]

theorem execBoundaryMoveComplete_canonical {fld} (e : execBoundaryMoveComplete fld s = .next t) (h : s.Canonical) : t.Canonical := by
  unfold execBoundaryMoveComplete at e
  extract_lets f ctx at e
  split at e
  · split at e
    next hw => cases e; exact (State.giveWays_canonical h fld _).2 hw
    next hw =>
      replace hw := (State.giveWays_canonical h fld _).1 hw
      split at e
      next he => cases e; exact State.setField_canonical (State.elasticCopy_canonical he hw) _
      · cases e; exact State.holdPages_canonical hw ..
  · split at e
    next he => cases e; exact State.setField_canonical (State.elasticCopy_canonical he h) _
    · cases e; exact State.holdPages_canonical h ..
  · cases e; exact h

theorem execL1Probe_canonical {fld ctx obj sec} (e : execL1Probe fld ctx obj sec s = .next t) (h : s.Canonical) : t.Canonical := by
  unfold execL1Probe at e
  split at e
  · split at e
    · cases e
      exact h
    split at e
    · cases e
      exact h
    cases e
    exact h
  cases e
  exact h

theorem execEvictionWriteBack_canonical {fld ctx obj sec} (e : execEvictionWriteBack fld ctx obj sec s = .next t) (h :
    s.Canonical) : t.Canonical := by
  grind [execEvictionWriteBack, State.holdOnce_canonical, State.writeBack_canonical, State.l1Drop_canonical,
    State.keepRace_canonical]

end Sys2Proof.Machine
end

section
/-!
### The canonical form of memory is kept: Machine/Service
-/
namespace Sys2Proof.Machine
variable {s t u : State} {x y : Fx} {w : EW} {α β : Type}

theorem execWpset_canonical {c b} (e : execWpset c b s = .next t) (h : s.Canonical) : t.Canonical := by
  refine run_canonical e h ?_
  unfold execWpset at e
  dsimp only
  split
  · exact h
  split
  · exact h
  split
  · exact h
  · exact h

theorem execWpclr_canonical {b} (e : execWpclr b s = .next t) (h : s.Canonical) : t.Canonical := by
  refine run_canonical e h ?_
  unfold execWpclr at e
  dsimp only
  split
  · exact h
  · exact h

theorem execFaultRecordPost_canonical {ctx} (e : execFaultRecordPost ctx s = .next t) (h : s.Canonical) : t.Canonical := by
  unfold execFaultRecordPost at e
  split at e
  · split at e
    · cases e; exact h
    extract_lets c at e
    split at e
    next heq =>
    have hu := State.freeVal_canonical h
    rw [heq] at hu
    extract_lets open_ b v w at e
    have hv : v.Canonical := foldl_keeps (P := State.Canonical) hu (fun s i h => State.devWrite_canonical h ..) _
    have hw : w.Canonical := State.devWrite_canonical hv ..
    clear_value w
    cases e
    exact hw
  · cases e; exact h

theorem execFltq_canonical {b} (e : execFltq b s = .next t) (h : s.Canonical) : t.Canonical := by
  refine run_canonical e h ?_
  extract_lets n q
  split
  · exact h
  split
  · exact h
  split
  · exact h
  split
  next he =>
    have hu := fst_canonical he (State.performSync_canonical h _)
    extract_lets wr rd rd' fin
    have hfin {v : State} (h : v.Canonical) : (fin v).Canonical := State.setSreg_canonical h ..
    split
    · exact hfin hu
    split
    next he => exact (eq_keeps he (State.release_canonical hu _) :)
    next he => exact (eq_keeps he (State.release_canonical hu _) :)
    next he =>
      have hv : State.Canonical _ := (eq_keeps he (State.release_canonical hu _) :)
      split
      next he => exact hfin (fst_canonical he (State.performSync_canonical hv _))
      next he => exact State.holdAccOnce_canonical (fst_canonical he (State.performSync_canonical hv _)) ..
      next he => exact fst_canonical he (State.performSync_canonical hv _)
      next he => exact fst_canonical he (State.performSync_canonical hv _)
  next he => exact State.holdAccOnce_canonical (fst_canonical he (State.performSync_canonical h _)) ..
  next he => exact fst_canonical he (State.performSync_canonical h _)
  next he => exact fst_canonical he (State.performSync_canonical h _)

end Sys2Proof.Machine
end

section
/-!
### The canonical form of memory is kept: Machine/Regions
-/
namespace Sys2Proof.Machine
variable {s t u : State} {x y : Fx} {w : EW} {α β : Type}

theorem State.mapRegion_canonical (h : s.Canonical) (sl g) : (s.mapRegion sl g).Canonical := h

theorem State.xpDown_canonical (h : s.Canonical) (o) : (s.xpDown o).Canonical := by
  unfold State.xpDown
  split
  · split
    · exact State.updStrand_canonical h ..
    · exact h
  · exact h

theorem State.handoff_canonical (h : s.Canonical) : s.handoff.Canonical := by
  unfold State.handoff
  dsimp only
  split
  · exact h
  split
  next he => exact (eq_keeps he (State.release_canonical h ..) :)
  next he => exact (eq_keeps he (State.release_canonical h ..) :)
  next he => exact (eq_keeps he (State.release_canonical h ..) :)

theorem State.startRegion_canonical (h : s.Canonical) (sl caps start) : (s.startRegion sl caps start).Canonical := h

theorem State.haltRegion_canonical (h : s.Canonical) (sl p owner) : (s.haltRegion sl p owner).Canonical := h

theorem execRgrun_canonical {a} (e : execRgrun a s = .next t) (h : s.Canonical) : t.Canonical := by
  refine run_canonical e h ?_
  unfold execRgrun at e
  extract_lets
  split
  · exact h
  · exact h
  split
  · exact h
  split
  next hg => exact (eq_keeps hg (State.handoff_canonical h ..) :)
  next hg => exact (eq_keeps hg (State.handoff_canonical h ..) :)
  next hg => exact State.syncRounds_canonical (State.startRegion_canonical (eq_keeps hg (State.handoff_canonical h ..) :) ..) ..

theorem execCfgsw_canonical {a} (e : execCfgsw a s = .next t) (h : s.Canonical) : t.Canonical := by
  refine run_canonical e h ?_
  dsimp only
  split
  · exact h
  · exact h
  split
  · exact h
  have hh := State.handoff_canonical h
  split
  next he => rwa [he] at hh
  next he => rwa [he] at hh
  next he =>
    rw [he] at hh
    exact State.up_canonical (foldl_keeps (P := State.Canonical) (State.mapRegion_canonical hh ..)
      (fun _ _ h => State.haltRegion_canonical h ..) _) _

theorem execSwitchComplete_canonical {fld slot} (e : execSwitchComplete fld slot s = .next t) (h : s.Canonical) : t.Canonical := by
  unfold execSwitchComplete at e
  extract_lets at e
  split at e
  · cases e
    exact State.syncRounds_canonical (State.xpDown_canonical (by exact h) ..) ..
  cases e
  exact h

theorem execRampRelease_canonical {fld site} (e : execRampRelease fld site s = .next t) (h : s.Canonical) : t.Canonical := by
  unfold execRampRelease at e
  split at e
  · extract_lets at e
    cases e
    exact h
  cases e
  exact h

theorem execRgstop_canonical {a} (e : execRgstop a s = .next t) (h : s.Canonical) : t.Canonical := by
  refine run_canonical e h ?_
  unfold execRgstop at e
  dsimp only
  split
  · exact h
  split
  · exact h
  split
  · exact h
  split
  · exact h
  · exact State.syncRounds_canonical h ..

theorem execStopComplete_canonical {fld slot} (e : execStopComplete fld slot s = .next t) (h : s.Canonical) : t.Canonical := by
  unfold execStopComplete at e
  extract_lets at e
  split at e
  · cases e
    exact State.syncRounds_canonical (State.xpDown_canonical (by exact h) ..) ..
  cases e
  exact h

theorem State.unbindSlot_canonical (h : s.Canonical) (sl) : (s.unbindSlot sl).Canonical := h

theorem State.dropRegion_canonical (h : s.Canonical) (sl) : (s.dropRegion sl).Canonical :=
  foldl_keeps (P := State.Canonical) (State.unbindSlot_canonical h sl) (fun _ _ h => State.updStrand_canonical h ..) _

theorem execCfgdrop_canonical {a} (e : execCfgdrop a s = .next t) (h : s.Canonical) : t.Canonical := by
  refine run_canonical e h ?_
  unfold execCfgdrop at e
  dsimp only
  split
  · exact h
  split
  · exact h
  split
  · exact h
  · exact State.dropRegion_canonical h ..
  · exact h

theorem execCfgld_canonical {c b} (e : execCfgld c b s = .next t) (h : s.Canonical) : t.Canonical := by
  refine run_canonical e h ?_
  unfold execCfgld at e
  dsimp only
  split
  · exact h
  split
  · exact h
  split
  · exact h
  split
  · exact h
  · exact h

theorem execCfgpart_canonical {c b} (e : execCfgpart c b s = .next t) (h : s.Canonical) : t.Canonical := by
  refine run_canonical e h ?_
  grind [Act.Canonical, State.setSlot_canonical, State.up_canonical]

theorem State.installFails_canonical (h : s.Canonical) (sl why k drop) : (s.installFails sl why k drop).Canonical :=
  State.xpDown_canonical (by exact h) ..

theorem State.frameRace_canonical (h : s.Canonical) (sl k drop) : (s.frameRace sl k drop).Canonical := by
  unfold State.frameRace
  dsimp only
  split
  · exact State.xpDown_canonical (State.setSlot_canonical (State.updStrand_canonical (by exact h) ..) ..) ..
  · exact State.xpDown_canonical (by exact h) ..

theorem State.readImage_canonical (h : s.Canonical) (sl) : (s.readImage sl).Canonical := State.readSects_canonical h ..

theorem execCfgldInstall_canonical {fld slot} (e : execCfgldInstall fld slot s = .next t) (h : s.Canonical) : t.Canonical := by
  unfold execCfgldInstall at e
  extract_lets sl at e
  have hr := State.readImage_canonical h sl
  split at e
  · cases e; exact h
  split at e
  next he => rw [he] at hr; cases e; exact hr
  · cases e; exact State.frameRace_canonical h ..
  next he => rw [he] at hr; cases e; exact State.installFails_canonical hr ..
  next he =>
  rw [he] at hr
  extract_lets n at e
  split at e
  · cases e; exact State.installFails_canonical hr ..
  split at e
  · cases e; exact State.installFails_canonical hr ..
  split at e
  · cases e; exact State.installFails_canonical hr ..
  · cases e
    exact foldl_keeps (P := State.Canonical) hr (fun s q h => State.setSlot_canonical h _) _

theorem execInstallComplete_canonical {fld slot} (e : execInstallComplete fld slot s = .next t) (h : s.Canonical) : t.Canonical := by
  unfold execInstallComplete at e
  extract_lets at e
  split at e
  · cases e
    exact h
  cases e
  exact State.xpDown_canonical (by exact h) ..

theorem execCfgpartApply_canonical {fld slot} (e : execCfgpartApply fld slot s = .next t) (h : s.Canonical) : t.Canonical := by
  grind [execCfgpartApply, ImgRes.Canonical, State.frameRace_canonical, State.mapRegion_canonical, State.xpDown_canonical,
    State.installFails_canonical, State.readImage_canonical]

theorem execPartialFrameTake_canonical {fld slot site} (e : execPartialFrameTake fld slot site s = .next t) (h : s.Canonical) :
    t.Canonical := by
  unfold execPartialFrameTake at e
  extract_lets at e
  split at e
  · cases e
    exact h
  extract_lets at e
  split at e
  · cases e
    exact h
  cases e
  exact h

theorem execPartialDrainComplete_canonical {fld slot} (e : execPartialDrainComplete fld slot s = .next t) (h : s.Canonical) :
    t.Canonical := by
  unfold execPartialDrainComplete at e
  extract_lets at e
  split at e
  · cases e
    exact State.xpDown_canonical (by exact h) ..
  cases e
  exact h

theorem State.rgItem_canonical (h : s.Canonical) (sl q sel site) : (s.rgItem sl q sel site).2.Canonical := by
  unfold State.rgItem
  split
  case h_7 =>
    split
    · exact State.freeVal_canonical h
    · exact h
  all_goals exact h

theorem execRgstat_canonical {d a} (e : execRgstat d a s = .next t) (h : s.Canonical) : t.Canonical := by
  refine run_canonical e h ?_
  unfold execRgstat at e
  dsimp only
  split
  · exact h
  · exact h
  next hf =>
    obtain ⟨_, hg, hf⟩ := Option.bind_eq_some_iff.1 hf
    split
    · split
      · exact h
      · exact State.putReg_canonical (State.rgItem_canonical h ..) ..
    split
    · exact h
    · exact State.putReg_canonical (State.rgItem_canonical h ..) ..

theorem execMark_canonical {a} (e : execMark a s = .next t) (h : s.Canonical) : t.Canonical := by
  refine run_canonical e h ?_
  unfold execMark at e
  dsimp only
  split
  · exact h
  split
  · exact h
  split
  · exact h
  · exact h

theorem execRwait_canonical {a} (e : execRwait a s = .next t) (h : s.Canonical) : t.Canonical := by
  refine run_canonical e h ?_
  unfold execRwait at e
  dsimp only
  split
  · exact h
  split
  · exact h
  · exact h

theorem execRoundComplete_canonical {ctx} (e : execRoundComplete ctx s = .next t) (h : s.Canonical) : t.Canonical := by
  grind [State.Canonical, execRoundComplete, State.holdOnce_canonical, State.writeBacks_canonical, State.setCtx_canonical]

theorem execStld_canonical {c b} (e : execStld c b s = .next t) (h : s.Canonical) : t.Canonical := by
  refine run_canonical e h ?_
  grind [State.Canonical, Act.Canonical, State.up_canonical]

theorem RdRes.kept {r q : RdRes} (e : r = q) (h : r.Canonical) : q.Canonical := e ▸ h

theorem execStldFillComplete_canonical {fld site} (e : execStldFillComplete fld site s = .next t) (h : s.Canonical) : t.Canonical := by
  unfold execStldFillComplete at e
  split at e
  · cases e; exact h
  extract_lets sl drop at e
  split at e
  · cases e; exact State.updStrand_canonical (by exact h) ..
  split at e
  · cases e; exact h
  split at e
  next he => cases e; exact RdRes.kept he (State.readRun_canonical h ..)
  · cases e; exact State.updStrand_canonical (by exact h) ..
  next he =>
    cases e
    have hu := RdRes.kept he (State.readRun_canonical h ..)
    exact State.updStrand_canonical (State.setElem_canonical (by exact hu) ..) ..

theorem execStswap_canonical {a} (e : execStswap a s = .next t) (h : s.Canonical) : t.Canonical := by
  refine run_canonical e h ?_
  unfold execStswap at e
  dsimp only
  split
  · exact h
  split
  · exact h
  split
  · exact h
  · exact h

end Sys2Proof.Machine
end

section
/-!
### The canonical form of memory is kept: Machine/Queues
-/
namespace Sys2Proof.Machine
variable {s t u : State} {x y : Fx} {w : EW} {α β : Type}

theorem State.qbind_canonical (h : s.Canonical) (q v push) : (s.qbind q v push).Canonical := by
  unfold State.qbind
  dsimp only
  split
  · split
    · exact h
    split
    · exact h
    · exact h
  split
  · exact h
  split
  · exact h
  split
  · split
    · exact h
    · exact h
  split
  · exact h
  · exact h

theorem execQbindIn_canonical {q a} (e : execQbindIn q a s = .next t) (h : s.Canonical) : t.Canonical := by
  refine run_canonical e h ?_
  exact State.qbind_canonical h ..

theorem execQbindOut_canonical {q a} (e : execQbindOut q a s = .next t) (h : s.Canonical) : t.Canonical := by
  refine run_canonical e h ?_
  exact State.qbind_canonical h ..

theorem execQunbind_canonical {q} (e : execQunbind q s = .next t) (h : s.Canonical) : t.Canonical := by
  refine run_canonical e h ?_
  unfold execQunbind at e
  dsimp only
  extract_lets at e
  split
  · exact h
  split
  · exact h
  · exact h

theorem execQpeek_canonical {d q} (e : execQpeek d q s = .next t) (h : s.Canonical) : t.Canonical := by
  refine run_canonical e h ?_
  unfold execQpeek at e
  dsimp only
  split
  · exact h
  split
  · exact h
  · exact State.putReg_canonical h ..

theorem execEnter_canonical {a} (e : execEnter a s = .next t) (h : s.Canonical) : t.Canonical := by
  refine run_canonical e h ?_
  grind [State.Canonical, Act.Canonical, Fx.queue_canonical, State.fxAt_canonical, Fx.token_canonical, State.setElem_canonical]

theorem putWords_canonical (h : s.Canonical) (rs ws) : (putWords s rs ws).Canonical := by
  fun_induction putWords s rs ws with
  | case1 s r rs lo hi ws ih => exact ih (State.setSreg_canonical h ..)
  | case2 => exact h

theorem execAwait_canonical {a} (e : execAwait a s = .next t) (h : s.Canonical) : t.Canonical := by
  refine run_canonical e h ?_
  grind [State.Canonical, Act.Canonical, putWords_canonical]

theorem State.setMQ_canonical (h : s.Canonical) (m) : (s.setMQ m).Canonical := h

theorem State.addStrand_canonical (h : s.Canonical) (k) : (s.addStrand k).Canonical := h

theorem State.spawnStrand_canonical (h : s.Canonical) (c v) : (s.spawnStrand c v).Canonical := by
  have ht := State.checkTarget_canonical h c c.cur
  unfold State.spawnStrand
  split
  · exact h
  next e => rwa [e] at ht
  split
  · exact h
  split
  · exact h
  have hh := State.handoff_canonical h
  split
  next e => rwa [e] at hh
  next e => rwa [e] at hh
  next e =>
    rw [e] at hh
    exact State.addStrand_canonical hh _

theorem State.readRecord_canonical (h : s.Canonical) (a n) : (s.readRecord a n).Canonical := by
  induction n generalizing s a with
  | zero => exact h
  | succ n ih => grind [State.readRecord, State.holdAccOnce_canonical, State.perform_canonical, BindRes.Canonical]

theorem State.appendTask_canonical (h : s.Canonical) (m r) : (s.appendTask m r).Canonical := by
  unfold State.appendTask
  extract_lets _ s1
  have h1 : s1.Canonical := h
  clear_value s1
  have hh := State.handoff_canonical h1
  split
  · exact h1
  split
  next he => rwa [he] at hh
  next he => rwa [he] at hh
  next he =>
    rw [he] at hh
    exact State.setMQ_canonical (by exact hh) _

theorem State.spawnTask_canonical (h : s.Canonical) (c v) : (s.spawnTask c v).Canonical := by
  grind [State.spawnTask, Act.Canonical, BindRes.Canonical, State.appendTask_canonical, State.bindSecs_canonical]

theorem State.spawn_canonical (h : s.Canonical) (c b) : (s.spawn c b).Canonical := by
  unfold State.spawn
  dsimp only
  split
  · exact State.spawnStrand_canonical h ..
  · exact State.spawnTask_canonical h ..

theorem execSpawnStrand_canonical {c b} (e : execSpawnStrand c b s = .next t) (h : s.Canonical) : t.Canonical := by
  refine run_canonical e h ?_
  exact State.spawn_canonical h ..

theorem execSpawnTask_canonical {c b} (e : execSpawnTask c b s = .next t) (h : s.Canonical) : t.Canonical := by
  refine run_canonical e h ?_
  exact State.spawn_canonical h ..

theorem execFinder_canonical {c b} (e : execFinder c b s = .next t) (h : s.Canonical) : t.Canonical := by
  refine run_canonical e h ?_
  unfold execFinder at e
  dsimp only
  split
  · exact h
  next hf => exact (eq_keeps hf (State.checkTarget_canonical h ..) :)
  · exact h

theorem execFinderLimit_canonical {fld} (e : execFinderLimit fld s = .next t) (h : s.Canonical) : t.Canonical := by
  unfold execFinderLimit at e
  split at e
  · cases e
    exact h
  cases e
  exact h

theorem execTdone_canonical (e : execTdone s = .next t) (h : s.Canonical) : t.Canonical := by
  refine run_canonical e h ?_
  unfold execTdone at e
  extract_lets
  split
  · exact h
  split
  · exact h
  · exact h

theorem execYield_canonical (e : execYield s = .next t) (h : s.Canonical) : t.Canonical := by
  refine run_canonical e h ?_
  unfold execYield at e
  extract_lets
  split
  · exact h
  · exact h

theorem execWait_canonical {ld st cp tl} (e : execWait ld st cp tl s = .next t) (h : s.Canonical) : t.Canonical := by
  refine run_canonical e h ?_
  unfold execWait at e
  extract_lets
  split
  · exact h
  · exact h

end Sys2Proof.Machine
end

section
/-!
### The canonical form of memory is kept: Machine/Meridian
-/
namespace Sys2Proof.Machine
variable {s t u : State} {x y : Fx} {w : EW} {α β : Type}

theorem State.bindHost_canonical (h : s.Canonical) (a n) : (s.bindHost a n).Canonical := by
  induction n generalizing s a with
  | zero => exact h
  | succ n ih => grind [State.bindHost, State.holdAccOnce_canonical, State.homePerform_canonical, BindRes.Canonical]

theorem State.submit_canonical (h : s.Canonical) (die q) : (s.submit die q).Canonical := by
  unfold State.submit
  dsimp only
  split
  · exact h
  split
  · exact h
  split
  next hf => exact (eq_keeps hf (State.bindHost_canonical h ..) :)
  next hf => exact State.setMQ_canonical (eq_keeps hf (State.bindHost_canonical h ..) :) ..
  next hf =>
    split
    · exact State.setMQ_canonical (eq_keeps hf (State.bindHost_canonical h ..) :) ..
    split
    · exact State.setMQ_canonical (eq_keeps hf (State.bindHost_canonical h ..) :) ..
    · exact State.setMQ_canonical (eq_keeps hf (State.bindHost_canonical h ..) :) ..

theorem execMqsubWrite_canonical {die q v} (e : execMqsubWrite die q v s = .next t) (h : s.Canonical) : t.Canonical := by
  unfold execMqsubWrite at e
  extract_lets at e
  split at e
  · cases e
    exact h
  cases e
  exact State.submit_canonical (by exact h) ..

theorem execMqcfgWrite_canonical {die q v} (e : execMqcfgWrite die q v s = .next t) (h : s.Canonical) : t.Canonical := by
  unfold execMqcfgWrite at e
  extract_lets at e
  split at e
  · cases e
    exact h
  cases e
  exact h

theorem State.clearField_canonical (h : s.Canonical) (f) : (s.clearField f).Canonical := wf_filter h

theorem State.dropFields_canonical (h : s.Canonical) (fs) : (s.dropFields fs).Canonical := h

theorem State.dropStrands_canonical (h : s.Canonical) (fs) : (s.dropStrands fs).Canonical := h

theorem State.readCtx_canonical (h : s.Canonical) (ctx) : (s.readCtx ctx).Canonical := by
  unfold State.readCtx
  dsimp only
  split
  · split
    · exact h
    · exact h
  · exact h

theorem State.startTask_canonical (h : s.Canonical) (m r fs) : (s.startTask m r fs).Canonical := by
  unfold State.startTask
  extract_lets tno f s1 s2 s3
  have h2 : s2.Canonical := State.setTask_canonical (foldl_keeps (P := State.Canonical) h (fun _ _ h => State.clearField_canonical h _) fs) _
  clear_value s2
  split
  · split
    · exact State.setTask_canonical h2 _
    · exact h2
  · have h3 : s3.Canonical := State.addStrand_canonical h2 _
    clear_value s3
    split
    · exact h3
    · exact State.setSlot_canonical h3 _

theorem State.putSecs_canonical (h : s.Canonical) (ctx obj o l) : (s.putSecs ctx obj o l).Canonical := by
  induction l generalizing s o with
  | nil => exact h
  | cons p r ih => exact ih (State.devWrite_canonical h ..) _

theorem State.saveTask_canonical (h : s.Canonical) (k full c phase) : (s.saveTask k full c phase).Canonical := by
  unfold State.saveTask
  extract_lets fs g on slots chans rbase cell tag mine strands sv s1 gone park s2 s3
  have h2 : s2.Canonical := wf_filter (State.putSecs_canonical h ..)
  have h3 : s3.Canonical := State.dropStrands_canonical (State.dropFields_canonical h2 _) _
  clear_value s3
  exact State.setTask_canonical (foldl_keeps (P := State.Canonical) h3 (fun _ _ h => State.clearField_canonical h _) fs) _

theorem State.flushFields_canonical (h : s.Canonical) (k) : (s.flushFields k).1.Canonical := by
  grind [State.Canonical, State.flushFields, State.holdOnce_canonical, State.writeBacks_canonical]

theorem State.saveSteps_canonical (h : s.Canonical) (ctx f) (t) :
    (s.saveSteps ctx f = .ok t → t.Canonical) ∧ (s.saveSteps ctx f = .error t → t.Canonical) := by
  grind [State.saveSteps, State.elasticCopy_canonical, State.holdPages_canonical]

theorem State.flushTask_canonical (h : s.Canonical) (k) : (s.flushTask k).1.Canonical := by
  have steps : ∀ u, k.fields.foldlM (fun s f => s.saveSteps k.ctx f) s = .ok u → u.Canonical := fun _ e =>
    foldlM_keeps (P := State.Canonical) e h fun _ _ _ e h => (State.saveSteps_canonical h _ _ _).1 e
  unfold State.flushTask
  split
  next e => exact State.flushFields_canonical (steps _ e) k
  next e =>
    exact foldlM_error (P := State.Canonical) (Q := State.Canonical) e h (fun _ _ _ e h => (State.saveSteps_canonical h _ _ _).1 e)
      (fun _ _ _ e h => (State.saveSteps_canonical h _ _ _).2 e)

theorem State.postSave_canonical (h : s.Canonical) (k why c) : (s.postSave k why c).Canonical := h

theorem State.restoreTask_canonical (h : s.Canonical) (m k v r fs) : (s.restoreTask m k v r fs).Canonical := by
  unfold State.restoreTask
  extract_lets g ct now delta dOf vecOut slot chan flight strm s1 mem key back s2
  have h1 : s1.Canonical := foldl_keeps (P := State.Canonical) h (fun _ _ h => State.setField_canonical h _) _
  have hm : Memory.wf mem = true := foldl_keeps (P := fun m => Memory.wf m = true) h1 (fun _ _ h => wf_zeroRange h) _
  clear_value mem
  exact foldl_keeps (P := fun m => Memory.wf m = true) hm (fun _ _ h => wf_writeByte h) _

theorem State.dispatch_canonical (h : s.Canonical) (m r fs) : (s.dispatch m r fs).Canonical := by
  unfold State.dispatch
  extract_lets s1 s2 s3
  have h1 : s1.Canonical := State.readCtx_canonical h _
  have h2 : s2.Canonical := by
    dsimp only [s2]
    clear_value s1
    split
    · exact State.startTask_canonical h1 ..
    split
    · exact State.syncRounds_canonical (State.restoreTask_canonical h1 ..)
    · exact h1
  clear_value s2
  have h3 : s3.Canonical := State.setMQ_canonical h2 _
  exact h3

theorem execMeridianSelect_canonical {die} (e : execMeridianSelect die s = .next t) (h : s.Canonical) : t.Canonical := by
  unfold execMeridianSelect at e
  extract_lets u at e
  have hu : u.Canonical := foldl_keeps (P := State.Canonical) h (fun _ _ h => State.submit_canonical h ..) _
  clear_value u
  split at e
  · cases e; exact State.dispatch_canonical hu ..
  · cases e; exact hu

theorem execEntryStrandStart_canonical {tno} (e : execEntryStrandStart tno s = .next t) (h : s.Canonical) : t.Canonical := by
  grind [execEntryStrandStart, State.setTask_canonical, State.dropStrands_canonical]

theorem execQueueAgeing_canonical {die q} (e : execQueueAgeing die q s = .next t) (h : s.Canonical) : t.Canonical := by
  unfold execQueueAgeing at e
  extract_lets at e
  cases e
  split
  · exact h
  · exact h

theorem execReservationTake_canonical {die q} (e : execReservationTake die q s = .next t) (h : s.Canonical) : t.Canonical := by
  unfold execReservationTake at e
  extract_lets at e
  split at e
  · cases e
    exact h
  cases e
  exact h

theorem State.completionWord_canonical {k st f table} (e : s.completionWord k st f table = some t) (h : s.Canonical) : t.Canonical := by
  grind [State.Canonical, State.completionWord, State.post_canonical, State.setRace_canonical, State.storeSector_canonical,
    State.devWrite_canonical]

theorem State.freeTask_canonical (h : s.Canonical) (k) : (s.freeTask k).Canonical := by
  unfold State.freeTask
  extract_lets gone s1 s2
  have h1 : s1.Canonical := foldl_keeps (P := State.Canonical) h (fun _ _ h => State.leave_canonical h _) _
  have h2 : s2.Canonical := State.dropStrands_canonical (State.dropFields_canonical (by exact h1) _) _
  clear_value s2
  exact foldl_keeps (P := State.Canonical) h2 (fun _ _ h => State.clearField_canonical h _) _

theorem State.postTask_canonical (h : s.Canonical) (k st f table) : (s.postTask k st f table).Canonical := by
  grind [State.Canonical, State.postTask, State.completionWord_canonical, State.syncRounds_canonical, State.holdOnce_canonical,
    State.xpDown_canonical, State.devWrite_canonical]

theorem execTaskCompletion_canonical {tno} (e : execTaskCompletion tno s = .next t) (h : s.Canonical) : t.Canonical := by
  grind [execTaskCompletion, State.freeTask_canonical, State.setTask_canonical, State.flushFields_canonical,
    State.postTask_canonical]

theorem State.holdTask_canonical (h : s.Canonical) (k) : (s.holdTask k).Canonical := h

theorem execQuantumExpiry_canonical {tno} (e : execQuantumExpiry tno s = .next t) (h : s.Canonical) : t.Canonical := by
  unfold execQuantumExpiry at e
  split at e
  · cases e
    exact h
  split at e
  · cases e
    exact h
  split at e
  · cases e
    exact h
  cases e
  exact h

theorem State.atBase_canonical (h : s.Canonical) (die q) : (s.atBase die q).Canonical := h

theorem State.requeue_canonical (h : s.Canonical) (k die q) : (s.requeue k die q).Canonical := h

theorem execPreemptionSave_canonical {tno} (e : execPreemptionSave tno s = .next t) (h : s.Canonical) : t.Canonical := by
  grind [execPreemptionSave, State.holdTask_canonical, State.syncRounds_canonical, State.atBase_canonical,
    State.saveTask_canonical, State.requeue_canonical, State.flushTask_canonical]

theorem execStallEscalation_canonical {tno} (e : execStallEscalation tno s = .next t) (h : s.Canonical) : t.Canonical := by
  grind [execStallEscalation, State.syncRounds_canonical, State.saveTask_canonical, State.postSave_canonical,
    State.requeue_canonical, State.flushTask_canonical]

theorem execCtxsave_canonical {c b} (e : execCtxsave c b s = .next t) (h : s.Canonical) : t.Canonical := by
  unfold execCtxsave at e
  split at e
  · exact State.raise_canonical e h
  refine run_canonical e h ?_
  grind [Act.Canonical, State.setTask_canonical, State.holdTask_canonical, State.up_canonical]

theorem execCtxsaveComplete_canonical {tno} (e : execCtxsaveComplete tno s = .next t) (h : s.Canonical) : t.Canonical := by
  grind [execCtxsaveComplete, State.holdTask_canonical, State.syncRounds_canonical, State.saveTask_canonical,
    State.postSave_canonical, State.xpDown_canonical, State.flushTask_canonical]

theorem execCtxload_canonical {c b} (e : execCtxload c b s = .next t) (h : s.Canonical) : t.Canonical := by
  unfold execCtxload at e
  split at e
  · exact State.raise_canonical e h
  refine run_canonical e h ?_
  dsimp only
  split
  · exact h
  split
  · exact h
  split
  · exact h
  split
  next he => exact (eq_keeps he (State.readRecord_canonical h ..) :)
  next he => exact (eq_keeps he (State.readRecord_canonical h ..) :)
  next u _ he =>
    have hu : u.Canonical := (eq_keeps he (State.readRecord_canonical h ..) :)
    clear e he
    grind [Act.Canonical, State.requeue_canonical]

end Sys2Proof.Machine
end

section
/-!
### The canonical form of memory is kept: Machine/Engines
-/
namespace Sys2Proof.Machine
variable {s t u : State} {x y : Fx} {w : EW} {α β : Type}

theorem State.flushIn_canonical (h : s.Canonical) (a l) : (s.flushIn a l).1.Canonical := by
  induction l generalizing s with
  | nil => exact h
  | cons f r ih => grind [State.flushIn, State.flushAt_canonical]

theorem State.engFlush_canonical (h : s.Canonical) (a) : (s.engFlush a).1.Canonical := State.flushIn_canonical h ..

theorem State.engPerform_canonical (h : s.Canonical) (a) : (s.engPerform a).1.Canonical := by
  unfold State.engPerform
  split
  · exact State.spPerform_canonical h ..
  split
  next he => exact fst_canonical he (State.engFlush_canonical h ..)
  next he => exact fst_canonical he (State.engFlush_canonical h ..)
  next he => exact State.homePerform_canonical (fst_canonical he (State.engFlush_canonical h ..)) ..

theorem State.holdReq_canonical (h : s.Canonical) (r a cause why) : (s.holdReq r a cause why).Canonical :=
  State.holdAccOnce_canonical h ..

theorem eFlags_canonical (f) : EngKeeps (eFlags f) := .modify fun _ h => h

theorem eAccess_canonical (a) : EngKeeps (eAccess a) := by
  refine ⟨fun w b w' h e => ?_⟩
  unfold eAccess at e
  split at e
  · cases e
  split at e
  next he =>
    cases e
    exact fst_canonical he (State.engPerform_canonical h _)
  all_goals cases e

theorem eBytes_canonical (obj off n sync exempt) : EngKeeps (eBytes obj off n sync exempt) :=
  .get_bind fun _ _ => .bind (.mapM (fun _ => .bind (eAccess_canonical ..) fun _ => .pure _) _) fun _ => .pure _

theorem eNum_canonical (obj off n) : EngKeeps (eNum obj off n) := .bind (eBytes_canonical ..) fun _ => .pure _

theorem eWrite_canonical (obj off b) : EngKeeps (eWrite obj off b) := .modify fun _ h => h

theorem ePut_canonical (obj off b) : EngKeeps (ePut obj off b) :=
  .get_bind fun _ _ => .bind (.get_bind fun _ _ => .mapM (fun _ => eAccess_canonical ..) _) fun _ => .pure _

theorem State.engWrite_canonical (h : s.Canonical) (r obj off b) : (s.engWrite r obj off b).1.Canonical := by
  grind [State.engWrite, State.setRace_canonical, State.engFlush_canonical, State.homePerform_canonical,
    State.spPerform_canonical]

theorem State.postReq_canonical (h : s.Canonical) (r eng kind k held) : (s.postReq r eng kind k held).Canonical := h

theorem State.engWrite_land (h : s.Canonical) (r obj off b) : (s.engWrite r obj off b).2.Canonical := by
  have hf := fun a => State.engFlush_canonical h a
  grind [State.engWrite, State.holdReq_canonical, Land.Canonical]

theorem State.landGo_canonical (h : s.Canonical) (r eng line rdr l) : (s.landGo r eng line rdr l).1.Canonical := by
  induction l generalizing s line rdr with
  | nil => exact h
  | cons p ps ih =>
    have hw := State.engWrite_canonical h r p.1 p.2.1 p.2.2
    have hl := State.engWrite_land h r p.1 p.2.1 p.2.2
    grind [State.landGo, State.setHits_canonical, State.postReq_canonical, Land.Canonical]

theorem State.setStream_canonical (h : s.Canonical) (st) : (s.setStream st).Canonical := h

theorem State.engFault_canonical (h : s.Canonical) (st r k fl) : (s.engFault st r k fl).Canonical := h

theorem State.engLand_canonical (h : s.Canonical) (st r w) : (s.engLand st r w).Canonical := by
  unfold State.engLand
  dsimp only
  split
  next he => exact State.setStream_canonical (fst_canonical he (State.landGo_canonical h ..)) ..
  next he => exact State.setStream_canonical (fst_canonical he (State.landGo_canonical h ..)) ..
  next he => exact State.setStream_canonical (fst_canonical he (State.landGo_canonical h ..)) ..
  next he => exact State.setStream_canonical (fst_canonical he (State.landGo_canonical h ..)) ..
  next he => exact State.engFault_canonical (fst_canonical he (State.landGo_canonical h ..)) ..

theorem State.srcElem_canonical {src} (e : s.srcElem src = some x) (h : s.Canonical) : x.s.Canonical := by
  unfold State.srcElem at e
  split at e
  · extract_lets sl at e
    split at e
    · obtain ⟨_, -, rfl⟩ := Option.map_eq_some_iff.1 e
      exact h
    · cases e
  · cases e

theorem State.engRun_canonical {sid majors body hold} (hb : ∀ r, EngKeeps (body r)) (e : s.engRun sid majors body hold = some t)
    (h : s.Canonical) : t.Canonical := by
  unfold State.engRun at e
  split at e
  · cases e
  split at e
  · cases e
  split at e
  · cases e
  split at e
  · cases e; exact State.engLand_canonical h ..
  split at e
  · cases e
  split at e
  · cases e; exact State.setStream_canonical h _
  split at e
  · cases e; exact State.setStream_canonical h _
  split at e
  · cases e
  split at e
  next w hr =>
    have hw := (hb _).keeps _ _ _ h hr
    extract_lets resp st' _ u _ at e
    have hu : u.Canonical := by
      simp only [u]
      split
      · exact State.postReq_canonical hw ..
      · exact hw
    clear_value u
    split at e
    · cases e; exact State.setStream_canonical hw _
    split at e
    · cases e; exact State.engFault_canonical hw ..
    · cases e; exact State.engLand_canonical hu ..
  · cases e; exact State.holdReq_canonical h ..
  · cases e
  next k fl at_ _ =>
    extract_lets u at e
    have hu : u.Canonical := by
      simp only [u]
      split
      · exact State.keepPoison_canonical h ..
      · exact h
    clear_value u
    split at e
    · cases e; exact State.setStream_canonical (State.postReq_canonical hu ..) _
    · cases e; exact State.engFault_canonical hu ..

theorem engStep_canonical {r} (e : engStep s r = .next t) (h : s.Canonical) (hr : ∀ u, r = some u → u.Canonical) : t.Canonical := by
  cases e
  cases r with
  | none => exact h
  | some u => exact hr u rfl

theorem execPagePin_canonical {sid} (e : execPagePin sid s = .next t) (h : s.Canonical) : t.Canonical := by
  unfold execPagePin at e
  split at e
  · cases e; exact h
  split at e
  · cases e; exact h
  split at e
  · cases e; exact h
  extract_lets a at e
  split at e
  · cases e; exact h
  split at e
  · cases e; exact State.setStream_canonical h _
  · cases e; exact State.holdReq_canonical h ..
  · cases e; exact h

theorem State.tileWait_canonical (h : s.Canonical) (f w d l) : (s.tileWait f w d l).Canonical := by
  unfold State.tileWait
  dsimp only
  split
  · exact h
  · exact h

theorem State.tileGone_canonical (h : s.Canonical) (f w) : (s.tileGone f w).Canonical := by
  unfold State.tileGone
  dsimp only
  split
  · exact h
  · exact h

theorem State.tileQueue_canonical (h : s.Canonical) (i p) : (s.tileQueue i p).Canonical := State.tileWait_canonical h ..

theorem State.enqueue_canonical (h : s.Canonical) (i p r) : (s.enqueue i p r).Canonical := by
  unfold State.enqueue
  dsimp only
  split
  · split
    · split
      · split
        · exact State.tileGone_canonical h ..
        · exact State.tileGone_canonical h ..
      split
      · exact State.tileGone_canonical h ..
      · exact State.tileGone_canonical h ..
    split
    · split
      · exact State.tileGone_canonical h ..
      · exact State.tileGone_canonical h ..
    split
    · exact State.tileGone_canonical h ..
    · exact State.tileGone_canonical h ..
  split
  · split
    · exact State.tileGone_canonical h ..
    · exact State.tileGone_canonical h ..
  split
  · exact State.tileGone_canonical h ..
  · exact State.tileGone_canonical h ..

theorem State.sendReq_canonical {also : State → State} (h : s.Canonical) (i p t cls r) (ha : ∀ s, s.Canonical → (also s).Canonical) :
    (s.sendReq i p t cls r also).Canonical := by
  unfold State.sendReq
  split
  · exact State.tileQueue_canonical h ..
  split
  · exact h
  split
  · exact h
  have hr := State.release_canonical h [s.setOf i.x]
  split
  next e => rwa [e] at hr
  next e => rwa [e] at hr
  next e =>
    rw [e] at hr
    exact ha _ (State.up_canonical (State.enqueue_canonical hr ..) _)

theorem engBlock_canonical {w major size reads plan} {also : State → List Byte → State → State}
    (e : engBlock w major size reads plan also s = .next t) (h : s.Canonical)
    (ha : ∀ {u : State} b v, v.Canonical → (also u b v).Canonical) : t.Canonical := by
  refine runL_canonical e h ?_
  extract_lets c o
  split
  · exact h
  split
  · exact h
  split
  · exact h
  have hr := State.readRecord_canonical h (s.strandAccess c.obj o.toNat 16 .capRead 0 1) (size / 16)
  split
  next he => rwa [he] at hr
  next he => rwa [he] at hr
  next he =>
    rw [he] at hr
    extract_lets blk i p
    split
    · exact hr
    · exact State.sendReq_canonical hr _ _ _ _ _ (ha blk)

theorem ringPut_canonical (c w) : EngKeeps (ringPut c w) := by
  refine .get_bind fun e he => ?_
  extract_lets r set
  refine .bind (eAccess_canonical _) fun h => .bind (.mapM (fun k => .bind (eAccess_canonical _) fun _ => .pure _) _) fun rest => ?_
  split
  · exact .fault _
  split
  · exact .pure _
  extract_lets o
  split
  · exact .fault _
  split
  · exact .fault _
  next hs =>
    exact .bind (.modify fun w h => State.acquireFrom_canonical hs he) fun _ => .bind (eAccess_canonical _) fun _ =>
      .bind (eAccess_canonical _) fun _ => .pure _

theorem State.discardResps_canonical (h : s.Canonical) (st r) : (s.discardResps st r).Canonical := h

theorem Fx.sendTokens_canonical (h : x.s.Canonical) (ts) : (x.sendTokens ts).s.Canonical := by
  refine foldl_keeps (P := Fx.Canonical) h (fun x bs h => ?_) ts
  have hq : (x.queue (bs.map fun b => (0, b))).s.Canonical := Fx.queue_canonical h _
  extract_lets y z
  have hz : z.s.Canonical := Fx.token_canonical hq
  split
  · split
    · exact Fx.closeRound_canonical hz
    · exact hz
  · exact hq

theorem State.deliverResp_canonical {sid} (e : s.deliverResp sid = some t) (h : s.Canonical) : t.Canonical := by
  unfold State.deliverResp at e
  split at e
  · cases e
  next st _ =>
  split at e
  · cases e
  next r _ =>
  split at e
  · cases e
  next w ws _ =>
  have lost := State.discardResps_canonical h st r
  extract_lets took at e
  split at e
  · cases e; exact lost
  split at e
  · cases e; exact State.setStream_canonical h _
  · cases e; exact lost
  · split at e
    · split at e
      · cases e; exact lost
      · split at e
        · cases e
        · cases e; exact State.updPortBind_canonical (State.setStream_canonical h _) _ _ _ _
    · cases e; exact lost
  · split at e
    next hp => cases e; exact State.setStream_canonical ((ringPut_canonical ..).keeps _ _ _ h hp) _
    · cases e
    · cases e; exact State.holdReq_canonical h _ _ _ _
    · cases e
    · cases e
      refine State.setStream_canonical (State.postReq_canonical ?_ _ _ _ _ _) _
      split
      · exact State.keepPoison_canonical h _ _
      · exact h
  · split at e
    · cases e; exact lost
    · split at e
      · cases e
      · cases e; exact State.setElem_canonical (State.setStream_canonical h _) _ _ _

theorem State.deliverData_canonical {sid} (e : s.deliverData sid = some t) (h : s.Canonical) : t.Canonical := by
  unfold State.deliverData at e
  split at e
  · cases e
  split at e
  · extract_lets at e
    split at e
    · cases e
    cases e
    exact h
  · split at e
    · cases e
      exact h
    · cases e
  · cases e

theorem State.srcDown_canonical (h : s.Canonical) (src cls) : (s.srcDown src cls).Canonical := by
  unfold State.srcDown
  split
  · exact State.updStrand_canonical h ..
  · exact h

theorem State.completeReq_canonical {sid} (e : s.completeReq sid = some t) (h : s.Canonical) : t.Canonical := by
  unfold State.completeReq at e
  split at e
  · cases e
  split at e
  · cases e
  extract_lets at e
  split at e
  · cases e
  cases e
  exact State.srcDown_canonical (by exact h) ..

theorem execTileFillComplete_canonical {fld tile} (e : execTileFillComplete fld tile s = .next t) (h : s.Canonical) : t.Canonical := by
  unfold execTileFillComplete at e
  extract_lets at e
  cases e
  split
  · exact h
  · exact h

theorem execTileDrainComplete_canonical {fld tile} (e : execTileDrainComplete fld tile s = .next t) (h : s.Canonical) :
    t.Canonical := by
  unfold execTileDrainComplete at e
  extract_lets at e
  cases e
  split
  · exact h
  · exact h

theorem execFollowOnIssue_canonical {sid} (e : execFollowOnIssue sid s = .next t) (h : s.Canonical) : t.Canonical := by
  unfold execFollowOnIssue at e
  split at e
  · cases e; exact h
  split at e
  · cases e; exact h
  split at e
  · cases e; exact State.setStream_canonical h _
  · extract_lets u q eng at e
    have hu : u.Canonical := State.setStream_canonical h _
    clear_value u
    split at e
    · cases e; exact hu
    · cases e; exact hu

theorem State.consume_canonical {rs} (e : s.consume rs = some t) (h : s.Canonical) : t.Canonical := by
  obtain ⟨u, hu, rfl⟩ := Option.map_eq_some_iff.1 e
  exact foldl_keeps (P := State.Canonical) (State.acquireFrom_canonical hu h) (fun _ _ h => State.invalidate_canonical h ..) _

theorem State.setPair_canonical (h : s.Canonical) (d lo hi) : (s.setPair d lo hi).Canonical :=
  State.setSreg_canonical (State.setSreg_canonical h ..) ..

theorem execEresp_canonical {w} (e : execEresp w s = .next t) (h : s.Canonical) : t.Canonical := by
  refine runL_canonical e h ?_
  extract_lets c o x'
  split
  · exact h
  split
  · exact h
  split
  · exact h
  split
  · exact h
  split
  · exact h
  split
  next he => exact (eq_keeps he (State.readRecord_canonical h ..) :)
  next he => exact (eq_keeps he (State.readRecord_canonical h ..) :)
  next he =>
  have hr : State.Canonical _ := (eq_keeps he (State.readRecord_canonical h ..) :)
  split
  next he => exact State.holdAccOnce_canonical (fst_canonical he (State.performSync_canonical hr _)) ..
  next he => exact fst_canonical he (State.performSync_canonical hr _)
  next he => exact fst_canonical he (State.performSync_canonical hr _)
  next he =>
  have hs := fst_canonical he (State.performSync_canonical hr _)
  split
  · exact hs
  split
  · split
    · exact State.setPair_canonical hs ..
    · exact hs
  extract_lets so
  split
  · exact hs
  split
  next he => exact State.holdAccOnce_canonical (fst_canonical he (State.perform_canonical hs _)) ..
  next he => exact fst_canonical he (State.perform_canonical hs _)
  next he => exact fst_canonical he (State.perform_canonical hs _)
  next he =>
  have hp := fst_canonical he (State.perform_canonical hs _)
  split
  · exact hp
  next he =>
  have hc := State.consume_canonical he hp
  split
  next he => exact (eq_keeps he (State.release_canonical hc _) :)
  next he => exact (eq_keeps he (State.release_canonical hc _) :)
  next he =>
  have hl : State.Canonical _ := (eq_keeps he (State.release_canonical hc _) :)
  split
  next he => exact State.holdAccOnce_canonical (fst_canonical he (State.performSync_canonical hl _)) ..
  next he => exact fst_canonical he (State.performSync_canonical hl _)
  next he => exact fst_canonical he (State.performSync_canonical hl _)
  next he => exact State.setPair_canonical (fst_canonical he (State.performSync_canonical hl _)) ..

end Sys2Proof.Machine
end

section
/-!
### The canonical form of memory is kept: Machine/Copies
-/
namespace Sys2Proof.Machine
variable {s t u : State} {x y : Fx} {w : EW} {α β : Type}

theorem eSend_canonical (c off b) : EngKeeps (eSend c off b) := by
  refine .get_bind fun w hw => ?_
  split
  · exact .modify fun _ h => h
  · exact eWrite_canonical ..

theorem eSegs_canonical (c l) : EngKeeps (eSegs c l) :=
  .bind (.get_bind fun _ _ => .get_bind fun _ _ => .mapM (fun _ => eBytes_canonical ..) _) fun _ => .pure _

theorem eSource_canonical (c both segs) : EngKeeps (eSource c both segs) := by
  refine .get_bind fun w hw => ?_
  extract_lets r n rest
  split
  · exact eSegs_canonical ..
  have hrest : ∀ l, EngKeeps (rest l) := fun l => .bind (.modify fun _ h => h) fun _ => .pure _
  split
  · exact .bind (eSegs_canonical ..) hrest
  · exact .bind (.pure _) hrest

theorem copyBody_canonical (r) : EngKeeps (copyBody r) := by
  unfold copyBody
  extract_lets
  split
  · exact .bind (eSource_canonical ..) fun _ => .bind (eSend_canonical ..) fun _ => .pure _
  refine .bind (eSource_canonical ..) fun _ => ?_
  extract_lets
  split
  extract_lets
  split
  · exact .bind (eSend_canonical ..) fun _ => .bind (eSend_canonical ..) fun _ => .bind (eFlags_canonical ..) fun _ => .pure _
  exact .bind (eSend_canonical ..) fun _ => .bind (eFlags_canonical ..) fun _ => .pure _

theorem eInTile_canonical (k off n) : EngKeeps (eInTile k off n) := by
  refine .get_bind fun w hw => ?_
  split
  · exact .fault _
  · exact .pure _

theorem gatherBody_canonical (r) : EngKeeps (gatherBody r) := by
  refine .bind (eNum_canonical ..) fun v => .get_bind fun w hw => ?_
  split
  · exact .fault _
  refine .bind (eInTile_canonical ..) fun _ => ?_
  split
  · exact .bind (eBytes_canonical ..) fun b => .bind (eWrite_canonical ..) fun _ => .pure _
  · exact .bind (eBytes_canonical ..) fun b => .bind (eSend_canonical ..) fun _ => .pure _

theorem codecBody_canonical (r) : EngKeeps (codecBody r) := by
  unfold codecBody
  extract_lets kind ex co le k
  split
  · refine .bind (eBytes_canonical ..) fun b => ?_
    split
    exact .bind (eWrite_canonical ..) fun _ => .bind (eWrite_canonical ..) fun _ => .pure _
  refine .bind (eNum_canonical ..) fun len => ?_
  split
  · exact .pure _
  refine .bind (eBytes_canonical ..) fun raw => ?_
  split
  · exact .pure _
  · exact .bind (eWrite_canonical ..) fun _ => .pure _

theorem protCheck_canonical (pi r gt pit lb at_ rt n k) : EngKeeps (protCheck pi r gt pit lb at_ rt n k) := by
  induction n generalizing k with
  | zero => exact .pure _
  | succ n ih =>
    refine .bind (eBytes_canonical ..) fun b => .bind (eBytes_canonical ..) fun p => ?_
    extract_lets m
    split
    · exact ih _
    · exact .pure _

theorem cksumBody_canonical (r) : EngKeeps (cksumBody r) := by
  unfold cksumBody
  extract_lets n c gt lb at_ rt
  split
  · exact .bind (eBytes_canonical ..) fun b => .pure _
  split
  · exact .bind (.mapM (fun k => .bind (eBytes_canonical ..) fun b => .pure _) _) fun ps => .bind (eWrite_canonical ..) fun _ => .pure _
  refine .bind (protCheck_canonical ..) fun k => ?_
  split
  · exact .pure _
  · exact .pure _

end Sys2Proof.Machine
end

section
/-!
### The canonical form of memory is kept: Machine/Matrix
-/
namespace Sys2Proof.Machine
variable {s t u : State} {x y : Fx} {w : EW} {α β : Type}

theorem eRows_canonical (obj o rows fmt k) : EngKeeps (eRows obj o rows fmt k) :=
  .get_bind fun _ _ => .mapM (fun _ => .bind (.mapM (fun _ => eBytes_canonical ..) _) fun _ => .pure _) _

theorem State.setAcc_canonical (h : s.Canonical) (f arr t i j v) : (s.setAcc f arr t i j v).Canonical := wf_writeLE h

theorem State.setRows_canonical (h : s.Canonical) (f arr t i0 es) : (s.setRows f arr t i0 es).Canonical :=
  foldl_keeps (P := State.Canonical) h (fun _ _ h => foldl_keeps (P := State.Canonical) h (fun _ _ h => State.setAcc_canonical h ..) _) _

theorem State.takeShadow_canonical (h : s.Canonical) (f req arr k) : (s.takeShadow f req arr k).Canonical := h

theorem State.restoreShadow_canonical (h : s.Canonical) (f req) : (s.restoreShadow f req).Canonical := by
  unfold State.restoreShadow
  extract_lets fl
  split
  · exact wf_foldl_writeByte (wf_filter h)
  · exact h

theorem State.sendPlain_canonical (h : s.Canonical) (w major arr ops) : (s.sendPlain w major arr ops).Canonical :=
  State.sendReq_canonical h _ _ _ _ _ fun _ h => h

theorem matIssue_canonical {w major mmx} (e : matIssue w major mmx s = .next t) (h : s.Canonical) : t.Canonical := by
  refine runL_canonical e h ?_
  unfold matIssue at e
  dsimp only
  extract_lets at e
  split
  · exact h
  split
  · exact h
  · exact State.sendPlain_canonical h ..

theorem eTiles_canonical (m) : EngKeeps (eTiles m) := by
  refine .get_bind fun w hw => ?_
  extract_lets f own
  split
  · exact .fault _
  split
  · exact .fault _
  split
  · exact .stop _
  · exact .set (State.setField_canonical (State.tileGone_canonical hw ..) _)

theorem mmaBody_canonical (r) : EngKeeps (mmaBody r) := by
  refine .get_bind fun w hw => ?_
  split
  · exact .stop _
  refine .bind (eTiles_canonical _) fun _ => .bind (eRows_canonical ..) fun a => .bind (eRows_canonical ..) fun b => ?_
  refine .bind (.mapM (fun p => .mapM (fun q => ?_) _) _) fun out => .bind (.modify fun w h => State.setRows_canonical h ..) fun _ => .pure _
  split
  split
  · exact .bind (eFlags_canonical _) fun _ => .pure _
  · exact .fault _

theorem eScales_canonical (obj off n) : EngKeeps (eScales obj off n) :=
  .mapM (fun _ => .bind (eBytes_canonical ..) fun _ => .pure _) _

theorem mmxBody_canonical (r) : EngKeeps (mmxBody r) := by
  refine .get_bind fun w hw => ?_
  split
  · exact .stop _
  refine .bind (eTiles_canonical _) fun _ => .bind (eRows_canonical ..) fun a => .bind (eRows_canonical ..) fun b =>
    .bind (eScales_canonical ..) fun sa => .bind (eScales_canonical ..) fun sb => ?_
  extract_lets band bp es
  split
  · exact .fault _
  refine .bind (.mapM (fun p => .mapM (fun q => ?_) _) _) fun out =>
    .bind (.modify fun w h => State.setField_canonical (State.setRows_canonical h ..) _) fun _ => .pure _
  split
  split
  · exact .bind (eFlags_canonical _) fun _ => .pure _
  · exact .fault _

theorem State.shadowed_canonical (h : s.Canonical) (sid) : (s.shadowed sid).Canonical := by
  unfold State.shadowed
  dsimp only
  split
  next he =>
    obtain ⟨_, hf, he⟩ := Option.bind_eq_some_iff.1 he
    split
    · split
      · exact h
      split
      · exact h
      · exact State.takeShadow_canonical (State.tileWait_canonical h ..) ..
    · exact h
  · exact h

theorem State.dropShadows_canonical (h : s.Canonical) (sid) : (s.dropShadows sid).Canonical := by
  unfold State.dropShadows
  split
  · refine foldl_keeps (P := State.Canonical) h (fun s r h => ?_) _
    split
    · exact State.setField_canonical h _
    · exact h
  · exact h

theorem State.arrayStep_canonical {sid major body} (hb : ∀ r, EngKeeps (body r)) (e : s.arrayStep sid major body = .next t)
    (h : s.Canonical) : t.Canonical := by
  cases e
  have hs := State.shadowed_canonical h sid
  refine State.dropShadows_canonical ?_ _
  cases hr : (s.shadowed sid).engRun sid [major] body arrayHolds with
  | none => exact hs
  | some u => exact State.engRun_canonical hb hr hs

theorem rowIssue_canonical {w major raw regs} (e : rowIssue w major raw regs s = .next t) (h : s.Canonical) : t.Canonical := by
  refine runL_canonical e h ?_
  unfold rowIssue at e
  dsimp only
  split
  · exact h
  split
  · exact h
  · exact State.sendPlain_canonical h ..

theorem accrdBody_canonical (r) : EngKeeps (accrdBody r) := by
  refine .get_bind fun w hw => ?_
  extract_lets o s
  split
  · exact .stop _
  refine .bind (.mapM (fun j => ?_) _) fun _ => .pure _
  extract_lets es at_ cs
  split
  · exact eWrite_canonical ..
  · exact .bind (eFlags_canonical _) fun _ => eWrite_canonical ..

theorem accwrBody_canonical (r) : EngKeeps (accwrBody r) := by
  refine .get_bind fun w hw => ?_
  extract_lets s
  split
  · exact .stop _
  refine .bind (.mapM (fun j => .bind (eBytes_canonical ..) fun b => .pure _) _) fun rows => ?_
  split
  · exact .fault _
  refine .bind (.modify fun w h => ?_) fun _ => .pure _
  extract_lets s
  have hs : s.Canonical := State.setRows_canonical h ..
  show State.Canonical (if _ then _ else _)
  split
  · exact State.setField_canonical hs _
  · exact hs

theorem fireMxp_canonical {f site} (e : fireMxp f site s = some t) (h : s.Canonical) : t.Canonical := by
  obtain ⟨x, hx, e⟩ := Option.bind_eq_some_iff.1 e
  replace hx := State.fxAt_canonical hx h
  refine Fx.fire_canonical e hx fun t e => ?_
  split at e
  · split at e
    · split at e
      · split at e
        · cases e
        · extract_lets c at e
          split at e
          exact Fx.fired_canonical e (Fx.queue_canonical (x := { x with s := _, e := _ }) (State.setStream_canonical hx _) _)
      · cases e
    · cases e
  · split at e
    · cases e
    next hw =>
      cases e
      exact Fx.wordAt_canonical hw hx
    · extract_lets c at e
      split at e
      · cases e
        exact Fx.stallAt_canonical hx ..
      · obtain ⟨y, hy, rfl⟩ := Option.map_eq_some_iff.1 e
        exact Fx.done_canonical (State.enqueue_canonical (Fx.drop_canonical (Fx.gateIn_canonical hy hx) 0) _ _ _)

end Sys2Proof.Machine
end

section
/-!
### The canonical form of memory is kept: Machine/Nvme
-/
namespace Sys2Proof.Machine
variable {s t u : State} {x y : Fx} {w : EW} {α β : Type}

theorem State.setNvq_canonical (h : s.Canonical) (q) : (s.setNvq q).Canonical := h

theorem State.queueWrite_canonical (h : s.Canonical) (key b) : (s.queueWrite key b).Canonical :=
  foldl_keeps (P := State.Canonical) h (fun _ _ h => State.storeSector_canonical h ..) _

theorem ePin_canonical (obj page wr) : EngKeeps (ePin obj page wr) := by
  refine .get_bind fun w hw => ?_
  extract_lets a
  split
  · exact .stop _
  split
  · exact .pure _
  · exact .stop _
  · exact .stop _

theorem State.ringDoor_canonical (h : s.Canonical) (c) : (s.ringDoor c).Canonical :=
  State.setNvq_canonical (State.queueWrite_canonical h ..) ..

theorem State.cqPut_canonical (h : s.Canonical) (pair c) : (s.cqPut pair c).Canonical :=
  State.setNvq_canonical (State.queueWrite_canonical h ..) ..

theorem State.cqTake_canonical (h : s.Canonical) (pair) : (s.cqTake pair).Canonical := h

end Sys2Proof.Machine
end

section
/-!
### The canonical form of memory is kept: Machine/Kv
-/
namespace Sys2Proof.Machine
variable {s t u : State} {x y : Fx} {w : EW} {α β : Type}

theorem kAccess_canonical (j obj off n op rel exempt) : EngKeeps (kAccess j obj off n op rel exempt) :=
  .get_bind fun _ _ => eAccess_canonical ..

theorem kBytes_canonical (j obj off n exempt) : EngKeeps (kBytes j obj off n exempt) :=
  .bind (.get_bind fun _ _ => .mapM (fun _ => .bind (kAccess_canonical ..) fun _ => .pure _) _) fun _ => .pure _

theorem kSecs_canonical (j obj off n) : EngKeeps (kSecs j obj off n) :=
  .get_bind fun _ _ => .get_bind fun _ _ => .get_bind fun _ _ => .mapM (fun _ => kAccess_canonical ..) _

theorem kPut_canonical (j obj off b rel) : EngKeeps (kPut j obj off b rel) :=
  .bind (.get_bind fun _ _ => .get_bind fun _ _ => .mapM (fun _ => kAccess_canonical ..) _) fun _ => .pure _

theorem kAdd_canonical (j obj off v rel) : EngKeeps (kAdd j obj off v rel) := .bind (kAccess_canonical ..) fun _ => .pure _

theorem eBindPool_canonical (c) : EngKeeps (eBindPool c) := by
  refine .get_bind fun w hw => ?_
  split
  · exact .fault _
  extract_lets rest
  have hrest : ∀ secs, EngKeeps (rest secs) := by
    refine fun secs => .bind (.modify fun _ h => h) fun _ => ?_
    extract_lets p
    split
    · exact .fault _
    split
    · exact .fault _
    · exact .pure _
  split
  · exact .bind (.pure _) hrest
  · exact .bind (kSecs_canonical ..) hrest

theorem kEnt_canonical (p b) : EngKeeps (kEnt p b) := .get_bind fun _ _ => kBytes_canonical ..

theorem kEntPut_canonical (p b i v rel) : EngKeeps (kEntPut p b i v rel) := kPut_canonical ..

theorem kFlag_canonical (p b i on rel) : EngKeeps (kFlag p b i on rel) := .bind (kEnt_canonical ..) fun _ => kEntPut_canonical ..

theorem kHdr_canonical (p) : EngKeeps (kHdr p) := .bind (kBytes_canonical ..) fun _ => .pure _

theorem kHdrPut_canonical (p nfree head tail) : EngKeeps (kHdrPut p nfree head tail) := kPut_canonical ..

theorem kDesc_canonical (p s) : EngKeeps (kDesc p s) := by
  refine .get_bind fun w hw => ?_
  extract_lets bad
  split
  · exact .fault _
  refine .bind (kSecs_canonical ..) fun secs => ?_
  extract_lets b
  split
  · exact .fault _
  · exact .pure _

theorem kNamed_canonical (p c) : EngKeeps (kNamed p c) := by
  unfold kNamed
  extract_lets r s
  split
  · exact .fault _
  · exact .bind (kDesc_canonical ..) fun _ => .pure _

theorem kDescPut_canonical (p i off v) : EngKeeps (kDescPut p i off v) := kPut_canonical ..

theorem kDescAdd_canonical (p i off v rel) : EngKeeps (kDescAdd p i off v rel) := kAdd_canonical ..

theorem kFirst_canonical (p ok l) : EngKeeps (kFirst p ok l) := by
  induction l with
  | nil => exact .pure _
  | cons b l ih => grind [kFirst, kEnt_canonical, EngKeeps.pure, EngKeeps.bind]

theorem kChain_canonical (p ok n b) : EngKeeps (kChain p ok n b) := by
  induction n generalizing b with
  | zero => exact .fault _
  | succ n ih => grind [kChain, kEnt_canonical, EngKeeps.pure, EngKeeps.bind, EngKeeps.fault]

theorem kSearch_canonical (p ok s j l) : EngKeeps (kSearch p ok s j l) := by
  refine .bind (kFirst_canonical ..) fun b => ?_
  split
  · exact .pure _
  · exact kChain_canonical ..

theorem kLook_canonical (p j l n s) : EngKeeps (kLook p j l n s) := by
  induction n generalizing s with
  | zero => 
    unfold kLook
    refine .bind (kSearch_canonical ..) fun b => ?_
    split
    · exact .pure _
    · exact .bind (kDesc_canonical ..) fun _ => .pure _
  | succ n ih => grind [kLook, kSearch_canonical, kDesc_canonical, EngKeeps.pure, EngKeeps.bind, EngKeeps.fault]

theorem look_canonical (p i j l) : EngKeeps (look p i j l) := kLook_canonical ..

theorem kPop_canonical (p n) : EngKeeps (kPop p n) := by
  induction n with
  | zero => exact .pure _
  | succ n ih => grind [kPop, kHdr_canonical, kBytes_canonical, kHdrPut_canonical, kFlag_canonical, kEnt_canonical, EngKeeps.pure, EngKeeps.bind, EngKeeps.fault]

theorem kTake_canonical (p b i j l pol) : EngKeeps (kTake p b i j l pol) := by
  unfold kTake
  refine .bind (kEnt_canonical ..) fun _ => ?_
  exact .bind (kEntPut_canonical ..) fun _ => .bind (kEntPut_canonical ..) fun _ => .bind (kHdr_canonical ..) fun _ => .bind (kHdrPut_canonical ..) fun _ => kEntPut_canonical ..

theorem kAlloc_canonical (p s j l pol) : EngKeeps (kAlloc p s j l pol) := by
  refine .bind (kSearch_canonical ..) fun r => ?_
  split
  · exact .bind (kTake_canonical ..) fun _ => .pure _
  refine .bind (kPop_canonical ..) fun b => ?_
  split
  · exact .pure _
  · exact .bind (kEntPut_canonical ..) fun _ => .bind (kFlag_canonical ..) fun _ => .bind (kTake_canonical ..) fun _ => .pure _

theorem kRelease_canonical (p b) : EngKeeps (kRelease p b) := by
  refine .bind (kEnt_canonical ..) fun e => .bind (kHdr_canonical ..) fun h => .bind (kEntPut_canonical ..) fun _ =>
    .bind (kEntPut_canonical ..) fun _ => .bind (kEntPut_canonical ..) fun _ => .bind (kEntPut_canonical ..) fun _ => ?_
  split
  · exact kHdrPut_canonical ..
  · exact .bind (kPut_canonical ..) fun _ => kHdrPut_canonical ..

theorem kUnref_canonical (p b) : EngKeeps (kUnref p b) := by
  unfold kUnref
  extract_lets
  refine .bind (kEnt_canonical ..) fun _ => ?_
  extract_lets
  split
  · exact .bind (kEntPut_canonical ..) fun _ => .bind (kRelease_canonical ..) fun _ => .pure _
  split
  · exact .bind (kEntPut_canonical ..) fun _ => .bind (kFlag_canonical ..) fun _ => .pure _
  exact .bind (kEntPut_canonical ..) fun _ => .pure _

theorem eTry_canonical {m : Eng (Option α)} (hm : EngKeeps m) : EngKeeps (eTry m) := by
  refine .get_bind fun w hw => .bind hm fun r => ?_
  split
  · exact .pure _
  · exact .bind (.set hw) fun _ => .pure _

theorem State.kvStep_canonical {sid major body} (e : s.kvStep sid major body = .next t) (h : s.Canonical)
    (hb : ∀ r, EngKeeps (body r)) : t.Canonical := by
  unfold State.kvStep at e
  split at e
  · cases e
    exact h
  · exact engStep_canonical e h fun _ e => State.engRun_canonical hb e h

theorem lookBody_canonical (r) : EngKeeps (lookBody r) := by
  refine .bind (eBindPool_canonical _) fun p => .bind (eBytes_canonical ..) fun k => ?_
  split
  · exact .fault _
  refine .bind (look_canonical ..) fun b => ?_
  split
  · exact .pure _
  · exact .pure _

theorem kVictim_canonical (p s n b best) : EngKeeps (kVictim p s n b best) := by
  induction n generalizing b best with
  | zero => exact .pure _
  | succ n ih =>
    refine .bind (kEnt_canonical ..) fun e => ?_
    split
    · exact .bind (kDesc_canonical ..) fun d => ih _ _
    · exact ih _ _

theorem kAllocAll_canonical (p s l pol js) : EngKeeps (kAllocAll p s l pol js) := by
  induction js with
  | nil => exact .pure _
  | cons j js ih =>
    refine .bind (kAlloc_canonical ..) fun b => ?_
    split
    · exact .pure _
    · exact .bind ih fun _ => .pure _

theorem kSupply_canonical (p s l pol ev js n) : EngKeeps (kSupply p s l pol ev js n) := by
  induction n with
  | zero => exact eTry_canonical (kAllocAll_canonical ..)
  | succ n ih =>
    refine .bind (eTry_canonical (kAllocAll_canonical ..)) fun r => ?_
    split
    · exact .pure _
    split
    · exact .pure _
    refine .bind (kVictim_canonical ..) fun b => ?_
    split
    · exact .pure _
    · exact .bind (kRelease_canonical ..) fun _ => ih

theorem EngKeeps.filterMapM {f : α → Eng (Option β)} (hf : ∀ a, EngKeeps (f a)) (l : List α) : EngKeeps (l.filterMapM f) := by
  have go (l : List α) (acc : List β) : EngKeeps (List.filterMapM.loop f l acc) := by
    induction l generalizing acc with
    | nil => exact .pure _
    | cons a r ih =>
      refine .bind (hf a) fun b => ?_
      split
      · exact ih _
      · exact ih _
  exact go l []

theorem kvItem_canonical (p list ev i) : EngKeeps (kvItem p list ev i) := by
  refine .get_bind fun w hw => .bind (eBytes_canonical ..) fun b => .bind (eAccess_canonical _) fun rows => ?_
  extract_lets rows s l nt pos js n last
  split
  · exact .pure _
  refine .bind (kDesc_canonical ..) fun d => ?_
  extract_lets d
  split
  · exact .pure _
  refine .bind (.mapM (fun j => .bind (look_canonical ..) fun _ => .pure _) _) fun found => ?_
  extract_lets have_
  refine .bind (EngKeeps.filterMapM (fun q => .bind (kEnt_canonical ..) fun _ => .pure _) _) fun shared => ?_
  split
  · exact .pure _
  refine .bind (kSupply_canonical ..) fun new => ?_
  split
  · exact .pure _
  split
  · exact .fault _
  refine .bind (eBytes_canonical ..) fun src => .bind (.mapM (fun k => ?_) _) fun _ =>
    .bind (.mapM (fun q => .bind (kEnt_canonical ..) fun e => kEntPut_canonical ..) _) fun _ => ?_
  · extract_lets q
    split
    · exact .pure _
    · exact .bind (kPut_canonical ..) fun _ => kPut_canonical ..
  · split
    · exact .bind (kDescPut_canonical ..) fun _ => .pure _
    · exact .pure _

theorem kvItems_canonical (p list ev n k) : EngKeeps (kvItems p list ev n k) := by
  induction n generalizing k with
  | zero => exact .pure _
  | succ n ih =>
    refine .get_bind fun w hw => ?_
    split
    next hr => exact .bind (.set ((kvItem_canonical ..).keeps _ _ _ hw hr)) fun _ => ih _
    next hr => exact .bind (.set ((kvItem_canonical ..).keeps _ _ _ hw hr)) fun _ => .pure _
    · refine .bind (.set ?_) fun _ => .pure _
      dsimp only
      split
      · exact State.keepPoison_canonical hw ..
      · exact hw
    · exact .stop _

theorem appBody_canonical (r) : EngKeeps (appBody r) := .bind (eBindPool_canonical ..) fun _ => kvItems_canonical ..

theorem kHops_canonical (p n s) : EngKeeps (kHops p n s) := by
  induction n generalizing s with
  | zero => exact .pure _
  | succ n ih =>
    refine .bind (kDesc_canonical ..) fun d => ?_
    extract_lets a
    split
    · exact .pure _
    · exact .bind (ih _) fun _ => .pure _

theorem kBlocks_canonical (p i js) : EngKeeps (kBlocks p i js) :=
  .bind (.get_bind fun _ _ => .mapM (fun _ => .bind (look_canonical ..) fun _ => .pure _) _) fun _ => .pure _

theorem forkSeq_canonical (p parent child pos) : EngKeeps (forkSeq p parent child pos) := by
  refine .bind (kDesc_canonical ..) fun pd => .bind (kDesc_canonical ..) fun cd => ?_
  extract_lets pd
  split
  · exact .fault _
  split
  · exact .fault _
  refine .bind (kHops_canonical ..) fun hops => ?_
  split
  · exact .fault _
  refine .bind (kBlocks_canonical ..) fun bs => .bind (.mapM (fun q => .bind (kEnt_canonical ..) fun e => ?_) _) fun _ =>
    .bind (kDescPut_canonical ..) fun _ => .bind (kDescPut_canonical ..) fun _ => .bind (kDescPut_canonical ..) fun _ => .pure _
  extract_lets c
  split
  · exact .fault _
  · exact .bind (kEntPut_canonical ..) fun _ => kFlag_canonical ..

theorem unshareGo_canonical (p s j l) : EngKeeps (unshareGo p s j l) := by
  induction l with
  | nil => exact .pure _
  | cons q r ih =>
    refine .bind (kEnt_canonical ..) fun e => .bind (kAlloc_canonical ..) fun n => ?_
    split
    · exact .pure _
    refine .bind (kBytes_canonical ..) fun rows => .bind (kPut_canonical ..) fun _ => .bind (kEntPut_canonical ..) fun _ =>
      .bind (kEntPut_canonical ..) fun _ => ?_
    extract_lets rest
    split
    · exact .bind (kFlag_canonical ..) fun _ => ih
    · exact ih

theorem unshare_canonical (p s pos) : EngKeeps (unshare p s pos) := by
  refine .bind (kDesc_canonical ..) fun d => ?_
  extract_lets d
  split
  · exact .fault _
  refine .bind (kBlocks_canonical ..) fun bs => .bind (.filterM (fun q => .bind (kEnt_canonical ..) fun _ => .pure _) _) fun multi =>
    .bind (.filterM (fun q => .bind (kEnt_canonical ..) fun _ => .pure _) _) fun own => ?_
  split
  · exact .fault _
  refine .bind (eTry_canonical (unshareGo_canonical ..)) fun r => ?_
  split
  · exact .pure _
  · exact .pure _

theorem forkBody_canonical (r) : EngKeeps (forkBody r) := by
  refine .bind (eBindPool_canonical _) fun p => .bind (kNamed_canonical ..) fun a => .bind (kNamed_canonical ..) fun b => ?_
  split
  · exact unshare_canonical ..
  · exact forkSeq_canonical ..

theorem freeSeq_canonical (p s e) : EngKeeps (freeSeq p s e) := by
  refine .bind (kDesc_canonical ..) fun d => ?_
  extract_lets d len edge hi js
  refine .bind (.foldlM (fun n q => .bind (look_canonical ..) fun b => ?_) _ _) fun n => ?_
  · split
    · exact .bind (kUnref_canonical ..) fun _ => .pure _
    · exact .pure _
  · extract_lets rest
    split
    · exact .bind (kDescPut_canonical ..) fun _ => .bind (kDescPut_canonical ..) fun _ => .pure _
    · exact .bind (kDescPut_canonical ..) fun _ => .pure _

theorem freeBody_canonical (r) : EngKeeps (freeBody r) := by
  refine .bind (eBindPool_canonical _) fun p => .bind (kNamed_canonical ..) fun s => .bind (kDesc_canonical ..) fun d => ?_
  split
  · exact .stop _
  · exact .bind (freeSeq_canonical ..) fun n => .pure _

theorem polBody_canonical (r) : EngKeeps (polBody r) := by
  refine .bind (eBindPool_canonical _) fun p => .bind (kNamed_canonical ..) fun s => ?_
  extract_lets v
  split
  · exact .bind (kDesc_canonical ..) fun d => .bind (kPut_canonical ..) fun _ => .pure _
  refine .bind (.foldlM (fun n k => .bind (look_canonical ..) fun b => ?_) _ _) fun _ => .pure _
  split
  · exact .bind (kEnt_canonical ..) fun e => .bind (kEntPut_canonical ..) fun _ => .pure _
  · exact .pure _

theorem scoreBody_canonical (r) : EngKeeps (scoreBody r) := by
  refine .bind (eBindPool_canonical _) fun p => .bind (.mapM (fun b => .bind (kEnt_canonical ..) fun e => ?_) _) fun _ => .pure _
  split
  · exact kEntPut_canonical ..
  · exact .pure _

theorem State.swapWrites_canonical (h : s.Canonical) (r pair nsid) : (s.swapWrites r pair nsid).Canonical := by
  unfold State.swapWrites
  split
  · exact State.updStrand_canonical h ..
  · exact h

theorem evictStart_canonical (p s r) : EngKeeps (evictStart p s r) := by
  refine .bind (kDesc_canonical ..) fun d => ?_
  extract_lets d nb bs
  split
  · exact .fault _
  split
  · exact .stop _
  split
  · exact .bind (freeSeq_canonical ..) fun _ => .bind (kDescPut_canonical ..) fun _ => .pure _
  refine .bind (kBlocks_canonical ..) fun bs => ?_
  extract_lets
  exact .bind (.mapM (fun q => .bind (kFlag_canonical ..) fun _ => .pure _) _) fun cmds =>
    .bind (.modify fun w h => State.swapWrites_canonical (by exact h) ..) fun _ => .pure _

theorem swapSend_canonical (c) : EngKeeps (swapSend c) := by
  refine .get_bind fun w hw => ?_
  extract_lets q
  split
  · exact .stop _
  split
  exact .bind (.mapM (fun i => ePin_canonical ..) _) fun pins => .bind (.modify fun w h => State.ringDoor_canonical (by exact h) _) fun _ => .pure _

theorem evictEnd_canonical (p s r) : EngKeeps (evictEnd p s r) := by
  refine .get_bind fun w hw => ?_
  extract_lets cs
  split
  · split
    · exact swapSend_canonical _
    · exact .stop _
  refine .bind (.set hw) fun _ => .bind (kDesc_canonical ..) fun d => ?_
  extract_lets d
  split
  · exact .bind (kBlocks_canonical ..) fun bs => .bind (.mapM (fun q => kFlag_canonical ..) _) fun _ => .pure _
  · exact .bind (freeSeq_canonical ..) fun _ => .bind (kDescPut_canonical ..) fun _ => .pure _

theorem evictBody_canonical (r) : EngKeeps (evictBody r) := by
  unfold evictBody
  refine .bind (eBindPool_canonical ..) fun _ => ?_
  extract_lets
  split
  · exact .bind (kNamed_canonical ..) fun _ => evictStart_canonical ..
  exact .bind (kNamed_canonical ..) fun _ => evictEnd_canonical ..

theorem kLayers_canonical (p lt) : EngKeeps (kLayers p lt) := by
  refine .get_bind fun w hw => ?_
  extract_lets size
  split
  · exact .fault _
  split
  · exact .fault _
  refine .bind (kSecs_canonical ..) fun secs => ?_
  extract_lets b h
  split
  · exact .fault _
  split
  · exact .fault _
  · exact .pure _

theorem enqGo_canonical (p s j pol ls) : EngKeeps (enqGo p s j pol ls) := by
  induction ls with
  | nil => exact .pure _
  | cons l ls ih =>
    refine .bind (look_canonical ..) fun b => ?_
    extract_lets rest
    have hrest : ∀ got, EngKeeps (rest got) := by
      intro got
      simp only [rest]
      split
      · exact .pure _
      · exact .bind (kAdd_canonical ..) fun _ => ih
    split
    · exact .bind (.pure _) hrest
    · exact .bind (kAlloc_canonical ..) hrest

theorem enqBody_canonical (r) : EngKeeps (enqBody r) := by
  refine .bind (eBindPool_canonical _) fun p => .bind (kNamed_canonical ..) fun s => .bind (kDesc_canonical ..) fun d => ?_
  split
  extract_lets
  split
  · exact .fault _
  refine .bind (kLayers_canonical ..) fun h => .get_bind fun w hw => ?_
  split
  · exact .fault _
  split
  · exact .stop _
  split
  · exact .pure _
  refine .bind (eTry_canonical (enqGo_canonical ..)) fun r => ?_
  split
  · exact .pure _
  · exact .bind (kDescAdd_canonical ..) fun _ => .bind (kDescPut_canonical ..) fun _ => .bind (.modify fun _ h => h) fun _ => .pure _

theorem backfillBody_canonical (b) : EngKeeps (backfillBody b) := by
  unfold backfillBody
  extract_lets p
  refine .bind (kDesc_canonical ..) fun d => .bind (kLayers_canonical ..) fun h => .bind (eBytes_canonical ..) fun hb => ?_
  extract_lets hv proj
  have hproj : ∀ c, EngKeeps (proj c) := by
    refine fun c => .get_bind fun w hw => ?_
    split
    · exact .fault _
    · exact .mapM (fun d => .bind (eBytes_canonical ..) fun _ => .pure _) _
  refine .bind (hproj _) fun ks => .bind (hproj _) fun vs => .bind (look_canonical ..) fun e => ?_
  split
  · exact .fault _
  · exact .bind (kPut_canonical ..) fun _ => .bind (kPut_canonical ..) fun _ => .bind (kEnt_canonical ..) fun _ =>
      .bind (kEntPut_canonical ..) fun _ => .bind (kAdd_canonical ..) fun _ => kDescAdd_canonical ..

theorem execBackfillRecord_canonical {mount} (e : execBackfillRecord mount s = .next t) (h : s.Canonical) : t.Canonical := by
  unfold execBackfillRecord at e
  split at e
  · cases e; exact h
  split at e
  next hr =>
    cases e
    exact (backfillBody_canonical _).keeps _ _ _ h hr
  · cases e; exact State.holdAccOnce_canonical h ..
  · cases e; exact h
  next at_ _ =>
    extract_lets u _ v at e
    have hu : u.Canonical := by
      simp only [u]
      split
      · exact State.keepPoison_canonical h ..
      · exact h
    have hv : v.Canonical := State.postReq_canonical hu ..
    clear_value v
    cases e
    exact hv

theorem execBfsync_canonical {w} (e : execBfsync w s = .next t) (h : s.Canonical) : t.Canonical := by
  refine runL_canonical e h ?_
  grind [BindRes.Canonical, Act.Canonical, State.holdOnce_canonical, State.performSync_canonical, State.bindSecs_canonical]

end Sys2Proof.Machine
end

section
/-!
### The canonical form of memory is kept: Machine/Attention
-/
namespace Sys2Proof.Machine
variable {s t u : State} {x y : Fx} {w : EW} {α β : Type}

theorem ringKeys_canonical (own o) : EngKeeps (ringKeys own o) := by
  refine .mapM (fun i => ?_) _
  extract_lets p row
  have hrow r : EngKeeps (row r) := .bind (eBytes_canonical ..) fun b => .pure _
  split
  · exact .pure _
  · exact .bind (hrow _) fun _ => .bind (hrow _) fun _ => .pure _

theorem kSample_canonical (p s j l) : EngKeeps (kSample p s j l) := by
  refine .bind (look_canonical ..) fun b => ?_
  split
  · exact .pure _
  refine .bind (kEnt_canonical ..) fun e => ?_
  split
  · exact .fault _
  refine .get_bind fun w hw => ?_
  extract_lets r
  split
  next hs => exact .bind (.set (State.acquireFrom_canonical hs hw)) fun _ => .pure _
  · exact .fault _

theorem kProxy_canonical (p s j t n) : EngKeeps (kProxy p s j t n) := by
  induction n with
  | zero => exact .pure _
  | succ n ih =>
    refine .bind (kSample_canonical ..) fun e => ?_
    split
    · split
      · exact .pure _
      · exact ih
    · exact ih

theorem poolRows_canonical (p b k) : EngKeeps (poolRows p b k) :=
  .bind (eBytes_canonical ..) fun _ => .bind (eBytes_canonical ..) fun _ => .pure _

theorem blockKeys_canonical (p o lo len j) : EngKeeps (blockKeys p o lo len j) := by
  unfold blockKeys
  extract_lets ps
  refine .bind (kSample_canonical ..) fun e => ?_
  split
  · exact .pure _
  split
  · exact .pure _
  refine .bind (.mapM (fun q => ?_) _) fun ks => .pure _
  split
  · exact .pure _
  split
  · exact .bind (poolRows_canonical ..) fun _ => .pure _
  split
  · refine .bind (kProxy_canonical ..) fun x => ?_
    split
    · exact .bind (poolRows_canonical ..) fun _ => .pure _
    · exact .pure _
  · exact .pure _

theorem State.promote_canonical (h : s.Canonical) (p mount seqs blk layer) : (s.promote p mount seqs blk layer).Canonical := h

theorem recordSeqs_canonical (p mount i blk layer) : EngKeeps (recordSeqs p mount i blk layer) :=
  .get_bind fun _ _ => .bind (look_canonical ..) fun _ => .filterM (fun _ => .bind (look_canonical ..) fun _ => .pure _) _

theorem poolKeys_canonical (p o lo len js) : EngKeeps (poolKeys p o lo len js) := by
  induction js with
  | nil => exact .pure _
  | cons j js ih =>
    refine .bind (blockKeys_canonical ..) fun r => ?_
    split
    · exact .pure _
    refine .bind ih fun r => ?_
    split
    · exact .pure _
    · exact .pure _

theorem eMass_canonical (x tab b a) : EngKeeps (eMass x tab b a) := by
  unfold eMass
  split
  · refine .get_bind fun w hw => ?_
    extract_lets off
    split
    · exact .fault _
    · exact .bind (kAccess_canonical ..) fun c => .bind (kAccess_canonical ..) fun _ => .pure _
  · exact .pure _

theorem attnFinish_canonical (r o ks tab ents) : EngKeeps (attnFinish r o ks tab ents) := by
  refine .get_bind fun w hw => ?_
  extract_lets own blocks done
  refine .bind (eRows_canonical ..) fun qs => ?_
  extract_lets rows send
  refine .bind (eFlags_canonical _) fun _ => ?_
  have hsend : ∀ u, EngKeeps (send u) := by
    intro u
    simp only [send]
    split
    · exact .bind (.modify fun _ h => h) fun _ => .pure _
    · exact .bind (.mapM (fun x => eWrite_canonical ..) _) fun _ => .pure _
  split
  · refine .bind (.mapM (fun x => .mapM (fun b => ?_) _) _) fun _ => hsend ()
    split
    · extract_lets a rest
      split
      · exact .bind (eFlags_canonical _) fun _ => eMass_canonical ..
      · exact eMass_canonical ..
    · exact .pure _
  · exact hsend ()

theorem attnBody_canonical (r) : EngKeeps (attnBody r) := by
  unfold attnBody
  extract_lets o
  refine .get_bind fun w hw => ?_
  extract_lets s
  split
  · exact .stop _
  split
  · exact .fault _
  split
  · refine .bind (ringKeys_canonical ..) fun ks => ?_
    extract_lets rest
    have hrest : ∀ ents, EngKeeps (rest ents) := fun _ => attnFinish_canonical ..
    split
    · exact .bind (.pure _) hrest
    · exact .bind (.mapM (fun k => .bind (eNum_canonical ..) fun _ => .pure _) _) hrest
  refine .bind (eBindPool_canonical _) fun p => ?_
  split
  · exact .fault _
  refine .bind (kDesc_canonical ..) fun d => ?_
  extract_lets d
  refine .bind (poolKeys_canonical ..) fun r => ?_
  split
  · exact attnFinish_canonical ..
  · exact .bind (recordSeqs_canonical ..) fun _ => .bind (.modify fun _ h => State.promote_canonical h ..) fun _ => .pure _

theorem fireAtp_canonical {f site} (e : fireAtp f site s = some t) (h : s.Canonical) : t.Canonical := by
  refine fireBind_canonical e (fun _ => (State.fxAt_canonical · h)) fun _ x t e hx => ?_
  split at e
  · exact Fx.closeRound_fired e hx
  split at e
  · cases e
  extract_lets mine at e
  split at e
  · cases e
  · exact Fx.fired_canonical e (Fx.token_canonical (Fx.queue_canonical (x := { x with s := _ }) (State.setStream_canonical hx _) _))

theorem testBody_canonical (r) : EngKeeps (testBody r) := by
  refine .bind (eBytes_canonical ..) fun b => ?_
  split
  extract_lets fin rest
  have hfin n : EngKeeps (fin n) := .pure _
  have hrest u : EngKeeps (rest u) := by
    refine .get_bind fun w hw => ?_
    split
    next he =>
    split
    · exact .bind (.pure _) hfin
    · exact .bind (.set (snd_canonical he (State.freeVal_canonical hw))) fun _ => .bind (.pure _) hfin
  split
  · exact .bind (eFlags_canonical _) hrest
  · exact hrest ()

end Sys2Proof.Machine
end

section
/-!
### The canonical form of memory is kept: Machine/Storage
-/
namespace Sys2Proof.Machine
variable {s t u : State} {x y : Fx} {w : EW} {α β : Type}

theorem State.collNote_canonical (h : s.Canonical) (r size l) : (s.collNote r size l).Canonical := by
  unfold State.collNote
  dsimp only
  split
  · exact h
  · exact h

theorem collBody_canonical (r) : EngKeeps (collBody r) := by
  unfold collBody
  extract_lets c d m rest last
  split
  · have hrest : ∀ u, EngKeeps (rest u) := fun _ => .pure _
    split
    · exact .bind (.modify fun _ h => h) hrest
    · refine .bind (eBytes_canonical ..) fun b => ?_
      extract_lets rest'
      have hrest' : ∀ sc, EngKeeps (rest' sc) := fun _ => .bind (.modify fun _ h => h) hrest
      split
      · exact .bind (eBytes_canonical ..) hrest'
      · exact .bind (.pure _) hrest'
  split
  · refine .get_bind fun w hw => ?_
    extract_lets s g mark
    have hmark : ∀ f, EngKeeps (mark f) := fun _ => .modify fun _ h => h
    split
    · exact .bind (.modify fun _ h => State.collNote_canonical h ..) fun _ => .bind (hmark _) fun _ => .pure _
    split
    · exact .bind (.modify fun _ h => State.collNote_canonical h ..) fun _ => .bind (hmark _) fun _ => .pure _
    split
    · exact .stop _
    · exact .bind (hmark _) fun _ => .pure _
  split
  · split
    · exact .bind (eWrite_canonical ..) fun _ => .bind (eFlags_canonical _) fun _ => .pure _
    · exact .bind (eFlags_canonical _) fun _ => .pure _
  · exact .fault _

theorem execNvsub_canonical {w} (e : execNvsub w s = .next t) (h : s.Canonical) : t.Canonical :=
  engBlock_canonical e h fun _ _ h => h

theorem nvProtect_canonical (r gt) : EngKeeps (nvProtect r gt) :=
  .bind (.get_bind fun _ _ => .mapM (fun _ => .bind (eBytes_canonical ..) fun _ => .pure _) _) fun _ => ePut_canonical ..

theorem nvSend_canonical (r pair) : EngKeeps (nvSend r pair) := by
  refine .get_bind fun w hw => ?_
  extract_lets q cmd
  clear_value cmd
  refine .modify fun w h => ?_
  extract_lets _ u v _
  have hu : u.Canonical := State.ringDoor_canonical (by exact h) _
  clear_value u
  show v.Canonical
  dsimp only [v]
  split
  · split
    · exact State.updStrand_canonical hu ..
    · exact hu
  · exact hu

theorem nvsubBody_canonical (r) : EngKeeps (nvsubBody r) := by
  unfold nvsubBody
  extract_lets pair opc rest
  split
  · exact .stop _
  split
  · refine .bind (protCheck_canonical ..) fun k => ?_
    split
    · exact .pure _
    · exact .pure _
  split
  · exact .pure _
  refine .get_bind fun w hw => ?_
  split
  · exact .stop _
  have hrest : ∀ u, EngKeeps (rest u) := by
    refine fun u => .bind (nvSend_canonical ..) fun _ => ?_
    split
    · exact .bind (.modify fun _ h => h) fun _ => .pure _
    · exact .pure _
  split
  · exact .bind (nvProtect_canonical ..) hrest
  · exact hrest ()

theorem State.dmaWrite_canonical (h : s.Canonical) (c obj off b) : (s.dmaWrite c obj off b).Canonical := by
  unfold State.dmaWrite
  dsimp only
  split
  · exact State.engWrite_canonical h ..
  · exact State.postReq_canonical (State.setHits_canonical (State.engWrite_canonical h ..) ..) ..

theorem State.dmaPut_canonical (h : s.Canonical) (c obj off b) : (s.dmaPut c obj off b).Canonical :=
  foldl_keeps (P := State.Canonical) h (fun _ _ h => State.dmaWrite_canonical h ..) _

theorem State.dmaData_canonical (h : s.Canonical) (c l b) : (s.dmaData c l b).Canonical := by
  induction l generalizing s b with
  | nil => exact h
  | cons p l ih => exact ih (State.dmaPut_canonical h ..) _

theorem State.nvWake_canonical (h : s.Canonical) (id st) : (s.nvWake id st).Canonical := h

theorem execNvmeCompletionPosted_canonical {pair cid lo hi data} (e : execNvmeCompletionPosted pair cid lo hi data s = .next t)
    (h : s.Canonical) : t.Canonical := by
  unfold execNvmeCompletionPosted at e
  split at e
  · cases e; exact h
  extract_lets st noted raw s1 s2 e' rels at e
  split at e
  · cases e; exact h
  split at e
  · cases e; exact h
  split at e
  · cases e; exact State.cqTake_canonical (State.cqPut_canonical (by exact h) ..) _
  · have h1 : s1.Canonical := State.cqPut_canonical (State.dmaData_canonical h ..) ..
    have h2 : s2.Canonical := by
      simp only [s2, Option.elim]
      split
      · exact State.nvWake_canonical h1 ..
      · exact h1
    clear_value s2
    cases e
    exact h2

theorem execNvcmp_canonical {w} (e : execNvcmp w s = .next t) (h : s.Canonical) : t.Canonical := by
  refine runL_canonical e h ?_
  grind [State.Canonical, Act.Canonical, State.invalidate_canonical, State.cqTake_canonical, State.acquireFrom_canonical,
    State.setPair_canonical]

theorem execControllerDma_canonical {port rid key data} (e : execControllerDma port rid key data s = .next t) (h :
    s.Canonical) : t.Canonical := by
  unfold execControllerDma at e
  extract_lets at e
  split at e
  · cases e
    exact State.dmaPut_canonical h ..
  split at e
  · cases e
    exact State.queueWrite_canonical h ..
  cases e
  exact h

end Sys2Proof.Machine
end

section
/-!
### The canonical form of memory is kept: Machine/Ports
-/
namespace Sys2Proof.Machine
variable {s t u : State} {x y : Fx} {w : EW} {α β : Type}

theorem Fx.badWord_canonical (h : x.s.Canonical) (off) : (x.badWord off).Canonical := h

theorem State.regionWrites_canonical (h : s.Canonical) (ctx scope l) : (s.regionWrites ctx scope l).1.Canonical := by
  induction l generalizing s with
  | nil => exact h
  | cons f r ih =>
    have hw := State.relWrites_canonical h ctx f [s.memberSet ctx f scope]
    unfold State.regionWrites
    split
    next e => exact ih (fst_canonical e hw)
    next e => exact fst_canonical e hw

theorem Fx.before_canonical {scope z} (e : x.before scope = some z) (h : x.s.Canonical) : HeldIn z := by
  have hw := State.regionWrites_canonical h
  grind [Fx.before, HeldIn, Fx.stallTrap_canonical, State.setSlot_canonical, State.holdOnce_canonical]

theorem Fx.sendWordsReq_canonical {major fn size offs ws} (e : x.sendWordsReq major fn size offs ws = some t) (h : x.s.Canonical) :
    t.Canonical := by
  unfold Fx.sendWordsReq at e
  extract_lets ps cs out caps blk scope at e
  split at e
  · cases e
    exact Fx.badWord_canonical h _
  split at e
  next v u hp =>
  have hu : u.Canonical := by
    split at hp
    · exact fst_canonical (α := W64) (p := Prod.swap x.s.freeVal) (by rw [hp]; rfl) (State.freeVal_canonical h)
    · cases hp
      exact h
  extract_lets pair y i p at e
  have hy : y.s.Canonical := hu
  split at e
  · cases e
    exact Fx.stallTrap_canonical hy ..
  split at e
  · split at e
    · cases e
    · cases e
      exact State.tileQueue_canonical hy ..
  split at e
  · cases e
  split at e
  · cases e
  next hb =>
    cases e
    exact Fx.before_canonical hb hy
  next hb =>
    cases e
    have hz := Fx.before_canonical hb hy
    exact Fx.done_canonical (State.enqueue_canonical (by exact hz) _ _ _)

theorem Fx.takeReqWord_canonical {ok} (e : x.takeReqWord ok = some t) (h : x.s.Canonical) : t.Canonical := by
  unfold Fx.takeReqWord at e
  split at e
  · cases e
  next hw =>
    cases e
    exact Fx.wordAt_canonical hw h
  split at e
  · cases e
    exact Fx.badWord_canonical h _
  · obtain ⟨y, hy, rfl⟩ := Option.map_eq_some_iff.1 e
    exact Fx.done_canonical (Fx.setWords_canonical (Fx.drop_canonical (Fx.gateIn_canonical hy h) 0) _)

theorem fireEngp_canonical {f site} (e : fireEngp f site s = some t) (h : s.Canonical) : t.Canonical := by
  refine fireBind_canonical e (fun _ => (State.fxAt_canonical · h)) fun _ x t e hx => ?_
  split at e
  · exact Fx.closeRound_fired e hx
  split at e
  · split at e
    · cases e
      exact Fx.stallAt_canonical hx ..
    split at e
    · cases e
    · exact Fx.passMark_canonical e hx
  split at e
  · exact Fx.takeReqWord_canonical e hx
  split at e
  · cases e
    exact Fx.badWord_canonical hx _
  extract_lets offs at e
  split at e
  · exact Fx.takeReqWord_canonical e hx
  · exact Fx.sendWordsReq_canonical e hx

end Sys2Proof.Machine
end

section
/-!
### The canonical form of memory is kept: Machine/Debug
-/
namespace Sys2Proof.Machine
variable {s t u : State} {x y : Fx} {w : EW} {α β : Type}

theorem State.message_canonical (h : s.Canonical) (code body) : (s.message code body).Canonical := h

theorem State.replaceMsg_canonical (h : s.Canonical) (kind unit cause) : (s.replaceMsg kind unit cause).Canonical := h

theorem State.setSaved_canonical (h : s.Canonical) (v) : (s.setSaved v).Canonical := h

theorem State.abandonRegion_canonical (h : s.Canonical) (sl) : (s.abandonRegion sl).Canonical :=
  State.syncRounds_canonical (State.xpDown_canonical (by exact h) ..) ..

theorem State.closeRecords_canonical (h : s.Canonical) (ps) : (s.closeRecords ps).Canonical := h

theorem State.restoreHeld_canonical (h : s.Canonical) (f st) : (s.restoreHeld f st).Canonical := by
  unfold State.restoreHeld
  split
  · exact State.restoreShadow_canonical h ..
  · exact h

theorem State.endStopped_canonical (h : s.Canonical) (f i) : (s.endStopped f i).Canonical := by
  unfold State.endStopped
  split
  · split
    · split
      · exact State.endStrand_canonical h ..
      · exact State.updStrand_canonical h ..
    · exact h
  · exact h

theorem State.resumeAt_canonical (h : s.Canonical) (ctx l) : (s.resumeAt ctx l).Canonical := by
  unfold State.resumeAt
  extract_lets f mine go held u
  split
  · split
    · split
      · exact State.setSaved_canonical h _
      split
      · exact State.setSaved_canonical h _
      · exact h
    · split
      · exact h
      split
      · exact h
      · exact State.abandonRegion_canonical h _
  · exact State.closeRecords_canonical h _
  · split
    · exact State.setSaved_canonical h _
    · have hu : u.Canonical := by
        simp only [u]
        split
        · exact foldl_keeps (P := State.Canonical) h (fun _ _ h => State.restoreHeld_canonical h ..) _
        · exact h
      exact hu
  · split
    · split
      · exact State.setSaved_canonical h _
      · exact State.setSaved_canonical h _
    · split
      · exact State.updStrand_canonical h ..
      · exact State.endStopped_canonical h ..
  · exact h

theorem State.resume_canonical {b} (e : State.resume b s = .next t) (h : s.Canonical) : t.Canonical := by
  refine runPriv_canonical e h ?_
  unfold State.resume at e
  dsimp only
  split
  · exact h
  split
  · exact h
  split
  · exact h
  · exact State.resumeAt_canonical h ..

theorem fireSwitch_canonical {f site op} (e : fireSwitch f site op s = some t) (h : s.Canonical) : t.Canonical := by
  unfold fireSwitch at e
  split at e
  · exact fireSteer_canonical e h
  · exact or_keeps e (fun e => fireMerge_canonical e h) fun e => fireJoin_canonical e h
  · exact fireCarry_canonical e h
  · exact fireFwd_canonical e h
  · exact fireVcfilt_canonical e h

theorem fireMem_canonical {f site op} (e : fireMem f site op s = some t) (h : s.Canonical) : t.Canonical := by
  unfold fireMem at e
  split at e
  · exact fireMld_canonical e h
  · exact fireMst_canonical e h
  · exact fireMlink_canonical e h
  · exact fireMring_canonical e h
  · exact fireEngp_canonical e h
  · exact fireSqp_canonical e h
  · exact fireMxp_canonical e h
  · exact fireAtp_canonical e h

theorem fireAg_canonical {f site op} (e : fireAg f site op s = some t) (h : s.Canonical) : t.Canonical := by
  unfold fireAg at e
  split at e
  · exact fireAgaff_canonical e h
  · exact fireAgmod_canonical e h
  · exact fireAgidx_canonical e h

theorem fireElem_canonical {f c} (e : fireElem f c s = some t) (h : s.Canonical) : t.Canonical := by
  unfold fireElem at e
  split at e
  · exact fireSwitch_canonical e h
  split at e
  · exact fireCompute_canonical e h
  split at e
  · exact fireMem_canonical e h
  · exact fireAg_canonical e h

theorem execDeadlockWatchdog_canonical {fld slot} (e : execDeadlockWatchdog fld slot s = .next t) (h : s.Canonical) : t.Canonical := by
  unfold execDeadlockWatchdog at e
  extract_lets at e
  split at e
  · cases e
    exact h
  cases e
  exact h

theorem timeoutStrand_canonical (h : s.Canonical) (id) : (timeoutStrand id s).Canonical := by
  unfold timeoutStrand
  split
  · split
    · exact h
    · exact State.lateTrap_canonical h ..
  · exact h

theorem timeoutElem_canonical (h : s.Canonical) (fld site) : (timeoutElem fld site s).Canonical := by
  unfold timeoutElem
  dsimp only
  split
  · split
    · exact h
    · exact h
  · exact h

theorem timeoutCircuit_canonical (h : s.Canonical) (fld id) : (timeoutCircuit fld id s).Canonical := by
  unfold timeoutCircuit
  split
  next he =>
    split
    · exact h
    · exact Fx.stallTrap_canonical (State.fxAt_canonical he h) ..
  · exact h

theorem freeVal_snd {v : W64} (e : s.freeVal = (v, t)) (h : s.Canonical) : t.Canonical := by
  have := State.freeVal_canonical h
  rwa [e] at this

theorem timeoutEngine_canonical (h : s.Canonical) (sid) : (timeoutEngine sid s).Canonical := by
  unfold timeoutEngine
  split
  · exact h
  extract_lets away held
  split
  · exact h
  split
  · split
    · split
      · exact h
      split
      next e => exact State.setStream_canonical (State.postReq_canonical (freeVal_snd e h) ..) _
    · exact h
  · split
    · split
      · split
        · exact h
        split
        next e => exact State.engFault_canonical (freeVal_snd e h) ..
      · exact h
    · exact h

theorem execRemoteTimeout_canonical {tgt fld id} (e : execRemoteTimeout tgt fld id s = .next t) (h : s.Canonical) : t.Canonical := by
  unfold execRemoteTimeout at e
  split at e
  · cases e; exact timeoutStrand_canonical h _
  · cases e; exact timeoutElem_canonical h ..
  · cases e; exact timeoutCircuit_canonical h ..
  · cases e; exact timeoutEngine_canonical h _
  · cases e; exact h

theorem execTimingReplay_canonical {place} (e : execTimingReplay place s = .next t) (h : s.Canonical) : t.Canonical := by
  unfold execTimingReplay at e
  extract_lets at e
  cases e
  exact h

theorem State.moveOff_canonical (h : s.Canonical) (k) : (s.moveOff k).Canonical := by
  grind [State.moveOff, State.post_canonical, State.syncRounds_canonical, State.saveTask_canonical, State.postSave_canonical,
    State.requeue_canonical, State.setSaved_canonical, State.flushTask_canonical]

theorem State.unitAt_canonical {fld site} (e : s.unitAt fld site = some x) (h : s.Canonical) : x.s.Canonical := by
  refine or_keeps (P := Fx.Canonical) e (fun e => or_keeps (P := Fx.Canonical) e (State.fxAt_canonical · h) (State.fxAt_canonical · h)) fun e => ?_
  obtain ⟨_, -, rfl⟩ := Option.map_eq_some_iff.1 e
  exact h

theorem execPersistentTimingError_canonical {fld site stage} (e : execPersistentTimingError fld site stage s = .next t) (h :
    s.Canonical) : t.Canonical := by
  grind [execPersistentTimingError, State.setField_canonical, State.moveOff_canonical, State.replaceMsg_canonical,
    Fx.stallWith_canonical, State.unitAt_canonical]

theorem State.setEntry_canonical (h : s.Canonical) (mount g st frame) : (s.setEntry mount g st frame).Canonical := wf_writeLE h

theorem State.setReserve_canonical (h : s.Canonical) (mount n) : (s.setReserve mount n).Canonical := by
  unfold State.setReserve
  dsimp only
  split
  · exact h
  · exact h

theorem execHbmFrameFence_canonical {mount frame bad} (e : execHbmFrameFence mount frame bad s = .next t) (h : s.Canonical) :
    t.Canonical := by
  unfold execHbmFrameFence at e
  split at e
  · split at e
    · cases e; exact h
    extract_lets n m s1 at e
    split at e
    next v s2 hp =>
    have h2 : s2.Canonical := by
      split at hp
      · exact freeVal_snd hp (by exact h)
      · cases hp; exact h
    extract_lets sec s3 gs s4 _ s5 s6 r s7 at e
    have h3 : s3.Canonical := by
      simp only [s3]
      split <;> exact h2
    clear_value s3
    split at e
    · cases e; exact h3
    have h5 : s5.Canonical := State.replaceMsg_canonical h3 3 (mount * 2 ^ 24 + frame) (if bad then ccPoison else 0)
    have h6 : s6.Canonical :=
      foldl_keeps (P := State.Canonical) h5 (fun _ _ h => State.post_canonical h _) _
    clear_value s6
    split at e
    · cases e; exact h6
    have h7 : s7.Canonical := State.setReserve_canonical h6 ..
    clear_value s7
    split at e
    · cases e; exact h7
    extract_lets s8 at e
    have h8 : s8.Canonical := h7
    clear_value s8
    cases e
    split
    · exact h8
    · exact foldl_keeps (P := State.Canonical) h8 (fun _ _ h => State.setEntry_canonical h ..) _
  · cases e; exact h

theorem State.copyFrame_canonical (h : s.Canonical) (mount a b) : (s.copyFrame mount a b).Canonical :=
  foldl_keeps (P := fun m => Memory.wf m = true) (wf_zeroRange h) (fun _ _ h => wf_writeByte h) _

theorem execMigrationComplete_canonical {mount frame} (e : execMigrationComplete mount frame s = .next t) (h : s.Canonical) :
    t.Canonical := by
  unfold execMigrationComplete at e
  split at e
  · cases e; exact h
  extract_lets gs u at e
  split at e
  · cases e; exact h
  · cases e
    exact foldl_keeps (P := State.Canonical) (State.copyFrame_canonical (by exact h) ..) (fun _ _ h => State.setEntry_canonical h ..) _

end Sys2Proof.Machine
end

section
/-!
### The canonical form of memory is kept: Machine/HostLinks
-/
namespace Sys2Proof.Machine
variable {s t u : State} {x y : Fx} {w : EW} {α β : Type}

theorem State.setLink_canonical (h : s.Canonical) (l) : (s.setLink l).Canonical := h

theorem execFlitReceive_canonical {port seq crc} (e : execFlitReceive port seq crc s = .next t) (h : s.Canonical) : t.Canonical := by
  unfold execFlitReceive at e
  split at e
  · extract_lets at e
    split at e
    · cases e
      exact h
    cases e
    exact h
  cases e
  exact h

theorem execLinkReplay_canonical {port _seq} (e : execLinkReplay port _seq s = .next t) (h : s.Canonical) : t.Canonical := by
  unfold execLinkReplay at e
  split at e
  · cases e
    split
    · exact h
    · exact h
  cases e
  exact h

theorem execLaneFence_canonical {port} (e : execLaneFence port s = .next t) (h : s.Canonical) : t.Canonical := by
  unfold execLaneFence at e
  split at e
  · split at e
    · cases e
      exact h
    cases e
    exact h
  cases e
  exact h

theorem execLinkNarrowComplete_canonical {port} (e : execLinkNarrowComplete port s = .next t) (h : s.Canonical) : t.Canonical := by
  unfold execLinkNarrowComplete at e
  split at e
  · cases e
    exact h
  cases e
  exact h

theorem State.hostIssue_canonical (h : s.Canonical) (a) : (s.hostIssue a).Canonical := by
  grind [State.Canonical, State.hostIssue, State.holdAcc_canonical, State.hartGets_canonical, State.performSync_canonical]

theorem State.captgt_canonical (h : s.Canonical) (v) : (s.captgt v).Canonical := by
  unfold State.captgt
  dsimp only
  split
  · split
    · exact State.hostIssue_canonical h ..
    · exact h
  · exact h

theorem State.writeNvqb_canonical (h : s.Canonical) (n v) : (s.writeNvqb n v).Canonical := by
  unfold State.writeNvqb
  dsimp only
  split
  · exact h
  · exact h

theorem State.writeRrsv_canonical (h : s.Canonical) (m v) : (s.writeRrsv m v).Canonical := by
  unfold State.writeRrsv
  dsimp only
  split
  · exact h
  · exact h

theorem execCaptgtWrite_canonical {v} (e : execCaptgtWrite v s = .next t) (h : s.Canonical) : t.Canonical := by
  unfold execCaptgtWrite at e
  cases e
  split
  · exact State.captgt_canonical h ..
  · exact h

theorem execNvqbWrite_canonical {n v} (e : execNvqbWrite n v s = .next t) (h : s.Canonical) : t.Canonical := by
  unfold execNvqbWrite at e
  cases e
  split
  · exact State.writeNvqb_canonical h ..
  · exact h

theorem execRrsvWrite_canonical {mount v} (e : execRrsvWrite mount v s = .next t) (h : s.Canonical) : t.Canonical := by
  unfold execRrsvWrite at e
  cases e
  split
  · exact State.writeRrsv_canonical h ..
  · exact h

theorem State.hregWrite_canonical {r v} (e : s.hregWrite r v = .next t) (h : s.Canonical) : t.Canonical := by
  unfold State.hregWrite at e
  extract_lets ok at e
  have hok : ∀ g, ok g = .next t → t.Canonical := by
    rintro g ⟨⟩
    exact h
  clear_value ok
  split at e
  case h_5 => cases e; exact State.captgt_canonical h _
  case h_7 => cases e; exact State.writeNvqb_canonical h ..
  case h_8 => exact execMqcfgWrite_canonical e h
  case h_9 => exact execMqsubWrite_canonical e h
  case h_11 => cases e; exact State.writeRrsv_canonical h ..
  all_goals exact hok _ e

theorem execHostRegisterWrite_canonical {addr v} (e : execHostRegisterWrite addr v s = .next t) (h : s.Canonical) : t.Canonical := by
  unfold execHostRegisterWrite at e
  split at e
  · split at e
    · exact State.hartGets_canonical (State.hartGets_canonical (State.hregWrite_canonical e h) ..) ..
    cases e
    exact h
  cases e
  exact h

theorem execHostApertureAccess_canonical {addr size kind v} (e : execHostApertureAccess addr size kind v s = .next t) (h :
    s.Canonical) : t.Canonical := by
  unfold execHostApertureAccess at e
  extract_lets at e
  split at e
  · split at e
    · cases e
      exact h
    split at e
    · cases e
      exact h
    · exact State.hartGets_canonical (State.hartGets_canonical (State.hregWrite_canonical e h) ..) ..
  split at e
  · split at e
    · cases e
      exact State.hostIssue_canonical h ..
    cases e
    exact h
  cases e
  exact h

theorem execIdentityRequest_canonical (e : execIdentityRequest s = .next t) (h : s.Canonical) : t.Canonical := by
  unfold execIdentityRequest at e
  injection e with e
  subst e
  exact h

theorem execStatusRequest_canonical (e : execStatusRequest s = .next t) (h : s.Canonical) : t.Canonical := by
  unfold execStatusRequest at e
  extract_lets at e
  cases e
  exact h

theorem State.spdm_canonical {code} (e : s.spdm code = .next t) (h : s.Canonical) : t.Canonical := by
  unfold State.spdm at e
  cases e
  split
  · exact h
  · exact h

theorem execDeviceReset_canonical (e : execDeviceReset s = .next t) : t.Canonical := by
  cases e
  exact State.reset_canonical

theorem State.bringup_canonical (h : s.Canonical) (st why) : (s.bringup st why).Canonical := h

theorem execFirmwareVerify_canonical (e : execFirmwareVerify s = .next t) (h : s.Canonical) : t.Canonical := by
  unfold execFirmwareVerify at e
  extract_lets at e
  split at e
  · cases e
    split
    · exact h
    · exact h
  cases e
  exact h

theorem execHbmTraining_canonical {good} (e : execHbmTraining good s = .next t) (h : s.Canonical) : t.Canonical := by
  unfold execHbmTraining at e
  cases e
  split
  · split
    · exact h
    · exact h
  · exact h

theorem execDieLinkTraining_canonical {good} (e : execDieLinkTraining good s = .next t) (h : s.Canonical) : t.Canonical := by
  unfold execDieLinkTraining at e
  extract_lets at e
  cases e
  split
  · split
    · exact h
    · exact h
  · exact h

theorem execPackagePortTraining_canonical {up pkg} (e : execPackagePortTraining up pkg s = .next t) (h : s.Canonical) :
    t.Canonical := by
  unfold execPackagePortTraining at e
  extract_lets at e
  split at e
  · cases e
    exact h
  cases e
  exact h

theorem execThermalThrottle_canonical {_die} (e : execThermalThrottle _die s = .next t) (h : s.Canonical) : t.Canonical := by
  unfold execThermalThrottle at e
  cases e
  exact h

theorem execThermalShutdown_canonical {die} (e : execThermalShutdown die s = .next t) (h : s.Canonical) : t.Canonical := by
  unfold execThermalShutdown at e
  extract_lets at e
  cases e
  exact h

end Sys2Proof.Machine
end

section
/-!
### The canonical form of memory is kept: Machine/Fetch
-/
namespace Sys2Proof.Machine
variable {s t u : State} {x y : Fx} {w : EW} {α β : Type}

theorem State.fetchHeld_canonical (h : s.Canonical) (off cause why) : (s.fetchHeld off cause why).Canonical := by
  unfold State.fetchHeld
  dsimp only
  split
  · exact h
  · exact State.freeMe_canonical (State.holdOnce_canonical h ..) ..

theorem State.fetchFault_canonical (h : s.Canonical) (off k) : (s.fetchFault off k).Canonical := by
  unfold State.fetchFault
  dsimp only
  split
  · exact State.freeMe_canonical (State.fetchFailed_canonical h ..) ..
  · exact State.freeMe_canonical (State.fetchFailed_canonical h ..) ..

theorem State.gate_canonical (h : s.Canonical) (w0 w1) : (s.gate w0 w1).Canonical := by
  unfold State.gate
  split
  · trivial
  · exact h

theorem State.fetch_canonical (h : s.Canonical) : s.fetch.Canonical := by
  unfold State.fetch
  split
  · exact State.fetchFault_canonical h ..
  · exact h
  · exact State.fetchHeld_canonical h ..
  split
  · split
    · exact State.fetchFault_canonical h ..
    · exact h
    · exact State.fetchHeld_canonical h ..
    · exact State.gate_canonical h ..
  · exact State.gate_canonical h ..

theorem State.turnTo_canonical (h : s.Canonical) (k) : (s.turnTo k).Canonical := by
  unfold State.turnTo
  split
  · exact h
  · exact h

theorem State.noteIssue_canonical (h : s.Canonical) : s.noteIssue.Canonical := by
  unfold State.noteIssue
  dsimp only
  split
  · exact h
  · exact h

theorem State.attempt_canonical {run : Instr → State → Out} (hr : ∀ i, Keeps (run i)) (e : s.attempt run = .next t) (h : s.Canonical) :
    t.Canonical := by
  have hf := State.fetch_canonical h
  unfold State.attempt at e
  split at e
  · exact hr _ s t h e
  next he =>
    rw [he] at hf
    cases e
    exact hf
  next he =>
    rw [he] at hf
    exact State.raise_canonical e hf

theorem State.choose_canonical (h : s.Canonical) (n) : (s.choose n).2.Canonical := by
  unfold State.choose
  split
  · exact h
  · exact h

theorem State.takeTurn_canonical {run} (e : s.takeTurn run = some t) (h : s.Canonical) : t.Canonical := by
  unfold State.takeTurn at e
  extract_lets rs fs at e
  have hc := State.choose_canonical h fs.length
  split at e
  next he =>
  replace hc := snd_canonical he hc
  extract_lets here waiting stay at e
  split at e
  · split at e
    next he =>
    have hd := snd_canonical he (State.choose_canonical hc _)
    split at e
    · cases e
      exact State.turnTo_canonical hd _
    · cases e
      exact State.noteIssue_canonical (State.turnTo_canonical hd _)
  · split at e
    next he =>
    have hd := snd_canonical he (State.choose_canonical hc _)
    obtain ⟨u, -, rfl⟩ := Option.map_eq_some_iff.1 e
    exact State.turnTo_canonical hd _

end Sys2Proof.Machine
end

section
/-!
### The canonical form of memory is kept: Machine/Float
-/
namespace Sys2Proof.Machine
variable {s t u : State} {x y : Fx} {w : EW} {α β : Type}

/-- Every one of some moves keeps the canonical form. -/
def MovesKeep (l : List Move) : Prop := ∀ mv ∈ l, Keeps mv

theorem keeps_none : MovesKeep [] := by simp [MovesKeep]

theorem State.putF_canonical (h : s.Canonical) (d r) : (s.putF d r).Canonical :=
  State.orFlags_canonical (State.putReg_canonical h ..) ..

theorem fp2_canonical {f d a b rm op} (e : fp2 f d a b rm op s = .next t) (h : s.Canonical) : t.Canonical := by
  refine run_canonical e h ?_
  exact State.putF_canonical h ..

theorem fp1_canonical {d a rm op} (e : fp1 d a rm op s = .next t) (h : s.Canonical) : t.Canonical := by
  refine run_canonical e h ?_
  exact State.putF_canonical h ..

theorem fcmp_canonical {op f p a b} (e : fcmp op f p a b s = .next t) (h : s.Canonical) : t.Canonical := by
  refine run_canonical e h ?_
  exact State.orFlags_canonical (State.setPred_canonical h ..) ..

theorem execFfma_canonical {f d a b rm} (e : execFfma f d a b rm s = .next t) (h : s.Canonical) : t.Canonical := by
  refine run_canonical e h ?_
  exact State.putF_canonical h ..

theorem execFscale_canonical {f d a b rm} (e : execFscale f d a b rm s = .next t) (h : s.Canonical) : t.Canonical := by
  refine run_canonical e h ?_
  exact State.putF_canonical h ..

end Sys2Proof.Machine
end

section
/-!
### The canonical form of memory is kept: Machine/Integer
-/
namespace Sys2Proof.Machine
variable {s t u : State} {x y : Fx} {w : EW} {α β : Type}

theorem execSel_canonical {d p a b} (e : execSel d p a b s = .next t) (h : s.Canonical) : t.Canonical := by
  refine run_canonical e h ?_
  exact State.putReg_canonical h ..

theorem execPand_canonical {d a b} (e : execPand d a b s = .next t) (h : s.Canonical) : t.Canonical := predOp_canonical e h

theorem execPor_canonical {d a b} (e : execPor d a b s = .next t) (h : s.Canonical) : t.Canonical := predOp_canonical e h

theorem execPnot_canonical {d a} (e : execPnot d a s = .next t) (h : s.Canonical) : t.Canonical := predOp_canonical e h

theorem execMovi_canonical {d imm} (e : execMovi d imm s = .next t) (h : s.Canonical) : t.Canonical := by
  refine run_canonical e h ?_
  exact State.putReg_canonical h ..

theorem execMoviL_canonical {d k g} (e : execMoviL d k g s = .next t) (h : s.Canonical) : t.Canonical := by
  unfold execMoviL at e
  split at e
  · exact run_canonical e h (State.putReg_canonical h ..)
  · cases e
    exact State.retire_canonical h ..

theorem execMovhi_canonical {d a k g} (e : execMovhi d a k g s = .next t) (h : s.Canonical) : t.Canonical := by
  unfold execMovhi at e
  split at e
  · exact run_canonical e h (State.putReg_canonical h ..)
  · cases e
    exact State.retire_canonical h ..

end Sys2Proof.Machine
end

section
/-!
### The canonical form of memory is kept: Machine/Dispatch
-/
namespace Sys2Proof.Machine
variable {s t u : State} {x y : Fx} {w : EW} {α β : Type}

/-- Every instruction, and every step of another unit, keeps the canonical form of memory. -/
theorem exec_canonical {i} (e : exec i s = .next t) (h : s.Canonical) : t.Canonical := by
  cases i <;> dsimp only [exec] at e
  case illegalOp => exact State.raise_canonical e h
  case add | sub | mul | mulh | mulhu | div | divu | rem | remu | and | or | xor | andn | shl | shr | sar | rot | min | max |
      minu | maxu =>
    exact alu2_canonical e h
  case clz | ctz | popc | sextB | sextH | sextW | zextB | zextH | zextW | addi | andi | ori | xori | shli | shri | sari =>
    exact alu1_canonical e h
  case sel => exact execSel_canonical e h
  case cmpEq | cmpNe | cmpLt | cmpGe | cmpLtu | cmpGeu => exact cmp2_canonical e h
  case pand => exact execPand_canonical e h
  case por => exact execPor_canonical e h
  case pnot => exact execPnot_canonical e h
  case movi => exact execMovi_canonical e h
  case moviL => exact execMoviL_canonical e h
  case movhi => exact execMovhi_canonical e h
  case loop => exact execLoop_canonical e h
  case ldB | ldBu | ldH | ldHu | ldW | ldWu | ldD => exact ldShort_canonical e h
  case stB | stH | stW | stD => exact stShort_canonical e h
  case ldx => exact execLdx_canonical e h
  case stx => exact execStx_canonical e h
  case loadComplete | storeComplete => exact State.withFlight_canonical e h (State.complete_canonical h)
  case bp => exact execBp_canonical e h
  case call => exact execCall_canonical e h
  case jr => exact execJr_canonical e h
  case callr => exact execCallr_canonical e h
  case ret => exact execRet_canonical e h
  case fadd | fsub | fmul | fdiv | fmin | fmax => exact fp2_canonical e h
  case ffma => exact execFfma_canonical e h
  case fsqrt | frsqrt | fexp2 | flog2 | fabs | fneg | fclass | fround | fcvtFromIeee | fcvtFromNarrow | fcvtFromI64 |
      fcvtFromU64 | fcvtFromI32 | fcvtFromU32 | fcvtToInt | fcvtToNarrow =>
    exact fp1_canonical e h
  case fscale => exact execFscale_canonical e h
  case fcmpEq | fcmpNe | fcmpLt | fcmpLe | fcmpUn => exact fcmp_canonical e h
  case sysr => exact execSysr_canonical e h
  case sysrC => exact execSysrC_canonical e h
  case sysw => exact execSysw_canonical e h
  case syswC => exact execSyswC_canonical e h
  case nop => exact execNop_canonical e h
  case halt => exact execHalt_canonical e h
  case trap => exact execTrap_canonical e h
  case brk => exact execBrk_canonical e h
  case eret => exact execEret_canonical e h
  case ident => exact execIdent_canonical e h
  case trapEntry => exact execTrapEntry_canonical e h
  case cgetObj | cgetCur | cgetBase | cgetTop | cgetPerm | cgetTag | cgetG => exact capGet_canonical e h
  case csetc => exact execCsetc_canonical e h
  case cadd => exact execCadd_canonical e h
  case cbound => exact execCbound_canonical e h
  case cperm => exact execCperm_canonical e h
  case cnull => exact execCnull_canonical e h
  case cmov => exact execCmov_canonical e h
  case csub => exact execCsub_canonical e h
  case ctest => exact execCtest_canonical e h
  case cld => exact execCld_canonical e h
  case cst => exact execCst_canonical e h
  case cmake => exact execCmake_canonical e h
  case cfgsw => exact execCfgsw_canonical e h
  case cfgdrop => exact execCfgdrop_canonical e h
  case rgrun => exact execRgrun_canonical e h
  case rgstop => exact execRgstop_canonical e h
  case rgstat => exact execRgstat_canonical e h
  case qbindIn => exact execQbindIn_canonical e h
  case qbindOut => exact execQbindOut_canonical e h
  case qunbind => exact execQunbind_canonical e h
  case qpeek => exact execQpeek_canonical e h
  case enter => exact execEnter_canonical e h
  case await => exact execAwait_canonical e h
  case mark => exact execMark_canonical e h
  case rwait => exact execRwait_canonical e h
  case tdone => exact execTdone_canonical e h
  case yield => exact execYield_canonical e h
  case stswap => exact execStswap_canonical e h
  case cfgld => exact execCfgld_canonical e h
  case cfgpart => exact execCfgpart_canonical e h
  case spawnStrand => exact execSpawnStrand_canonical e h
  case spawnTask => exact execSpawnTask_canonical e h
  case finder => exact execFinder_canonical e h
  case stld => exact execStld_canonical e h
  case wait => exact execWait_canonical e h
  case wpset => exact execWpset_canonical e h
  case wpclr => exact execWpclr_canonical e h
  case ctxsave => exact execCtxsave_canonical e h
  case ctxload => exact execCtxload_canonical e h
  case resumeSite | abandonRegion | resumePort | resumeArray | abandonArray | resumeStrand | endStrand | resumeEngine =>
    exact State.resume_canonical e h
  case fltq => exact execFltq_canonical e h
  case atomAdd | atomMin | atomMax | atomMinu | atomMaxu | atomAnd | atomOr | atomXor | atomSwp | atomFadd | atomInc =>
    exact atomOp_canonical e h
  case atomcas => exact execAtomcas_canonical e h
  case vatom | vatomcas => exact vatomOp_canonical e h
  case atomicPerform | homeAccess | portTranslate => exact State.withFlight_canonical e h (State.tryFlight_canonical h)
  case fence => exact execFence_canonical e h
  case fenceSt => exact execFenceSt_canonical e h
  case scset => exact execScset_canonical e h
  case scget => exact execScget_canonical e h
  case scinv => exact execScinv_canonical e h
  case cbsync => exact execCbsync_canonical e h
  case barinit => exact execBarinit_canonical e h
  case bararr => exact execBararr_canonical e h
  case barwait => exact execBarwait_canonical e h
  case monarm => exact execMonarm_canonical e h
  case monwait => exact execMonwait_canonical e h
  case monwaitTimeout => exact execMonwaitTimeout_canonical e h
  case monsig => exact execMonsig_canonical e h
  case tcfg => exact execTcfg_canonical e h
  case trel => exact execTrel_canonical e h
  case tstate => exact execTstate_canonical e h
  case twait => exact execTwait_canonical e h
  case cwb => exact execCwb_canonical e h
  case cinv => exact execCinv_canonical e h
  case cpf => exact execCpf_canonical e h
  case objq => exact execObjq_canonical e h
  case carve => exact execCarve_canonical e h
  case xcopy | xcopy2 | xgather | xscatter | attn | xcodec | xcksum | coll | kvlook | kvapp | kvfork | kvfree | kvpol | xtest |
      bfenq | evscore | sqevict =>
    exact engBlock_canonical e h fun _ _ h => h
  case mma | mmx => exact matIssue_canonical e h
  case accrd | accwr => exact rowIssue_canonical e h
  case nvsub => exact execNvsub_canonical e h
  case nvcmp => exact execNvcmp_canonical e h
  case bfsync => exact execBfsync_canonical e h
  case eresp => exact execEresp_canonical e h
  case responseDelivery => exact engStep_canonical e h fun _ e => or_keeps e (State.deliverResp_canonical · h) (State.deliverData_canonical · h)
  case requestComplete => exact engStep_canonical e h fun _ e => State.completeReq_canonical e h
  case copyElementPerform => exact engStep_canonical e h fun _ e => State.engRun_canonical copyBody_canonical e h
  case gatherElementPerform => exact engStep_canonical e h fun _ e => State.engRun_canonical gatherBody_canonical e h
  case tileFillComplete => exact execTileFillComplete_canonical e h
  case tileDrainComplete => exact execTileDrainComplete_canonical e h
  case followOnIssue => exact execFollowOnIssue_canonical e h
  case mmaPerform => exact State.arrayStep_canonical mmaBody_canonical e h
  case mmxPerform => exact State.arrayStep_canonical mmxBody_canonical e h
  case accrdPerform => exact engStep_canonical e h fun _ e => State.engRun_canonical accrdBody_canonical e h
  case accwrPerform => exact engStep_canonical e h fun _ e => State.engRun_canonical accwrBody_canonical e h
  case attnPerform => exact engStep_canonical e h fun _ e => State.engRun_canonical attnBody_canonical e h
  case xtestPerform => exact engStep_canonical e h fun _ e => State.engRun_canonical testBody_canonical e h
  case collectivePerform => exact engStep_canonical e h fun _ e => State.engRun_canonical collBody_canonical e h
  case codecChunkPerform => exact engStep_canonical e h fun _ e => State.engRun_canonical codecBody_canonical e h
  case checksumPerform => exact engStep_canonical e h fun _ e => State.engRun_canonical cksumBody_canonical e h
  case nvmeSubmitPerform => exact engStep_canonical e h fun _ e => State.engRun_canonical nvsubBody_canonical e h
  case nvmeCompletionPosted => exact execNvmeCompletionPosted_canonical e h
  case controllerDma => exact execControllerDma_canonical e h
  case kvlookPerform => exact State.kvStep_canonical e h lookBody_canonical
  case kvappPerform => exact State.kvStep_canonical e h appBody_canonical
  case kvforkPerform => exact State.kvStep_canonical e h forkBody_canonical
  case kvfreePerform => exact State.kvStep_canonical e h freeBody_canonical
  case kvpolPerform => exact State.kvStep_canonical e h polBody_canonical
  case evscorePerform => exact State.kvStep_canonical e h scoreBody_canonical
  case sqevictPerform => exact State.kvStep_canonical e h evictBody_canonical
  case bfenqPerform => exact engStep_canonical e h fun _ e => State.engRun_canonical enqBody_canonical e h
  case backfillRecord => exact execBackfillRecord_canonical e h
  case cfgldInstall => exact execCfgldInstall_canonical e h
  case installComplete => exact execInstallComplete_canonical e h
  case cfgpartApply => exact execCfgpartApply_canonical e h
  case partialFrameTake => exact execPartialFrameTake_canonical e h
  case partialDrainComplete => exact execPartialDrainComplete_canonical e h
  case stopComplete => exact execStopComplete_canonical e h
  case switchComplete => exact execSwitchComplete_canonical e h
  case stldFillComplete => exact execStldFillComplete_canonical e h
  case recordAtExit => exact stepOf_canonical e h fun _ e => fireExit_canonical e h
  case rampRelease => exact execRampRelease_canonical e h
  case oadd | osub | omul | odiv => exact stepOf_canonical e h fun _ e => fireLane2_canonical e h
  case osqrt | oexp2 | olog2 | oneg | oabs | oscl => exact stepOf_canonical e h fun _ e => fireLane1_canonical e h
  case omax | omin => exact stepOf_canonical e h fun _ e => fireMax_canonical e h
  case ocmp => exact stepOf_canonical e h fun _ e => fireOcmp_canonical e h
  case osgn => exact stepOf_canonical e h fun _ e => fireOsgn_canonical e h
  case osel => exact stepOf_canonical e h fun _ e => fireOsel_canonical e h
  case oconst => exact stepOf_canonical e h fun _ e => fireOconst_canonical e h
  case split => exact stepOf_canonical e h fun _ e => fireSplit_canonical e h
  case settle => exact stepOf_canonical e h fun _ e => fireSettle_canonical e h
  case racc => exact stepOf_canonical e h fun _ e => fireRacc_canonical e h
  case rsum => exact stepOf_canonical e h fun _ e => fireRsum_canonical e h
  case rmax => exact stepOf_canonical e h fun _ e => fireRmax_canonical e h
  case thresh => exact stepOf_canonical e h fun _ e => fireThresh_canonical e h
  case conf => exact stepOf_canonical e h fun _ e => fireConf_canonical e h
  case ofan => exact stepOf_canonical e h fun _ e => fireOfan_canonical e h
  case mld => exact stepOf_canonical e h fun _ e => fireMld_canonical e h
  case mst => exact stepOf_canonical e h fun _ e => fireMst_canonical e h
  case mlink => exact stepOf_canonical e h fun _ e => fireMlink_canonical e h
  case mring => exact stepOf_canonical e h fun _ e => fireMring_canonical e h
  case engp => exact stepOf_canonical e h fun _ e => fireEngp_canonical e h
  case sqp => exact stepOf_canonical e h fun _ e => fireSqp_canonical e h
  case mxp => exact stepOf_canonical e h fun _ e => fireMxp_canonical e h
  case atp => exact stepOf_canonical e h fun _ e => fireAtp_canonical e h
  case agaff => exact stepOf_canonical e h fun _ e => fireAgaff_canonical e h
  case agmod => exact stepOf_canonical e h fun _ e => fireAgmod_canonical e h
  case agidx => exact stepOf_canonical e h fun _ e => fireAgidx_canonical e h
  case steer => exact stepOf_canonical e h fun _ e => fireSteer_canonical e h
  case merge => exact stepOf_canonical e h fun _ e => fireMerge_canonical e h
  case joinNode => exact stepOf_canonical e h fun _ e => fireJoin_canonical e h
  case carry => exact stepOf_canonical e h fun _ e => fireCarry_canonical e h
  case fwd => exact stepOf_canonical e h fun _ e => fireFwd_canonical e h
  case vcfilt => exact stepOf_canonical e h fun _ e => fireVcfilt_canonical e h
  case tileSwap => exact stepOf_canonical e h fun _ e => fireTileSwap_canonical e h
  case kill => exact execKill_canonical e h
  case timingReplay => exact execTimingReplay_canonical e h
  case persistentTimingError => exact execPersistentTimingError_canonical e h
  case faultRecordPost => exact execFaultRecordPost_canonical e h
  case deadlockWatchdog => exact execDeadlockWatchdog_canonical e h
  case remoteTimeout => exact execRemoteTimeout_canonical e h
  case roundComplete => exact execRoundComplete_canonical e h
  case l1Probe => exact execL1Probe_canonical e h
  case evictionWriteBack => exact execEvictionWriteBack_canonical e h
  case pagePin => exact execPagePin_canonical e h
  case hbmFrameFence => exact execHbmFrameFence_canonical e h
  case migrationComplete => exact execMigrationComplete_canonical e h
  case elasticInterval => exact execElasticInterval_canonical e h
  case boundaryMoveComplete => exact execBoundaryMoveComplete_canonical e h
  case meridianSelect => exact execMeridianSelect_canonical e h
  case entryStrandStart => exact execEntryStrandStart_canonical e h
  case queueAgeing => exact execQueueAgeing_canonical e h
  case reservationTake => exact execReservationTake_canonical e h
  case quantumExpiry => exact execQuantumExpiry_canonical e h
  case preemptionSave => exact execPreemptionSave_canonical e h
  case taskCompletion => exact execTaskCompletion_canonical e h
  case stallEscalation => exact execStallEscalation_canonical e h
  case finderLimit => exact execFinderLimit_canonical e h
  case flitReceive => exact execFlitReceive_canonical e h
  case linkReplay => exact execLinkReplay_canonical e h
  case laneFence => exact execLaneFence_canonical e h
  case linkNarrowComplete => exact execLinkNarrowComplete_canonical e h
  case mqsubWrite => exact execMqsubWrite_canonical e h
  case mqcfgWrite => exact execMqcfgWrite_canonical e h
  case captgtWrite => exact execCaptgtWrite_canonical e h
  case nvqbWrite => exact execNvqbWrite_canonical e h
  case rrsvWrite => exact execRrsvWrite_canonical e h
  case hostRegisterWrite => exact execHostRegisterWrite_canonical e h
  case hostApertureAccess => exact execHostApertureAccess_canonical e h
  case identityRequest => exact execIdentityRequest_canonical e h
  case statusRequest => exact execStatusRequest_canonical e h
  case getVersion | getCapabilities | negotiateAlgorithms | getDigests | getCertificate | challenge | getMeasurements =>
    exact State.spdm_canonical e h
  case deviceReset => exact execDeviceReset_canonical e
  case firmwareVerify => exact execFirmwareVerify_canonical e h
  case hbmTraining => exact execHbmTraining_canonical e h
  case dieLinkTraining => exact execDieLinkTraining_canonical e h
  case packagePortTraining => exact execPackagePortTraining_canonical e h
  case thermalThrottle => exact execThermalThrottle_canonical e h
  case thermalShutdown => exact execThermalShutdown_canonical e h
  case ctxsaveComplete => exact execCtxsaveComplete_canonical e h

end Sys2Proof.Machine
end

section
/-!
### The canonical form of memory is kept: Machine/Fetch
-/
namespace Sys2Proof.Machine
variable {s t u : State} {x y : Fx} {w : EW} {α β : Type}

theorem keeps_exec (i : Instr) : Keeps (exec i) := fun _ _ h e => exec_canonical e h

theorem keeps_one {f : Move} (h : Keeps f) : MovesKeep [f] := by simpa [MovesKeep]

theorem keeps_step (i : Instr) : MovesKeep [exec i] := keeps_one (keeps_exec i)

theorem State.flightMoves_canonical (s : State) (f) : MovesKeep (s.flightMoves f) := by
  unfold State.flightMoves
  split
  · split
    · split
      · exact keeps_step (.loadComplete ..)
      · exact keeps_step (.storeComplete ..)
    · exact keeps_none
  · split
    · exact keeps_none
    split
    · exact keeps_step (.atomicPerform ..)
    · exact keeps_step (.homeAccess ..)
  · split
    · exact keeps_none
    · exact keeps_step (.portTranslate ..)
  · exact keeps_none

theorem computeMove_canonical (f site op) : MovesKeep (computeMove f site op) := by
  unfold computeMove
  split
  · exact keeps_step (.oadd ..)
  · exact keeps_step (.osub ..)
  · exact keeps_step (.omul ..)
  · exact keeps_step (.odiv ..)
  · exact keeps_step (.osqrt ..)
  · exact keeps_step (.oexp2 ..)
  · exact keeps_step (.olog2 ..)
  · exact keeps_step (.oneg ..)
  · exact keeps_step (.oabs ..)
  · exact keeps_step (.oscl ..)
  · exact keeps_step (.omax ..)
  · exact keeps_step (.omin ..)
  · exact keeps_step (.ocmp ..)
  · exact keeps_step (.osgn ..)
  · exact keeps_step (.osel ..)
  · exact keeps_step (.oconst ..)
  · exact keeps_step (.split ..)
  · exact keeps_step (.settle ..)
  · exact keeps_step (.racc ..)
  · exact keeps_step (.rsum ..)
  · exact keeps_step (.rmax ..)
  · exact keeps_step (.thresh ..)
  · exact keeps_step (.conf ..)
  · exact keeps_step (.ofan ..)
  · exact keeps_none

theorem switchMove_canonical (f site op ord) : MovesKeep (switchMove f site op ord) := by
  unfold switchMove
  split
  · exact keeps_step (.steer ..)
  · split
    · exact keeps_step (.joinNode ..)
    · exact keeps_step (.merge ..)
  · exact keeps_step (.carry ..)
  · exact keeps_step (.fwd ..)
  · exact keeps_step (.vcfilt ..)
  · exact keeps_none

theorem memMove_canonical (f site op) : MovesKeep (memMove f site op) := by
  unfold memMove
  split
  · exact keeps_step (.mld ..)
  · exact keeps_step (.mst ..)
  · exact keeps_step (.mlink ..)
  · exact keeps_step (.mring ..)
  · exact keeps_step (.engp ..)
  · split
    · exact List.forall_mem_cons.2 ⟨keeps_exec (.sqp ..), keeps_step (.recordAtExit ..)⟩
    · exact keeps_step (.sqp ..)
  · exact keeps_step (.mxp ..)
  · exact keeps_step (.atp ..)
  · exact keeps_none

theorem agMove_canonical (f site op) : MovesKeep (agMove f site op) := by
  unfold agMove
  split
  · exact keeps_step (.agaff ..)
  · exact keeps_step (.agmod ..)
  · exact keeps_step (.agidx ..)
  · exact keeps_none

theorem keeps_append {l r : List Move} (hl : MovesKeep l) (hr : MovesKeep r) : MovesKeep (l ++ r) :=
  List.forall_mem_append.2 ⟨hl, hr⟩

theorem keeps_if {c : Prop} [Decidable c] {f : Move} (h : Keeps f) : MovesKeep (if c then [f] else []) := by
  split
  · exact keeps_one h
  · exact keeps_none

theorem keeps_when {c : Prop} [Decidable c] (i : Instr) : MovesKeep (if c then [exec i] else []) := keeps_if (keeps_exec i)

theorem Elem.moves_canonical (f) (e : Elem) : MovesKeep (e.moves f) := by
  unfold Elem.moves
  split
  · exact switchMove_canonical _ _ _ _
  refine keeps_append ?_ ?_
  · split
    · exact keeps_none
    · exact keeps_step (.rampRelease ..)
  split
  · exact keeps_append (computeMove_canonical _ _ _) (keeps_when (.tileSwap ..))
  split
  · exact memMove_canonical _ _ _
  · exact agMove_canonical _ _ _

theorem keeps_map {α : Type} {f : α → Move} (h : ∀ a, Keeps (f a)) (l : List α) : MovesKeep (l.map f) := by
  intro mv hm
  obtain ⟨a, -, rfl⟩ := List.mem_map.1 hm
  exact h a

theorem keeps_flatMap {α : Type} {f : α → List Move} (h : ∀ a, MovesKeep (f a)) (l : List α) : MovesKeep (l.flatMap f) := by
  intro mv hm
  obtain ⟨a, -, ha⟩ := List.mem_flatMap.1 hm
  exact h a mv ha

theorem Slot.moves_canonical (q : Slot) : MovesKeep q.moves := by
  unfold Slot.moves
  refine keeps_append ?_ ?_
  · split
    · exact keeps_none
    · exact keeps_step (.cfgldInstall ..)
    · exact keeps_step (.installComplete ..)
    · exact keeps_step (.cfgpartApply ..)
    · exact keeps_append (keeps_map (fun _ => keeps_exec (.partialFrameTake ..)) _)
        (keeps_step (.partialDrainComplete ..))
    · exact keeps_step (.stopComplete ..)
    · exact keeps_step (.switchComplete ..)
  · split
    · exact keeps_append (keeps_flatMap (Elem.moves_canonical _) _) (keeps_when (.deadlockWatchdog ..))
    · exact keeps_none

theorem performMove_canonical (major st) : MovesKeep (performMove major st) := by
  unfold performMove
  split
  · exact keeps_step (.copyElementPerform ..)
  · exact keeps_step (.copyElementPerform ..)
  · exact keeps_step (.gatherElementPerform ..)
  · exact keeps_step (.gatherElementPerform ..)
  · exact keeps_step (.mmaPerform ..)
  · exact keeps_step (.mmxPerform ..)
  · exact keeps_step (.accrdPerform ..)
  · exact keeps_step (.accwrPerform ..)
  · exact keeps_step (.attnPerform ..)
  · exact keeps_step (.codecChunkPerform ..)
  · exact keeps_step (.checksumPerform ..)
  · exact keeps_step (.collectivePerform ..)
  · exact keeps_step (.nvmeSubmitPerform ..)
  · exact keeps_step (.kvlookPerform ..)
  · exact keeps_step (.kvappPerform ..)
  · exact keeps_step (.kvforkPerform ..)
  · exact keeps_step (.kvfreePerform ..)
  · exact keeps_step (.kvpolPerform ..)
  · exact keeps_step (.xtestPerform ..)
  · exact keeps_step (.bfenqPerform ..)
  · exact keeps_step (.evscorePerform ..)
  · exact keeps_step (.sqevictPerform ..)
  · exact keeps_none

theorem Stream.moves_canonical (st : Stream) : MovesKeep st.moves := by
  refine keeps_append (keeps_append (keeps_append ?_ (keeps_when (.responseDelivery ..)))
    (keeps_when (.followOnIssue ..))) (keeps_when (.requestComplete ..))
  split
  · split
    · exact performMove_canonical _ _
    · exact keeps_step (.pagePin ..)
  · exact keeps_none

theorem Field.moves_canonical (f : Field) : MovesKeep f.moves := by
  refine keeps_append (keeps_append (keeps_append (keeps_flatMap (fun t => ?_) _)
    (keeps_when (.boundaryMoveComplete ..))) (keeps_when (.elasticInterval ..)))
    (keeps_map (fun _ => keeps_exec (.persistentTimingError ..)) _)
  split
  · exact keeps_step (.tileFillComplete ..)
  · exact keeps_step (.tileDrainComplete ..)
  · exact keeps_none

theorem L1Sec.moves_canonical (c : L1Sec) : MovesKeep c.moves :=
  List.forall_mem_cons.2 ⟨keeps_exec (.evictionWriteBack ..), keeps_step (.l1Probe ..)⟩

theorem State.mqMoves_canonical (s : State) (m) : MovesKeep (s.mqMoves m) := by
  refine keeps_append (keeps_append ?_ (keeps_when (.queueAgeing ..)))
    (keeps_when (.reservationTake ..))
  split
  · exact keeps_none
  · exact keeps_step (.meridianSelect ..)

theorem State.taskMoves_canonical (s : State) (k) : MovesKeep (s.taskMoves k) := by
  unfold State.taskMoves
  split
  · exact keeps_step (.entryStrandStart ..)
  · exact keeps_append (keeps_when (.quantumExpiry ..)) (keeps_when (.stallEscalation ..))
  · exact keeps_step (.taskCompletion ..)
  · exact keeps_step (.taskCompletion ..)
  · refine keeps_one ?_
    split
    · exact keeps_exec (.preemptionSave ..)
    · exact keeps_exec (.ctxsaveComplete ..)
  · exact keeps_step (.stallEscalation ..)
  · exact keeps_none
  · exact keeps_none

theorem Strand.moves_canonical (t : Strand) : MovesKeep t.moves := by
  unfold Strand.moves
  split
  · exact keeps_when (.finderLimit ..)
  · exact keeps_append (keeps_when (.trapEntry ..)) (keeps_when (.monwaitTimeout ..))

theorem Link.moves_canonical (l : Link) : MovesKeep l.moves :=
  keeps_append (keeps_when (.laneFence ..)) (keeps_when (.linkNarrowComplete ..))

theorem State.moves_canonical (s : State) : MovesKeep s.moves := by
  unfold State.moves
  refine keeps_append (keeps_append (keeps_append (keeps_append (keeps_append (keeps_append (keeps_append (keeps_append (keeps_append
    (keeps_append (keeps_append (keeps_append (keeps_append (keeps_append ?_ ?_) ?_) ?_) ?_) ?_) ?_) ?_) ?_) ?_) ?_) ?_) ?_) ?_) ?_
  · exact keeps_flatMap (State.flightMoves_canonical s) _
  · exact keeps_flatMap Strand.moves_canonical _
  · exact keeps_flatMap Slot.moves_canonical _
  · exact keeps_map (fun _ => keeps_exec (.kill ..)) _
  · exact keeps_map (fun _ => keeps_exec (.stldFillComplete ..)) _
  · exact keeps_flatMap Stream.moves_canonical _
  · exact keeps_flatMap Field.moves_canonical _
  · exact keeps_flatMap L1Sec.moves_canonical _
  · exact keeps_map (fun _ => keeps_exec (.roundComplete ..)) _
  · exact keeps_flatMap (State.mqMoves_canonical s) _
  · exact keeps_flatMap (State.taskMoves_canonical s) _
  · exact keeps_map (fun _ => keeps_exec (.backfillRecord ..)) _
  · exact keeps_map (fun _ => keeps_exec (.faultRecordPost ..)) _
  · exact keeps_map (fun _ => keeps_exec (.migrationComplete ..)) _
  · exact keeps_flatMap Link.moves_canonical _

end Sys2Proof.Machine
end

section
/-!
### The canonical form of memory is kept: Machine/Step
-/
namespace Sys2Proof.Machine
variable {s t u : State} {x y : Fx} {w : EW} {α β : Type}

theorem issueNext_canonical (e : issueNext s = .next t) (h : s.Canonical) : t.Canonical := by
  unfold issueNext at e
  split at e
  · cases e
    exact h
  next hu => exact State.attempt_canonical keeps_exec e (State.takeTurn_canonical hu h)

theorem step_canonical (e : step s = .next t) (h : s.Canonical) : t.Canonical := by
  unfold step at e
  split at e
  · cases e
  split at e
  · exact exec_canonical e (by exact h)
  split at e
  · cases e
    exact State.endStrand_canonical h ..
  extract_lets ms at e
  have hc := State.choose_canonical h (ms.length + if s.turns.isEmpty then 0 else 1)
  split at e
  next hp =>
  replace hc := snd_canonical hp hc
  split at e
  next hm => exact State.moves_canonical s _ (List.mem_of_getElem? hm) _ _ hc e
  · exact issueNext_canonical e hc

end Sys2Proof.Machine
end

section
/-!
### O4: every step keeps the canonical form of memory
-/
namespace Sys2Proof.Machine

/-- Settles O4: a step takes an input, ends a strand, makes a move of a unit or issues an instruction; inputs, moves and
instructions are arms of `exec`, and every arm keeps the canonical form (`exec_canonical`). -/
theorem stepKeepsCanonical : Obligations.StepKeepsCanonical := fun _ _ h e => step_canonical e h

end Sys2Proof.Machine
end
